-- ==== Sys2Proof/Word.lean ====
section
/-! DEFINITION. The word types of the ZB96 (spec/00 R3, spec/01 R8): what the manual treats as bits. -/

namespace Sys2Proof

/-- A byte of memory. -/
abbrev Byte := BitVec 8
/-- A 64-bit word: the contents of a scalar register. -/
abbrev Word := BitVec 64
/-- A 32-bit word: a counter, a lane mask, an FP32 value. -/
abbrev Word32 := BitVec 32
/-- The 1,024 bits of a vector register. -/
abbrev VWord := BitVec 1024
/-- A 48-bit code address (R39). -/
abbrev CodeAddr := BitVec 48

/-- Number of a scalar register, x0 to x63. -/
abbrev XReg := Fin 64
/-- Number of a predicate, p0 to p15. -/
abbrev PReg := Fin 16
/-- Number of a vector register, v0 to v31. -/
abbrev VReg := Fin 32
/-- Number of a lane mask, q0 to q7. -/
abbrev QReg := Fin 8
/-- Number of a flag, f0 to f31. -/
abbrev FlagNo := Fin 32
/-- Number of a counter, c0 to c15. -/
abbrev CtrNo := Fin 16
/-- Number of a loop counter, lc0 to lc5. -/
abbrev LoopNo := Fin 6

end Sys2Proof
end

