-- ==== Sys2Proof/Syntax.lean ====
section
/-! DEFINITION. The instructions of the ZB96 as terms: one constructor per row of spec/opcode_table.json.
A slot instruction carries its decoded fields, the pool words it names among them (R38). Its guard belongs to the
slot of the bundle that holds it (`SlotInstr`), not to the instruction. An event of the package (an engine, the launch
hardware, the Maltings, the fabric, the host) carries what comes from outside the focused core. -/

namespace Sys2Proof

/-- The 32 format codes of R193, in code order. -/
inductive Fmt where
  | int4 | uint4 | int8 | uint8 | int16 | int32 | tri2 | bool1
  | fp4 | fp6a | fp6b | fp8a | fp8b | fp16 | bf16 | fp32
  | se4 | se6 | se9 | mxfp4 | mxfp6a | mxfp6b | mxfp8a | mxfp8b
  | mxint8 | int8r | int4g | fp8at | fp8bt | ue8m0 | fp8c | fp19
  deriving DecidableEq, Repr

/-- The rounding codes 0 to 5 of R203. Code 5 is the stochastic one. -/
inductive Rnd where
  | rne | rtz | rdn | rup | rna | sr
  deriving DecidableEq, Repr

/-- A literal operand: the value of one pool word, read as sext32, or of an even pool pair (R38, R57). -/
inductive Lit where
  | word (k : Fin 4) (v : BitVec 32)
  | pair (hi : Bool) (v : BitVec 64)
  deriving DecidableEq, Repr

/-- Conditions of cmp (R272). -/
inductive CmpCond where
  | eq | ne | lt | le | ltu | leu
  deriving DecidableEq, Repr

/-- Operations of plog (R272). -/
inductive PLogOp where
  | and | or | xor | andn
  deriving DecidableEq, Repr

/-- Conditions of fcmp (R274). -/
inductive FCmpCond where
  | eq | ne | lt | le | uo
  deriving DecidableEq, Repr

/-- Conditions of vcmp (R255). -/
inductive VCmpCond where
  | eq | ne | lt | le | gt | ge | uo
  deriving DecidableEq, Repr

/-- Operations of vred and tred (R244, R260). -/
inductive RedOp where
  | sum | max | min
  deriving DecidableEq, Repr

/-- Modes of vshf (R264). -/
inductive ShfMode where
  | zlo | zhi | uev | uod | rev
  deriving DecidableEq, Repr

/-- Rounds of vrng (R226, R267): n = 4, 8 or 12. -/
inductive RngRounds where
  | n4 | n8 | n12
  deriving DecidableEq, Repr

/-- Function codes 0 to 10 of R222. -/
inductive FunCode where
  | exp2 | log2 | rcp | rsqrt | sqrt | exp | tanh | sigmoid | silu | gelu | relu
  deriving DecidableEq, Repr

/-- The scopes of R2. -/
inductive Scope where
  | core | cluster | package | pod
  deriving DecidableEq, Repr

/-- The system registers of R292. -/
inductive SysReg where
  | ctxId | coreLog | corePhy | timePod | mode | slack
  | fmt (n : Fin 64)
  | stkDepth | stkLimit | stkWin | stkSpill | stkL2Spill | nodeFree | rndSeed
  | faultCause | faultOrigin | faultDemand | faultNode | faultSeg | faultInfo | trapVec | trapPc
  | rsv (n : Fin 16)
  | cntT (n : Fin 16)
  | remopNext | remopAcked | remopTmo
  | errMemCe | errMemUe | errMemOrphan | errSpadCe | errFmtTri2 | errRemopRtx | errRemopDup | errImplicit
  | injDropReply | dbgRoute | schedHorizon
  deriving DecidableEq, Repr

/-- The control fields of a vec instruction (R60): lane mask, zeroing, beats − 1, element format. -/
structure VCtl where
  q : QReg
  z : Bool
  beats : Fin 8
  fmt : Fmt
  deriving DecidableEq, Repr

/-- Overflow modes 0 to 2 of R227. -/
inductive Ovm where
  | wrap | sat | checked
  deriving DecidableEq, Repr

/-- Output format, rounding and overflow mode of a tile arithmetic instruction: in its fields (R228), or from the
format table at base b with an optional loop counter (R229). -/
inductive TMode where
  | direct (ovm : Ovm) (f : Fmt) (r : Rnd)
  | table (b : Fin 32) (k : Option LoopNo)
  deriving DecidableEq, Repr

/-- The tile format of a tld: an explicit code, or from the format table (R166). -/
inductive TldFmt where
  | code (f : Fmt)
  | table (k : Option LoopNo)
  deriving DecidableEq, Repr

/-- Operations of satm (R110), in code order. -/
inductive SatmOp where
  | fadd | fmin | fmax | swap | cas | iadd | and | or | xor
  deriving DecidableEq, Repr

/-- Operations of sacc (R108), in code order. -/
inductive SaccOp where
  | add | max | min | and | or | xor | wadd
  deriving DecidableEq, Repr

/-- A mask of command kinds of sbar: r, w, m (R115). -/
structure KindMask where
  r : Bool
  w : Bool
  m : Bool
  deriving DecidableEq, Repr

/-- The source of one successor of exit (R285). -/
inductive ExitSrc where
  | none
  | reg (r : Fin 32)
  | pair (hi : Bool) (v : BitVec 64)
  deriving DecidableEq, Repr

/-! ### Data that comes from outside the core -/

/-- An element of a tensor that a fabric packet carries: index, bits, poison mark of its block. -/
structure PktElem where
  idx : Nat
  bits : Nat
  poison : Bool
  deriving DecidableEq, Repr

/-- What a fabric request asks of the package that owns the target. -/
inductive ReqBody where
  /-- satm on one element of a tensor (R110); w64 selects 64 raw bits. -/
  | satm (op : SatmOp) (fmt : Fmt) (w64 : Bool) (tid : Nat) (elem : Nat) (op1 op2 : Word)
  /-- sacc of a walk's values (R107): the destination elements in walk order with the incoming bits; whether its lines may be
  allocated in cache ways (R105), as of the plain packets below. -/
  | sacc (op : SaccOp) (sfmt : Fmt) (dfmt : Option Fmt) (rnd : Rnd) (sat ftz : Bool) (tid : Nat) (elems : List PktElem)
    (alloc : Bool)
  /-- ssig (R113). -/
  | ssig (core : Nat) (k : CtrNo) (inc : BitVec 32)
  /-- A packet of plain writes of a copy (R121). -/
  | write (tid : Nat) (fmt : Option Fmt) (elems : List PktElem) (alloc : Bool)
  /-- A packet of plain reads of a copy. -/
  | read (tid : Nat) (fmt : Option Fmt) (idxs : List Nat) (alloc : Bool)
  deriving DecidableEq, Repr

/-- A request on the fabric (R122) with its traffic class (R403). A plain write or read carries no serial; `tag` names its
packet. A write of class 0 is what a transfer brings, which nothing answers (R404). -/
structure RemReq where
  cls : Nat
  owner : Nat
  pkg : Nat
  ctx : Nat
  serial : Nat
  ack : Nat
  retx : Bool
  inc : Nat
  tag : Nat
  body : ReqBody
  deriving DecidableEq, Repr

/-- The answer of an owner port (R124). -/
inductive RepBody where
  | ok (dup : Bool) (old : Word)
  | fault (cause : BitVec 6) (tile : Nat)
  | busy
  | indeterminate
  /-- A plain write has performed at the owner. -/
  | writeAck
  /-- The data of a plain read, element by element. -/
  | readData (fmt : Fmt) (elems : List PktElem)
  /-- The answer to an incarnation query. -/
  | incarnation
  deriving DecidableEq, Repr

/-- A reply on the fabric, with the acknowledgement of the context's side toward the package that it goes to (R123). -/
structure RemRep where
  ack : Nat
  owner : Nat
  pkg : Nat
  ctx : Nat
  serial : Nat
  inc : Nat
  tag : Nat
  body : RepBody
  deriving DecidableEq, Repr

/-- The kinds of tlbi and of the kernel's invalidations (R80, R290). -/
inductive InvKind where
  | all
  | tensor (tid : Nat)
  | range (tid first count : Nat)
  /-- Second-stage results, for the hypervisor (R80). -/
  | secondStage
  deriving DecidableEq, Repr

/-- One change of the replicated tables (R82). -/
inductive TableUpdate where
  | tensor (ctx tid : Nat) (entry : BitVec 512)
  | tile (ctx tid tile : Nat) (entry : Word)
  deriving DecidableEq, Repr

/-- What the kernel or the hypervisor does about a fault that waits for it. -/
inductive Resolution where
  /-- The frame has its data, by 64-byte block (R401); the entry is written, sent to the replicas and invalidated: what waits
  goes on. -/
  | resolved (entry : Word) (data : List (Nat × BitVec 512))
  /-- TRANSLATION is delivered (R81). -/
  | translation
  /-- PROTECTION is delivered (R78). -/
  | protection
  deriving DecidableEq, Repr

/-- The steps of a frame migration (R83). -/
inductive MigrationStep where
  | mark | copy | retarget | abandon
  deriving DecidableEq, Repr

/-- What the kernel does on WATCHDOG (R353). -/
inductive WatchdogAct where
  | kill (task : Nat)
  | deliver (core : Nat)
  | none
  deriving DecidableEq, Repr

/-- What the kernel does with a failed step (R350). -/
inductive ReplayAct where
  | replay
  | replayOn (core : Nat)
  | failTask
  deriving DecidableEq, Repr

/-- A Maltings image with its manifest, as the root monitor reads them (R396). -/
structure Image where
  bytes : List Byte
  manifest : List Byte
  key : List Byte
  version : Nat
  deriving DecidableEq, Repr

/-- What power-on finds: the images of the root monitor and of the kernel, the cores whose scan signature differs. -/
structure BootInput where
  monitor : Image
  kernel : Image
  badCores : List Nat
  deriving DecidableEq, Repr

/-- A reserved class-0 slot (R404): the port, the sending package, the context, the start, the hops of the route, the retry
slot, the receiving package with its context and cores, and the destination: elements of a tensor. -/
structure SlotInput where
  port : Nat
  sender : Nat
  ctx : Nat
  start : Nat
  hops : Nat
  retry : Nat
  receiver : Nat
  peer : Nat
  cores : List Nat
  tid : Nat
  elem : Nat
  count : Nat
  deriving DecidableEq, Repr

/-- What the kernel and the hypervisor give a new context: its number, virtual function and feature mask, cores, tensor table,
second stage, staging windows and residency quotas by slice, granules of memory, the tensors exported to its function, its
reserved class-0 slots, and the save areas of its cores (R70, R78, R85, R90, R133, R376, R398, R399, R404). -/
structure CtxInput where
  ctx : Nat
  vf : Option Nat
  mask : BitVec 9
  cores : List Nat
  tensors : List (Nat × BitVec 512)
  tableLen : Nat
  stage2 : Option Nat
  windows : List (Nat × Nat × Nat)
  quotas : List (Nat × Nat)
  trapVec : CodeAddr
  granules : List Nat
  exports : List Nat
  slots : List SlotInput
  saves : List (Nat × Nat)
  deriving DecidableEq, Repr

/-- A debug token (R399): the package identity and the context that it names, what else it holds, and its signature. -/
structure DebugToken where
  bytes : List Byte
  signature : List Byte
  package : Nat
  ctx : Nat
  deriving DecidableEq, Repr

/-- What stands behind the root monitor's filter (R395). -/
inductive RootPlace where
  | sram (off : BitVec 24)
  | fuse (n : Nat)
  | log (n : Nat)
  deriving DecidableEq, Repr

/-- The registers of a function in BAR0 (R396, R398, R400): its mailbox by offset, the boot status, its ERR counters in the
order of R295, and at the PF what only the PF counts. -/
inductive Bar0Reg where
  | mailbox (off : BitVec 16)
  | bootStatus
  | err (k : Fin 8)
  | crcDrops | podFaults | permitsRestored | linksReset | power
  deriving DecidableEq, Repr

/-- What the kernel, the hypervisor, the root monitor and the host do to the machine that no row of the opcode table names. -/
inductive OuterAct where
  /-- The kernel sets REMOP.TMO of a context (R129). -/
  | remopTmo (ctx : Nat) (v : Word)
  /-- The kernel sets DBG.ROUTE or SCHED.HORIZON of a core (R293). -/
  | dbgRoute (core : Nat) (on : Bool)
  | horizon (core : Nat) (ns : BitVec 14)
  /-- The class ceiling of a context (R333), the weights W1 to W6 (R341), the watchdog interval in ns (R353). -/
  | ceiling (ctx n : Nat)
  | weights (w : Vector Nat 6)
  | watchdogInterval (ns : Nat)
  /-- The interval of the permit audit in ms (R406) and the package power limit in W (R409). -/
  | auditInterval (ms : Nat)
  | powerLimit (watts : Nat)
  /-- The save area of a core of a context (R376). -/
  | saveArea (ctx core base : Nat)
  /-- The hypervisor sets the feature mask of a virtual function and gives it a core, or takes the core back (R399). -/
  | featureMask (fn : Fin 17) (m : BitVec 9)
  | assignCore (core : Nat) (fn : Option (Fin 17))
  /-- A Maltings core reads behind the filter, or writes a byte of the SRAM there (R10, R395). -/
  | rootRead (core : Fin 8) (p : RootPlace)
  | rootWrite (core : Fin 8) (off : BitVec 24) (b : Byte)
  /-- The kernel reads or writes 64 bits of another context's saved state under a debug grant (R399). -/
  | savedRead (ctx core off : Nat)
  | savedWrite (ctx core off : Nat) (v : Word)
  /-- The host reads a register of BAR0 (R398); the kernel raises an MSI-X interrupt. -/
  | bar0Read (fn : Fin 17) (r : Bar0Reg)
  | msix (fn : Fin 17) (vector : Nat)
  /-- Both sends of another package's transfer into a slot toward this package were lost (R404). -/
  | slotLost (port start : Nat)
  /-- The hypervisor gives a granule of main memory to a virtual function, or with 0 takes it back (R399). -/
  | assignGranule (granule : Nat) (fn : Fin 17)
  /-- A core goes on: with its next event, or with what it waits for. -/
  | goOn (core : Nat)
  deriving DecidableEq, Repr

/-- Where a section of an image goes (R393): the control tensor, the scratchpad of a core, or a tensor from an element on. -/
inductive PlaceTarget where
  | control
  | spad (core off : Nat)
  | tensor (tid elem : Nat)
  deriving DecidableEq, Repr

/-- The placement of a section (R393): its number, the load address that its symbols take, and where its bytes go. -/
structure Placement where
  sect : Nat
  base : Nat
  target : PlaceTarget
  deriving DecidableEq, Repr

/-- A KBO file that is loaded, with its placement: sections, and the tensor ids of its tensor symbols (R390, R393). -/
structure LoadObject where
  bytes : List Byte
  places : List Placement
  tensors : List (Nat × Nat)
  deriving DecidableEq, Repr

/-- An instruction: one row of the opcode table. -/
inductive Instr where
  -- Slot instructions: alu.
  | nop
  | add (d a b : XReg) | addImm (d a : XReg) (imm : BitVec 15) | addLit (d a : XReg) (l : Lit)
  | sub (d a b : XReg) | subImm (d a : XReg) (imm : BitVec 15) | subLit (d a : XReg) (l : Lit)
  | mul (d a b : XReg) | mulImm (d a : XReg) (imm : BitVec 15) | mulLit (d a : XReg) (l : Lit)
  | mulh (d a b : XReg) | mulhImm (d a : XReg) (imm : BitVec 15) | mulhLit (d a : XReg) (l : Lit)
  | mulhu (d a b : XReg) | mulhuImm (d a : XReg) (imm : BitVec 15) | mulhuLit (d a : XReg) (l : Lit)
  | div (d a b : XReg) | divImm (d a : XReg) (imm : BitVec 15) | divLit (d a : XReg) (l : Lit)
  | divu (d a b : XReg) | divuImm (d a : XReg) (imm : BitVec 15) | divuLit (d a : XReg) (l : Lit)
  | rem (d a b : XReg) | remImm (d a : XReg) (imm : BitVec 15) | remLit (d a : XReg) (l : Lit)
  | remu (d a b : XReg) | remuImm (d a : XReg) (imm : BitVec 15) | remuLit (d a : XReg) (l : Lit)
  | and (d a b : XReg) | andImm (d a : XReg) (imm : BitVec 15) | andLit (d a : XReg) (l : Lit)
  | or (d a b : XReg) | orImm (d a : XReg) (imm : BitVec 15) | orLit (d a : XReg) (l : Lit)
  | xor (d a b : XReg) | xorImm (d a : XReg) (imm : BitVec 15) | xorLit (d a : XReg) (l : Lit)
  | andn (d a b : XReg) | andnImm (d a : XReg) (imm : BitVec 15) | andnLit (d a : XReg) (l : Lit)
  | shl (d a b : XReg) | shlImm (d a : XReg) (imm : BitVec 15) | shlLit (d a : XReg) (l : Lit)
  | shr (d a b : XReg) | shrImm (d a : XReg) (imm : BitVec 15) | shrLit (d a : XReg) (l : Lit)
  | sra (d a b : XReg) | sraImm (d a : XReg) (imm : BitVec 15) | sraLit (d a : XReg) (l : Lit)
  | rotl (d a b : XReg) | rotlImm (d a : XReg) (imm : BitVec 15) | rotlLit (d a : XReg) (l : Lit)
  | min (d a b : XReg) | minImm (d a : XReg) (imm : BitVec 15) | minLit (d a : XReg) (l : Lit)
  | max (d a b : XReg) | maxImm (d a : XReg) (imm : BitVec 15) | maxLit (d a : XReg) (l : Lit)
  | minu (d a b : XReg) | minuImm (d a : XReg) (imm : BitVec 15) | minuLit (d a : XReg) (l : Lit)
  | maxu (d a b : XReg) | maxuImm (d a : XReg) (imm : BitVec 15) | maxuLit (d a : XReg) (l : Lit)
  | sel (d a b : XReg) (p : PReg)
  | mov (d a : XReg) | movImm (d : XReg) (imm : BitVec 15) | movLit (d : XReg) (l : Lit)
  | ext (d a b : XReg) (s : Bool)
  | bitClz (d a : XReg) | bitCtz (d a : XReg) | bitPopc (d a : XReg) | bitBrev (d a : XReg)
  | cmp (c : CmpCond) (d : PReg) (a b : XReg)
  | plog (o : PLogOp) (d a b : PReg)
  | faddS (d a b : XReg) | faddSLit (d a : XReg) (k : Fin 4) (v : BitVec 32)
  | fsubS (d a b : XReg) | fsubSLit (d a : XReg) (k : Fin 4) (v : BitVec 32)
  | fmulS (d a b : XReg) | fmulSLit (d a : XReg) (k : Fin 4) (v : BitVec 32)
  | ffmaS (d a b : XReg) | ffmaSLit (d a : XReg) (k : Fin 4) (v : BitVec 32)
  | fminS (d a b : XReg) | fminSLit (d a : XReg) (k : Fin 4) (v : BitVec 32)
  | fmaxS (d a b : XReg) | fmaxSLit (d a : XReg) (k : Fin 4) (v : BitVec 32)
  | fcmp (c : FCmpCond) (d : PReg) (a b : XReg)
  | fcvtTo (f : Fmt) (d a : XReg) (r : Rnd)
  | fcvtFrom (f : Fmt) (d a : XReg) (r : Rnd)
  | mfs (d : XReg) (r : SysReg)
  | mts (r : SysReg) (a : XReg)
  | rsvWrite (n : Fin 16) (a : XReg)
  | injDropreplyArm (a : XReg)
  | cmpt (a b : XReg)
  | crd (d : XReg) (k : CtrNo)
  | cwr (k : CtrNo) (add : Bool) (a b : XReg)
  | cwrImm (k : CtrNo) (add : Bool) (a : XReg) (imm : BitVec 15)
  | lcr (d : XReg) (k : LoopNo)
  -- Slot instructions: mem.
  | ldB (d a : XReg) (disp : BitVec 15)
  | ldBu (d a : XReg) (disp : BitVec 15)
  | ldH (d a : XReg) (disp : BitVec 15)
  | ldHu (d a : XReg) (disp : BitVec 15)
  | ldW (d a : XReg) (disp : BitVec 15)
  | ldWu (d a : XReg) (disp : BitVec 15)
  | ldD (d a : XReg) (disp : BitVec 15)
  | stB (src a : XReg) (disp : BitVec 15)
  | stH (src a : XReg) (disp : BitVec 15)
  | stW (src a : XReg) (disp : BitVec 15)
  | stD (src a : XReg) (disp : BitVec 15)
  | vld (d : VReg) (a : XReg) (disp : BitVec 15)
  | vst (src : VReg) (a : XReg) (disp : BitVec 15)
  | vlds (d : VReg) (a stride : XReg) (disp : BitVec 9)
  | vsts (src : VReg) (a stride : XReg) (disp : BitVec 9)
  | vgth (d : VReg) (a : XReg) (idx : VReg)
  | vsct (src : VReg) (a : XReg) (idx : VReg)
  -- Slot instructions: vec.
  | vadd (c : VCtl) (d a b : VReg) (sat : Bool)
  | vsub (c : VCtl) (d a b : VReg) (sat : Bool)
  | vmul (c : VCtl) (d a b : VReg) (sat : Bool)
  | vfma (c : VCtl) (d a b e : VReg)
  | vfms (c : VCtl) (d a b e : VReg)
  | vmin (c : VCtl) (d a b : VReg)
  | vmax (c : VCtl) (d a b : VReg)
  | vabs (c : VCtl) (d a : VReg) (sat : Bool)
  | vneg (c : VCtl) (d a : VReg) (sat : Bool)
  | vand (c : VCtl) (d a b : VReg)
  | vor (c : VCtl) (d a b : VReg)
  | vxor (c : VCtl) (d a b : VReg)
  | vshl (c : VCtl) (d a b : VReg)
  | vshr (c : VCtl) (d a b : VReg)
  | vsra (c : VCtl) (d a b : VReg)
  | vcmp (q : QReg) (z : Bool) (fmt : Fmt) (d : QReg) (a b : VReg) (cond : VCmpCond)
  | vsel (c : VCtl) (d a b : VReg) (qs : QReg)
  | vcvt (c : VCtl) (d a : VReg) (t : Fmt) (r : Rnd) (sat : Bool)
  | vfun (c : VCtl) (d a : VReg) (fn : FunCode)
  | vred (c : VCtl) (d a : VReg) (op : RedOp)
  | vscn (c : VCtl) (d a : VReg)
  | vperm (c : VCtl) (d a b : VReg)
  | vshf (c : VCtl) (d a b : VReg) (m : ShfMode)
  | vbcs (c : VCtl) (d : VReg) (src : XReg)
  | vmvx (fmt : Fmt) (d : XReg) (b : VReg) (i : Fin 512)
  | vins (fmt : Fmt) (d : VReg) (src : XReg) (i : Fin 512)
  | vrng (c : VCtl) (d a : VReg) (n : RngRounds) (hi : Bool)
  | viota (c : VCtl) (d : VReg)
  | vdot (c : VCtl) (d a b e : VReg)
  | vmov (c : VCtl) (d a : VReg)
  | vlit (c : VCtl) (d : VReg) (k : Fin 4) (v : BitVec 32)
  -- Slot instructions: tile.
  | tld (xt xo : XReg) (f : TldFmt) (tr nt : Bool)
  | tzer (f : Fmt) (xs : XReg)
  | tfil (f : Fmt) (xs xv : XReg)
  | tdup | tdrp | tswp
  | tpk (n : Fin 64) | trot (n : Fin 64) | trtd (n : Fin 64)
  | tmma (m : TMode) | tmmaD (m : TMode) | tmac (m : TMode) | tmacD (m : TMode)
  | tadd (m : TMode) | taddD (m : TMode) | tsub (m : TMode) | tmul (m : TMode) | tmax (m : TMode) | tmin (m : TMode)
  | tscl (m : TMode) (xs : XReg) (int : Bool)
  | tbia (m : TMode) (fn : Option FunCode)
  | tfun (m : TMode) (fn : FunCode)
  | tred (m : TMode) (op : RedOp) (cols : Bool)
  | tsmx (m : TMode) | ttrn (m : TMode) | tcvt (m : TMode)
  | tslc (m : TMode) (xs : XReg)
  | tcat (m : TMode) (cols : Bool)
  | tbcs (m : TMode) (xs : XReg)
  | tmsk (m : TMode) (xv : Option XReg)
  | tchk
  | tst (xt xr : XReg) (flag : Option FlagNo)
  | tfrc (n : Fin 64) (xr : XReg) (flag : FlagNo)
  -- Slot instructions: copy. cls is the traffic class, x the exchange bit.
  | scpy (a : XReg) (flag : Option FlagNo) (cls : Fin 4) (x : Bool)
  | sacc (a : XReg) (flag : Option FlagNo) (cls : Fin 4) (x : Bool)
  | satmFadd (a : XReg) (flag : Option FlagNo) (cls : Fin 4)
  | satmFmin (a : XReg) (flag : Option FlagNo) (cls : Fin 4)
  | satmFmax (a : XReg) (flag : Option FlagNo) (cls : Fin 4)
  | satmSwap (a : XReg) (flag : Option FlagNo) (cls : Fin 4)
  | satmCas (a : XReg) (flag : Option FlagNo) (cls : Fin 4)
  | satmIadd (a : XReg) (flag : Option FlagNo) (cls : Fin 4)
  | satmAnd (a : XReg) (flag : Option FlagNo) (cls : Fin 4)
  | satmOr (a : XReg) (flag : Option FlagNo) (cls : Fin 4)
  | satmXor (a : XReg) (flag : Option FlagNo) (cls : Fin 4)
  | ssig (a b : XReg) (flag : Option FlagNo) (cls : Fin 4) (x : Bool)
  | ssigRel (a b : XReg) (flag : Option FlagNo) (cls : Fin 4) (x : Bool) (scope : Scope)
  | sgth (a b : XReg) (flag : Option FlagNo) (cls : Fin 4) (x : Bool)
  | sbar (a b : KindMask) (flag : Option FlagNo)
  | sdrn (flag : Option FlagNo)
  | fenceAcq (scope : Scope) (flag : Option FlagNo)
  | fenceRel (scope : Scope) (flag : Option FlagNo)
  | fenceSc (scope : Scope) (flag : Option FlagNo)
  | l2wb (a : XReg) (flag : Option FlagNo)
  | l2inv (a : XReg) (flag : Option FlagNo)
  | l2pf (a : XReg) (retained : Bool) (flag : Option FlagNo)
  | sxfr (a b : XReg) (flag : Option FlagNo)
  -- Slot instructions: ctl.
  | br (off : BitVec 25) | call (off : BitVec 25) | ret | jmpr (a : XReg)
  | loop (n : BitVec 14) (len : Fin 64) | loopr (a : XReg) (len : Fin 64) | lbrk
  | ckpt | rdv (n : BitVec 8) | slack (n : BitVec 8)
  | sstep (d : XReg) (dom : Fin 16)
  | exit (s0 s1 s2 s3 : ExitSrc) | halt
  | launch (d a : XReg) | launchGraph (d a : XReg)
  | fset (k : FlagNo) | fclr (k : FlagNo) | cset (k : CtrNo) (n : BitVec 20)
  | brk (k : BitVec 16) | trap (k : BitVec 16) | rte | xbnd (a : XReg)
  | icinv (a b : XReg) (flag : Option FlagNo) (scope : Scope)
  | tlbiAll (flag : Option FlagNo) (pod : Bool)
  | tlbiTensor (a b : XReg) (flag : Option FlagNo) (pod : Bool)
  | tlbiRange (a b : XReg) (flag : Option FlagNo) (pod : Bool)
  | mode (value mask : BitVec 8) | yield
  -- Events of the focused core.
  | bundleIssue | syncPass | resultLand
  | remoteLoadArrive (id : Nat)
  | aliasStoreWait
  | remoteStoreArrive (id : Nat) | remoteStoreAck (id : Nat)
  | demandEvaluation
  | evalAheadOfDemand (node row col : Nat)
  | storeNodePerform (node n : Nat)
  | tfrcComplete (id : Nat)
  | valueMovement
  | evaluationFault
  | copyCommandComplete (id n : Nat)
  | copyCommandFault (id : Nat)
  | signalIncrement (id : Nat)
  | implicitCheckpoint
  | invalidationComplete (id : Nat)
  | trapEntry (cause : BitVec 6) (info : Word)
  | lateTrap
  | pageFault
  | pageFaultResolved (r : Resolution)
  | secondStageFault (r : Resolution)
  | featureMaskedHypervisorResume (deliver : Bool)
  | preemptHorizon
  | contextRestore
  -- Events of the retransmission engine, the owner ports and the fabric.
  | remoteRequest (r : RemReq)
  | remoteReply (r : RemRep)
  | remoteTimeout (ctx owner serial : Nat)
  | busyBackoffExpiry (ctx owner serial : Nat)
  | ackAlone (ctx owner : Nat)
  | ackArrival (pkg ctx serial : Nat)
  | incarnationQuery (pkg ctx : Nat)
  | incarnationQueryTimeout (ctx owner : Nat)
  | contextDestroyedNotice (pkg ctx : Nat)
  | ownerRestart (inc : Nat)
  | sxfrSlotSend (id : Nat) (acked : Bool)
  | sxfrRetrySend (id : Nat) (acked : Bool)
  | sxfrDeadline (id : Nat) (arrive : Nat)
  | reservationAbandon (ctx : Nat)
  | flitReceive (bytes : List Byte)
  | podTimeLoss | podTimeAgainInStep
  | packetRetransmissionTimeout (tag : Nat)
  | packetAgeExpiry (tag : Nat)
  -- Events of the launch hardware.
  | rendezvousRelease (task : Nat) (die : Bool)
  | stepBarrier (dom : Fin 16)
  | taskDispatch
  | taskCompletion (task : Nat)
  | taskAging (task : Nat)
  | preemptionMark (task : Nat)
  | stepReplay (core : Nat) (act : ReplayAct)
  | watchdog (act : WatchdogAct)
  -- Events of the kernel, the root monitor, the host and the memory system.
  | frameMigration (ctx tid tile frame : Nat) (st : MigrationStep)
  | tableUpdateMulticast (seq : Nat) (u : TableUpdate)
  | kernelInvalidate (ctx : Nat) (k : InvKind)
  | stagingReconfigure (slice pairs : Nat)
  | memoryScrub
  | l2DirtyEviction (line : Nat)
  | boot (b : BootInput)
  | getVersion | getCapabilities | negotiateAlgorithms
  | getDigests (slot : Nat) | getCertificate (slot offset length : Nat)
  | challenge (slot : Nat) (nonce : BitVec 256)
  | getMeasurements (signed : Bool) (nonce : BitVec 256)
  | spdmUnsupportedRequest (code : Byte)
  | hostMailboxWrite (fn : Fin 17) (off : BitVec 16) (v : Word)
  | hostBar2Access (fn : Fin 17) (tid elem : Nat) (data : Option (BitVec 512))
  | debugAuthorisation (t : DebugToken)
  | permitAudit (die : Bool) (lost duplicated : Nat)
  | scanTest (core : Nat) (matched aborted : Bool)
  | thermalThrottle (cycles : Nat)
  | thermalShutdown
  | loadImage (ctx : Nat) (objects : List LoadObject)
  | kernelCommandPortLaunch (ctx : Nat) (addr : Word) (graph : Bool)
  | contextCreation (c : CtxInput)
  | logicalCoreMapRenumber
  | imageVerification (im : Image)
  | kernelCodeWrite (ctx : Nat) (addr : CodeAddr) (bundle : BitVec 512)
  deriving DecidableEq, Repr

/-- A present slot of a bundle: its number, its guard and its instruction (R47, R56). The vec slot and a nop carry no
guard; theirs is p0, not negated. -/
structure SlotInstr where
  slot : Fin 8
  pred : PReg
  neg : Bool
  op : Instr
  deriving DecidableEq, Repr

/-- A decoded bundle (R37, R40): the flags of SYNC, W, the stops after slots 0 to 6, and the present slots in order. -/
structure Bundle where
  sync : BitVec 32
  w : Bool
  stops : BitVec 7
  slots : List SlotInstr
  deriving DecidableEq, Repr

/-- One entry of the agenda: which core the action concerns, how much pod time has passed in ns, what the Maltings and the host
do then, and the action. It is the model's way to say which agent moves next. -/
structure AgendaItem where
  core : Nat
  dt : Nat
  act : Instr
  outer : List OuterAct := []
  deriving DecidableEq, Repr

end Sys2Proof
end

