-- ==== Sys2Proof/Config.lean ====
section
/-! DEFINITION. What the manual leaves open: constants without a body, of which nothing can be proved but that they are
values of their type. A value that changes from use to use is applied to the tick of the state. -/

namespace Sys2Proof.Config

/-- Where cached copies of a translation differ from the fresh one, which of them serves this access, if one does (R79). -/
opaque staleTranslation : Nat → Nat
/-- The set of its slice that a line takes (R84). -/
opaque l2Set : Nat → BitVec 12
/-- Where an ordinary line of a full set makes room for another, how far the choice stands from the line used last (R84). -/
opaque l2Victim : Nat → Nat
/-- A byte of a block with an uncorrectable error or poison, by tick and address, as the launch hardware and table walks read it
(R68). -/
opaque poisonByte : Nat → Nat → BitVec 8
/-- Where a far line's replica and its home differ, whether the replica still stands (R308). -/
opaque staleReplica : Nat → Bool
/-- Where an instruction-cache copy and memory differ, whether the copy is issued (R289, R379). -/
opaque staleCode : Nat → Bool
/-- Which of its 4,096 bundles the instruction cache gives up for a new one (R8). -/
opaque codeVictim : Nat → Nat
/-- Whether the agents beside the focused core, which have work, go before it at this step (R93, R141, R176, R304). -/
opaque workFirst : Nat → Bool
/-- Whether the two units of a duplicate form differ in an element (R187). -/
opaque unitsDiffer : Nat → Nat → Bool
/-- OLD of a result record with status INDETERMINATE or BUSY-EXHAUSTED (R112 gives none). -/
opaque openOld : Nat → BitVec 64
/-- The status word of an sxfr whose walk has no elements (R102, R119 gives none). -/
opaque emptyStatus : Nat → BitVec 64
/-- The sum of two TRI2 elements that lies outside the format, where it is not saturated (R108). -/
opaque triSum : Nat → Fin 3
/-- A byte of a region of the save area whose layout R377 leaves to the save-format version. -/
opaque saveByte : Nat → Nat → BitVec 8
/-- FAULT.INFO of a WATCHDOG that the kernel delivers, which it writes (R353, R369). -/
opaque watchdogInfo : Nat → BitVec 64
/-- The number of the free node that the append of a value or store takes (R169), by the order of appends. -/
opaque nodeNumber : Nat → BitVec 9
/-- The shared exponent byte of an SE or MX block whose values reach beyond what the byte can say (R208 and R209 state
none), by the exponent that the rule computes. -/
opaque blockExponent : Int → BitVec 8
/-- SHA-512 of a run of bytes (R396). -/
opaque sha512 : List (BitVec 8) → BitVec 512
/-- Whether a manifest or token is signed by ECDSA P-521 under the key (R396, R399). -/
opaque ecdsaVerify : List (BitVec 8) → List (BitVec 8) → Bool
/-- An ECDSA P-521 signature of the identity key (R397), of 132 bytes. -/
opaque ecdsaSign : List (BitVec 8) → BitVec 1056
/-- The SHA-512 digest that is fused, of the key of the root monitor's manifest (R396). -/
opaque fusedKeyDigest : BitVec 512
/-- The digest of the certificate chain of a slot (R397). -/
opaque certDigest : Nat → BitVec 512
/-- Bytes of the certificate chain of a slot (R397), as a digest of the portion asked for. -/
opaque certificate : Nat → Nat → Nat → BitVec 512
/-- Whether zero bits that end a section, and that R26 may have put there to fill its last byte, are fill and no element: by context,
tensor and element (R393; log entry 110). -/
opaque tailFill : Nat → Nat → Nat → Bool
/-- The vendor's debug key (R399). -/
opaque debugKey : List (BitVec 8)

end Sys2Proof.Config
end

