-- ==== Sys2Proof/Machine/State.lean ====
section
/-! DEFINITION. The state of one ZB96 package as plain data: the focused core and the parked ones, the package's memory,
the contexts, the launch hardware, the owner ports and the fabric, and the Maltings' records. -/

namespace Sys2Proof.Machine

/-! ### Memory -/

/-- The bytes that are listed, in canonical form (`Memory.wf`). One flat physical space: main memory at HPA below 2^39
(R65), the scratchpad of core c at 2^40 + c * 2^22 (R130), the staging ways of slice s at 2^41 + s * 2^23 (R85). -/
abbrev Memory := List Host.Cell

/-- What an unlisted address reads as: zero (R396 step 4; for staging the model's choice, DESIGN CHOICE, log entry 5). -/
def Memory.rest : Byte := 0

/-- A mark on a 64-byte block (R68): poison in memory, or an error not yet met, which a read finds uncorrectable, or one
that a read corrects (R67). -/
inductive Mark where
  | poison | latentUe | latentCe
  deriving DecidableEq, Repr

/-- Marks by block number (flat address / 64), rising. -/
abbrev Marks := List (Nat × Mark)

/-! ### Program-visible registers -/

/-- The registers of the program (R8, R15, R268, R277, R370). -/
structure Regs where
  x : Vector Word 64
  hx : Vector Word 16
  p : Vector Bool 16
  v : Vector VWord 32
  q : Vector Word32 8
  f : Vector Bool 32
  c : Vector Word32 16
  t : Vector Word32 16
  deriving DecidableEq, Repr

/-- The stack registers of R153, from the launch block. -/
structure StkRegs where
  limit : BitVec 11
  win : BitVec 6
  spillSlots : BitVec 16
  spillBase : BitVec 32
  l2Slice : BitVec 8
  l2Slots : BitVec 16
  deriving DecidableEq, Repr

/-- The system registers of a core (R292), but for those that are derived or kept elsewhere. -/
structure SysRegs where
  modeBits : BitVec 8
  hnd : Bool
  slack : BitVec 8
  fmt : Vector Word 64
  stk : StkRegs
  rndSeed : Word
  fCause : BitVec 6
  fInfo : Word
  fOrigin : Word
  fDemand : Word
  fNode : Word
  fSeg : Word
  trapVec : CodeAddr
  trapPc : CodeAddr
  rsv : Vector Word 16
  nextOwner : BitVec 16
  ctxId : BitVec 16
  dbgRoute : Bool
  horizon : BitVec 14
  deriving DecidableEq, Repr

/-- An entry of the loop stack (R281). -/
structure LoopEntry where
  first : CodeAddr
  last : CodeAddr
  count : Word32
  index : Word32
  deriving DecidableEq, Repr

/-- What a result writes when it lands (R42, R44, R49). -/
inductive Landing where
  | x (r : XReg) (v : Word)
  | hx (r : Fin 16) (v : Word)
  | p (r : PReg) (b : Bool)
  | v (r : VReg) (v : VWord)
  /-- The bits of a vector register or lane mask that a mask names (R251, R255). -/
  | vm (r : VReg) (v m : VWord)
  | q (r : QReg) (v m : Word32)
  | flag (r : FlagNo) (b : Bool)
  | ctr (k : CtrNo) (v : Word32)
  /-- An increment by ssig that lands at the position of a write of its counter, after it (R277). -/
  | inc (k : CtrNo) (n : Word32)
  | cset (k : CtrNo) (n : Word32)
  | sys (r : SysReg) (v : Word)
  | slack (n : BitVec 8)
  /-- The flag of an engine's completion at this position, which a clear of the same cycle does not erase (R44); `old` says that its
  source stands before the checkpoint, so that a rollback applies the set again (R363). -/
  | done (r : FlagNo) (old : Bool)
  deriving DecidableEq, Repr

/-- What a mem-slot load of poisoned data raises where it lands (R68, R366): found by its own read or not, and the
address of the load's bundle. -/
structure LoadMark where
  ue : Bool
  pc : CodeAddr
  deriving DecidableEq, Repr

/-- What a cluster-remote load's result still waits for (R54): its access, the positions of slack left once its nominal
position has come, and whether its data is here. -/
structure RemWait where
  id : Nat
  window : Nat
  arrived : Bool
  deriving DecidableEq, Repr

/-- A result in flight: it lands at the start of the k-th position from the one being issued (R49, R371). -/
structure InFlight where
  what : Landing
  k : Nat
  mark : Option LoadMark
  wait : Option RemWait
  deriving DecidableEq, Repr

/-- The busy positions left of the vec slot and of the two dividers (R52). -/
structure Busy where
  vec : Nat
  div0 : Nat
  div1 : Nat
  deriving DecidableEq, Repr

/-- How a mem-slot load places its data (R136). -/
inductive LoadForm where
  | scalar (bytes : Nat) (signed : Bool) (d : XReg) (bank : Bool)
  | vector (d : VReg)
  deriving DecidableEq, Repr

/-- A cluster-remote mem-slot access that has not performed, or a store whose acknowledgement is out (R54, R140).
Lanes are (flat address, bytes). -/
structure RemAccess where
  id : Nat
  store : Bool
  lanes : List (Nat × Nat)
  data : List Byte
  form : LoadForm
  performed : Bool
  pc : CodeAddr
  deps : List Nat
  handler : Bool
  deriving DecidableEq, Repr

/-! ### Tile stack and Mash -/

/-- The tag of a value (R150); SIZE follows from it. -/
structure Tag where
  rows : Nat
  cols : Nat
  fmt : Fmt
  orient : Bool
  deriving DecidableEq, Repr

/-- The output modes that a node records (R228, R229). -/
structure NodeMode where
  fmt : Fmt
  rnd : Rnd
  sat : Bool
  chk : Bool
  ftz : Bool
  deriving DecidableEq, Repr

/-- An element of a tile: its bits, the shared exponent or scale it stands under (block and scaled formats), and the
poison mark of the block it was read from, true when that read itself found the error (R186). -/
structure Elem where
  bits : Nat
  aux : Nat
  mark : Option Bool
  deriving DecidableEq, Repr

/-- The memory that a load or store node names (R163, R167, R191). -/
inductive TilePlace where
  | spad (flat : Nat)
  | remote (core : Nat) (off : Nat)
  | staging (slice off : Nat)
  | tensor (tid : Nat) (viaL2 : Bool)
  deriving DecidableEq, Repr

/-- Where the elements of a tile lie in memory (R164): the place, the row pitch, the position of element (0, 0),
whether it is transposed, the memory format if it is not the tensor's own, and the modes of the conversion. -/
structure TileAccess where
  place : TilePlace
  pitch : Nat
  row : Int
  col : Int
  tr : Bool
  mfmt : Option Fmt
  rnd : Rnd
  sat : Bool
  chk : Bool
  ftz : Bool
  noAlloc : Bool
  deriving DecidableEq, Repr

/-- The elementwise operations of R237. -/
inductive EwOp where
  | add | sub | mul | max | min
  deriving DecidableEq, Repr

/-- The operation of a node with what its instruction recorded (R169). -/
inductive NodeOp where
  | load (a : TileAccess)
  | const (e : Elem)
  | mma (dup : Bool)
  | mac (dup : Bool)
  | ew (op : EwOp) (dup : Bool)
  | scl (s : Word32) (int : Bool)
  | bia (fn : Option FunCode)
  | fn (f : FunCode)
  | red (op : RedOp) (cols : Bool)
  | smx | trn | cvt
  | slc (r c : Nat)
  | cat (cols : Bool)
  | bcs
  | msk (fill : Option Word)
  | chk
  deriving DecidableEq, Repr

/-- Where a node came from (R169). -/
structure Origin where
  addr : CodeAddr
  slot : Nat
  seg : BitVec 32
  deriving DecidableEq, Repr

/-- State of a node beyond what its element sets say (R172). -/
inductive NodeSt where
  | live | faulted
  | poisoned (ue : Bool)
  deriving DecidableEq, Repr

/-- The storage class of a materialised value (R155). -/
inductive ValueLoc where
  | none | head | spill | l2
  deriving DecidableEq, Repr

/-- A source sector that a load node has read (R177): its key within the source, its 64 bytes, its mark. -/
structure Sector where
  key : Nat
  bytes : BitVec 512
  mark : Option Bool
  deriving DecidableEq, Repr

/-- A raw element of a load node's source: its index in the tile and what the memory held (R177). -/
abbrev RawElem := Nat × Elem

/-- The kinds of FAULT.DEMAND (R184). -/
inductive DemandKind where
  | tst | tfrc | sstep | fence | overlap
  deriving DecidableEq, Repr

/-- The closing of a load window that has not been read whole yet (R177, R184): what closed it, where that stands, and whether it
did so in the present run of its segment: a window that closed in a discarded segment stays closed, and what it meets is
raised again only by an event of the new run. -/
structure Closing where
  kind : DemandKind
  origin : Origin
  handler : Bool
  live : Bool
  deriving DecidableEq, Repr

/-- A tile value: a node while elements are missing, a materialised value once retired (R149, R169, R171). -/
structure TileNode where
  id : Nat
  op : NodeOp
  opcode : BitVec 8
  args : List Nat
  tag : Tag
  mode : NodeMode
  srCtr : Word
  srKey : Word
  origin : Origin
  st : NodeSt
  drows : List Nat
  dcols : List Nat
  vals : List (Nat × Elem)
  sectors : List Sector
  /-- The lines that it has fetched through the L2-source flag, in that order, and whose data the Mash has not consumed (R91). -/
  pinned : List Nat
  raw : List RawElem
  rfmt : Option Fmt
  /-- The pending store nodes after which it reads (R179). -/
  after : List Nat
  closing : Option Closing
  retired : Bool
  loc : ValueLoc
  deriving DecidableEq, Repr

/-- A region of a tile (R189), bounds inclusive. -/
structure Region where
  r0 : Nat
  r1 : Nat
  c0 : Nat
  c1 : Nat
  deriving DecidableEq, Repr

/-- A demand that has not been evaluated (R173). A flag is set when it has (tfrc, R192); `met` marks one whose region was computed as
its node was released. -/
structure Demand where
  id : Nat
  node : Nat
  region : Region
  kind : DemandKind
  origin : Origin
  flag : Option FlagNo
  handler : Bool
  met : Bool
  deriving DecidableEq, Repr

/-- A store node that has not performed (R188, R191). `done` counts its written sectors; `sent` says that it waits for
the acknowledgement of a cluster-remote scratchpad. -/
structure StoreNode where
  id : Nat
  src : Nat
  rows : Nat
  cols : Nat
  access : TileAccess
  region : Region
  srCtr : Word
  srKey : Word
  /-- The fences that were open at its append (R304). -/
  after : List Nat
  flag : Option FlagNo
  origin : Origin
  done : Nat
  sent : Bool
  handler : Bool
  deriving DecidableEq, Repr

/-- A fault that an evaluation or the engine has met (R76, R104): a page fault, a second-stage fault, or a cause with its
FAULT.INFO. -/
inductive EngFault where
  | page (tid tile : Nat)
  | stage2 (gpa : Nat) (tid tile : Nat) (write : Bool)
  | cause (c : BitVec 6) (info : Word)
  deriving DecidableEq, Repr

/-- An evaluation fault that waits for the next boundary (R184). -/
structure EvalFault where
  what : EngFault
  origin : Word
  demand : Word
  node : Word
  seg : Word
  handler : Bool
  deriving DecidableEq, Repr

/-- The tile stack and the deferred node table of a core. -/
structure Mash where
  spine : List Nat
  nodes : List TileNode
  stores : List StoreNode
  demands : List Demand
  coarse : Bool
  nextId : Nat
  deriving DecidableEq, Repr

/-! ### Copy engine -/

/-- A dimension of a stream descriptor (R100). -/
structure Dim where
  count : Nat
  sstr : Int
  dstr : Int
  deriving DecidableEq, Repr

/-- A side of a copy (R100): kind 0 to 3, format (none is the tensor's own), SID or DID, base. -/
structure Side where
  kind : Nat
  fmt : Option Fmt
  id : Nat
  base : Nat
  deriving DecidableEq, Repr

/-- A stream descriptor as the engine read it (R100), dimension 0 first. -/
structure Desc where
  src : Side
  dst : Side
  rnd : Rnd
  sat : Bool
  ftz : Bool
  noAlloc : Bool
  pkg : Nat
  subop : Nat
  dims : List Dim
  deriving DecidableEq, Repr

/-- An atomic block as the engine read it (R109). -/
structure AtomBlock where
  kind : Nat
  fmt : Fmt
  w64 : Bool
  pkg : Nat
  id : Nat
  off : Nat
  op1 : Word
  op2 : Word
  result : Nat
  deriving DecidableEq, Repr

/-- The operation of a copy command. -/
inductive CmdOp where
  | scpy (d : Desc)
  | sgth (d : Desc) (idx : List Int)
  | sacc (op : SaccOp) (d : Desc)
  | satm (op : SatmOp) (b : AtomBlock)
  | ssig (core : Nat) (k : CtrNo) (pkg : Nat) (inc : Word32) (rel : Option Scope)
  | sbar (a b : KindMask)
  | l2wb (d : Desc)
  | l2inv (d : Desc)
  | l2pf (d : Desc) (retained : Bool)
  | sxfr (d : Desc) (slot : Nat) (addr : Nat)
  deriving DecidableEq, Repr

/-- How far a command toward another package has come (R95, R125). -/
inductive CmdWait where
  | no
  /-- Packets of plain copies that are out, by tag. -/
  | packets (tags : List Nat)
  /-- A remote operation that is out: owner and serial. -/
  | op (owner serial : Nat)
  /-- A remote operation that waits for its serial: for room in the sequence. -/
  | held (owner : Nat)
  /-- The answer of an operation, not yet recorded: status, OLD, serial and the owner's cause (R112). -/
  | answered (status : Nat) (old : Word) (serial : Nat) (cause : BitVec 6)
  deriving DecidableEq, Repr

/-- A command in the engine or in the gate (R93, R98). `pos` counts the elements of the walk performed or sent; `after`
names the earlier fences, and for a release the earlier commands, that it is ordered after (R113, R117); `accs` the
remote accesses that a release waits for; `discard` marks a command whose segment was rolled back (R99); `clean` holds
the bits written clean in blocks that bear a mark (R68). -/
structure Cmd where
  id : Nat
  op : CmdOp
  flag : Option FlagNo
  cls : Nat
  x : Bool
  addr : CodeAddr
  seg : BitVec 32
  committed : Bool
  pos : Nat
  after : List Nat
  discard : Bool
  fault : Option EngFault
  wait : CmdWait
  accs : List Nat
  clean : List Nat
  handler : Bool
  deriving DecidableEq, Repr

/-- An icinv or tlbi that has not completed (R289, R290), with the context that issued it (R80). -/
structure Inval where
  id : Nat
  ctx : Nat
  code : Option (Nat × Nat)
  kind : InvKind
  scope : Scope
  flag : Option FlagNo
  seg : BitVec 32
  committed : Bool
  deriving DecidableEq, Repr

/-- A fence.rel whose condition is not yet met: the remote accesses and commands that it waits for (R117, R304 item 4).
It shares the numbers of commands. -/
structure Fence where
  id : Nat
  scope : Scope
  accesses : List Nat
  cmds : List Nat
  flag : Option FlagNo
  deriving DecidableEq, Repr

/-- The record of an admitted sxfr (R120): slot start, descriptor address and transfer; `again` once a rollback has
discarded its segment. -/
structure SxfrRec where
  slot : Nat
  addr : Nat
  transfer : Nat
  again : Bool
  deriving DecidableEq, Repr

/-- The copy engine of a core: commands in stream order, records of admitted sxfr (R120), invalidations, fences. -/
structure Engine where
  cmds : List Cmd
  sxfrs : List SxfrRec
  invals : List Inval
  fences : List Fence
  nextId : Nat
  deriving DecidableEq, Repr

/-! ### Segments -/

/-- An entry of the store gate: the bytes of one store (R139, R361), the bits of them that later writes of the core have
overwritten in memory, and the next numbers of a command and of a node when it was issued, which tell what stands before it in
program order. -/
structure GateEntry where
  cells : List Host.Cell
  gone : List (Nat × Byte)
  cmd : Nat
  node : Nat
  deriving DecidableEq, Repr

/-- A set or an increment that R363 applies again after a rollback. -/
inductive LogItem where
  | flag (k : FlagNo)
  | inc (k : CtrNo) (n : Word32)
  deriving DecidableEq, Repr

/-- The checkpoint (R362). -/
structure Shadow where
  x : Vector Word 64
  p : Vector Bool 16
  v : Vector VWord 32
  q : Vector Word32 8
  f : Vector Bool 32
  c : Vector Word32 16
  t : Vector Word32 16
  slack : BitVec 8
  fresh : List FlagNo
  loops : List LoopEntry
  flight : List InFlight
  busy : Busy
  spine : List Nat
  nextNode : Nat
  pc : CodeAddr
  deriving DecidableEq, Repr

/-- A late-class trap that waits for its boundary (R369). -/
structure LateTrap where
  cause : BitVec 6
  info : Word
  origin : Option Word
  deriving DecidableEq, Repr

/-- What the core does once a commit is complete (R360, R144, R285 to R287). -/
inductive After where
  | ckpt
  /-- The implicit checkpoint stands before the bundle that needs the gate (R361). -/
  | implicit
  | sstep (d : XReg) (dom : Fin 16)
  | launch (d : XReg) (addr : Word) (graph : Bool)
  | yield
  | exit (succ : List Word)
  deriving DecidableEq, Repr

/-- The copy-slot instructions that hold the next bundle (R116, R117). -/
inductive DrainKind where
  | sdrn | acq | sc
  deriving DecidableEq, Repr

/-- What a page fault or a second-stage fault writes when it is delivered (R81, R104, R367, R368): FAULT.INFO, and of an
evaluation or a command FAULT.ORIGIN, FAULT.DEMAND, FAULT.NODE and FAULT.SEG. -/
structure PageRegs where
  info : Word
  origin : Option Word
  eval : Option (Word × Word × Word)
  deriving DecidableEq, Repr

/-- What holds the core before its next bundle. A hold takes no issue positions (R49). -/
inductive Hold where
  | none
  /-- R360 step 1. -/
  | commit (a : After)
  /-- R144 step 3. -/
  | exchange (d : XReg) (dom : Fin 16)
  /-- Arrived at the barrier (R144 step 5). -/
  | barrier (d : XReg) (dom : Fin 16)
  /-- Arrived at a rendezvous with its tag (R148). -/
  | rdv (tag : BitVec 8)
  /-- sdrn, fence.acq or fence.sc (R116, R117), with the completion flag, and the hold that the ctl slot of its bundle
  asks for after it. -/
  | drain (k : DrainKind) (scope : Scope) (flag : Option FlagNo) (next : Hold)
  /-- R285 step 3, and the same of yield (R287). -/
  | endStep (succ : List Word)
  | yielding
  /-- Rolled back on a page fault, waiting for the kernel (R81, R367). -/
  | page (tid tile : Nat) (w : PageRegs)
  /-- Rolled back on a second-stage fault, waiting for the hypervisor (R78). -/
  | stage2 (gpa tid tile : Nat) (write : Bool) (w : PageRegs)
  /-- Stopped on FEATURE-MASKED with DBG.ROUTE = 1 (R372). -/
  | hypervisor (info : Word)
  /-- An own-scratchpad access waits for a pending store node (R179). -/
  | store
  /-- The engine holds 64 commands and the next bundle brings one more (R94). -/
  | engine
  /-- The next bundle waits for an open fence.rel: a handler's store (R117, R372), or, in interlocked mode, a load's data that
  an older store of the core behind the fence keeps (R55, R140). -/
  | fence
  /-- Issue has stopped for a trap, and a remote load has not arrived (R370 step 1): the cause, FAULT.INFO, TRAP.PC, the hold that
  the trap interrupts, and whether the rollback of step 2 comes next, which gives TRAP.PC (R369). -/
  | entering (cause : BitVec 6) (info : Word) (trapPc : CodeAddr) (parked : Hold) (back : Bool)
  /-- A launch waits until it is accepted or refused (R286). -/
  | launch (d : XReg) (addr : Word) (graph : Bool)
  /-- rte or xbnd waits for the handler's own results (R374), with the bundle that xbnd runs (R375). -/
  | ret (emul : Option (BitVec 512))
  deriving DecidableEq, Repr

/-- Whether and how a core runs. -/
inductive RunState where
  | idle | running | stopped | switchedOut | outOfService
  deriving DecidableEq, Repr

/-- The step that a core runs (R334 to R337): task, linear number, gang index, and for a replay-safe task the
sstep completions passed (R351) and the serials used by owner (R128). -/
structure StepRec where
  task : Nat
  number : Nat
  gangIdx : Nat
  passed : Nat
  serialCount : List (Nat × Nat)
  deriving DecidableEq, Repr

/-- What stood before the bundle that is issuing: memory with its marks, the gate, the next node number, and whether the range CAM was
in coarse mode (R163, R180). -/
structure Before where
  mem : Memory
  marks : Marks
  gate : List GateEntry
  node : Nat
  coarse : Bool
  deriving DecidableEq, Repr

/-- What a bundle has while it issues: the results that chain (R43), the slot, the group, a taken transfer, and what stood
before it. -/
structure Issue where
  chain : List Landing
  slot : Nat
  group : Nat
  taken : Option CodeAddr
  before : Option Before
  deriving DecidableEq, Repr

/-- A Sareg core. -/
structure Core where
  regs : Regs
  sys : SysRegs
  pc : CodeAddr
  loops : List LoopEntry
  flight : List InFlight
  busy : Busy
  /-- Positions to pass before the next bundle issues: one after a bundle, three after a taken branch (R49, R53). -/
  due : Nat
  /-- The flags that a counter's threshold set at this position (R277), and those that an engine's completion set in this cycle
  (R44). -/
  fresh : List FlagNo
  done : List FlagNo
  late : List InFlight
  lateBusy : Busy
  /-- The `fresh` of the program's position, while a handler runs. -/
  lateFresh : List FlagNo
  remote : List RemAccess
  nextAcc : Nat
  gate : List GateEntry
  gateCmds : List Cmd
  shadow : Shadow
  log : List LogItem
  seg : BitVec 32
  /-- The retry mark of the segment, and whether a SILENT-MISMATCH has set it or met it (R365). -/
  retry : Bool
  mismatch : Bool
  /-- The evaluation fault of a demand of the program that waits for its boundary, and that of a demand of the handler (R184, R372). -/
  evalFault : Option EvalFault
  hndFault : Option EvalFault
  lateTraps : List LateTrap
  /-- Traps that the kernel has delivered and the core has not entered yet (class K of R369): cause and FAULT.INFO. -/
  kTraps : List (BitVec 6 × Word)
  emul : Option (BitVec 512)
  mash : Mash
  eng : Engine
  hold : Hold
  /-- The hold that a trap delivered by the kernel (R353), or a rollback behind its bundle's commit (R147), has interrupted; it
  stands again after the handler, or once the fault is resolved. -/
  parked : Hold
  run : RunState
  task : Option StepRec
  logical : Nat
  die : Bool
  pos : Nat
  preempt : Option Nat
  issue : Issue
  /-- Copies of bundles by address: the instruction cache, and the loop buffer (R8). -/
  icache : List (Nat × BitVec 512)
  loopBuf : List (Nat × BitVec 512)
  deriving DecidableEq, Repr

/-! ### Contexts -/

/-- The ERR registers (R295). -/
structure ErrRegs where
  memCe : Word32
  memUe : Word32
  memOrphan : Word32
  spadCe : Word32
  tri2 : Word32
  rtx : Word32
  dup : Word32
  implicit : Word32
  deriving DecidableEq, Repr

/-- An operation that the retransmission engine keeps (R125): its request, the core and command that issued it, busy
replies, transmissions, the pod time of the last one, that of a BUSY reply not yet answered, and whether it has completed. -/
structure RemOp where
  serial : Nat
  req : Option RemReq
  core : Nat
  cmd : Nat
  busy : Nat
  tries : Nat
  sentAt : Nat
  busyAt : Option Nat
  completed : Bool
  deriving DecidableEq, Repr

/-- What a context keeps toward one owner package (R122, R123, R128): serials and acknowledgements, the pod time of the last
packet that carried one and of the last query that is out, the operations, and the cores and commands that wait for room in
the sequence, in commit order. -/
structure OwnerSt where
  owner : Nat
  next : Nat
  acked : Nat
  ackSent : Nat
  ackAt : Nat
  inc : Option Nat
  query : Option Nat
  ops : List RemOp
  queue : List (Nat × Nat)
  deriving DecidableEq, Repr

/-- What a context keeps of a core between steps (R337): its system registers and the handler bank. -/
structure Kept where
  sys : SysRegs
  hx : Vector Word 16
  deriving DecidableEq, Repr

/-- A context. `saved` holds its switched-out cores (R377) by task and logical number (`savedKey`), with the increments,
flags and barrier generations that have come for them; `kept` what stays between steps, and `trapVec` the kernel's value of TRAP.VEC. -/
structure Ctx where
  id : Nat
  vf : Option Nat
  cores : List Nat
  tensors : List (Nat × BitVec 512)
  tableLen : Nat
  stage2 : Option Nat
  windows : List (Nat × Nat × Nat)
  quotas : List (Nat × Nat)
  ceiling : Nat
  err : ErrRegs
  inj : Word
  tmo : Word
  owners : List OwnerSt
  saved : List (Nat × Core)
  savedIncs : List (Nat × CtrNo × Word32)
  savedFlags : List (Nat × FlagNo)
  savedGens : List (Nat × XReg × Word)
  exports : List Nat
  kept : List (Nat × Kept)
  trapVec : CodeAddr
  /-- The save areas that the kernel has named: core and host-physical address (R376). -/
  saves : List (Nat × Nat)
  deriving DecidableEq, Repr

/-! ### Launch hardware -/

/-- A launch block as the launch hardware keeps it (R331). -/
structure LaunchBlock where
  addr : Nat
  entry : Word
  opb : Word
  first : Nat
  gang : Nat
  place : Nat
  prio : Nat
  hw : Nat
  flags : Nat
  limit : Nat
  spill : Nat
  spSlots : Nat
  l2Slots : Nat
  l2Slice : Nat
  domain : Nat
  rvGroup : Nat
  ctx : Nat
  deriving DecidableEq, Repr

/-- An operator parameter block (R332). -/
structure ParamBlock where
  ndims : Nat
  pdim : Nat
  bounds : List Nat
  params : List Word
  deriving DecidableEq, Repr

/-- A task (R330): queued, or resident on its gang. -/
structure Task where
  id : Nat
  lb : LaunchBlock
  pb : ParamBlock
  /-- The logical core of each gang index (R335, R350). -/
  cores : List Nat
  enqueued : Nat
  aged : Bool
  graph : Option (Nat × Nat)
  /-- By gang index: the linear number of the next step to begin. -/
  next : List Nat
  /-- Gang indices whose last step has ended. -/
  ended : List Nat
  /-- (linear step, field, address) of the successors named so far (R345). -/
  succ : List (Nat × Nat × Word)
  failed : Bool
  preempted : Bool
  /-- Replay records by linear step (R128, R351). -/
  replays : List (Nat × List Word32 × List (Nat × List Nat))
  deriving DecidableEq, Repr

/-- A barrier domain (R142): the task bound to it, its generation, the logical cores that have arrived. -/
structure Domain where
  task : Nat
  gen : Word32
  arrived : List Nat
  deriving DecidableEq, Repr

/-- A node of a running graph (R347), with its blocks as they were read at the launch. -/
structure GraphNode where
  lb : LaunchBlock
  pb : ParamBlock
  preds : Nat
  succ : List Nat
  ctr : Nat
  fired : Bool
  deriving DecidableEq, Repr

/-- An active run of a graph table (R346 to R349). -/
structure GraphRun where
  id : Nat
  ctx : Nat
  addr : Nat
  gen : Nat
  nodes : List GraphNode
  failed : Bool
  done : Nat
  deriving DecidableEq, Repr

/-- The launch hardware (R338 to R353). `waiting` holds the tasks that wait for room in a completed task's record (R345);
`moved` is the pod time of the last dispatch, `quiet` since when each core has held with nothing under way (R353). -/
structure Launch where
  queue : List Task
  resident : List Task
  waiting : List Task
  credits : Vector Int 8
  weights : Vector Nat 8
  domains : List (Nat × Domain)
  graphs : List GraphRun
  nextTask : Nat
  nextGraph : Nat
  wdogNs : Nat
  moved : Nat
  quiet : List (Nat × Nat)
  deriving DecidableEq, Repr

/-! ### Owner ports and fabric -/

/-- An entry of a reply cache (R124). -/
structure ReplyEntry where
  pkg : Nat
  ctx : Nat
  serial : Nat
  rep : RepBody
  inc : Nat
  pending : Bool
  deriving DecidableEq, Repr

/-- The remote-operation port of a die (R124). -/
structure Port where
  cache : List ReplyEntry
  acks : List (Nat × Nat × Nat)
  inc : Nat
  /-- Requests whose execution waits for a frame (R81, R83). -/
  waiting : List RemReq
  deriving DecidableEq, Repr

/-- A packet that this package has put on the fabric. -/
inductive Packet where
  | request (r : RemReq)
  | reply (r : RemRep)
  | ack (pkg ctx owner serial : Nat)
  | query (pkg ctx owner : Nat)
  | abandon (ctx : Nat)
  | transfer (port start : Nat) (data : List PktElem)
  | update (seq : Nat) (u : TableUpdate)
  | updateAck (seq : Nat)
  | destroyed (pkg ctx : Nat)
  deriving DecidableEq, Repr

/-- A plain packet that has not been acknowledged, or whose copies may still be in flight (R116, R403). -/
structure OutPacket where
  tag : Nat
  core : Nat
  cmd : Nat
  /-- The walk position of its first element. -/
  pos : Nat
  req : RemReq
  retx : Bool
  acked : Bool
  lastTx : Nat
  /-- Data that has arrived and whose destination is not free yet (R310). -/
  held : Option RemRep
  deriving DecidableEq, Repr

/-- A reservation of a class-0 slot (R404), with the abandon marks of its context and of the receiving one (R405), and whether
its loss has reached the destination. -/
structure Reservation where
  slot : SlotInput
  abandoned : Bool
  peerAbandoned : Bool
  lapsed : Bool
  deriving DecidableEq, Repr

/-- An admitted class-0 transfer (R119, R404): the core and command that it belongs to, its context and walk, its slot, and, once it is
done, its status word. -/
structure Transfer where
  id : Nat
  core : Nat
  cmd : Nat
  ctx : Nat
  desc : Desc
  port : Nat
  start : Nat
  status : Nat
  tries : Nat
  delivered : Bool
  done : Bool
  word : Word
  deriving DecidableEq, Repr

/-- The fabric as the package sees it (R402 to R405). -/
structure Fabric where
  self : Nat
  pods : List Nat
  sent : List Packet
  out : List OutPacket
  received : List (List Byte)
  crcDrops : Word32
  inStep : Bool
  podFaults : Word32
  reservations : List Reservation
  transfers : List Transfer
  nextTag : Nat
  deriving DecidableEq, Repr

/-! ### L2 and translation -/

/-- A line in a slice (R84, R86, R89): the line address, whether it is dirty, the context, core and RSV number for which it is
retained, and in a replica slice its data and the poison marks of its two halves (R68); at its home slice memory holds both. -/
structure L2Line where
  slice : Nat
  line : Nat
  dirty : Bool
  retained : Option (Nat × Nat × Nat)
  copy : Option (BitVec 1024)
  bad : BitVec 2
  deriving DecidableEq, Repr

/-- An entry of a port translation cache (R79): what R75 used and where the tile lies. -/
structure TlbEntry where
  ctx : Nat
  tid : Nat
  tile : Nat
  entry : BitVec 512
  tte : Word
  gpaOk : Bool
  hpa : Nat
  writable : Bool
  deriving DecidableEq, Repr

/-- The cores that an icinv has reached, by logical number or die where its scope is one core or one die, and its range of code
addresses (R289). -/
structure Afresh where
  core : Option Nat
  die : Option Bool
  lo : Nat
  hi : Nat
  deriving DecidableEq, Repr

/-- The L2 slices (R84 to R91). `lines` holds what the cache ways hold, the line used last first; `afresh` the code that is read at
home since an icinv has named it. -/
structure L2 where
  pairs : Vector Nat 48
  lines : List L2Line
  afresh : List Afresh
  sig : Vector (BitVec 1024) 2
  inbox : Vector (List (BitVec 1024)) 2
  tlb : List TlbEntry
  deriving DecidableEq, Repr

/-! ### Maltings and host -/

/-- A report to the Maltings kernel. -/
inductive Report where
  | stepFailed (core : Nat) (cause : BitVec 6)
  | suspect (core : Nat)
  | taskFailed (task : Nat)
  | refusedSuccessor (task : Nat) (addr : Word) (code : Nat)
  | refusedLaunch (ctx : Nat) (addr : Word) (code : Nat)
  | tooManySuccessors (task : Nat)
  | extraArrival (graph node : Nat)
  | pageFault (ctx tid tile : Nat)
  | stage2Fault (ctx gpa : Nat)
  | masked (core : Nat)
  | watchdog
  | orphan (hpa : Nat)
  | mailbox (fn : Nat) (off : Nat) (v : Word)
  deriving DecidableEq, Repr

/-- What the kernel has brought up (R396 step 5). -/
structure Links where
  endpoint : Bool
  nvme : Bool
  fabric : Bool
  deriving DecidableEq, Repr

/-- How far power-on has come (R396). -/
inductive BootSt where
  | off
  | failed (step : Nat)
  | up
  | shutDown
  deriving DecidableEq, Repr

/-- An SPDM answer (R397). -/
inductive SpdmAnswer where
  /-- The version of the standard: 1.3. -/
  | version (major minor : Nat)
  /-- Whether key exchange and secured sessions are offered. -/
  | capabilities (keyExchange sessions : Bool)
  /-- The curve of ECDSA and the digest of SHA that are offered, in bits. -/
  | algorithms (curve digest : Nat)
  | digests (slot : Nat) (d : BitVec 512)
  | certificate (slot offset length : Nat) (d : BitVec 512)
  | challenge (slot : Nat) (sig : BitVec 1056)
  | measurements (log : List (BitVec 512)) (rollback : Nat) (sig : Option (BitVec 1056))
  | unsupported (code : Byte)
  deriving DecidableEq, Repr

/-- An access of the host through BAR2 that waits for a frame (R83, R398), or for an earlier one of its function (R309). -/
structure HostAccess where
  fn : Fin 17
  tid : Nat
  elem : Nat
  data : Option (BitVec 512)
  deriving DecidableEq, Repr

/-- What a load has still to do (R394): a bundle to write at an address of a context's control tensor, a data section whose frame it
waits for, or the icinv over the range of a section, which comes last. -/
inductive LoadPiece where
  | code (ctx addr : Nat) (bundle : BitVec 512)
  | data (ctx : Nat) (place : Placement) (bytes : List Byte)
  | inval (lo hi : Nat)
  deriving DecidableEq, Repr

/-- The cores of the Maltings (R10, R395): whether cores 1 to 7 have been started, the private SRAM of the root monitor as
listed bytes, what its filter has answered to reads, and the accesses of cores 1 to 7 that it has refused. -/
structure RootSt where
  started : Bool
  sram : List (Nat × Byte)
  reads : List Nat
  refused : List (Fin 8 × RootPlace)
  deriving DecidableEq, Repr

/-- The permit audit (R406): its interval in ms, when the last one ended on each die, those that are to run again. -/
structure AuditSt where
  ms : Nat
  last : Vector Nat 2
  again : Vector Bool 2
  deriving DecidableEq, Repr

/-- The root monitor, the kernel and the host side (R395 to R400, R406, R409). -/
structure Maltings where
  boot : BootSt
  links : Links
  root : RootSt
  audit : AuditSt
  /-- The package power limit in W, and whether the PF has reported a thermal shutdown (R409). -/
  powerLimit : Nat
  hot : Bool
  /-- The virtual function that serves on a core (R399), MSI-X interrupts raised (function, vector), values that host reads of
  BAR0 and debug reads of saved state have answered (R398, R399). -/
  coreFn : List (Nat × Fin 17)
  msix : List (Fin 17 × Nat)
  hostWaiting : List HostAccess
  /-- The code writes of loads that are under way, in order (R394). -/
  loads : List LoadPiece
  bar0Reads : List Word
  savedReads : List Word
  log : List (BitVec 512)
  rollback : Nat
  images : List Image
  spdm : List SpdmAnswer
  reports : List Report
  debugGrants : List Nat
  vfMasks : Vector (BitVec 9) 17
  /-- The cores in service: logical number and physical index, die × 48 + CORE.PHY (R408). -/
  coreMap : List (Nat × Nat)
  /-- The 2 MiB granules of main memory that the hypervisor has assigned, with their functions (R399). -/
  granules : List (Nat × Nat)
  updateSeq : Nat
  permitsRestored : Word32
  linksReset : Word32
  pfErr : ErrRegs
  vfErr : Vector ErrRegs 17
  bar0 : List (Nat × Word)
  throttled : Nat
  scansAborted : Nat
  /-- The elements that BAR2 reads have answered, oldest first: an element's bits and its poison mark (R398, R309). -/
  hostReads : List (Nat × Bool)
  deriving DecidableEq, Repr

/-! ### The state -/

/-- The package: the focused core and the others, memory, contexts, hardware, and the model's own agenda and tick. -/
structure State where
  core : Core
  cur : Nat
  others : List (Nat × Core)
  mem : Memory
  marks : Marks
  ctxs : List Ctx
  l2 : L2
  launch : Launch
  ports : Vector Port 2
  fabric : Fabric
  malt : Maltings
  podTime : BitVec 64
  agenda : List AgendaItem
  tick : Nat
  deriving DecidableEq, Repr

/-- Why the machine has stopped. -/
inductive Fault where
  /-- Raised by every step once the package is held in reset after a failed boot check or has shut down (R396, R409).
  Safe: the hardware runs nothing either. -/
  | packageOff
  deriving DecidableEq, Repr

/-- Why the model gives no meaning. -/
inductive Refusal where
  /-- Raised by an arm of exec that has no meaning yet. Safe: nothing is claimed of what follows. -/
  | notModelled (mnemonic : String)
  deriving DecidableEq, Repr

/-! ### Reset -/

/-- Registers at step start but for the parameters (R337), and the model's choice before any step (DESIGN CHOICE, log entry 3). -/
def Regs.reset : Regs :=
  { x := Vector.replicate 64 0, hx := Vector.replicate 16 0, p := Vector.replicate 16 false,
    v := Vector.replicate 32 0, q := Vector.replicate 8 0, f := Vector.replicate 32 false,
    c := Vector.replicate 16 0, t := Vector.replicate 16 0xFFFF_FFFF }

/-- Stack registers before any launch block has set them (DESIGN CHOICE, log entry 3). -/
def StkRegs.reset : StkRegs :=
  { limit := 0, win := 0, spillSlots := 0, spillBase := 0, l2Slice := 0, l2Slots := 0 }

/-- System registers at their reset values (R153, R205, R220, R291 to R294). -/
def SysRegs.reset : SysRegs :=
  { modeBits := 0, hnd := false, slack := 0, fmt := Vector.replicate 64 0x0F, stk := StkRegs.reset, rndSeed := 0,
    fCause := 0, fInfo := 0, fOrigin := 0, fDemand := 0, fNode := 0, fSeg := 0, trapVec := 0, trapPc := 0,
    rsv := Vector.replicate 16 0, nextOwner := 0, ctxId := 0, dbgRoute := false, horizon := 10000 }

/-- Nothing busy. -/
def Busy.none : Busy := { vec := 0, div0 := 0, div1 := 0 }

/-- An empty stack and node table (R152). -/
def Mash.empty : Mash := { spine := [], nodes := [], stores := [], demands := [], coarse := false, nextId := 0 }

/-- An empty engine. -/
def Engine.empty : Engine := { cmds := [], sxfrs := [], invals := [], fences := [], nextId := 0 }

/-- The shadow of reset registers. -/
def Shadow.reset : Shadow :=
  { x := Vector.replicate 64 0, p := Vector.replicate 16 false, v := Vector.replicate 32 0,
    q := Vector.replicate 8 0, f := Vector.replicate 32 false, c := Vector.replicate 16 0,
    t := Vector.replicate 16 0xFFFF_FFFF, slack := 0, fresh := [], loops := [], flight := [], busy := Busy.none,
    spine := [], nextNode := 0, pc := 0 }

/-- No bundle issuing. -/
def Issue.none : Issue := { chain := [], slot := 0, group := 0, taken := Option.none, before := Option.none }

/-- Logical core c right after reset: idle, at its place in a fully served die (R408). -/
def Core.reset (c : Nat) : Core :=
  { regs := Regs.reset, sys := SysRegs.reset, pc := 0, loops := [], flight := [], busy := Busy.none, due := 0, fresh := [],
    done := [], late := [], lateBusy := Busy.none, lateFresh := [], remote := [], nextAcc := 0, gate := [], gateCmds := [],
    shadow := Shadow.reset, log := [], seg := 0, retry := false, mismatch := false, evalFault := none, hndFault := none,
    lateTraps := [], kTraps := [], emul := none, mash := Mash.empty,
    eng := Engine.empty, hold := Hold.none, parked := Hold.none, run := RunState.idle, task := none, logical := c,
    die := decide (48 ≤ c), pos := c % 48, preempt := none, issue := Issue.none, icache := [], loopBuf := [] }

/-- Error counters at zero (R295). -/
def ErrRegs.zero : ErrRegs :=
  { memCe := 0, memUe := 0, memOrphan := 0, spadCe := 0, tri2 := 0, rtx := 0, dup := 0, implicit := 0 }

/-- The launch hardware at reset: weights of R341, interval of R353. -/
def Launch.reset : Launch :=
  { queue := [], resident := [], waiting := [], credits := Vector.replicate 8 0,
    weights := #v[0, 1, 2, 4, 8, 16, 32, 0], domains := [], graphs := [], nextTask := 0, nextGraph := 0,
    wdogNs := 10000000, moved := 0, quiet := [] }

/-- A port with an empty cache (R124); its first incarnation is the model's choice (DESIGN CHOICE, log entry 6). -/
def Port.reset : Port := { cache := [], acks := [], inc := 1, waiting := [] }

/-- The fabric at reset: package 0 of a pod of one (DESIGN CHOICE, log entry 6). -/
def Fabric.reset : Fabric :=
  { self := 0, pods := [0], sent := [], out := [], received := [], crcDrops := 0, inStep := true, podFaults := 0,
    reservations := [], transfers := [], nextTag := 1 }

/-- L2 at reset: no staging, nothing cached (DESIGN CHOICE, log entry 3). -/
def L2.reset : L2 :=
  { pairs := Vector.replicate 48 0, lines := [], afresh := [], sig := Vector.replicate 2 0,
    inbox := Vector.replicate 2 [], tlb := [] }

/-- The Maltings before power-on has run (R396): the audit interval of R406, and the highest power limit of R409, for which the
spec gives no reset value (DESIGN CHOICE, log entry 3). -/
def Maltings.reset : Maltings :=
  { boot := BootSt.off, links := { endpoint := false, nvme := false, fabric := false },
    root := { started := false, sram := [], reads := [], refused := [] },
    audit := { ms := 50, last := Vector.replicate 2 0, again := Vector.replicate 2 false },
    powerLimit := 2400, hot := false, coreFn := [], msix := [], hostWaiting := [], loads := [], bar0Reads := [], savedReads := [], log := [], rollback := 0, images := [], spdm := [], reports := [], debugGrants := [],
    vfMasks := Vector.replicate 17 0, coreMap := [], granules := [], updateSeq := 0, permitsRestored := 0,
    linksReset := 0, pfErr := ErrRegs.zero, vfErr := Vector.replicate 17 ErrRegs.zero, bar0 := [], throttled := 0,
    scansAborted := 0, hostReads := [] }

/-- The package right after reset, before the boot sequence of R396 has run: every register at the value the spec gives
or the one the log names (DESIGN CHOICE, log entry 3), no memory listed, nothing queued, the focus on logical core 0. -/
def State.reset : State :=
  { core := Core.reset 0, cur := 0, others := [], mem := [], marks := [], ctxs := [], l2 := L2.reset,
    launch := Launch.reset, ports := Vector.replicate 2 Port.reset, fabric := Fabric.reset, malt := Maltings.reset,
    podTime := 0, agenda := [], tick := 0 }

end Sys2Proof.Machine
end

