-- ==== Sys2Proof/Machine/Ops.lean ====
section
/-! DEFINITION. The named operations over cores, registers, memory and the store gate; positions and landing; traps,
rollback, return and commit. -/

namespace Sys2Proof.Machine

/-! ### Causes (R369) -/

namespace Cause
def illegalOpcode : BitVec 6 := 0x01
def reservedField : BitVec 6 := 0x02
def illegalBundle : BitVec 6 := 0x03
def schedule : BitVec 6 := 0x04
def loopOverflow : BitVec 6 := 0x05
def stackUnderflow : BitVec 6 := 0x06
def stackOverflow : BitVec 6 := 0x07
def shape : BitVec 6 := 0x08
def format : BitVec 6 := 0x09
def nodeTableFull : BitVec 6 := 0x0A
def evalOverflow : BitVec 6 := 0x0B
def evalInvalid : BitVec 6 := 0x0C
def translation : BitVec 6 := 0x0D
def protection : BitVec 6 := 0x0E
def alignment : BitVec 6 := 0x0F
def address : BitVec 6 := 0x10
def poison : BitVec 6 := 0x11
def eccUncorrectable : BitVec 6 := 0x12
def silentMismatch : BitVec 6 := 0x13
def breakpoint : BitVec 6 := 0x14
def software : BitVec 6 := 0x15
def featureMasked : BitVec 6 := 0x16
def residency : BitVec 6 := 0x17
def watchdog : BitVec 6 := 0x18
def admission : BitVec 6 := 0x19
def remoteIndeterminate : BitVec 6 := 0x1A
def fabricLoss : BitVec 6 := 0x1B
def privilege : BitVec 6 := 0x1C
end Cause

/-! ### Outcomes of a slot -/

/-- A fault of a slot (R46, R276): the step of R46 at which it is found, its slot, its cause and FAULT.INFO, and
whether it rolls the core back (class B) or is precise. -/
structure Raise where
  step : Nat
  slot : Nat
  cause : BitVec 6
  info : Word
  rollback : Bool
  deriving DecidableEq, Repr

/-- Why a bundle does not issue yet, though nothing is wrong with it. -/
inductive Stall where
  /-- The store gate or its command places are full (R361). -/
  | gate
  /-- The engine holds 64 commands (R94). -/
  | engine
  /-- Interlocked mode waits for a result or a unit (R55). -/
  | flight
  /-- The late-write buffer would pass 64 entries (R371). -/
  | full
  /-- An open fence.rel keeps what the bundle needs (R117, R140, R372). -/
  | fence
  /-- An own-scratchpad access meets a pending store destination (R179). -/
  | store
  /-- A page fault or second-stage fault of the fetch (R39). -/
  | page (tid tile : Nat)
  | stage2 (gpa tid tile : Nat) (write : Bool)
  /-- The fetch meets a frame that is moving (R83). -/
  | moving
  deriving DecidableEq, Repr

/-- What a slot instruction does at its issue. -/
inductive Eff where
  | ok (s : State)
  | raise (r : Raise)
  | stall (w : Stall)
  deriving Repr

/-- Continue with the state of an effect. -/
def Eff.bind (e : Eff) (f : State → Eff) : Eff :=
  match e with
  | .ok s => f s
  | .raise r => .raise r
  | .stall w => .stall w

/-- FAULT.INFO of a fault of the slot that is issuing (R46). -/
def State.slotInfo (s : State) : Word := BitVec.ofNat 64 s.core.issue.slot

/-- A precise fault of the issuing slot at a step of R46, with the slot layout of FAULT.INFO. -/
def State.fault (s : State) (step : Nat) (cause : BitVec 6) : Eff :=
  .raise { step := step, slot := s.core.issue.slot, cause := cause, info := s.slotInfo, rollback := false }

/-- A precise fault of the issuing slot with FAULT.INFO given. -/
def State.faultInfo (s : State) (step : Nat) (cause : BitVec 6) (info : Word) : Eff :=
  .raise { step := step, slot := s.core.issue.slot, cause := cause, info := info, rollback := false }

/-! ### Cores and contexts -/

/-- Apply f to the focused core. -/
def State.modCore (s : State) (f : Core → Core) : State := { s with core := f s.core }

/-- The entry of a key in a list of pairs. -/
def lookupNat {α : Type} (k : Nat) : List (Nat × α) → Option α
  | [] => none
  | (k', v) :: rest => if k' = k then some v else lookupNat k rest

/-- Insert or replace the entry of a key, keys rising. -/
def insertNat {α : Type} (k : Nat) (v : α) : List (Nat × α) → List (Nat × α)
  | [] => [(k, v)]
  | (k', v') :: rest =>
    if k < k' then (k, v) :: (k', v') :: rest
    else if k' = k then (k, v) :: rest
    else (k', v') :: insertNat k v rest

/-- Remove the entry of a key. -/
def eraseNat {α : Type} (k : Nat) : List (Nat × α) → List (Nat × α)
  | [] => []
  | (k', v) :: rest => if k' = k then rest else (k', v) :: eraseNat k rest

/-- Logical core c, focused or parked; a core that nothing has touched is as reset left it. -/
def State.getCore (s : State) (c : Nat) : Core :=
  if c = s.cur then s.core
  else match lookupNat c s.others with
    | some k => k
    | none => Core.reset c

/-- Put logical core c back. -/
def State.setCore (s : State) (c : Nat) (k : Core) : State :=
  if c = s.cur then { s with core := k } else { s with others := insertNat c k s.others }

/-- Focus logical core c: the next action concerns it. -/
def State.focus (s : State) (c : Nat) : State :=
  if c = s.cur then s
  else { s with core := s.getCore c, cur := c, others := insertNat s.cur s.core (eraseNat c s.others) }

/-- Apply f to logical core c. -/
def State.modCoreAt (s : State) (c : Nat) (f : Core → Core) : State := s.setCore c (f (s.getCore c))

/-- The context of a number. -/
def State.ctx? (s : State) (n : Nat) : Option Ctx := s.ctxs.find? (fun c => c.id == n)

/-- Apply f to the context of a number. -/
def State.modCtx (s : State) (n : Nat) (f : Ctx → Ctx) : State :=
  { s with ctxs := s.ctxs.map (fun c => if c.id == n then f c else c) }

/-- The key of a switched-out core in its context's save area: its task and its logical number. -/
def savedKey (task core : Nat) : Nat := task * 128 + core

/-- The number of the focused core's context (CTX.ID). -/
def State.ctxNo (s : State) : Nat := s.core.sys.ctxId.toNat

/-- Apply f to the launch hardware. -/
def State.modLaunch (s : State) (f : Launch → Launch) : State := { s with launch := f s.launch }

/-- Apply f to the Maltings. -/
def State.modMalt (s : State) (f : Maltings → Maltings) : State := { s with malt := f s.malt }

/-- Apply f to the fabric. -/
def State.modFabric (s : State) (f : Fabric → Fabric) : State := { s with fabric := f s.fabric }

/-- Apply f to the L2. -/
def State.modL2 (s : State) (f : L2 → L2) : State := { s with l2 := f s.l2 }

/-- Send a report to the kernel. -/
def State.report (s : State) (r : Report) : State :=
  s.modMalt (fun m => { m with reports := m.reports ++ [r] })

/-- The free values used so far advance by one. -/
def State.bump (s : State) : State := { s with tick := s.tick + 1 }

/-- A 32-bit counter that saturates (R295). -/
def satInc (w : Word32) : Word32 := if w = 0xFFFF_FFFF then w else w + 1

/-- Count an error for a context and for the virtual function that runs it (R295, R400). -/
def State.countErr (s : State) (n : Nat) (f : ErrRegs → ErrRegs) : State :=
  let s1 := s.modCtx n (fun c => { c with err := f c.err })
  match s.ctx? n with
  | some c =>
    match c.vf with
    | some v =>
      if h : v < 17 then s1.modMalt (fun m => { m with vfErr := m.vfErr.set v (f (m.vfErr[v])) }) else s1
    | none => s1
  | none => s1

/-! ### Memory -/

/-- First flat address of the scratchpad of logical core c (DESIGN CHOICE, log entry 7). -/
def spadBase (c : Nat) : Nat := 2 ^ 40 + c * 2 ^ 22

/-- First flat address of the staging ways of package slice n (DESIGN CHOICE, log entry 7). -/
def stagingBase (n : Nat) : Nat := 2 ^ 41 + n * 2 ^ 23

/-- The byte at an address. -/
def Memory.read (m : Memory) (a : Nat) : Byte :=
  match m with
  | [] => Memory.rest
  | (a', b) :: rest => if a' = a then b else Memory.read rest a

/-- Put a byte, dropping an entry that an unlisted address would read. -/
def Memory.write (m : Memory) (a : Nat) (b : Byte) : Memory :=
  match m with
  | [] => if b = Memory.rest then [] else [(a, b)]
  | (a', b') :: rest =>
    if a < a' then (if b = Memory.rest then (a', b') :: rest else (a, b) :: (a', b') :: rest)
    else if a' = a then (if b = Memory.rest then rest else (a, b) :: rest)
    else (a', b') :: Memory.write rest a b

/-- Put a run of cells, in order. -/
def Memory.writeAll (m : Memory) (cs : List Host.Cell) : Memory :=
  cs.foldl (fun m c => Memory.write m c.1 c.2) m

/-- n bytes from an address. -/
def Memory.readN (m : Memory) (a n : Nat) : List Byte := (List.range n).map (fun i => Memory.read m (a + i))

/-- The first entry lies above a bound, and every entry above the one before. -/
def Memory.risingFrom (lo : Nat) : Memory → Bool
  | [] => true
  | (a, b) :: rest => decide (lo ≤ a) && b != Memory.rest && Memory.risingFrom (a + 1) rest

/-- The canonical form: addresses strictly rising, no entry equal to what an unlisted address reads as. -/
def Memory.wf (m : Memory) : Bool := Memory.risingFrom 0 m

/-- The little-endian bytes of a number (R4). -/
def leBytes (n w : Nat) : List Byte := (List.range n).map (fun i => BitVec.ofNat 8 (w >>> (8 * i)))

/-- The number of a little-endian run of bytes (R4). -/
def ofLe : List Byte → Nat
  | [] => 0
  | b :: bs => b.toNat + 256 * ofLe bs

/-- The cells of a run of bytes at an address. -/
def cellsAt (a : Nat) (bs : List Byte) : List Host.Cell := bs.zipIdx.map (fun p => (a + p.2, p.1))

/-- The mark on the block of an address (R68). -/
def State.markAt (s : State) (a : Nat) : Option Mark := lookupNat (a / 64) s.marks

/-- Put or remove the mark of a block. -/
def State.setMark (s : State) (blk : Nat) (m : Option Mark) : State :=
  match m with
  | some k => { s with marks := insertNat blk k s.marks }
  | none => { s with marks := eraseNat blk s.marks }

/-- The blocks that a run of cells covers whole (R68: such a write clears their marks). -/
def wholeBlocks (cs : List Host.Cell) : List Nat :=
  let blks := (cs.map (fun c => c.1 / 64)).dedup
  blks.filter (fun b => decide (((cs.map Prod.fst).dedup.filter (fun a => a / 64 == b)).length = 64))

/-- Write cells to memory; of `full` every bit is new: the marks of blocks that they cover are cleared (R68). -/
def State.writeBits (s : State) (cs full : List Host.Cell) : State :=
  { s with mem := s.mem.writeAll cs,
           marks := if s.marks.isEmpty then [] else (wholeBlocks full).foldl (fun m b => eraseNat b m) s.marks }

/-- Write whole bytes to memory: marks of blocks written whole are cleared. -/
def State.writeCells (s : State) (cs : List Host.Cell) : State := s.writeBits cs cs

/-- What a gated store holds for an address: of lanes that overlap, the later one stands (R137). -/
def GateEntry.byte? (e : GateEntry) (a : Nat) : Option Byte := (e.cells.reverse.find? (fun c => c.1 == a)).map Prod.snd

/-- The bits of a gated byte that later writes of the core have overwritten in memory. -/
def GateEntry.mask (e : GateEntry) (a : Nat) : Byte := (lookupNat a e.gone).getD 0

/-- A byte with a gated store laid over it: the bits that later writes have overwritten stay as they are beneath. -/
def GateEntry.onto (e : GateEntry) (a : Nat) (b : Byte) : Byte :=
  match e.byte? a with
  | some v => if e.gone.isEmpty then v else (v &&& ~~~e.mask a) ||| (b &&& e.mask a)
  | none => b

/-- The cells that a gated store writes to memory as it performs (R139). -/
def GateEntry.performed (e : GateEntry) (m : Memory) : List Host.Cell :=
  if e.gone.isEmpty then e.cells
  else e.cells.map (fun c => (c.1, (c.2 &&& ~~~e.mask c.1) ||| (m.read c.1 &&& e.mask c.1)))

/-- A gated store as it performs (R139): a byte of which a later write keeps some bits is not written whole (R68). -/
def State.performGate (s : State) (e : GateEntry) : State :=
  s.writeBits (e.performed s.mem) (e.cells.filter (fun c => e.mask c.1 == 0))

/-- Read through a gate: a byte as the issuing core's own agents see it, the youngest store over the older ones (R139). -/
def readThrough (m : Memory) (g : List GateEntry) (a : Nat) : Byte := g.foldl (fun b e => e.onto a b) (m.read a)

/-- A gated store gives a whole byte, which then does not come from memory. -/
def gateCovers (g : List GateEntry) (a : Nat) : Bool := g.any (fun e => (e.byte? a).isSome && e.mask a == 0)

/-- n bytes read through the focused core's gate. -/
def State.readOwn (s : State) (a n : Nat) : List Byte :=
  (List.range n).map (fun i => readThrough s.mem s.core.gate (a + i))

/-- A byte of memory as hardware reads it that does not consume it (R68): of a block with an uncorrectable error or poison no
rule states it (DESIGN CHOICE, log entry 75). -/
def State.seenByte (s : State) (a : Nat) : Byte :=
  match lookupNat (a / 64) s.marks with
  | some .poison | some .latentUe => Config.poisonByte s.tick a
  | _ => s.mem.read a

/-- n bytes so read. -/
def State.seen (s : State) (a n : Nat) : List Byte := (List.range n).map (fun i => s.seenByte (a + i))

/-- What a read of blocks finds (R67, R68): the first mark met, true when this read found the error itself; latent errors
are counted for the context (spad says which counter of corrected errors) and become poison, or vanish when corrected. -/
def State.touchBlocks (s : State) (ctx : Nat) (spad : Bool) (blks : List Nat) : State × Option Bool :=
  blks.foldl (fun (acc : State × Option Bool) b =>
    match lookupNat b acc.1.marks with
    | none => acc
    | some .poison => (acc.1, acc.2.or (some false))
    | some .latentUe =>
      ((acc.1.setMark b (some .poison)).countErr ctx (fun e => { e with memUe := satInc e.memUe }), acc.2.or (some true))
    | some .latentCe =>
      ((acc.1.setMark b none).countErr ctx
        (fun e => if spad then { e with spadCe := satInc e.spadCe } else { e with memCe := satInc e.memCe }), acc.2))
    (s, none)

/-- The blocks of n bytes at an address. -/
def blocksOf (a n : Nat) : List Nat :=
  if n = 0 then [] else (List.range ((a + n - 1) / 64 - a / 64 + 1)).map (fun i => a / 64 + i)

/-- The blocks of n bytes at an address of which a read through a gate takes some byte from memory (R68, R139). -/
def gateOpen (g : List GateEntry) (a n : Nat) : List Nat :=
  (blocksOf a n).filter (fun b => ((List.range n).map (fun i => a + i)).any (fun x => x / 64 == b && !gateCovers g x))

/-- What a control read of the own scratchpad through a gate sees (R130): of a block that bears a mark a corrected error is written back
and an uncorrectable one marked (R67, R68), and the bytes that come from it no rule states (DESIGN CHOICE, log entry 75). -/
def State.controlBytes (s : State) (m : Memory) (ms : Marks) (g : List GateEntry) (a n : Nat) : State × List Byte :=
  let bad := (gateOpen g a n).filter (fun b => (lookupNat b ms).any (fun k => k != .latentCe))
  let t := (s.touchBlocks s.ctxNo true ((gateOpen g a n).filter (fun b => (lookupNat b ms).isSome))).1
  (if bad.isEmpty then t else t.bump, (List.range n).map (fun i =>
    if bad.contains ((a + i) / 64) && !gateCovers g (a + i) then Config.poisonByte s.tick (a + i) else readThrough m g (a + i)))

/-- n bytes of the own scratchpad that a tile access block, a descriptor, an atomic block or the bundle of xbnd has, as they stood
before the bundle that is issuing (R93, R163). -/
def State.controlBefore (s : State) (a n : Nat) : State × List Byte :=
  match s.core.issue.before with
  | some b => s.controlBytes b.mem b.marks b.gate a n
  | none => s.controlBytes s.mem s.marks s.core.gate a n

/-- n bytes of the own scratchpad that an index list has, as they stand (R106, R302). -/
def State.controlNow (s : State) (a n : Nat) : State × List Byte := s.controlBytes s.mem s.marks s.core.gate a n

/-! ### Registers -/

/-- Free nodes (R170): those that no unretired value node and no store node holds. -/
def Mash.free (m : Mash) : Nat := 512 - ((m.nodes.filter (fun n => !n.retired)).length + m.stores.length)

/-- Where scalar register r lives: the program bank, or the handler bank for x48 to x63 in handler mode (R370). -/
def Core.readBank (c : Core) (r : XReg) : Word :=
  if c.sys.hnd && decide (48 ≤ r.val) then c.regs.hx[Fin.ofNat 16 (r.val - 48)] else c.regs.x[r]

/-- The youngest chained result for scalar register r (R43). -/
def chainX (hnd : Bool) (r : XReg) : List Landing → Option Word
  | [] => none
  | l :: rest =>
    match chainX hnd r rest with
    | some v => some v
    | none =>
      match l with
      | .x r' v => if r' = r ∧ !(hnd && decide (48 ≤ r.val)) then some v else none
      | .hx i v => if (hnd && decide (48 ≤ r.val)) = true ∧ i.val + 48 = r.val then some v else none
      | _ => none

/-- The value of scalar register r as the issuing slot reads it: x0 is 0 (R47); results of latency 1 of an earlier group
of the same bundle chain (R43). -/
def State.x (s : State) (r : XReg) : Word :=
  if r = 0 then 0
  else match chainX s.core.sys.hnd r s.core.issue.chain with
    | some v => v
    | none => s.core.readBank r

/-- The youngest chained result for predicate r. -/
def chainP (r : PReg) : List Landing → Option Bool
  | [] => none
  | l :: rest =>
    match chainP r rest with
    | some v => some v
    | none =>
      match l with
      | .p r' b => if r' = r then some b else none
      | _ => none

/-- The value of predicate r: p0 is true (R47). -/
def State.p (s : State) (r : PReg) : Bool :=
  if r = 0 then true
  else match chainP r s.core.issue.chain with
    | some v => v
    | none => s.core.regs.p[r]

/-- The youngest chained result for counter k. -/
def chainC (k : CtrNo) : List Landing → Option Word32
  | [] => none
  | l :: rest =>
    match chainC k rest with
    | some v => some v
    | none =>
      match l with
      | .ctr k' v => if k' = k then some v else none
      | _ => none

/-- The value of counter k as the issuing slot reads it. -/
def State.ctr (s : State) (k : CtrNo) : Word32 :=
  match chainC k s.core.issue.chain with
  | some v => v
  | none => s.core.regs.c[k]

/-- The value of vector register r. -/
def State.v (s : State) (r : VReg) : VWord := s.core.regs.v[r]

/-- The value of lane mask r: q0 is all ones (R251). -/
def State.q (s : State) (r : QReg) : Word32 := if r = 0 then 0xFFFF_FFFF else s.core.regs.q[r]

/-- The index of loop counter k: lc0 is that of the innermost active loop, and a counter with no loop reads 0 (R278). -/
def State.lc (s : State) (k : Nat) : Word32 :=
  match s.core.loops[k]? with
  | some e => e.index
  | none => 0

/-- The landing of a write to scalar register r in the bank that it names now. -/
def landX (hnd : Bool) (r : XReg) (v : Word) : Landing :=
  if hnd && decide (48 ≤ r.val) then .hx (Fin.ofNat 16 (r.val - 48)) v else .x r v

/-! ### Issue, positions and landing (R49 to R54) -/

/-- A result of latency lat is in flight; a chainable one is read by later groups of its bundle (R43). -/
def State.put (s : State) (l : Landing) (lat : Nat) (chains : Bool) : State :=
  s.modCore (fun c =>
    { c with flight := c.flight ++ [{ what := l, k := lat, mark := none, wait := none }],
             issue := if chains then { c.issue with chain := c.issue.chain ++ [l] } else c.issue })

/-- Issue a write of scalar register d with a latency; a write to x0 is discarded (R47). -/
def State.putX (s : State) (d : XReg) (v : Word) (lat : Nat) (chains : Bool) : State :=
  if d = 0 then s else s.put (landX s.core.sys.hnd d v) lat chains

/-- Issue a write of predicate d; a write to p0 is discarded (R272). -/
def State.putP (s : State) (d : PReg) (b : Bool) : State := if d = 0 then s else s.put (.p d b) 1 true

/-- MODE as it is stored: FRND of 5 to 7 is stored as 0, bits [1:0] are reserved (R291). -/
def normMode (m : BitVec 8) : BitVec 8 :=
  let m := m &&& 0xFC
  if ((m >>> 3) &&& 7).toNat ≥ 5 then m &&& 0xC4 else m

/-- A format-table entry as it is stored: 11 bits, a rounding code of 6 or 7 as 0 (R220). -/
def normFmt (v : Word) : Word :=
  let v := v &&& 0x7FF
  if ((v >>> 5) &&& 7).toNat ≥ 6 then v &&& 0x71F else v

/-- Counter k has changed: its flag is set when it is at or above its threshold (R277). -/
def Regs.threshold (r : Regs) (k : CtrNo) : Option FlagNo :=
  if r.t[k].toNat ≤ r.c[k].toNat then some (Fin.ofNat 32 (16 + k.val)) else none

/-- A result lands in the focused core. The flag that a counter's threshold then sets is returned, so that it may be set after the
clears of the same position (R277, R44). Of an engine's completion only what R363 applies again is noted here. -/
def State.land1 (s : State) (l : Landing) : State × Option FlagNo :=
  match l with
  | .x r v =>
    (if r = 0 then s else s.modCore (fun c => { c with regs := { c.regs with x := c.regs.x.set r v } }), none)
  | .hx r v => (s.modCore (fun c => { c with regs := { c.regs with hx := c.regs.hx.set r v } }), none)
  | .p r b => (s.modCore (fun c => { c with regs := { c.regs with p := c.regs.p.set r b } }), none)
  | .v r v => (s.modCore (fun c => { c with regs := { c.regs with v := c.regs.v.set r v } }), none)
  | .vm r v m =>
    (s.modCore (fun c => { c with regs := { c.regs with v := c.regs.v.set r ((c.regs.v[r] &&& ~~~m) ||| (v &&& m)) } }), none)
  | .q r v m =>
    (if r = 0 then s
     else s.modCore (fun c => { c with regs := { c.regs with q := c.regs.q.set r ((c.regs.q[r] &&& ~~~m) ||| (v &&& m)) } }),
      none)
  | .flag r b => (s.modCore (fun c => { c with regs := { c.regs with f := c.regs.f.set r b } }), none)
  | .ctr k v =>
    let s := s.modCore (fun c => { c with regs := { c.regs with c := c.regs.c.set k v } })
    (s, s.core.regs.threshold k)
  | .inc k n =>
    let s := s.modCore (fun c => { c with regs := { c.regs with c := c.regs.c.set k (c.regs.c[k] + n) } })
    (s, s.core.regs.threshold k)
  | .cset k n =>
    let s := s.modCore (fun c =>
      { c with regs := { c.regs with c := c.regs.c.set k 0, t := c.regs.t.set k n,
                                     f := c.regs.f.set (Fin.ofNat 32 (16 + k.val)) false } })
    (s, s.core.regs.threshold k)
  | .slack n => (s.modCore (fun c => { c with sys := { c.sys with slack := n } }), none)
  | .done r old => (if old then s.modCore (fun c => { c with log := c.log ++ [.flag r] }) else s, none)
  | .sys r v =>
    match r with
    | .mode => (s.modCore (fun c => { c with sys := { c.sys with modeBits := normMode (v.setWidth 8) } }), none)
    | .fmt n => (s.modCore (fun c => { c with sys := { c.sys with fmt := c.sys.fmt.set n (normFmt v) } }), none)
    | .rndSeed => (s.modCore (fun c => { c with sys := { c.sys with rndSeed := v } }), none)
    | .faultCause => (s.modCore (fun c => { c with sys := { c.sys with fCause := v.setWidth 6 } }), none)
    | .faultOrigin => (s.modCore (fun c => { c with sys := { c.sys with fOrigin := v &&& 0x0000_FFFF_FFFF_FFC7 } }), none)
    | .faultDemand => (s.modCore (fun c => { c with sys := { c.sys with fDemand := v &&& 0x0000_FFFF_FFFF_FFFF } }), none)
    | .faultNode => (s.modCore (fun c => { c with sys := { c.sys with fNode := v &&& 0xFFFF_00FF_0000_01FF } }), none)
    | .faultSeg => (s.modCore (fun c => { c with sys := { c.sys with fSeg := v } }), none)
    | .faultInfo => (s.modCore (fun c => { c with sys := { c.sys with fInfo := v } }), none)
    | .trapVec =>
      (s.modCore (fun c => { c with sys := { c.sys with trapVec := v.setWidth 48 &&& 0xFFFF_FFFF_F000 } }), none)
    | .trapPc =>
      (s.modCore (fun c => { c with sys := { c.sys with trapPc := v.setWidth 48 &&& 0xFFFF_FFFF_FFC0 } }), none)
    | .rsv n =>
      -- the lines that the register retains become ordinary where its WAYS shrinks (R90)
      let t := if v.toNat / 2 ^ 56 % 16 < s.core.sys.rsv[n].toNat / 2 ^ 56 % 16 then
          s.modL2 (fun l => { l with lines := l.lines.map (fun x =>
            if x.retained = some (s.ctxNo, s.cur, n.val) then { x with retained := none } else x) })
        else s
      (t.modCore (fun c => { c with sys := { c.sys with rsv := c.sys.rsv.set n v } }), none)
    | .cntT k =>
      let s := s.modCore (fun c => { c with regs := { c.regs with t := c.regs.t.set k (v.setWidth 32) } })
      (s, s.core.regs.threshold k)
    | .remopNext =>
      (s.modCore (fun c => { c with sys := { c.sys with nextOwner := (v >>> 48).setWidth 16 &&& 0xFF } }), none)
    | .injDropReply =>
      (s.modCtx s.ctxNo (fun c => { c with inj := v &&& 0x8000_FF00_00FF_FFFF }), none)
    | .ctxId | .coreLog | .corePhy | .timePod | .slack | .stkDepth | .stkLimit | .stkWin | .stkSpill | .stkL2Spill
    | .nodeFree | .remopAcked | .remopTmo | .errMemCe | .errMemUe | .errMemOrphan | .errSpadCe | .errFmtTri2
    | .errRemopRtx | .errRemopDup | .errImplicit | .dbgRoute | .schedHorizon => (s, none)

/-- The flag of an engine's completion. -/
def Landing.doneFlag : Landing → Option FlagNo
  | .done r _ => some r
  | _ => none

/-- Results land in the order in which they were issued (R44); the flags of thresholds and of engines are set last (R277, R44). -/
def State.landAll (s : State) (ls : List Landing) : State :=
  let r := ls.foldl (fun (acc : State × List FlagNo) l =>
    let q := acc.1.land1 l
    (q.1, match q.2 with
      | some f => acc.2 ++ [f]
      | none => acc.2)) (s, [])
  let done := ls.filterMap Landing.doneFlag
  r.1.modCore (fun c => { c with
    regs := { c.regs with f := (r.2 ++ done).foldl (fun (v : Vector Bool 32) (k : FlagNo) => v.set k true) c.regs.f },
    fresh := c.fresh ++ r.2, done := c.done ++ done })

/-- A result lands at this position: its count is out and its data is here (R49, R54). -/
def InFlight.lands (e : InFlight) : Bool :=
  e.k == 0 && (match e.wait with
    | none => true
    | some w => w.arrived)

/-- A result that the core waits for before the position: its nominal position and its slack are out and its data is
not here (R54). -/
def InFlight.blocks (e : InFlight) : Bool :=
  e.k ≤ 1 && (match e.wait with
    | none => false
    | some w => !w.arrived && (if e.k = 1 then w.window == 0 else w.window ≤ 1))

/-- A result whose data is not here. -/
def InFlight.waits (e : InFlight) : Bool :=
  match e.wait with
  | none => false
  | some w => !w.arrived

/-- One position passes for a result in flight. -/
def InFlight.tickOne (e : InFlight) : InFlight :=
  if e.k = 0 then
    { e with wait := match e.wait with
        | some w => some { w with window := w.window - 1 }
        | none => none }
  else { e with k := e.k - 1 }

/-- One position passes for the busy units. -/
def Busy.tickOne (b : Busy) : Busy := { vec := b.vec - 1, div0 := b.div0 - 1, div1 := b.div1 - 1 }

/-- One position passes: counts fall by one, and what is due lands (R49, R52). -/
def State.passPosition (s : State) : State :=
  let f := s.core.flight.map InFlight.tickOne
  let s := s.modCore (fun c => { c with flight := f.filter (fun e => !e.lands), busy := c.busy.tickOne, fresh := [], done := [] })
  s.landAll ((f.filter InFlight.lands).map (fun e => e.what))

/-- A load of poisoned data that would land at the next position (R366). -/
def State.poisonDue (s : State) : Option LoadMark :=
  match s.core.flight.find? (fun e => e.tickOne.lands && e.mark.isSome) with
  | some e => e.mark
  | none => none

/-! ### Cluster-remote accesses (R136, R140) -/

/-- Two runs of bytes share a byte. -/
def meets (a n b m : Nat) : Bool := decide (a < b + m) && decide (b < a + n)

/-- Two accesses share a byte of memory. -/
def RemAccess.meets (a b : RemAccess) : Bool :=
  a.lanes.any (fun l => b.lanes.any (fun k => Machine.meets l.1 l.2 k.1 k.2))

/-- The cells that a store writes: of two lanes that overlap, the one with the higher number stands (R137). -/
def RemAccess.cells (a : RemAccess) : List Host.Cell :=
  (a.lanes.foldl (fun (acc : List Host.Cell × List Byte) l =>
    (acc.1 ++ cellsAt l.1 (acc.2.take l.2), acc.2.drop l.2)) ([], a.data)).1

/-- An access may perform: the fences before it are complete (R304), and so is every earlier access to its bytes
(R140). -/
def Core.accReady (c : Core) (a : RemAccess) : Bool :=
  !a.performed && a.deps.all (fun d => !(c.eng.fences.any (fun f => f.id == d))) &&
    !((c.remote.takeWhile (fun b => b.id != a.id)).any (fun b => !b.performed && b.meets a))

/-- A loaded element as its register takes it (R136). -/
def loadValue (bytes : Nat) (signed : Bool) (bs : List Byte) : Word :=
  let v := ofLe bs
  if signed && decide (2 ^ (8 * bytes - 1) ≤ v) then BitVec.ofNat 64 (2 ^ 64 - 2 ^ (8 * bytes) + v) else BitVec.ofNat 64 v

/-- Where the data of a load lands (R136). -/
def LoadForm.landing (f : LoadForm) (bs : List Byte) : Landing :=
  match f with
  | .scalar n sg d bank =>
    if bank then .hx (Fin.ofNat 16 (d.val - 48)) (loadValue n sg bs) else .x d (loadValue n sg bs)
  | .vector d => .v d (BitVec.ofNat 1024 (ofLe bs))

/-- The data of a load is here: its result in flight, or parked, takes its value and its mark. -/
def InFlight.arrive (e : InFlight) (id : Nat) (l : Landing) (m : Option LoadMark) : InFlight :=
  match e.wait with
  | some w =>
    if w.id = id then
      { e with what := l, mark := match e.mark with
          | some k => some k
          | none => m, wait := some { w with arrived := true } }
    else e
  | none => e

/-- The lane lies in the scratchpad of a core. -/
def inSpad (core a : Nat) : Bool := decide (spadBase core ≤ a) && decide (a < spadBase core + 2 ^ 22)

/-- A cluster-remote access of the focused core performs at its target (R140). A load reads the lanes that are not in the
own scratchpad, whose bytes it has from its issue. All lanes and halves perform at once, where R138 lets others come between
(DESIGN CHOICE, log entry 92). -/
def State.performAccess (s : State) (a : RemAccess) : State :=
  if a.store then
    (s.writeCells a.cells).modCore (fun c =>
      { c with remote := c.remote.map (fun b => if b.id = a.id then { b with performed := true } else b) })
  else
    let rd := a.lanes.foldl (fun (acc : List Byte × List Byte) l =>
      (acc.1 ++ (if inSpad s.cur l.1 then acc.2.take l.2 else s.mem.readN l.1 l.2), acc.2.drop l.2)) ([], a.data)
    let far := a.lanes.filter (fun l => !inSpad s.cur l.1)
    let t := s.touchBlocks s.ctxNo true ((far.map (fun l => blocksOf l.1 l.2)).flatten.dedup)
    let m : Option LoadMark := t.2.map (fun ue => { ue := ue, pc := a.pc })
    t.1.modCore (fun c =>
      { c with remote := c.remote.filter (fun b => b.id != a.id),
               flight := c.flight.map (fun e => e.arrive a.id (a.form.landing rd.1) m),
               late := c.late.map (fun e => e.arrive a.id (a.form.landing rd.1) m) })

/-- Perform the accesses of a list that may perform, in order. -/
def State.performReady (s : State) (as : List RemAccess) : State :=
  as.foldl (fun s a => if s.core.accReady a then s.performAccess a else s) s

/-- Every remote load arrives, after the own earlier stores to its bytes (R370 step 1). -/
def State.arriveLoads (s : State) : State :=
  s.performReady (s.core.remote.filter (fun a => !a.store || s.core.remote.any (fun l => !l.store && a.meets l)))

/-! ### Traps (R370 to R372) -/

/-- A fault in handler mode stops the core, and the kernel reports the step as failed (R372, R350). -/
def State.stopCore (s : State) (cause : BitVec 6) : State :=
  (s.modCore (fun c => { c with run := .stopped, hold := .none, parked := .none })).report (.stepFailed s.cur cause)

/-- The entry of a cause: FEATURE-MASKED uses that of ILLEGAL-OPCODE (R370). -/
def entryCause (cause : BitVec 6) : BitVec 6 := if cause = Cause.featureMasked then Cause.illegalOpcode else cause

/-- The handler's address (R294): TRAP.VEC.BASE * 4096 + cause * 64. -/
def trapEntryAddr (vec : CodeAddr) (cause : BitVec 6) : CodeAddr := vec + (entryCause cause).setWidth 48 * 64

/-- The data of a remote load is still to come. -/
def Core.awaitsData (c : Core) : Bool := c.flight.any InFlight.waits

/-- TAKING AN EXCEPTION (R370). The focused core's results in flight are parked in the late-write buffer with their
counts (R371), the busy counts with them; FAULT.CAUSE, FAULT.INFO and TRAP.PC are written; MODE.HND is set; the pc is at
the handler's entry. -/
def State.enterTrap (s : State) (cause : BitVec 6) (info : Word) (trapPc : CodeAddr) : State :=
  s.modCore (fun c =>
    { c with late := c.flight, lateBusy := c.busy, lateFresh := c.fresh, flight := [], busy := Busy.none, fresh := [], done := [],
             due := 0, hold := .none, parked := c.hold, emul := none, issue := Issue.none,
             sys := { c.sys with fCause := cause, fInfo := info, trapPc := trapPc, hnd := true },
             pc := trapEntryAddr c.sys.trapVec cause })

/-- A trap is taken (R370): issue stops; the entry follows at once where every remote load can arrive now, else once it has
arrived. In handler mode the core stops instead (R372). -/
def State.takeTrap (s : State) (cause : BitVec 6) (info : Word) (trapPc : CodeAddr) : State :=
  if s.core.sys.hnd then s.stopCore cause
  else
    let t := s.arriveLoads
    if t.core.awaitsData then
      t.modCore (fun c => { c with hold := .entering cause info trapPc c.hold false, issue := Issue.none })
    else t.enterTrap cause info trapPc

/-! ### Rollback (R362 to R365) -/

/-- Apply again a flag set or an increment (R363), noting the counters reached. -/
def applyLog (r : Regs) (ls : List LogItem) : Regs × List CtrNo :=
  ls.foldl (fun (acc : Regs × List CtrNo) l =>
    match l with
    | .flag k => ({ acc.1 with f := acc.1.f.set k true }, acc.2)
    | .inc k n => ({ acc.1 with c := acc.1.c.set k (acc.1.c[k] + n) }, acc.2 ++ [k])) (r, [])

/-- The counters that a reapplied increment reached are compared with their thresholds. -/
def compareAll (r : Regs) (ks : List CtrNo) : Regs :=
  ks.foldl (fun r k => match r.threshold k with
    | some f => { r with f := r.f.set f true }
    | none => r) r

/-- The registers that a rollback restores from the shadow, and then R363. -/
def Core.restoredRegs (c : Core) : Regs :=
  let r := { c.regs with x := c.shadow.x, p := c.shadow.p, v := c.shadow.v, q := c.shadow.q, f := c.shadow.f,
                         c := c.shadow.c, t := c.shadow.t }
  let a := applyLog r c.log
  compareAll a.1 a.2

/-- What of a hold stands behind the commit of its own bundle, and so stays when the core rolls back to that commit: a core that
has arrived at a barrier waits on (R147), and a launch, a yield or the end of a step goes on. -/
def Hold.committed : Hold → Hold
  | .exchange d dom => .exchange d dom
  | .barrier d dom => .barrier d dom
  | .endStep succ => .endStep succ
  | .yielding => .yielding
  | .launch d addr graph => .launch d addr graph
  | .entering _ _ _ parked _ => parked.committed
  | _ => .none

/-- The hold behind the last commit, in which the core stands or which a handler has interrupted. -/
def Core.standing (c : Core) : Hold := if c.hold.committed = .none then c.parked.committed else c.hold.committed

/-- The rollback of the focused core to its checkpoint: the table of R362, the nodes of R185, the commands of R99. A surviving
node demands nothing any more, whichever segment had demanded it: R185 names its computed elements alone (DESIGN CHOICE, log
entry 102). A window that an event of the discarded segment has closed stays closed (R177). -/
def Core.rollback (c : Core) : Core :=
  { c with
    regs := c.restoredRegs,
    sys := { c.sys with slack := c.shadow.slack },
    loops := c.shadow.loops, flight := c.shadow.flight, busy := c.shadow.busy, due := 0,
    fresh := c.shadow.fresh, done := [],
    pc := c.shadow.pc, emul := none, hold := c.standing, parked := .none, issue := Issue.none, evalFault := none, hndFault := none,
    gate := [], gateCmds := [],
    remote := c.remote.filter (fun a => a.store),
    mash := { c.mash with
      spine := c.shadow.spine,
      nodes := (c.mash.nodes.filter (fun n => decide (n.id < c.shadow.nextNode))).map
        (fun n => { n with drows := [], dcols := [], closing := n.closing.map (fun k => { k with live := false }) }),
      stores := [], demands := [] },
    eng := { c.eng with
      cmds := c.eng.cmds.map (fun k => if k.committed then k else { k with discard := true, fault := none }),
      invals := c.eng.invals.map (fun i => if i.committed then i else { i with flag := none }),
      sxfrs := c.eng.sxfrs.map (fun r => { r with again := true }),
      fences := c.eng.fences.map (fun f => { f with flag := none }) } }

/-- Roll the focused core back. -/
def State.rollback (s : State) : State := s.modCore Core.rollback

/-- The rollback of an E- or B-class trap and the entry (R370 steps 2 to 5): TRAP.PC is the resume point, and the in-flight results of
the checkpoint are parked (R362, R369). -/
def State.rollbackEnter (s : State) (cause : BitVec 6) (info : Word) : State :=
  let s := s.rollback
  s.enterTrap cause info s.core.pc

/-- An E- or B-class trap (R370): issue stops, every remote load arrives, and the rollback and the entry follow. In handler mode the
core stops (R372). -/
def State.rollbackTrap (s : State) (cause : BitVec 6) (info : Word) : State :=
  if s.core.sys.hnd then s.stopCore cause
  else
    let t := s.arriveLoads
    if t.core.awaitsData then
      t.modCore (fun c => { c with hold := .entering cause info c.pc c.hold true, issue := Issue.none })
    else t.rollbackEnter cause info

/-- A SILENT-MISMATCH is noted for its segment. -/
def Core.noteMismatch (c : Core) (cause : BitVec 6) : Core :=
  { c with mismatch := c.mismatch || cause == Cause.silentMismatch }

/-- A recovery fault (R365): the first time, the fault registers are written, the core rolls back and resumes; with the
retry mark set, it rolls back and enters the handler. A second SILENT-MISMATCH of the segment reports the core as suspect. -/
def State.recoveryFault (s : State) (cause : BitVec 6) (info : Word) : State :=
  if s.core.sys.hnd then s.stopCore cause
  else
    let again := cause == Cause.silentMismatch && s.core.mismatch
    let t := s.modCore (fun c => c.noteMismatch cause)
    let t := if again then t.report (.suspect t.cur) else t
    if s.core.retry then t.rollbackTrap cause info
    else t.rollback.modCore (fun c => { c with retry := true, sys := { c.sys with fCause := cause, fInfo := info } })

/-- FAULT.INFO of a recovery fault of a cmpt or a load (R366). -/
def recoveryInfo (pc : CodeAddr) (slot : Nat) : Word :=
  (pc.setWidth 64 &&& 0xFFFF_FFFF_FFC0) ||| BitVec.ofNat 64 slot

/-- The causes that R365 handles. -/
def isRecovery (cause : BitVec 6) : Bool :=
  cause == Cause.poison || cause == Cause.eccUncorrectable || cause == Cause.silentMismatch

/-- The address of the bundle about to issue, or issuing. -/
def State.here (s : State) : CodeAddr := s.core.pc

/-- A raised fault of the bundle at the pc, on the state from before the bundle (R46, R369). -/
def State.takeRaise (s : State) (r : Raise) : State :=
  if r.rollback then s.recoveryFault r.cause r.info
  else if r.cause = Cause.featureMasked && s.core.sys.dbgRoute && !s.core.sys.hnd then
    (s.modCore (fun c => { c with hold := .hypervisor r.info })).report (.masked s.cur)
  else s.takeTrap r.cause r.info s.core.pc

/-- The rollback of a page fault or a second-stage fault, and the wait for its resolution (R367), after which the hold stands
again that was behind the checkpoint. From handler mode it leads out of the handler (DEDUCED, log entry 41). -/
def State.pageRollback (s : State) (h : Hold) : State :=
  s.rollback.modCore (fun c =>
    { c with hold := h, parked := c.hold, late := [], lateBusy := Busy.none, lateFresh := [], sys := { c.sys with hnd := false } })

/-- The results that would land at the next position with a mark do not. -/
def Core.dropMarked (c : Core) : Core := { c with flight := c.flight.filter (fun e => !(e.tickOne.lands && e.mark.isSome)) }

/-- One position passes, or what happens in its place: the core waits for a remote load's data (R54), or meets the mark of
a load that would land, at the boundary of that position: what else lands there has landed, so that a system register keeps it (R362,
R366). -/
def State.advance (s : State) : State :=
  if s.core.flight.any InFlight.blocks then s.arriveLoads
  else match s.poisonDue with
    | some m => (s.modCore Core.dropMarked).passPosition.recoveryFault
        (if m.ue then Cause.eccUncorrectable else Cause.poison) (recoveryInfo m.pc 2)
    | none => s.passPosition

/-- Results in their window of slack that have arrived land, or meet the mark of their data (R54, R366). -/
def State.landWindow (s : State) : State :=
  match s.core.flight.find? (fun e => e.lands && e.mark.isSome) with
  | some e => s.recoveryFault (if (e.mark.map (fun m => m.ue)).getD false then Cause.eccUncorrectable else Cause.poison)
      (recoveryInfo ((e.mark.map (fun m => m.pc)).getD 0) 2)
  | none =>
    (s.modCore (fun c => { c with flight := c.flight.filter (fun e => !e.lands) })).landAll
      ((s.core.flight.filter InFlight.lands).map (fun e => e.what))

/-- The stall of a full late-write buffer (R371) takes no position: a remote load in its window lands when its data
arrives. Where no result is in its window none could ever land, and a position passes for the results in flight
(DEDUCED, log entry 65). -/
def State.fullStep (s : State) : State :=
  let t := s.arriveLoads
  if t.core.flight.any InFlight.lands then t.landWindow
  else if t.core.flight.any (fun e => e.k == 0) then t
  else t.advance

/-- The cycle in which an engine has set flags is over (R44, R45). -/
def State.nextCycle (s : State) : State := s.modCore (fun c => { c with done := [] })

/-- A bundle that stalls before its issue: what the core does meanwhile (R94, R179, R361, R371; R367 for the fetch). -/
def State.takeStall (s : State) (w : Stall) : State :=
  let s := s.nextCycle
  match w with
  | .gate => s.modCore (fun c => { c with hold := .commit .implicit })
  | .engine => s.modCore (fun c => { c with hold := .engine })
  | .fence => s.modCore (fun c => { c with hold := .fence })
  | .flight => s.advance
  | .full => s.fullStep
  | .store => s.modCore (fun c => { c with hold := .store })
  | .page tid tile =>
    (s.pageRollback (.page tid tile { info := 8, origin := none, eval := none })).report (.pageFault s.ctxNo tid tile)
  | .stage2 gpa tid tile wr =>
    (s.pageRollback (.stage2 gpa tid tile wr { info := 8, origin := none, eval := none })).report (.stage2Fault s.ctxNo gpa)
  | .moving => s

/-- The outcome of one slot instruction executed by itself at the pc: its effect, the trap that it takes, or the stall. -/
def settle (s : State) (e : Eff) : Host.Outcome State Fault Refusal :=
  match e with
  | .ok t => .next t
  | .raise r => .next (s.takeRaise r)
  | .stall w => .next (s.takeStall w)

/-! ### Return from handler mode (R374) -/

/-- Results in the order in which they land (R44): by position, and at one position as they issued. -/
def landingOrder (es : List InFlight) : List Landing :=
  (es.insertionSort (fun a b => a.k ≤ b.k)).map (fun e => e.what)

/-- The handler's own results land in the hold of R374. -/
def State.landFlight (s : State) : State := (s.modCore (fun c => { c with flight := [] })).landAll (landingOrder s.core.flight)

/-- rte: the handler's results have landed and its units are free; MODE.HND is clear, the late-write buffer replays from
the bundle at TRAP.PC, which is the program's next (R374, R371). -/
def State.leaveHandler (s : State) : State :=
  let s := s.landFlight
  s.modCore (fun c =>
    { c with flight := c.late, busy := c.lateBusy, late := [], lateBusy := Busy.none, due := 0, fresh := c.lateFresh, done := [],
             lateFresh := [], hold := c.parked, parked := .none, sys := { c.sys with hnd := false }, pc := c.sys.trapPc })

/-! ### Commit (R360) -/

/-- The shadow of the focused core as it stands, with its resume point. -/
def Core.snapshot (c : Core) : Shadow :=
  { x := c.regs.x, p := c.regs.p, v := c.regs.v, q := c.regs.q, f := c.regs.f, c := c.regs.c, t := c.regs.t,
    slack := c.sys.slack, fresh := c.fresh, loops := c.loops, flight := c.flight, busy := c.busy, spine := c.mash.spine,
    nextNode := c.mash.nextId, pc := c.pc }

/-- Steps 3 to 5 of R360: the gate's stores perform in issue order, its commands enter the engine, the shadow is copied,
the segment number rises and the retry mark is clear. -/
def State.commit (s : State) : State :=
  let s := s.core.gate.foldl State.performGate s
  s.modCore (fun c =>
    { c with gate := [], gateCmds := [],
             eng := { c.eng with
               cmds := c.eng.cmds.map (fun k => { k with committed := true }) ++
                 c.gateCmds.map (fun k => { k with committed := true }),
               invals := c.eng.invals.map (fun i => { i with committed := true }), sxfrs := [] },
             shadow := c.snapshot, log := [], seg := c.seg + 1, retry := false, mismatch := false })

end Sys2Proof.Machine
end

