-- ==== Sys2Proof/Machine/Flags.lean ====
section
/-! DEFINITION. Flags and counters: sets and increments that come from outside the issuing slot (R277, R363), and the
comparison with thresholds. -/

namespace Sys2Proof.Machine

/-- A flag of the focused core is set by an engine, a node or an invalidation; `old` says that its source stands before
the current checkpoint, so that a rollback applies the set again (R363). -/
def State.raiseFlag (s : State) (k : FlagNo) (old : Bool) : State :=
  s.modCore (fun c =>
    { c with regs := { c.regs with f := c.regs.f.set k true },
             log := if old then c.log ++ [.flag k] else c.log })

/-- The flag of a completed operation, when it has one. -/
def State.raiseFlag? (s : State) (k : Option FlagNo) (old : Bool) : State :=
  match k with
  | some k => s.raiseFlag k old
  | none => s

/-- A counter takes an increment now (R113, R277): it wraps modulo 2^32 and is compared with its threshold. -/
def Regs.increment (r : Regs) (k : CtrNo) (n : Word32) : Regs :=
  let r := { r with c := r.c.set k (r.c[k] + n) }
  match r.threshold k with
  | some f => { r with f := r.f.set f true }
  | none => r

/-- A result that writes counter k. -/
def InFlight.writesCtr (k : CtrNo) (e : InFlight) : Bool :=
  match e.what with
  | .ctr j _ | .cset j _ => j == k
  | _ => false

/-- An increment behind the last write of its counter in a list of results: it lands with that write, after it (R277). -/
def incBehind (k : CtrNo) (n : Word32) (es : List InFlight) : Option (List InFlight) :=
  (es.reverse.find? (InFlight.writesCtr k)).map (fun e => es ++ [{ what := .inc k n, k := e.k, mark := none, wait := none }])

/-- A core's counter takes an increment (R113, R277): behind a write of it that is in flight or parked, else now. It is noted
for R363 when its source is another core or stands before the checkpoint. -/
def Core.increment (c : Core) (k : CtrNo) (n : Word32) (old : Bool) : Core :=
  let d := match incBehind k n c.flight, incBehind k n c.late with
    | some f, _ => { c with flight := f }
    | none, some l => { c with late := l }
    | none, none => { c with regs := c.regs.increment k n }
  { d with log := if old then c.log ++ [.inc k n] else c.log }

/-- The counter k of logical core n takes an increment. -/
def State.increment (s : State) (n : Nat) (k : CtrNo) (v : Word32) (old : Bool) : State :=
  s.modCoreAt n (fun c => c.increment k v old)

end Sys2Proof.Machine
end

