-- ==== Sys2Proof/WellFormed.lean ====
section
/-! DEFINITION. Which instructions have an encoding (spec/03 R56 to R63, spec/09 R193, spec/10 R250 to R267): the field
values that no type of spec/03 rules out by itself. -/

namespace Sys2Proof

/-- The nine element formats of the vec slot (R60). -/
def Fmt.isVec : Fmt → Bool
  | .int8 | .uint8 | .int16 | .int32 | .fp8a | .fp8b | .fp16 | .bf16 | .fp32 => true
  | _ => false

/-- Element formats of R193: neither block nor scaled. -/
def Fmt.isElem : Fmt → Bool
  | .se4 | .se6 | .se9 | .mxfp4 | .mxfp6a | .mxfp6b | .mxfp8a | .mxfp8b | .mxint8 | .int8r | .int4g | .fp8at
  | .fp8bt => false
  | _ => true

/-- Block formats of R193. -/
def Fmt.isBlock : Fmt → Bool
  | .se4 | .se6 | .se9 | .mxfp4 | .mxfp6a | .mxfp6b | .mxfp8a | .mxfp8b | .mxint8 | .int4g => true
  | _ => false

/-- Scaled formats of R193. -/
def Fmt.isScaled : Fmt → Bool
  | .int8r | .fp8at | .fp8bt => true
  | _ => false

/-- Integer formats (R193): their values are integers. -/
def Fmt.isInt : Fmt → Bool
  | .int4 | .uint4 | .int8 | .uint8 | .int16 | .int32 | .tri2 | .bool1 => true
  | _ => false

/-- The width in bits of an element of a format; for a block or scaled format, of one element's own bits. -/
def Fmt.width : Fmt → Nat
  | .int4 | .uint4 | .fp4 | .mxfp4 | .int4g => 4
  | .int8 | .uint8 | .fp8a | .fp8b | .fp8c | .ue8m0 | .mxfp8a | .mxfp8b | .mxint8 | .int8r | .fp8at | .fp8bt => 8
  | .int16 | .fp16 | .bf16 => 16
  | .int32 | .fp32 | .fp19 => 32
  | .tri2 => 2
  | .bool1 => 1
  | .fp6a | .fp6b | .mxfp6a | .mxfp6b => 6
  | .se4 => 3
  | .se6 => 5
  | .se9 => 8

/-- The registers of a run of n from r all exist (R60). -/
def runOk (r : VReg) (n : Nat) : Bool := decide (r.val + n ≤ 32)

/-- The registers that vcvt reads and writes (R257): of n elements, ceil(n * w / 1024). -/
def vcvtRun (beats : Fin 8) (own other : Nat) : Nat :=
  ((beats.val + 1) * 1024 / max own other * own + 1023) / 1024

/-- The control fields of a vec instruction name a vector format and a run from each register. -/
def VCtl.ok (c : VCtl) (rs : List VReg) : Bool :=
  c.fmt.isVec && rs.all (fun r => runOk r (c.beats.val + 1))

/-- A tile access in a class of the copy instructions that carry data (R96). -/
def clsOk (c : Fin 4) : Bool := decide (c.val ≠ 0)

/-- A mask of sbar is not empty (R115). -/
def KindMask.ok (m : KindMask) : Bool := m.r || m.w || m.m

/-- The register of an exit field is one of x1 to x31 (R285). -/
def ExitSrc.ok : ExitSrc → Bool
  | .reg r => decide (r.val ≠ 0)
  | _ => true

/-- Two exit fields that name one pool pair name one value (R38). -/
def ExitSrc.agree : ExitSrc → ExitSrc → Bool
  | .pair h v, .pair h' v' => !(h == h') || (v == v')
  | _, _ => true

/-- The system registers that mts writes under its own row; RSV.n and INJ.DROPREPLY have rows of their own. -/
def SysReg.plainMts : SysReg → Bool
  | .rsv _ | .injDropReply => false
  | _ => true

/-- The loop counter of an index (R166, R229): any of lc0 to lc5 or none. -/
def Rnd.scalar : Rnd → Bool
  | .sr => false
  | _ => true

/-- An instruction has an encoding: the checks of steps 3 to 5 of R46 that its types do not make. -/
def Instr.wf : Instr → Bool
  | .fcvtTo f _ _ r | .fcvtFrom f _ _ r => f.isElem && r.scalar
  | .mts r _ => r.plainMts
  | .vadd c d a b _ | .vsub c d a b _ | .vmul c d a b _ => c.ok [d, a, b]
  | .vfma c d a b e | .vfms c d a b e | .vdot c d a b e => c.ok [d, a, b, e]
  | .vmin c d a b | .vmax c d a b | .vand c d a b | .vor c d a b | .vxor c d a b | .vperm c d a b => c.ok [d, a, b]
  | .vsel c d a b _ => c.ok [d, a, b]
  | .vshl c d a b | .vshr c d a b | .vsra c d a b => c.ok [d, a, b] && c.fmt.isInt
  | .vabs c d a _ | .vneg c d a _ => c.ok [d, a]
  | .vscn c d a | .vmov c d a => c.ok [d, a]
  | .vfun c d a _ => c.ok [d, a] && !c.fmt.isInt
  | .vcmp _ _ f _ _ _ _ => f.isVec
  | .vcvt c d a t _ _ =>
    c.fmt.isVec && t.isVec && runOk d (vcvtRun c.beats t.width c.fmt.width) &&
      runOk a (vcvtRun c.beats c.fmt.width t.width)
  | .vred c _ a _ => c.ok [a]
  | .vshf c d a b m => c.ok [d, a, b] && (m != .rev || b == 0)
  | .vbcs c d _ => c.ok [d]
  | .vmvx f _ _ i | .vins f _ _ i => f.isVec && decide (i.val < 1024 / f.width)
  | .vrng c d _ _ _ => c.ok [d] && (c.fmt == .int32 || c.fmt == .fp32)
  | .viota c d => c.ok [d]
  | .vlit c d _ _ => c.ok [d]
  | .scpy _ _ c _ | .sacc _ _ c _ | .ssig _ _ _ c _ | .sgth _ _ _ c _ => clsOk c
  | .satmFadd _ _ c | .satmFmin _ _ c | .satmFmax _ _ c | .satmSwap _ _ c | .satmCas _ _ c | .satmIadd _ _ c
  | .satmAnd _ _ c | .satmOr _ _ c | .satmXor _ _ c => clsOk c
  | .ssigRel _ _ _ c _ s => clsOk c && s != .core
  | .sbar a b _ => a.ok && b.ok
  | .exit s0 s1 s2 s3 =>
    s0.ok && s1.ok && s2.ok && s3.ok && s0.agree s1 && s0.agree s2 && s0.agree s3 && s1.agree s2 && s1.agree s3 &&
      s2.agree s3
  | .icinv _ _ _ s => s != .pod
  | .mode _ mask => mask &&& 3 == 0
  | _ => true

/-- The slot kinds of R37. -/
inductive SlotKind where
  | alu | mem | vec | tile | copy | ctl
  deriving DecidableEq, Repr

/-- The kind of slot k (R37). -/
def SlotKind.of (k : Fin 8) : SlotKind :=
  match k.val with
  | 0 | 1 => .alu
  | 2 => .mem
  | 3 => .vec
  | 4 | 5 => .tile
  | 6 => .copy
  | _ => .ctl

end Sys2Proof
end

