-- ==== Sys2Proof/Decode.lean ====
section
/-! DEFINITION. Decoding (spec/03 R37 to R63, and the fields of spec/05 R97, spec/07 R162 to R168, spec/08 R188 and R192,
spec/10 R227 to R267, spec/11 R268 to R292) and, after it, the encoder written from the same tables. -/

namespace Sys2Proof

/-- Bits [lo + len - 1 : lo] of w. -/
def fld (w lo len : Nat) : Nat := w / 2 ^ lo % 2 ^ len

/-- The scalar register named at [lo + 5 : lo]. -/
def xAt (w lo : Nat) : XReg := Fin.ofNat 64 (w / 2 ^ lo)
/-- The vector register named at [lo + 4 : lo]. -/
def vAt (w lo : Nat) : VReg := Fin.ofNat 32 (w / 2 ^ lo)
/-- The four-bit number at [lo + 3 : lo]. -/
def f16At (w lo : Nat) : Fin 16 := Fin.ofNat 16 (w / 2 ^ lo)
/-- The three-bit number at [lo + 2 : lo]. -/
def f8At (w lo : Nat) : Fin 8 := Fin.ofNat 8 (w / 2 ^ lo)

/-- Why a slot does not decode: the step of R46 at which it fails. -/
inductive SlotErr where
  /-- Step 3: reserved opcode or form. -/
  | opcode
  /-- Step 4: nonzero reserved field, or a reserved value. -/
  | reserved
  /-- Step 5: an element format that the instruction does not accept. -/
  | format
  deriving DecidableEq, Repr

/-- The outcome of decoding one slot. -/
abbrev SlotRes := Except SlotErr Instr

/-- i, unless a reserved field or value stands in the slot (step 4). -/
def okIf (c : Bool) (i : Instr) : SlotRes := if c then .ok i else .error .reserved

/-- i, unless step 4 or then step 5 fails. -/
def okIf2 (c f : Bool) (i : Instr) : SlotRes :=
  if c then (if f then .ok i else .error .format) else .error .reserved

/-- The pool words L0 to L3 (R37, R38). -/
structure Pool where
  l0 : BitVec 32
  l1 : BitVec 32
  l2 : BitVec 32
  l3 : BitVec 32
  deriving DecidableEq, Repr

/-- Pool word k. -/
def Pool.get (p : Pool) (k : Fin 4) : BitVec 32 :=
  match k.val with
  | 0 => p.l0
  | 1 => p.l1
  | 2 => p.l2
  | _ => p.l3

/-- The pair at word 0 or at word 2 (R38): the even word is the low half. -/
def Pool.pair (p : Pool) (hi : Bool) : Word := if hi then p.l3 ++ p.l2 else p.l1 ++ p.l0

/-! ### Codes of the named values -/

/-- The format of a code (R193). -/
def Fmt.ofCode (n : Nat) : Fmt :=
  match n with
  | 0 => .int4
  | 1 => .uint4
  | 2 => .int8
  | 3 => .uint8
  | 4 => .int16
  | 5 => .int32
  | 6 => .tri2
  | 7 => .bool1
  | 8 => .fp4
  | 9 => .fp6a
  | 10 => .fp6b
  | 11 => .fp8a
  | 12 => .fp8b
  | 13 => .fp16
  | 14 => .bf16
  | 15 => .fp32
  | 16 => .se4
  | 17 => .se6
  | 18 => .se9
  | 19 => .mxfp4
  | 20 => .mxfp6a
  | 21 => .mxfp6b
  | 22 => .mxfp8a
  | 23 => .mxfp8b
  | 24 => .mxint8
  | 25 => .int8r
  | 26 => .int4g
  | 27 => .fp8at
  | 28 => .fp8bt
  | 29 => .ue8m0
  | 30 => .fp8c
  | _ => .fp19

/-- The code of a format (R193). -/
def Fmt.code (f : Fmt) : Nat :=
  match f with
  | .int4 => 0
  | .uint4 => 1
  | .int8 => 2
  | .uint8 => 3
  | .int16 => 4
  | .int32 => 5
  | .tri2 => 6
  | .bool1 => 7
  | .fp4 => 8
  | .fp6a => 9
  | .fp6b => 10
  | .fp8a => 11
  | .fp8b => 12
  | .fp16 => 13
  | .bf16 => 14
  | .fp32 => 15
  | .se4 => 16
  | .se6 => 17
  | .se9 => 18
  | .mxfp4 => 19
  | .mxfp6a => 20
  | .mxfp6b => 21
  | .mxfp8a => 22
  | .mxfp8b => 23
  | .mxint8 => 24
  | .int8r => 25
  | .int4g => 26
  | .fp8at => 27
  | .fp8bt => 28
  | .ue8m0 => 29
  | .fp8c => 30
  | .fp19 => 31

/-- Rounding codes (R203). -/
def Rnd.ofCode (n : Nat) : Option Rnd :=
  match n with
  | 0 => some .rne
  | 1 => some .rtz
  | 2 => some .rdn
  | 3 => some .rup
  | 4 => some .rna
  | 5 => some .sr
  | _ => none

/-- The code of the value in its field. -/
def Rnd.code (c : Rnd) : Nat :=
  match c with
  | .rne => 0
  | .rtz => 1
  | .rdn => 2
  | .rup => 3
  | .rna => 4
  | .sr => 5

/-- Conditions of cmp (R272). -/
def CmpCond.ofCode (n : Nat) : Option CmpCond :=
  match n with
  | 0 => some .eq
  | 1 => some .ne
  | 2 => some .lt
  | 3 => some .le
  | 4 => some .ltu
  | 5 => some .leu
  | _ => none

/-- The code of the value in its field. -/
def CmpCond.code (c : CmpCond) : Nat :=
  match c with
  | .eq => 0
  | .ne => 1
  | .lt => 2
  | .le => 3
  | .ltu => 4
  | .leu => 5

/-- Operations of plog (R272). -/
def PLogOp.ofCode (n : Nat) : Option PLogOp :=
  match n with
  | 0 => some .and
  | 1 => some .or
  | 2 => some .xor
  | 3 => some .andn
  | _ => none

/-- The code of the value in its field. -/
def PLogOp.code (c : PLogOp) : Nat :=
  match c with
  | .and => 0
  | .or => 1
  | .xor => 2
  | .andn => 3

/-- Conditions of fcmp (R274). -/
def FCmpCond.ofCode (n : Nat) : Option FCmpCond :=
  match n with
  | 0 => some .eq
  | 1 => some .ne
  | 2 => some .lt
  | 3 => some .le
  | 4 => some .uo
  | _ => none

/-- The code of the value in its field. -/
def FCmpCond.code (c : FCmpCond) : Nat :=
  match c with
  | .eq => 0
  | .ne => 1
  | .lt => 2
  | .le => 3
  | .uo => 4

/-- Conditions of vcmp (R255). -/
def VCmpCond.ofCode (n : Nat) : Option VCmpCond :=
  match n with
  | 0 => some .eq
  | 1 => some .ne
  | 2 => some .lt
  | 3 => some .le
  | 4 => some .gt
  | 5 => some .ge
  | 6 => some .uo
  | _ => none

/-- The code of the value in its field. -/
def VCmpCond.code (c : VCmpCond) : Nat :=
  match c with
  | .eq => 0
  | .ne => 1
  | .lt => 2
  | .le => 3
  | .gt => 4
  | .ge => 5
  | .uo => 6

/-- Operations of vred and tred (R244, R260). -/
def RedOp.ofCode (n : Nat) : Option RedOp :=
  match n with
  | 0 => some .sum
  | 1 => some .max
  | 2 => some .min
  | _ => none

/-- The code of the value in its field. -/
def RedOp.code (c : RedOp) : Nat :=
  match c with
  | .sum => 0
  | .max => 1
  | .min => 2

/-- Modes of vshf (R264). -/
def ShfMode.ofCode (n : Nat) : Option ShfMode :=
  match n with
  | 0 => some .zlo
  | 1 => some .zhi
  | 2 => some .uev
  | 3 => some .uod
  | 4 => some .rev
  | _ => none

/-- The code of the value in its field. -/
def ShfMode.code (c : ShfMode) : Nat :=
  match c with
  | .zlo => 0
  | .zhi => 1
  | .uev => 2
  | .uod => 3
  | .rev => 4

/-- Rounds of vrng (R226). -/
def RngRounds.ofCode (n : Nat) : Option RngRounds :=
  match n with
  | 0 => some .n4
  | 1 => some .n8
  | 2 => some .n12
  | _ => none

/-- The code of the value in its field. -/
def RngRounds.code (c : RngRounds) : Nat :=
  match c with
  | .n4 => 0
  | .n8 => 1
  | .n12 => 2

/-- Function codes (R222). -/
def FunCode.ofCode (n : Nat) : Option FunCode :=
  match n with
  | 0 => some .exp2
  | 1 => some .log2
  | 2 => some .rcp
  | 3 => some .rsqrt
  | 4 => some .sqrt
  | 5 => some .exp
  | 6 => some .tanh
  | 7 => some .sigmoid
  | 8 => some .silu
  | 9 => some .gelu
  | 10 => some .relu
  | _ => none

/-- The code of the value in its field. -/
def FunCode.code (c : FunCode) : Nat :=
  match c with
  | .exp2 => 0
  | .log2 => 1
  | .rcp => 2
  | .rsqrt => 3
  | .sqrt => 4
  | .exp => 5
  | .tanh => 6
  | .sigmoid => 7
  | .silu => 8
  | .gelu => 9
  | .relu => 10

/-- Operations of satm (R110). -/
def SatmOp.ofCode (n : Nat) : Option SatmOp :=
  match n with
  | 0 => some .fadd
  | 1 => some .fmin
  | 2 => some .fmax
  | 3 => some .swap
  | 4 => some .cas
  | 5 => some .iadd
  | 6 => some .and
  | 7 => some .or
  | 8 => some .xor
  | _ => none

/-- The code of the value in its field. -/
def SatmOp.code (c : SatmOp) : Nat :=
  match c with
  | .fadd => 0
  | .fmin => 1
  | .fmax => 2
  | .swap => 3
  | .cas => 4
  | .iadd => 5
  | .and => 6
  | .or => 7
  | .xor => 8

/-- Overflow modes (R227). -/
def Ovm.ofCode (n : Nat) : Option Ovm :=
  match n with
  | 0 => some .wrap
  | 1 => some .sat
  | 2 => some .checked
  | _ => none

/-- The code of the value in its field. -/
def Ovm.code (c : Ovm) : Nat :=
  match c with
  | .wrap => 0
  | .sat => 1
  | .checked => 2

/-- Scopes, in the order of R2. -/
def Scope.ofCode (n : Nat) : Option Scope :=
  match n with
  | 0 => some .core
  | 1 => some .cluster
  | 2 => some .package
  | 3 => some .pod
  | _ => none

/-- The code of the value in its field. -/
def Scope.code (c : Scope) : Nat :=
  match c with
  | .core => 0
  | .cluster => 1
  | .package => 2
  | .pod => 3

/-- Operations of sacc (R108). -/
def SaccOp.ofCode (n : Nat) : Option SaccOp :=
  match n with
  | 0 => some .add
  | 1 => some .max
  | 2 => some .min
  | 3 => some .and
  | 4 => some .or
  | 5 => some .xor
  | 6 => some .wadd
  | _ => none

/-- The code of the value in its field. -/
def SaccOp.code (c : SaccOp) : Nat :=
  match c with
  | .add => 0
  | .max => 1
  | .min => 2
  | .and => 3
  | .or => 4
  | .xor => 5
  | .wadd => 6

/-- The number of a system register (R292). -/
def SysReg.number (r : SysReg) : Nat :=
  match r with
  | .ctxId => 0x000
  | .coreLog => 0x001
  | .corePhy => 0x002
  | .timePod => 0x003
  | .mode => 0x010
  | .slack => 0x011
  | .stkDepth => 0x200
  | .stkLimit => 0x201
  | .stkWin => 0x202
  | .stkSpill => 0x203
  | .stkL2Spill => 0x204
  | .nodeFree => 0x210
  | .rndSeed => 0x220
  | .faultCause => 0x300
  | .faultOrigin => 0x301
  | .faultDemand => 0x302
  | .faultNode => 0x303
  | .faultSeg => 0x304
  | .faultInfo => 0x305
  | .trapVec => 0x306
  | .trapPc => 0x307
  | .remopNext => 0x600
  | .remopAcked => 0x601
  | .remopTmo => 0x602
  | .errMemCe => 0x700
  | .errMemUe => 0x701
  | .errMemOrphan => 0x702
  | .errSpadCe => 0x703
  | .errFmtTri2 => 0x704
  | .errRemopRtx => 0x705
  | .errRemopDup => 0x706
  | .errImplicit => 0x707
  | .injDropReply => 0x800
  | .dbgRoute => 0x900
  | .schedHorizon => 0xA00
  | .fmt n => 0x100 + n.val
  | .rsv n => 0x400 + n.val
  | .cntT n => 0x500 + n.val

/-- The system register of a number (R292); every other number is reserved. -/
def SysReg.ofNumber (n : Nat) : Option SysReg :=
  if n / 64 = 4 then some (.fmt (Fin.ofNat 64 n))
  else if n / 16 = 64 then some (.rsv (Fin.ofNat 16 n))
  else if n / 16 = 80 then some (.cntT (Fin.ofNat 16 n))
  else
    match n with
    | 0x000 => some .ctxId
    | 0x001 => some .coreLog
    | 0x002 => some .corePhy
    | 0x003 => some .timePod
    | 0x010 => some .mode
    | 0x011 => some .slack
    | 0x200 => some .stkDepth
    | 0x201 => some .stkLimit
    | 0x202 => some .stkWin
    | 0x203 => some .stkSpill
    | 0x204 => some .stkL2Spill
    | 0x210 => some .nodeFree
    | 0x220 => some .rndSeed
    | 0x300 => some .faultCause
    | 0x301 => some .faultOrigin
    | 0x302 => some .faultDemand
    | 0x303 => some .faultNode
    | 0x304 => some .faultSeg
    | 0x305 => some .faultInfo
    | 0x306 => some .trapVec
    | 0x307 => some .trapPc
    | 0x600 => some .remopNext
    | 0x601 => some .remopAcked
    | 0x602 => some .remopTmo
    | 0x700 => some .errMemCe
    | 0x701 => some .errMemUe
    | 0x702 => some .errMemOrphan
    | 0x703 => some .errSpadCe
    | 0x704 => some .errFmtTri2
    | 0x705 => some .errRemopRtx
    | 0x706 => some .errRemopDup
    | 0x707 => some .errImplicit
    | 0x800 => some .injDropReply
    | 0x900 => some .dbgRoute
    | 0xA00 => some .schedHorizon
    | _ => none

/-! ### The alu slots (R57, R58, R268 to R278) -/

/-- Operations 1 to 21 in register form. -/
def intReg (op : Nat) (d a b : XReg) : Option Instr :=
  match op with
  | 1 => some (.add d a b)
  | 2 => some (.sub d a b)
  | 3 => some (.mul d a b)
  | 4 => some (.mulh d a b)
  | 5 => some (.mulhu d a b)
  | 6 => some (.div d a b)
  | 7 => some (.divu d a b)
  | 8 => some (.rem d a b)
  | 9 => some (.remu d a b)
  | 10 => some (.and d a b)
  | 11 => some (.or d a b)
  | 12 => some (.xor d a b)
  | 13 => some (.andn d a b)
  | 14 => some (.shl d a b)
  | 15 => some (.shr d a b)
  | 16 => some (.sra d a b)
  | 17 => some (.rotl d a b)
  | 18 => some (.min d a b)
  | 19 => some (.max d a b)
  | 20 => some (.minu d a b)
  | 21 => some (.maxu d a b)
  | _ => none

/-- Operations 1 to 21 in immediate form. -/
def intImm (op : Nat) (d a : XReg) (imm : BitVec 15) : Option Instr :=
  match op with
  | 1 => some (.addImm d a imm)
  | 2 => some (.subImm d a imm)
  | 3 => some (.mulImm d a imm)
  | 4 => some (.mulhImm d a imm)
  | 5 => some (.mulhuImm d a imm)
  | 6 => some (.divImm d a imm)
  | 7 => some (.divuImm d a imm)
  | 8 => some (.remImm d a imm)
  | 9 => some (.remuImm d a imm)
  | 10 => some (.andImm d a imm)
  | 11 => some (.orImm d a imm)
  | 12 => some (.xorImm d a imm)
  | 13 => some (.andnImm d a imm)
  | 14 => some (.shlImm d a imm)
  | 15 => some (.shrImm d a imm)
  | 16 => some (.sraImm d a imm)
  | 17 => some (.rotlImm d a imm)
  | 18 => some (.minImm d a imm)
  | 19 => some (.maxImm d a imm)
  | 20 => some (.minuImm d a imm)
  | 21 => some (.maxuImm d a imm)
  | _ => none

/-- Operations 1 to 21 in literal form. -/
def intLit (op : Nat) (d a : XReg) (l : Lit) : Option Instr :=
  match op with
  | 1 => some (.addLit d a l)
  | 2 => some (.subLit d a l)
  | 3 => some (.mulLit d a l)
  | 4 => some (.mulhLit d a l)
  | 5 => some (.mulhuLit d a l)
  | 6 => some (.divLit d a l)
  | 7 => some (.divuLit d a l)
  | 8 => some (.remLit d a l)
  | 9 => some (.remuLit d a l)
  | 10 => some (.andLit d a l)
  | 11 => some (.orLit d a l)
  | 12 => some (.xorLit d a l)
  | 13 => some (.andnLit d a l)
  | 14 => some (.shlLit d a l)
  | 15 => some (.shrLit d a l)
  | 16 => some (.sraLit d a l)
  | 17 => some (.rotlLit d a l)
  | 18 => some (.minLit d a l)
  | 19 => some (.maxLit d a l)
  | 20 => some (.minuLit d a l)
  | 21 => some (.maxuLit d a l)
  | _ => none

/-- Operations 28 to 33 in register form (R273). -/
def fpReg (op : Nat) (d a b : XReg) : Option Instr :=
  match op with
  | 28 => some (.faddS d a b)
  | 29 => some (.fsubS d a b)
  | 30 => some (.fmulS d a b)
  | 31 => some (.ffmaS d a b)
  | 32 => some (.fminS d a b)
  | 33 => some (.fmaxS d a b)
  | _ => none

/-- Operations 28 to 33 in literal form (R273). -/
def fpLit (op : Nat) (d a : XReg) (k : Fin 4) (v : BitVec 32) : Option Instr :=
  match op with
  | 28 => some (.faddSLit d a k v)
  | 29 => some (.fsubSLit d a k v)
  | 30 => some (.fmulSLit d a k v)
  | 31 => some (.ffmaSLit d a k v)
  | 32 => some (.fminSLit d a k v)
  | 33 => some (.fmaxSLit d a k v)
  | _ => none

/-- The literal of [14:12] (R57): none when w = 1 with k odd. -/
def litOf (p : Pool) (w : Nat) : Option Lit :=
  let k : Fin 4 := Fin.ofNat 4 (w / 2 ^ 13)
  if fld w 12 1 = 0 then some (.word k (p.get k))
  else match k.val with
    | 0 => some (.pair false (p.pair false))
    | 2 => some (.pair true (p.pair true))
    | _ => none

/-- nop: bits [31:0] are reserved (R48). -/
def decodeNop (w : Nat) : SlotRes := okIf (w % 2 ^ 32 == 0) .nop

/-- Operations 22 to 41 in form 00, and nop. -/
def decodeAlu0 (op w : Nat) : SlotRes :=
  let d := xAt w 21
  let a := xAt w 15
  let b := xAt w 9
  match op with
  | 0 => decodeNop w
  | 22 => okIf (fld w 4 5 == 0) (.sel d a b (f16At w 0))
  | 23 => okIf (fld w 0 15 == 0) (.mov d a)
  | 24 => okIf (fld w 1 8 == 0) (.ext d a b (fld w 0 1 == 1))
  | 25 =>
    match fld w 0 2 with
    | 0 => okIf (fld w 2 13 == 0) (.bitClz d a)
    | 1 => okIf (fld w 2 13 == 0) (.bitCtz d a)
    | 2 => okIf (fld w 2 13 == 0) (.bitPopc d a)
    | _ => okIf (fld w 2 13 == 0) (.bitBrev d a)
  | 26 =>
    match CmpCond.ofCode (fld w 0 3) with
    | some c => okIf (fld w 25 2 == 0 && fld w 3 6 == 0) (.cmp c (f16At w 21) a b)
    | none => .error .reserved
  | 27 =>
    match PLogOp.ofCode (fld w 0 2) with
    | some o => okIf (fld w 25 2 == 0 && fld w 19 2 == 0 && fld w 13 2 == 0 && fld w 2 7 == 0)
        (.plog o (f16At w 21) (f16At w 15) (f16At w 9))
    | none => .error .reserved
  | 34 =>
    match FCmpCond.ofCode (fld w 0 3) with
    | some c => okIf (fld w 25 2 == 0 && fld w 3 6 == 0) (.fcmp c (f16At w 21) a b)
    | none => .error .reserved
  | 35 =>
    let f := Fmt.ofCode (fld w 4 5)
    match Rnd.ofCode (fld w 0 3) with
    | some r =>
      if fld w 3 1 = 1 then okIf2 (fld w 9 6 == 0 && r.scalar) f.isElem (.fcvtTo f d a r)
      else okIf2 (fld w 9 6 == 0 && r.scalar) f.isElem (.fcvtFrom f d a r)
    | none => .error .reserved
  | 38 => okIf (fld w 21 6 == 0 && fld w 0 9 == 0) (.cmpt a b)
  | 39 => okIf (fld w 4 17 == 0) (.crd d (f16At w 0))
  | 40 => okIf (fld w 25 1 == 0 && fld w 0 9 == 0) (.cwr (f16At w 21) (fld w 26 1 == 1) a b)
  | 41 =>
    if h : fld w 0 3 < 6 then okIf (fld w 3 18 == 0) (.lcr d ⟨fld w 0 3, h⟩) else .error .reserved
  | _ => .error .opcode

/-- The alu slot (R57, R58). Bits [31:27] are the guard and are left to `decodeSlot`. -/
def decodeAlu (p : Pool) (w : Nat) : SlotRes :=
  let op := fld w 34 6
  let d := xAt w 21
  let a := xAt w 15
  let imm : BitVec 15 := BitVec.ofNat 15 w
  match fld w 32 2 with
  | 0 =>
    match intReg op d a (xAt w 9) with
    | some i => okIf (fld w 0 9 == 0) i
    | none =>
      match fpReg op d a (xAt w 9) with
      | some i => okIf (fld w 0 9 == 0) i
      | none => decodeAlu0 op w
  | 1 =>
    match intImm op d a imm with
    | some i => .ok i
    | none =>
      match op with
      | 23 => okIf (fld w 15 6 == 0) (.movImm d imm)
      | 36 =>
        match SysReg.ofNumber (fld w 0 15) with
        | some r => okIf (fld w 15 6 == 0) (.mfs d r)
        | none => .error .reserved
      | 37 =>
        match SysReg.ofNumber (fld w 0 15) with
        | some (.rsv n) => okIf (fld w 21 6 == 0) (.rsvWrite n a)
        | some .injDropReply => okIf (fld w 21 6 == 0) (.injDropreplyArm a)
        | some r => okIf (fld w 21 6 == 0) (.mts r a)
        | none => .error .reserved
      | 40 => okIf (fld w 25 1 == 0) (.cwrImm (f16At w 21) (fld w 26 1 == 1) a imm)
      | _ => .error .opcode
  | 2 =>
    match fpLit op d a (Fin.ofNat 4 (w / 2 ^ 13)) (p.get (Fin.ofNat 4 (w / 2 ^ 13))) with
    | some i => okIf (fld w 0 13 == 0) i
    | none =>
      match intLit op d a (.word 0 0), litOf p w with
      | some _, some l =>
        match intLit op d a l with
        | some i => okIf (fld w 0 12 == 0) i
        | none => .error .opcode
      | some _, none => .error .reserved
      | none, l =>
        match op with
        | 23 =>
          match l with
          | some l => okIf (fld w 15 6 == 0 && fld w 0 12 == 0) (.movLit d l)
          | none => .error .reserved
        | _ => .error .opcode
  | _ => .error .opcode

/-! ### The mem slot (R59) -/

/-- The mem slot. -/
def decodeMem (w : Nat) : SlotRes :=
  let d := xAt w 21
  let a := xAt w 15
  let v := vAt w 21
  let imm : BitVec 15 := BitVec.ofNat 15 w
  let r26 := fld w 26 1 == 0
  match fld w 32 8 with
  | 0x00 => decodeNop w
  | 0x01 => .ok (.ldB d a imm)
  | 0x02 => .ok (.ldBu d a imm)
  | 0x03 => .ok (.ldH d a imm)
  | 0x04 => .ok (.ldHu d a imm)
  | 0x05 => .ok (.ldW d a imm)
  | 0x06 => .ok (.ldWu d a imm)
  | 0x07 => .ok (.ldD d a imm)
  | 0x09 => .ok (.stB d a imm)
  | 0x0A => .ok (.stH d a imm)
  | 0x0B => .ok (.stW d a imm)
  | 0x0C => .ok (.stD d a imm)
  | 0x10 => okIf r26 (.vld v a imm)
  | 0x11 => okIf r26 (.vst v a imm)
  | 0x12 => okIf r26 (.vlds v a (xAt w 9) (BitVec.ofNat 9 w))
  | 0x13 => okIf r26 (.vsts v a (xAt w 9) (BitVec.ofNat 9 w))
  | 0x14 => okIf (r26 && fld w 0 10 == 0) (.vgth v a (vAt w 10))
  | 0x15 => okIf (r26 && fld w 0 10 == 0) (.vsct v a (vAt w 10))
  | _ => .error .opcode

/-! ### The vec slot (R60, R250 to R267) -/

/-- The control fields [31:25] and [4:0]. -/
def vctl (w : Nat) : VCtl :=
  { q := f8At w 29, z := fld w 28 1 == 1, beats := f8At w 25, fmt := Fmt.ofCode (fld w 0 5) }

/-- All the runs of a vec instruction lie within v0 to v31 (R60). -/
def runsOk (c : VCtl) (rs : List VReg) : Bool := rs.all (fun r => runOk r (c.beats.val + 1))

/-- The vec slot. -/
def decodeVec (p : Pool) (w : Nat) : SlotRes :=
  let c := vctl w
  let d := vAt w 20
  let a := vAt w 15
  let b := vAt w 10
  let e := vAt w 5
  let fn := fld w 5 5
  let nine := c.fmt.isVec
  match fld w 32 8 with
  | 0x00 => decodeNop w
  | 0x01 => okIf2 (fld w 6 4 == 0 && runsOk c [d, a, b]) nine (.vadd c d a b (fld w 5 1 == 1))
  | 0x02 => okIf2 (fld w 6 4 == 0 && runsOk c [d, a, b]) nine (.vsub c d a b (fld w 5 1 == 1))
  | 0x03 => okIf2 (fld w 6 4 == 0 && runsOk c [d, a, b]) nine (.vmul c d a b (fld w 5 1 == 1))
  | 0x04 => okIf2 (runsOk c [d, a, b, e]) nine (.vfma c d a b e)
  | 0x05 => okIf2 (runsOk c [d, a, b, e]) nine (.vfms c d a b e)
  | 0x06 => okIf2 (fn == 0 && runsOk c [d, a, b]) nine (.vmin c d a b)
  | 0x07 => okIf2 (fn == 0 && runsOk c [d, a, b]) nine (.vmax c d a b)
  | 0x08 => okIf2 (fld w 6 9 == 0 && runsOk c [d, a]) nine (.vabs c d a (fld w 5 1 == 1))
  | 0x09 => okIf2 (fld w 6 9 == 0 && runsOk c [d, a]) nine (.vneg c d a (fld w 5 1 == 1))
  | 0x0A => okIf2 (fn == 0 && runsOk c [d, a, b]) nine (.vand c d a b)
  | 0x0B => okIf2 (fn == 0 && runsOk c [d, a, b]) nine (.vor c d a b)
  | 0x0C => okIf2 (fn == 0 && runsOk c [d, a, b]) nine (.vxor c d a b)
  | 0x0D => okIf2 (fn == 0 && runsOk c [d, a, b]) (nine && c.fmt.isInt) (.vshl c d a b)
  | 0x0E => okIf2 (fn == 0 && runsOk c [d, a, b]) (nine && c.fmt.isInt) (.vshr c d a b)
  | 0x0F => okIf2 (fn == 0 && runsOk c [d, a, b]) (nine && c.fmt.isInt) (.vsra c d a b)
  | 0x10 =>
    match VCmpCond.ofCode fn with
    | some k => okIf2 (fld w 23 5 == 0 && fld w 25 3 == 0) nine (.vcmp c.q c.z c.fmt (f8At w 20) a b k)
    | none => .error .reserved
  | 0x11 => okIf2 (fld w 8 2 == 0 && runsOk c [d, a, b]) nine (.vsel c d a b (f8At w 5))
  | 0x12 =>
    let t := Fmt.ofCode fn
    match Rnd.ofCode (fld w 10 3) with
    | some r =>
      okIf2 (fld w 14 1 == 0 && (!(nine && t.isVec) ||
          (runOk d (vcvtRun c.beats t.width c.fmt.width) && runOk a (vcvtRun c.beats c.fmt.width t.width))))
        (nine && t.isVec) (.vcvt c d a t r (fld w 13 1 == 1))
    | none => .error .reserved
  | 0x13 =>
    match FunCode.ofCode fn with
    | some k => okIf2 (fld w 10 5 == 0 && runsOk c [d, a]) (nine && !c.fmt.isInt) (.vfun c d a k)
    | none => .error .reserved
  | 0x14 =>
    match RedOp.ofCode (fld w 5 2) with
    | some k => okIf2 (fld w 7 8 == 0 && runsOk c [a]) nine (.vred c d a k)
    | none => .error .reserved
  | 0x15 => okIf2 (fld w 5 10 == 0 && runsOk c [d, a]) nine (.vscn c d a)
  | 0x16 => okIf2 (fn == 0 && runsOk c [d, a, b]) nine (.vperm c d a b)
  | 0x17 =>
    match ShfMode.ofCode fn with
    | some m => okIf2 (runsOk c [d, a, b] && (m != .rev || b == 0)) nine (.vshf c d a b m)
    | none => .error .reserved
  | 0x18 => okIf2 (fld w 6 9 == 0 && runsOk c [d]) nine (.vbcs c d (Fin.ofNat 64 (a.val + 32 * fld w 5 1)))
  | 0x19 =>
    let i : Fin 512 := Fin.ofNat 512 (fld w 6 4 * 32 + d.val)
    okIf2 (fld w 25 7 == 0 && (!nine || decide (i.val < 1024 / c.fmt.width))) nine
      (.vmvx c.fmt (Fin.ofNat 64 (a.val + 32 * fld w 5 1)) b i)
  | 0x1A =>
    let i : Fin 512 := Fin.ofNat 512 (fld w 6 4 * 32 + b.val)
    okIf2 (fld w 25 7 == 0 && (!nine || decide (i.val < 1024 / c.fmt.width))) nine
      (.vins c.fmt d (Fin.ofNat 64 (a.val + 32 * fld w 5 1)) i)
  | 0x1B =>
    match RngRounds.ofCode (fld w 5 2) with
    | some n => okIf2 (fld w 8 7 == 0 && runsOk c [d]) (c.fmt == .int32 || c.fmt == .fp32)
        (.vrng c d a n (fld w 7 1 == 1))
    | none => .error .reserved
  | 0x1C => okIf2 (fld w 5 15 == 0 && runsOk c [d]) nine (.viota c d)
  | 0x1D => okIf2 (runsOk c [d, a, b, e]) nine (.vdot c d a b e)
  | 0x1E => okIf2 (fld w 5 10 == 0 && runsOk c [d, a]) nine (.vmov c d a)
  | 0x1F => okIf2 (fld w 7 13 == 0 && runsOk c [d]) nine
      (.vlit c d (Fin.ofNat 4 (w / 2 ^ 5)) (p.get (Fin.ofNat 4 (w / 2 ^ 5))))
  | _ => .error .opcode

/-! ### The tile slots (R61, R162, R166, R168, R188, R192, R227 to R231) -/

/-- A counter field of three bits: 0 to 5, or 7 for none; 6 is reserved (R166, R229). -/
def ctr3 (n : Nat) : Option (Option LoopNo) :=
  if h : n < 6 then some (some ⟨n, h⟩) else if n = 7 then some none else none

/-- OVM, OFMT and RND of a tile arithmetic instruction (R227 to R229); none for a reserved value. -/
def tmode (w : Nat) : Option TMode :=
  match fld w 24 3 with
  | 3 =>
    match ctr3 (fld w 16 3) with
    | some k => some (.table (Fin.ofNat 32 (w / 2 ^ 19)) k)
    | none => none
  | n =>
    match Ovm.ofCode n, Rnd.ofCode (fld w 16 3) with
    | some o, some r => some (.direct o (Fmt.ofCode (fld w 19 5)) r)
    | _, _ => none

/-- A tile arithmetic instruction: its modes, its reserved operation bits, and the plain and duplicate forms. -/
def tileArith (w : Nat) (ok : Bool) (f : TMode → Instr) : SlotRes :=
  match tmode w with
  | some m => okIf (ok && fld w 0 3 == 0) (f m)
  | none => .error .reserved

/-- The instructions with a duplicate form (R61, R187). -/
def tileDup (w : Nat) (f g : TMode → Instr) : SlotRes :=
  match tmode w with
  | some m =>
    match fld w 0 3 with
    | 0 => okIf (fld w 3 13 == 0) (f m)
    | 1 => okIf (fld w 3 13 == 0) (g m)
    | _ => .error .reserved
  | none => .error .reserved

/-- The tile slots. -/
def decodeTile (w : Nat) : SlotRes :=
  let n : Fin 64 := Fin.ofNat 64 w
  let stk := fld w 6 21 == 0
  match fld w 32 8 with
  | 0x00 => decodeNop w
  | 0x01 =>
    let t := fld w 2 7 == 0
    if fld w 14 1 = 0 then
      okIf t (.tld (xAt w 21) (xAt w 15) (.code (Fmt.ofCode (fld w 9 5))) (fld w 0 1 == 1) (fld w 1 1 == 1))
    else
      match ctr3 (fld w 9 3) with
      | some k => okIf (t && fld w 12 2 == 0)
          (.tld (xAt w 21) (xAt w 15) (.table k) (fld w 0 1 == 1) (fld w 1 1 == 1))
      | none => .error .reserved
  | 0x02 => okIf (fld w 24 3 == 0 && fld w 16 3 == 0 && fld w 0 10 == 0)
      (.tzer (Fmt.ofCode (fld w 19 5)) (xAt w 10))
  | 0x03 => okIf (fld w 24 3 == 0 && fld w 16 3 == 0 && fld w 0 4 == 0)
      (.tfil (Fmt.ofCode (fld w 19 5)) (xAt w 10) (xAt w 4))
  | 0x04 => okIf (stk && n == 0) .tdup
  | 0x05 => okIf (stk && n == 0) .tdrp
  | 0x06 => okIf (stk && n == 0) .tswp
  | 0x07 => okIf stk (.tpk n)
  | 0x08 => okIf stk (.trot n)
  | 0x09 => okIf stk (.trtd n)
  | 0x10 => tileDup w .tmma .tmmaD
  | 0x11 => tileDup w .tmac .tmacD
  | 0x12 => tileDup w .tadd .taddD
  | 0x13 => tileArith w (fld w 3 13 == 0) .tsub
  | 0x14 => tileArith w (fld w 3 13 == 0) .tmul
  | 0x15 => tileArith w (fld w 3 13 == 0) .tmax
  | 0x16 => tileArith w (fld w 3 13 == 0) .tmin
  | 0x17 => tileArith w (fld w 3 6 == 0) (fun m => .tscl m (xAt w 10) (fld w 9 1 == 1))
  | 0x18 =>
    if fld w 15 1 = 0 then tileArith w (fld w 3 12 == 0) (fun m => .tbia m none)
    else
      match FunCode.ofCode (fld w 10 5) with
      | some k => tileArith w (fld w 3 7 == 0) (fun m => .tbia m (some k))
      | none => .error .reserved
  | 0x19 =>
    match FunCode.ofCode (fld w 10 5) with
    | some k => tileArith w (fld w 15 1 == 0 && fld w 3 7 == 0) (fun m => .tfun m k)
    | none => .error .reserved
  | 0x1A =>
    match RedOp.ofCode (fld w 4 2) with
    | some k => tileArith w (fld w 6 10 == 0) (fun m => .tred m k (fld w 3 1 == 1))
    | none => .error .reserved
  | 0x1B => tileArith w (fld w 3 13 == 0) .tsmx
  | 0x1C => tileArith w (fld w 3 13 == 0) .ttrn
  | 0x1D => tileArith w (fld w 3 13 == 0) .tcvt
  | 0x1E => tileArith w (fld w 3 7 == 0) (fun m => .tslc m (xAt w 10))
  | 0x1F => tileArith w (fld w 4 12 == 0) (fun m => .tcat m (fld w 3 1 == 1))
  | 0x20 => tileArith w (fld w 3 7 == 0) (fun m => .tbcs m (xAt w 10))
  | 0x21 =>
    if fld w 3 1 = 0 then tileArith w (fld w 4 12 == 0) (fun m => .tmsk m none)
    else tileArith w (fld w 4 6 == 0) (fun m => .tmsk m (some (xAt w 10)))
  | 0x22 => okIf (fld w 0 27 == 0) .tchk
  | 0x30 =>
    if fld w 9 1 = 0 then okIf (fld w 10 5 == 0 && fld w 0 9 == 0) (.tst (xAt w 21) (xAt w 15) none)
    else okIf (fld w 0 9 == 0) (.tst (xAt w 21) (xAt w 15) (some (vAt w 10)))
  | 0x31 => okIf (fld w 17 10 == 0) (.tfrc n (xAt w 6) (vAt w 12))
  | _ => .error .opcode

/-! ### The copy slot (R62, R96, R97) -/

/-- The flag of [14:10] under E of [9]: none for a reserved field that is not zero. -/
def flagOf (w : Nat) : Option (Option FlagNo) :=
  if fld w 9 1 = 0 then (if fld w 10 5 = 0 then some none else none) else some (some (vAt w 10))

/-- A copy instruction whose reserved fields are as `ok` says, with its flag. -/
def withFlag (w : Nat) (ok : Bool) (f : Option FlagNo → Instr) : SlotRes :=
  match flagOf w with
  | some fl => okIf ok (f fl)
  | none => .error .reserved

/-- A mask of sbar at [lo + 2 : lo]. -/
def kindMask (w lo : Nat) : KindMask :=
  { r := fld w lo 1 == 1, w := fld w (lo + 1) 1 == 1, m := fld w (lo + 2) 1 == 1 }

/-- The copy slot. -/
def decodeCopy (w : Nat) : SlotRes :=
  let a := xAt w 21
  let b := xAt w 15
  let cls : Fin 4 := Fin.ofNat 4 (w / 2 ^ 7)
  let x := fld w 6 1 == 1
  let data := fld w 7 2 != 0
  let none0 := fld w 6 3 == 0
  let sub := fld w 0 6
  match fld w 32 8 with
  | 0x00 => decodeNop w
  | 0x01 => withFlag w (data && fld w 15 6 == 0 && sub == 0) (fun f => .scpy a f cls x)
  | 0x02 => withFlag w (data && fld w 15 6 == 0 && sub == 0) (fun f => .sacc a f cls x)
  | 0x03 =>
    let ok := data && fld w 15 6 == 0 && fld w 6 1 == 0 && fld w 4 2 == 0
    match SatmOp.ofCode (fld w 0 4) with
    | some .fadd => withFlag w ok (fun f => .satmFadd a f cls)
    | some .fmin => withFlag w ok (fun f => .satmFmin a f cls)
    | some .fmax => withFlag w ok (fun f => .satmFmax a f cls)
    | some .swap => withFlag w ok (fun f => .satmSwap a f cls)
    | some .cas => withFlag w ok (fun f => .satmCas a f cls)
    | some .iadd => withFlag w ok (fun f => .satmIadd a f cls)
    | some .and => withFlag w ok (fun f => .satmAnd a f cls)
    | some .or => withFlag w ok (fun f => .satmOr a f cls)
    | some .xor => withFlag w ok (fun f => .satmXor a f cls)
    | none => .error .reserved
  | 0x04 =>
    if fld w 0 1 = 0 then withFlag w (data && sub == 0) (fun f => .ssig a b f cls x)
    else
      match Scope.ofCode (fld w 1 2) with
      | some s => withFlag w (data && fld w 3 3 == 0 && s != .core) (fun f => .ssigRel a b f cls x s)
      | none => .error .reserved
  | 0x05 => withFlag w (data && sub == 0) (fun f => .sgth a b f cls x)
  | 0x08 =>
    let ma := kindMask w 0
    let mb := kindMask w 3
    withFlag w (none0 && fld w 15 12 == 0 && ma.ok && mb.ok) (fun f => .sbar ma mb f)
  | 0x09 => withFlag w (none0 && fld w 15 12 == 0 && sub == 0) (fun f => .sdrn f)
  | 0x0A =>
    match Scope.ofCode (fld w 0 2) with
    | some s =>
      let ok := none0 && fld w 15 12 == 0 && fld w 4 2 == 0
      match fld w 2 2 with
      | 0 => withFlag w ok (fun f => .fenceAcq s f)
      | 1 => withFlag w ok (fun f => .fenceRel s f)
      | 2 => withFlag w ok (fun f => .fenceSc s f)
      | _ => .error .reserved
    | none => .error .reserved
  | 0x0B => withFlag w (none0 && fld w 15 6 == 0 && sub == 0) (fun f => .l2wb a f)
  | 0x0C => withFlag w (none0 && fld w 15 6 == 0 && sub == 0) (fun f => .l2inv a f)
  | 0x0D => withFlag w (none0 && fld w 15 6 == 0 && fld w 1 5 == 0) (fun f => .l2pf a (fld w 0 1 == 1) f)
  | 0x0E => withFlag w (none0 && sub == 0) (fun f => .sxfr a b f)
  | _ => .error .opcode

/-! ### The ctl slot (R63, R279) -/

/-- One successor field of exit (R285); none for the reserved values 34 to 63. -/
def exitSrc (p : Pool) (n : Nat) : Option ExitSrc :=
  if n = 0 then some .none
  else if n < 32 then some (.reg (Fin.ofNat 32 n))
  else if n = 32 then some (.pair false (p.pair false))
  else if n = 33 then some (.pair true (p.pair true))
  else none

/-- The ctl slot. -/
def decodeCtl (p : Pool) (w : Nat) : SlotRes :=
  let d := xAt w 21
  let a := xAt w 15
  let zero := fld w 0 27 == 0
  match fld w 32 8 with
  | 0x00 => decodeNop w
  | 0x01 => okIf (fld w 25 2 == 0) (.br (BitVec.ofNat 25 w))
  | 0x02 => okIf (fld w 25 2 == 0) (.call (BitVec.ofNat 25 w))
  | 0x03 => okIf zero .ret
  | 0x04 => okIf (fld w 21 6 == 0 && fld w 0 15 == 0) (.jmpr a)
  | 0x05 => okIf (fld w 20 7 == 0) (.loop (BitVec.ofNat 14 (w / 2 ^ 6)) (Fin.ofNat 64 w))
  | 0x06 => okIf (fld w 21 6 == 0 && fld w 6 9 == 0) (.loopr a (Fin.ofNat 64 w))
  | 0x07 => okIf zero .lbrk
  | 0x08 => okIf zero .ckpt
  | 0x09 => okIf (fld w 8 19 == 0) (.rdv (BitVec.ofNat 8 w))
  | 0x0A => okIf (fld w 8 19 == 0) (.slack (BitVec.ofNat 8 w))
  | 0x0B => okIf (fld w 4 17 == 0) (.sstep d (f16At w 0))
  | 0x0C =>
    match exitSrc p (fld w 0 6), exitSrc p (fld w 6 6), exitSrc p (fld w 12 6), exitSrc p (fld w 18 6) with
    | some s0, some s1, some s2, some s3 => okIf (fld w 24 3 == 0) (.exit s0 s1 s2 s3)
    | _, _, _, _ => .error .reserved
  | 0x0D => okIf (fld w 1 14 == 0) (if fld w 0 1 = 1 then .launchGraph d a else .launch d a)
  | 0x0E => okIf (fld w 5 22 == 0) (.fset (vAt w 0))
  | 0x0F => okIf (fld w 5 22 == 0) (.fclr (vAt w 0))
  | 0x10 => okIf (fld w 25 2 == 0 && fld w 20 1 == 0) (.cset (f16At w 21) (BitVec.ofNat 20 w))
  | 0x11 => okIf (fld w 16 11 == 0) (.brk (BitVec.ofNat 16 w))
  | 0x12 => okIf (fld w 16 11 == 0) (.trap (BitVec.ofNat 16 w))
  | 0x13 => okIf zero .rte
  | 0x14 => okIf (fld w 21 6 == 0 && fld w 0 15 == 0) (.xbnd a)
  | 0x15 =>
    match Scope.ofCode (fld w 0 2) with
    | some s => withFlag w (fld w 2 7 == 0 && s != .pod) (fun f => .icinv d a f s)
    | none => .error .reserved
  | 0x16 =>
    let ok := fld w 4 5 == 0 && fld w 1 1 == 1
    let pod := fld w 0 1 == 1
    match fld w 2 2 with
    | 0 => withFlag w (ok && fld w 15 12 == 0) (fun f => .tlbiAll f pod)
    | 1 => withFlag w ok (fun f => .tlbiTensor d a f pod)
    | 2 => withFlag w ok (fun f => .tlbiRange d a f pod)
    | _ => .error .reserved
  | 0x17 => okIf (fld w 16 11 == 0 && fld w 8 2 == 0) (.mode (BitVec.ofNat 8 w) (BitVec.ofNat 8 (w / 2 ^ 8)))
  | 0x18 => okIf zero .halt
  | 0x19 => okIf zero .yield
  | _ => .error .opcode

/-! ### Bundles (R37, R40, R46 steps 1 to 5) -/

/-- The instruction of a present slot word of 40 bits in a slot of the kind. -/
def decodeKind (k : SlotKind) (p : Pool) (w : Nat) : SlotRes :=
  match k with
  | .alu => decodeAlu p w
  | .mem => decodeMem w
  | .vec => decodeVec p w
  | .tile => decodeTile w
  | .copy => decodeCopy w
  | .ctl => decodeCtl p w

/-- The guard of a slot word (R47); the vec slot has none, and a nop's guard bits are reserved. -/
def decodeSlot (k : Fin 8) (p : Pool) (w : Nat) : Except SlotErr SlotInstr :=
  match decodeKind (SlotKind.of k) p w with
  | .ok i =>
    if SlotKind.of k = .vec then .ok { slot := k, pred := 0, neg := false, op := i }
    else .ok { slot := k, pred := f16At w 28, neg := fld w 27 1 == 1, op := i }
  | .error e => .error e

/-- A fault of decoding: the cause (R369) and the step of R46, with the slot, or none for the bundle as a whole. -/
structure DecFault where
  step : Nat
  cause : BitVec 6
  slot : Option (Fin 8)
  deriving DecidableEq, Repr

/-- The eight slots. -/
def allSlots : List (Fin 8) := [0, 1, 2, 3, 4, 5, 6, 7]

/-- Bits of slot k of a bundle (R37). -/
def slotWord (w : Nat) (k : Fin 8) : Nat := (w >>> (64 + 40 * k.val)) % 2 ^ 40

/-- Slot k is present (R40). -/
def present (w : Nat) (k : Fin 8) : Bool := fld w (8 + k.val) 1 == 1

/-- The pool of a bundle (R37). -/
def poolOf (w : Nat) : Pool :=
  { l0 := BitVec.ofNat 32 (w >>> 384), l1 := BitVec.ofNat 32 (w >>> 416),
    l2 := BitVec.ofNat 32 (w >>> 448), l3 := BitVec.ofNat 32 (w >>> 480) }

/-- The decoded present slots, in slot order. -/
def slotResults (w : Nat) : List (Fin 8 × Except SlotErr SlotInstr) :=
  (allSlots.filter (present w)).map (fun k => (k, decodeSlot k (poolOf w) (slotWord w k)))

/-- The first slot that fails with e. -/
def firstErr (e : SlotErr) : List (Fin 8 × Except SlotErr SlotInstr) → Option (Fin 8)
  | [] => none
  | (k, .error e') :: rest => if e' = e then some k else firstErr e rest
  | (_, .ok _) :: rest => firstErr e rest

/-- The instructions of the slots that decode. -/
def okSlots : List (Fin 8 × Except SlotErr SlotInstr) → List SlotInstr
  | [] => []
  | (_, .ok s) :: rest => s :: okSlots rest
  | (_, .error _) :: rest => okSlots rest

/-- A bundle of 512 bits, or the first fault of steps 1 to 5 of R46. -/
def decodeBundle (w : Nat) : Except DecFault Bundle :=
  if allSlots.any (fun k => !present w k && slotWord w k != 0) then .error { step := 1, cause := 0x03, slot := none }
  else if fld w 48 16 != 0 then .error { step := 2, cause := 0x02, slot := none }
  else
    let rs := slotResults w
    match firstErr .opcode rs with
    | some k => .error { step := 3, cause := 0x01, slot := some k }
    | none =>
      match firstErr .reserved rs with
      | some k => .error { step := 4, cause := 0x02, slot := some k }
      | none =>
        match firstErr .format rs with
        | some k => .error { step := 5, cause := 0x09, slot := some k }
        | none =>
          .ok { sync := BitVec.ofNat 32 (w / 2 ^ 16), w := fld w 0 1 == 1, stops := BitVec.ofNat 7 (w / 2),
                slots := okSlots rs }

/-- FAULT.INFO of a decode fault (R46): the slot in [2:0], or bit 3 for the bundle as a whole. -/
def DecFault.info (f : DecFault) : Word :=
  match f.slot with
  | some k => BitVec.ofNat 64 k.val
  | none => 8

/-- The instruction of a bundle of nbits bits numbered as R37 numbers them, when it holds one present slot with a guard
that is always true. -/
def decodeTableWord (nbits w : Nat) : Option Instr :=
  match decodeBundle (w % (1 <<< (min nbits 512))) with
  | .ok b =>
    match b.slots with
    | [s] => if s.pred = 0 ∧ s.neg = false ∧ b.sync = 0 then some s.op else none
    | _ => none
  | .error _ => none

/-! ### The encoder -/

/-- The encoding of an instruction: the kind of slot it stands in, the slot word with the guard p0, and the pool words
it names. -/
structure Enc where
  kind : SlotKind
  word : Nat
  pool : List (Fin 4 × BitVec 32)
  deriving DecidableEq, Repr

/-- The bit of a Bool. -/
def bit (b : Bool) : Nat := if b then 1 else 0

/-- The pool words of a literal. -/
def Lit.pool : Lit → List (Fin 4 × BitVec 32)
  | .word k v => [(k, v)]
  | .pair false v => [(0, v.setWidth 32), (1, (v >>> 32).setWidth 32)]
  | .pair true v => [(2, v.setWidth 32), (3, (v >>> 32).setWidth 32)]

/-- The bits [14:12] of a literal. -/
def Lit.bits : Lit → Nat
  | .word k _ => k.val * 2 ^ 13
  | .pair false _ => 2 ^ 12
  | .pair true _ => 2 * 2 ^ 13 + 2 ^ 12

/-- A register form. -/
def encReg (op : Nat) (d a b : XReg) (fn : Nat) : Enc :=
  { kind := .alu, word := op * 2 ^ 34 + d.val * 2 ^ 21 + a.val * 2 ^ 15 + b.val * 2 ^ 9 + fn, pool := [] }

/-- An immediate form. -/
def encImm (op : Nat) (d a : XReg) (imm : Nat) : Enc :=
  { kind := .alu, word := op * 2 ^ 34 + 2 ^ 32 + d.val * 2 ^ 21 + a.val * 2 ^ 15 + imm, pool := [] }

/-- A literal form. -/
def encLit (op : Nat) (d a : XReg) (l : Lit) : Enc :=
  { kind := .alu, word := op * 2 ^ 34 + 2 * 2 ^ 32 + d.val * 2 ^ 21 + a.val * 2 ^ 15 + l.bits, pool := l.pool }

/-- A mem-slot instruction with a displacement. -/
def encMem (opc d a imm : Nat) : Enc :=
  { kind := .mem, word := opc * 2 ^ 32 + d * 2 ^ 21 + a * 2 ^ 15 + imm, pool := [] }

/-- The bits of the control fields of a vec instruction. -/
def VCtl.bits (c : VCtl) : Nat := c.q.val * 2 ^ 29 + bit c.z * 2 ^ 28 + c.beats.val * 2 ^ 25 + c.fmt.code

/-- A vec instruction. -/
def encVec (opc : Nat) (c : VCtl) (d a b fn : Nat) (pool : List (Fin 4 × BitVec 32) := []) : Enc :=
  { kind := .vec, word := opc * 2 ^ 32 + c.bits + d * 2 ^ 20 + a * 2 ^ 15 + b * 2 ^ 10 + fn * 2 ^ 5, pool := pool }

/-- The control fields of the vec instructions that fix them (R255, R265). -/
def VCtl.fixed (q : QReg) (z : Bool) (f : Fmt) : VCtl := { q := q, z := z, beats := 0, fmt := f }

/-- A counter field of three bits. -/
def ctr3Bits : Option LoopNo → Nat
  | some k => k.val
  | none => 7

/-- The bits of OVM, OFMT and RND. -/
def TMode.bits : TMode → Nat
  | .direct o f r => o.code * 2 ^ 24 + f.code * 2 ^ 19 + r.code * 2 ^ 16
  | .table b k => 3 * 2 ^ 24 + b.val * 2 ^ 19 + ctr3Bits k * 2 ^ 16

/-- A tile arithmetic instruction. -/
def encArith (opc : Nat) (m : TMode) (fields : Nat) : Enc :=
  { kind := .tile, word := opc * 2 ^ 32 + m.bits + fields, pool := [] }

/-- A tile instruction with the given low bits. -/
def encTile (opc low : Nat) : Enc := { kind := .tile, word := opc * 2 ^ 32 + low, pool := [] }

/-- The flag and E bits of a completion flag. -/
def flagBits : Option FlagNo → Nat
  | some f => f.val * 2 ^ 10 + 2 ^ 9
  | none => 0

/-- A copy instruction. -/
def encCopy (opc a b : Nat) (f : Option FlagNo) (cls x sub : Nat) : Enc :=
  { kind := .copy, word := opc * 2 ^ 32 + a * 2 ^ 21 + b * 2 ^ 15 + flagBits f + cls * 2 ^ 7 + x * 2 ^ 6 + sub,
    pool := [] }

/-- The bits of a mask of sbar. -/
def KindMask.bits (m : KindMask) : Nat := bit m.r + 2 * bit m.w + 4 * bit m.m

/-- A ctl instruction. -/
def encCtl (opc low : Nat) (pool : List (Fin 4 × BitVec 32) := []) : Enc :=
  { kind := .ctl, word := opc * 2 ^ 32 + low, pool := pool }

/-- The field of a successor of exit. -/
def ExitSrc.bits : ExitSrc → Nat
  | .none => 0
  | .reg r => r.val
  | .pair false _ => 32
  | .pair true _ => 33

/-- The pool words of a successor of exit. -/
def ExitSrc.pool : ExitSrc → List (Fin 4 × BitVec 32)
  | .pair h v => (Lit.pair h v).pool
  | _ => []

/-- The encoding of a slot instruction; an event has none, and is given the word of a nop. -/
def encode (i : Instr) : Enc :=
  match i with
  | .nop => { kind := .alu, word := 0, pool := [] }
  | .add d a b => encReg 1 d a b 0
  | .addImm d a imm => encImm 1 d a imm.toNat
  | .addLit d a l => encLit 1 d a l
  | .sub d a b => encReg 2 d a b 0
  | .subImm d a imm => encImm 2 d a imm.toNat
  | .subLit d a l => encLit 2 d a l
  | .mul d a b => encReg 3 d a b 0
  | .mulImm d a imm => encImm 3 d a imm.toNat
  | .mulLit d a l => encLit 3 d a l
  | .mulh d a b => encReg 4 d a b 0
  | .mulhImm d a imm => encImm 4 d a imm.toNat
  | .mulhLit d a l => encLit 4 d a l
  | .mulhu d a b => encReg 5 d a b 0
  | .mulhuImm d a imm => encImm 5 d a imm.toNat
  | .mulhuLit d a l => encLit 5 d a l
  | .div d a b => encReg 6 d a b 0
  | .divImm d a imm => encImm 6 d a imm.toNat
  | .divLit d a l => encLit 6 d a l
  | .divu d a b => encReg 7 d a b 0
  | .divuImm d a imm => encImm 7 d a imm.toNat
  | .divuLit d a l => encLit 7 d a l
  | .rem d a b => encReg 8 d a b 0
  | .remImm d a imm => encImm 8 d a imm.toNat
  | .remLit d a l => encLit 8 d a l
  | .remu d a b => encReg 9 d a b 0
  | .remuImm d a imm => encImm 9 d a imm.toNat
  | .remuLit d a l => encLit 9 d a l
  | .and d a b => encReg 10 d a b 0
  | .andImm d a imm => encImm 10 d a imm.toNat
  | .andLit d a l => encLit 10 d a l
  | .or d a b => encReg 11 d a b 0
  | .orImm d a imm => encImm 11 d a imm.toNat
  | .orLit d a l => encLit 11 d a l
  | .xor d a b => encReg 12 d a b 0
  | .xorImm d a imm => encImm 12 d a imm.toNat
  | .xorLit d a l => encLit 12 d a l
  | .andn d a b => encReg 13 d a b 0
  | .andnImm d a imm => encImm 13 d a imm.toNat
  | .andnLit d a l => encLit 13 d a l
  | .shl d a b => encReg 14 d a b 0
  | .shlImm d a imm => encImm 14 d a imm.toNat
  | .shlLit d a l => encLit 14 d a l
  | .shr d a b => encReg 15 d a b 0
  | .shrImm d a imm => encImm 15 d a imm.toNat
  | .shrLit d a l => encLit 15 d a l
  | .sra d a b => encReg 16 d a b 0
  | .sraImm d a imm => encImm 16 d a imm.toNat
  | .sraLit d a l => encLit 16 d a l
  | .rotl d a b => encReg 17 d a b 0
  | .rotlImm d a imm => encImm 17 d a imm.toNat
  | .rotlLit d a l => encLit 17 d a l
  | .min d a b => encReg 18 d a b 0
  | .minImm d a imm => encImm 18 d a imm.toNat
  | .minLit d a l => encLit 18 d a l
  | .max d a b => encReg 19 d a b 0
  | .maxImm d a imm => encImm 19 d a imm.toNat
  | .maxLit d a l => encLit 19 d a l
  | .minu d a b => encReg 20 d a b 0
  | .minuImm d a imm => encImm 20 d a imm.toNat
  | .minuLit d a l => encLit 20 d a l
  | .maxu d a b => encReg 21 d a b 0
  | .maxuImm d a imm => encImm 21 d a imm.toNat
  | .maxuLit d a l => encLit 21 d a l
  | .sel d a b p => encReg 22 d a b p.val
  | .mov d a => encReg 23 d a 0 0
  | .movImm d imm => encImm 23 d 0 imm.toNat
  | .movLit d l => encLit 23 d 0 l
  | .ext d a b s => encReg 24 d a b (bit s)
  | .bitClz d a => encReg 25 d a 0 0
  | .bitCtz d a => encReg 25 d a 0 1
  | .bitPopc d a => encReg 25 d a 0 2
  | .bitBrev d a => encReg 25 d a 0 3
  | .cmp c d a b => encReg 26 (Fin.ofNat 64 d.val) a b c.code
  | .plog o d a b => encReg 27 (Fin.ofNat 64 d.val) (Fin.ofNat 64 a.val) (Fin.ofNat 64 b.val) o.code
  | .faddS d a b => encReg 28 d a b 0
  | .faddSLit d a k v => encLit 28 d a (.word k v)
  | .fsubS d a b => encReg 29 d a b 0
  | .fsubSLit d a k v => encLit 29 d a (.word k v)
  | .fmulS d a b => encReg 30 d a b 0
  | .fmulSLit d a k v => encLit 30 d a (.word k v)
  | .ffmaS d a b => encReg 31 d a b 0
  | .ffmaSLit d a k v => encLit 31 d a (.word k v)
  | .fminS d a b => encReg 32 d a b 0
  | .fminSLit d a k v => encLit 32 d a (.word k v)
  | .fmaxS d a b => encReg 33 d a b 0
  | .fmaxSLit d a k v => encLit 33 d a (.word k v)
  | .fcmp c d a b => encReg 34 (Fin.ofNat 64 d.val) a b c.code
  | .fcvtTo f d a r => encReg 35 d a 0 (f.code * 2 ^ 4 + 2 ^ 3 + r.code)
  | .fcvtFrom f d a r => encReg 35 d a 0 (f.code * 2 ^ 4 + r.code)
  | .mfs d r => encImm 36 d 0 r.number
  | .mts r a => encImm 37 0 a r.number
  | .rsvWrite n a => encImm 37 0 a (SysReg.rsv n).number
  | .injDropreplyArm a => encImm 37 0 a SysReg.injDropReply.number
  | .cmpt a b => encReg 38 0 a b 0
  | .crd d k => encReg 39 d 0 0 k.val
  | .cwr k add a b => encReg 40 (Fin.ofNat 64 (bit add * 32 + k.val)) a b 0
  | .cwrImm k add a imm => encImm 40 (Fin.ofNat 64 (bit add * 32 + k.val)) a imm.toNat
  | .lcr d k => encReg 41 d 0 0 k.val
  | .ldB d a disp => encMem 1 d.val a.val disp.toNat
  | .ldBu d a disp => encMem 2 d.val a.val disp.toNat
  | .ldH d a disp => encMem 3 d.val a.val disp.toNat
  | .ldHu d a disp => encMem 4 d.val a.val disp.toNat
  | .ldW d a disp => encMem 5 d.val a.val disp.toNat
  | .ldWu d a disp => encMem 6 d.val a.val disp.toNat
  | .ldD d a disp => encMem 7 d.val a.val disp.toNat
  | .stB d a disp => encMem 9 d.val a.val disp.toNat
  | .stH d a disp => encMem 10 d.val a.val disp.toNat
  | .stW d a disp => encMem 11 d.val a.val disp.toNat
  | .stD d a disp => encMem 12 d.val a.val disp.toNat
  | .vld d a disp => encMem 16 d.val a.val disp.toNat
  | .vst d a disp => encMem 17 d.val a.val disp.toNat
  | .vlds d a s disp => encMem 18 d.val a.val (s.val * 2 ^ 9 + disp.toNat)
  | .vsts d a s disp => encMem 19 d.val a.val (s.val * 2 ^ 9 + disp.toNat)
  | .vgth d a i => encMem 20 d.val a.val (i.val * 2 ^ 10)
  | .vsct d a i => encMem 21 d.val a.val (i.val * 2 ^ 10)
  | .vadd c d a b s => encVec 1 c d.val a.val b.val (bit s)
  | .vsub c d a b s => encVec 2 c d.val a.val b.val (bit s)
  | .vmul c d a b s => encVec 3 c d.val a.val b.val (bit s)
  | .vfma c d a b e => encVec 4 c d.val a.val b.val e.val
  | .vfms c d a b e => encVec 5 c d.val a.val b.val e.val
  | .vdot c d a b e => encVec 29 c d.val a.val b.val e.val
  | .vmin c d a b => encVec 6 c d.val a.val b.val 0
  | .vmax c d a b => encVec 7 c d.val a.val b.val 0
  | .vand c d a b => encVec 10 c d.val a.val b.val 0
  | .vor c d a b => encVec 11 c d.val a.val b.val 0
  | .vxor c d a b => encVec 12 c d.val a.val b.val 0
  | .vshl c d a b => encVec 13 c d.val a.val b.val 0
  | .vshr c d a b => encVec 14 c d.val a.val b.val 0
  | .vsra c d a b => encVec 15 c d.val a.val b.val 0
  | .vperm c d a b => encVec 22 c d.val a.val b.val 0
  | .vabs c d a s => encVec 8 c d.val a.val 0 (bit s)
  | .vneg c d a s => encVec 9 c d.val a.val 0 (bit s)
  | .vcmp q z f d a b k => encVec 0x10 (VCtl.fixed q z f) d.val a.val b.val k.code
  | .vsel c d a b qs => encVec 0x11 c d.val a.val b.val qs.val
  | .vcvt c d a t r sat => encVec 0x12 c d.val a.val (r.code + bit sat * 8) t.code
  | .vfun c d a fn => encVec 0x13 c d.val a.val 0 fn.code
  | .vred c d a op => encVec 0x14 c d.val a.val 0 op.code
  | .vscn c d a => encVec 0x15 c d.val a.val 0 0
  | .vshf c d a b m => encVec 0x17 c d.val a.val b.val m.code
  | .vbcs c d x => encVec 0x18 c d.val (x.val % 32) 0 (x.val / 32)
  | .vmvx f d b i => encVec 0x19 (VCtl.fixed 0 false f) (i.val % 32) (d.val % 32) b.val (i.val / 32 * 2 + d.val / 32)
  | .vins f d x i => encVec 0x1A (VCtl.fixed 0 false f) d.val (x.val % 32) (i.val % 32) (i.val / 32 * 2 + x.val / 32)
  | .vrng c d a n hi => encVec 0x1B c d.val a.val 0 (n.code + bit hi * 4)
  | .viota c d => encVec 0x1C c d.val 0 0 0
  | .vmov c d a => encVec 0x1E c d.val a.val 0 0
  | .vlit c d k v => encVec 0x1F c d.val 0 0 k.val [(k, v)]
  | .tld xt xo f tr nt =>
    encTile 0x01 (xt.val * 2 ^ 21 + xo.val * 2 ^ 15 +
      (match f with
        | .code f => f.code * 2 ^ 9
        | .table k => 2 ^ 14 + ctr3Bits k * 2 ^ 9) + bit nt * 2 + bit tr)
  | .tzer f xs => encTile 0x02 (f.code * 2 ^ 19 + xs.val * 2 ^ 10)
  | .tfil f xs xv => encTile 0x03 (f.code * 2 ^ 19 + xs.val * 2 ^ 10 + xv.val * 2 ^ 4)
  | .tdup => encTile 0x04 0
  | .tdrp => encTile 0x05 0
  | .tswp => encTile 0x06 0
  | .tpk n => encTile 0x07 n.val
  | .trot n => encTile 0x08 n.val
  | .trtd n => encTile 0x09 n.val
  | .tmma m => encArith 0x10 m 0
  | .tmmaD m => encArith 0x10 m 1
  | .tmac m => encArith 0x11 m 0
  | .tmacD m => encArith 0x11 m 1
  | .tadd m => encArith 0x12 m 0
  | .taddD m => encArith 0x12 m 1
  | .tsub m => encArith 0x13 m 0
  | .tmul m => encArith 0x14 m 0
  | .tmax m => encArith 0x15 m 0
  | .tmin m => encArith 0x16 m 0
  | .tscl m xs int => encArith 0x17 m (xs.val * 2 ^ 10 + bit int * 2 ^ 9)
  | .tbia m none => encArith 0x18 m 0
  | .tbia m (some k) => encArith 0x18 m (2 ^ 15 + k.code * 2 ^ 10)
  | .tfun m k => encArith 0x19 m (k.code * 2 ^ 10)
  | .tred m op cols => encArith 0x1A m (op.code * 2 ^ 4 + bit cols * 2 ^ 3)
  | .tsmx m => encArith 0x1B m 0
  | .ttrn m => encArith 0x1C m 0
  | .tcvt m => encArith 0x1D m 0
  | .tslc m xs => encArith 0x1E m (xs.val * 2 ^ 10)
  | .tcat m cols => encArith 0x1F m (bit cols * 2 ^ 3)
  | .tbcs m xs => encArith 0x20 m (xs.val * 2 ^ 10)
  | .tmsk m none => encArith 0x21 m 0
  | .tmsk m (some x) => encArith 0x21 m (x.val * 2 ^ 10 + 2 ^ 3)
  | .tchk => encTile 0x22 0
  | .tst xt xr f => encTile 0x30 (xt.val * 2 ^ 21 + xr.val * 2 ^ 15 + flagBits f)
  | .tfrc n xr f => encTile 0x31 (f.val * 2 ^ 12 + xr.val * 2 ^ 6 + n.val)
  | .scpy a f c x => encCopy 0x01 a.val 0 f c.val (bit x) 0
  | .sacc a f c x => encCopy 0x02 a.val 0 f c.val (bit x) 0
  | .satmFadd a f c => encCopy 0x03 a.val 0 f c.val 0 0
  | .satmFmin a f c => encCopy 0x03 a.val 0 f c.val 0 1
  | .satmFmax a f c => encCopy 0x03 a.val 0 f c.val 0 2
  | .satmSwap a f c => encCopy 0x03 a.val 0 f c.val 0 3
  | .satmCas a f c => encCopy 0x03 a.val 0 f c.val 0 4
  | .satmIadd a f c => encCopy 0x03 a.val 0 f c.val 0 5
  | .satmAnd a f c => encCopy 0x03 a.val 0 f c.val 0 6
  | .satmOr a f c => encCopy 0x03 a.val 0 f c.val 0 7
  | .satmXor a f c => encCopy 0x03 a.val 0 f c.val 0 8
  | .ssig a b f c x => encCopy 0x04 a.val b.val f c.val (bit x) 0
  | .ssigRel a b f c x s => encCopy 0x04 a.val b.val f c.val (bit x) (1 + 2 * s.code)
  | .sgth a b f c x => encCopy 0x05 a.val b.val f c.val (bit x) 0
  | .sbar a b f => encCopy 0x08 0 0 f 0 0 (a.bits + 8 * b.bits)
  | .sdrn f => encCopy 0x09 0 0 f 0 0 0
  | .fenceAcq s f => encCopy 0x0A 0 0 f 0 0 s.code
  | .fenceRel s f => encCopy 0x0A 0 0 f 0 0 (4 + s.code)
  | .fenceSc s f => encCopy 0x0A 0 0 f 0 0 (8 + s.code)
  | .l2wb a f => encCopy 0x0B a.val 0 f 0 0 0
  | .l2inv a f => encCopy 0x0C a.val 0 f 0 0 0
  | .l2pf a ret f => encCopy 0x0D a.val 0 f 0 0 (bit ret)
  | .sxfr a b f => encCopy 0x0E a.val b.val f 0 0 0
  | .br off => encCtl 0x01 off.toNat
  | .call off => encCtl 0x02 off.toNat
  | .ret => encCtl 0x03 0
  | .jmpr a => encCtl 0x04 (a.val * 2 ^ 15)
  | .loop n len => encCtl 0x05 (n.toNat * 2 ^ 6 + len.val)
  | .loopr a len => encCtl 0x06 (a.val * 2 ^ 15 + len.val)
  | .lbrk => encCtl 0x07 0
  | .ckpt => encCtl 0x08 0
  | .rdv n => encCtl 0x09 n.toNat
  | .slack n => encCtl 0x0A n.toNat
  | .sstep d dom => encCtl 0x0B (d.val * 2 ^ 21 + dom.val)
  | .exit s0 s1 s2 s3 => encCtl 0x0C (s3.bits * 2 ^ 18 + s2.bits * 2 ^ 12 + s1.bits * 2 ^ 6 + s0.bits)
      (s0.pool ++ s1.pool ++ s2.pool ++ s3.pool)
  | .launch d a => encCtl 0x0D (d.val * 2 ^ 21 + a.val * 2 ^ 15)
  | .launchGraph d a => encCtl 0x0D (d.val * 2 ^ 21 + a.val * 2 ^ 15 + 1)
  | .fset k => encCtl 0x0E k.val
  | .fclr k => encCtl 0x0F k.val
  | .cset k n => encCtl 0x10 (k.val * 2 ^ 21 + n.toNat)
  | .brk k => encCtl 0x11 k.toNat
  | .trap k => encCtl 0x12 k.toNat
  | .rte => encCtl 0x13 0
  | .xbnd a => encCtl 0x14 (a.val * 2 ^ 15)
  | .icinv a b f s => encCtl 0x15 (a.val * 2 ^ 21 + b.val * 2 ^ 15 + flagBits f + s.code)
  | .tlbiAll f pod => encCtl 0x16 (flagBits f + 2 + bit pod)
  | .tlbiTensor a b f pod => encCtl 0x16 (a.val * 2 ^ 21 + b.val * 2 ^ 15 + flagBits f + 4 + 2 + bit pod)
  | .tlbiRange a b f pod => encCtl 0x16 (a.val * 2 ^ 21 + b.val * 2 ^ 15 + flagBits f + 8 + 2 + bit pod)
  | .mode v m => encCtl 0x17 (m.toNat * 2 ^ 8 + v.toNat)
  | .halt => encCtl 0x18 0
  | .yield => encCtl 0x19 0
  | .bundleIssue | .syncPass | .resultLand | .remoteLoadArrive _ | .aliasStoreWait | .remoteStoreArrive _
  | .remoteStoreAck _ | .demandEvaluation | .evalAheadOfDemand _ _ _ | .storeNodePerform _ _ | .tfrcComplete _
  | .valueMovement | .evaluationFault | .copyCommandComplete _ _ | .copyCommandFault _ | .signalIncrement _
  | .implicitCheckpoint | .invalidationComplete _ | .trapEntry _ _ | .lateTrap | .pageFault
  | .pageFaultResolved _ | .secondStageFault _ | .featureMaskedHypervisorResume _ | .preemptHorizon
  | .contextRestore | .remoteRequest _ | .remoteReply _ | .remoteTimeout _ _ _ | .busyBackoffExpiry _ _ _
  | .ackAlone _ _ | .ackArrival _ _ _ | .incarnationQuery _ _ | .incarnationQueryTimeout _ _
  | .contextDestroyedNotice _ _ | .ownerRestart _ | .sxfrSlotSend _ _ | .sxfrRetrySend _ _ | .sxfrDeadline _ _
  | .reservationAbandon _ | .flitReceive _ | .podTimeLoss | .podTimeAgainInStep | .packetRetransmissionTimeout _
  | .packetAgeExpiry _ | .rendezvousRelease _ _ | .stepBarrier _ | .taskDispatch | .taskCompletion _
  | .taskAging _ | .preemptionMark _ | .stepReplay _ _ | .watchdog _ | .frameMigration _ _ _ _ _
  | .tableUpdateMulticast _ _ | .kernelInvalidate _ _ | .stagingReconfigure _ _ | .memoryScrub
  | .l2DirtyEviction _ | .boot _ | .getVersion | .getCapabilities | .negotiateAlgorithms | .getDigests _
  | .getCertificate _ _ _ | .challenge _ _ | .getMeasurements _ _ | .spdmUnsupportedRequest _
  | .hostMailboxWrite _ _ _ | .hostBar2Access _ _ _ _ | .debugAuthorisation _ | .permitAudit _ _ _
  | .scanTest _ _ _ | .thermalThrottle _ | .thermalShutdown | .loadImage _ _ | .kernelCommandPortLaunch _ _ _
  | .contextCreation _ | .logicalCoreMapRenumber | .imageVerification _ | .kernelCodeWrite _ _ _ =>
    { kind := .alu, word := 0, pool := [] }

/-- Whether a row of the opcode table is an instruction of a slot, and of which kind: nop fits every slot, an event none. -/
def Instr.fits (i : Instr) (k : SlotKind) : Bool :=
  match i with
  | .nop => true
  | .bundleIssue | .syncPass | .resultLand | .remoteLoadArrive _ | .aliasStoreWait | .remoteStoreArrive _
  | .remoteStoreAck _ | .demandEvaluation | .evalAheadOfDemand _ _ _ | .storeNodePerform _ _ | .tfrcComplete _
  | .valueMovement | .evaluationFault | .copyCommandComplete _ _ | .copyCommandFault _ | .signalIncrement _
  | .implicitCheckpoint | .invalidationComplete _ | .trapEntry _ _ | .lateTrap | .pageFault
  | .pageFaultResolved _ | .secondStageFault _ | .featureMaskedHypervisorResume _ | .preemptHorizon
  | .contextRestore | .remoteRequest _ | .remoteReply _ | .remoteTimeout _ _ _ | .busyBackoffExpiry _ _ _
  | .ackAlone _ _ | .ackArrival _ _ _ | .incarnationQuery _ _ | .incarnationQueryTimeout _ _
  | .contextDestroyedNotice _ _ | .ownerRestart _ | .sxfrSlotSend _ _ | .sxfrRetrySend _ _ | .sxfrDeadline _ _
  | .reservationAbandon _ | .flitReceive _ | .podTimeLoss | .podTimeAgainInStep | .packetRetransmissionTimeout _
  | .packetAgeExpiry _ | .rendezvousRelease _ _ | .stepBarrier _ | .taskDispatch | .taskCompletion _
  | .taskAging _ | .preemptionMark _ | .stepReplay _ _ | .watchdog _ | .frameMigration _ _ _ _ _
  | .tableUpdateMulticast _ _ | .kernelInvalidate _ _ | .stagingReconfigure _ _ | .memoryScrub
  | .l2DirtyEviction _ | .boot _ | .getVersion | .getCapabilities | .negotiateAlgorithms | .getDigests _
  | .getCertificate _ _ _ | .challenge _ _ | .getMeasurements _ _ | .spdmUnsupportedRequest _
  | .hostMailboxWrite _ _ _ | .hostBar2Access _ _ _ _ | .debugAuthorisation _ | .permitAudit _ _ _
  | .scanTest _ _ _ | .thermalThrottle _ | .thermalShutdown | .loadImage _ _ | .kernelCommandPortLaunch _ _ _
  | .contextCreation _ | .logicalCoreMapRenumber | .imageVerification _ | .kernelCodeWrite _ _ _ => false
  | i => (encode i).kind == k

/-- The pool that holds the words an encoding names, and zero elsewhere. -/
def Enc.poolWords (e : Enc) : Pool :=
  let at_ := fun k : Fin 4 => match e.pool.find? (fun q => q.1 == k) with
    | some q => q.2
    | none => 0
  { l0 := at_ 0, l1 := at_ 1, l2 := at_ 2, l3 := at_ 3 }

/-- The bundle of 512 bits that holds one instruction in slot k, with the guard p0 and no SYNC. -/
def encodeBundle (k : Fin 8) (i : Instr) : Nat :=
  let e := encode i
  let p := e.poolWords
  2 ^ (8 + k.val) + (e.word <<< (64 + 40 * k.val)) + (p.l0.toNat <<< 384) + (p.l1.toNat <<< 416) +
    (p.l2.toNat <<< 448) + (p.l3.toNat <<< 480)

/-! ### Bytes of a bundle (R37) -/

/-- The 64 bytes of a bundle, the first at the lowest address. -/
def bundleBytes (w : BitVec 512) : List Byte :=
  (List.range 64).map (fun n => BitVec.ofNat 8 (w.toNat >>> (8 * n)))

/-- The number of a little-endian run of bytes. -/
def leNat : List Byte → Nat
  | [] => 0
  | b :: bs => b.toNat + 256 * leNat bs

end Sys2Proof
end

