-- ==== Sys2Proof/Machine/Num.lean ====
section
/-! DEFINITION. Number formats (spec/09): exact values, decoding, rounding and encoding of the 32 formats, the min and max
rules, sums in their fixed order, the functions of R222 to R225, and the random numbers of R226. -/

namespace Sys2Proof.Machine

/-! ### Exact values -/

/-- An exact value: NaN, an infinity, or (−1)^neg * m * 2^e, zeros signed (R206). -/
inductive Num where
  | nan
  | inf (neg : Bool)
  | fin (neg : Bool) (m : Nat) (e : Int)
  deriving DecidableEq, Repr

/-- A zero. -/
def Num.zero (neg : Bool) : Num := .fin neg 0 0

/-- An integer as an exact value. -/
def Num.ofInt (n : Int) : Num := .fin (decide (n < 0)) n.natAbs 0

/-- The value is NaN. -/
def Num.isNan : Num → Bool
  | .nan => true
  | _ => false

/-- The value is a zero of either sign. -/
def Num.isZero : Num → Bool
  | .fin _ m _ => m == 0
  | _ => false

/-- The value is an infinity. -/
def Num.isInf : Num → Bool
  | .inf _ => true
  | _ => false

/-- The sign of a value. -/
def Num.neg? : Num → Bool
  | .nan => false
  | .inf n => n
  | .fin n _ _ => n

/-- The value with its sign inverted. -/
def Num.negate : Num → Num
  | .nan => .nan
  | .inf n => .inf (!n)
  | .fin n m e => .fin (!n) m e

/-- m * 2^(e − lo) for lo ≤ e. -/
def scaleTo (m : Nat) (e lo : Int) : Nat := m <<< (e - lo).toNat

/-- The exact sum (R213). An exact zero of a cancellation, or of zeros of opposite sign, takes the sign zneg, which the
rounding mode of the step gives: − under RDN. -/
def Num.add (a b : Num) (zneg : Bool) : Num :=
  match a, b with
  | .nan, _ => .nan
  | _, .nan => .nan
  | .inf x, .inf y => if x = y then .inf x else .nan
  | .inf x, _ => .inf x
  | _, .inf y => .inf y
  | .fin x m e, .fin y n f =>
    if m = 0 ∧ n = 0 then .fin (if x = y then x else zneg) 0 0
    else
      let lo := min e f
      let p : Int := if x then -(scaleTo m e lo : Int) else (scaleTo m e lo : Int)
      let q : Int := if y then -(scaleTo n f lo : Int) else (scaleTo n f lo : Int)
      if p + q = 0 then .fin zneg 0 0 else .fin (decide (p + q < 0)) (p + q).natAbs lo

/-- The exact product (R213). -/
def Num.mul (a b : Num) : Num :=
  match a, b with
  | .nan, _ => .nan
  | _, .nan => .nan
  | .inf x, .inf y => .inf (x != y)
  | .inf x, .fin y n _ => if n = 0 then .nan else .inf (x != y)
  | .fin x m _, .inf y => if m = 0 then .nan else .inf (x != y)
  | .fin x m e, .fin y n f => .fin (x != y) (m * n) (e + f)

/-- a < b for values that are not NaN; zeros are equal. -/
def Num.lt (a b : Num) : Bool :=
  match a, b with
  | .nan, _ => false
  | _, .nan => false
  | .inf x, .inf y => x && !y
  | .inf x, .fin _ _ _ => x
  | .fin _ _ _, .inf y => !y
  | .fin x m e, .fin y n f =>
    let lo := min e f
    let p : Int := if x then -(scaleTo m e lo : Int) else (scaleTo m e lo : Int)
    let q : Int := if y then -(scaleTo n f lo : Int) else (scaleTo n f lo : Int)
    decide (p < q)

/-- a = b as numbers, −0 equal to +0, NaN equal to nothing. -/
def Num.eqv (a b : Num) : Bool := !a.isNan && !b.isNan && !a.lt b && !b.lt a

/-- The max rule of R213. -/
def Num.maxRule (a b : Num) : Num :=
  if a.isNan || b.isNan then .nan
  else if a.lt b then b
  else if b.lt a then a
  else if a.neg? then b else a

/-- The min rule of R213. -/
def Num.minRule (a b : Num) : Num :=
  if a.isNan || b.isNan then .nan
  else if a.lt b then a
  else if b.lt a then b
  else if a.neg? then a else b

/-! ### Random numbers (R226) -/

/-- A 32-bit rotation to the left. -/
def rotl32 (v : Word32) (n : Nat) : Word32 := (v <<< n) ||| (v >>> (32 - n))

/-- One round of rngc. -/
def rngRound (k0 k1 : Word32) (j : Nat) (x : Word32 × Word32) : Word32 × Word32 :=
  let k := if j % 2 = 0 then k0 else k1
  let x0 := x.1 + x.2 + k + 0x6C8E_9CF5 * BitVec.ofNat 32 (j + 1)
  let rot := match j % 4 with
    | 0 => 13
    | 1 => 7
    | 2 => 19
    | _ => 11
  (x0, rotl32 x.2 rot ^^^ x0)

/-- rngc(ctr, key, n) of R226. -/
def rngc (ctr key : Word) (n : Nat) : Word :=
  let r := (List.range n).foldl (fun x j => rngRound (key.setWidth 32) ((key >>> 32).setWidth 32) j x)
    (ctr.setWidth 32, (ctr >>> 32).setWidth 32)
  r.2 ++ r.1

/-! ### Rounding (R203, R204) -/

/-- Counter and key of a stochastic rounding. -/
structure SrKey where
  ctr : Word
  key : Word
  deriving DecidableEq, Repr

/-- Round the positive number num/den * 2^e of the given sign to a multiple of 2^lsb: the multiple of its magnitude
(R203). -/
def roundMag (rnd : Rnd) (neg : Bool) (num den : Nat) (e lsb : Int) (sr : SrKey) : Nat :=
  let n := if lsb ≤ e then num <<< (e - lsb).toNat else num
  let d := if lsb ≤ e then den else den <<< (lsb - e).toNat
  let q := n / d
  let r := n % d
  if r = 0 then q
  else
    let up : Bool := match rnd with
      | .rne => decide (2 * r > d) || (decide (2 * r = d) && q % 2 == 1)
      | .rtz => false
      | .rdn => neg
      | .rup => !neg
      | .rna => decide (2 * r ≥ d)
      | .sr =>
        let f := (if neg then d - r else r) * 2 ^ 24 / d
        let hi := decide (((rngc sr.ctr sr.key 8).toNat / 2 ^ 8) % 2 ^ 24 < f)
        hi != neg
    if up then q + 1 else q

/-- floor(log2(num/den)) of a positive number. -/
def ilog2Rat (num den : Nat) : Int :=
  let k : Int := (Nat.log2 num : Int) - Nat.log2 den
  let ge : Bool := if 0 ≤ k then decide (den <<< k.toNat ≤ num) else decide (den ≤ num <<< (-k).toNat)
  if ge then k else k - 1

/-! ### Element formats (R193 to R196) -/

/-- What a floating format marks as infinity and NaN (R195). -/
inductive FloatStyle where
  | ieee | allOnes | finite
  deriving DecidableEq, Repr

/-- A floating element format: exponent bits, fraction bits, bias, style. -/
structure FloatFmt where
  e : Nat
  m : Nat
  bias : Int
  style : FloatStyle
  deriving DecidableEq, Repr

/-- The floating format in which the elements of a format are coded (R195, R199, R201). -/
def floatFmt : Fmt → Option FloatFmt
  | .fp4 | .mxfp4 => some ⟨2, 1, 1, .finite⟩
  | .fp6a | .mxfp6a => some ⟨2, 3, 1, .finite⟩
  | .fp6b | .mxfp6b => some ⟨3, 2, 3, .finite⟩
  | .fp8a | .mxfp8a | .fp8at => some ⟨4, 3, 7, .allOnes⟩
  | .fp8c => some ⟨3, 4, 3, .allOnes⟩
  | .fp8b | .mxfp8b | .fp8bt => some ⟨5, 2, 15, .ieee⟩
  | .fp16 => some ⟨5, 10, 15, .ieee⟩
  | .bf16 => some ⟨8, 7, 127, .ieee⟩
  | .fp32 => some ⟨8, 23, 127, .ieee⟩
  | .fp19 => some ⟨8, 10, 127, .ieee⟩
  | _ => none

/-- The range of an integer format (R193). -/
def intRange : Fmt → Option (Int × Int)
  | .int4 => some (-8, 7)
  | .uint4 => some (0, 15)
  | .int8 => some (-128, 127)
  | .uint8 => some (0, 255)
  | .int16 => some (-32768, 32767)
  | .int32 => some (-2147483648, 2147483647)
  | .tri2 => some (-1, 1)
  | .bool1 => some (0, 1)
  | _ => none

/-- Decode a floating element (R195); with FTZ a subnormal reads as a zero of its sign (R211). -/
def decodeFloat (f : FloatFmt) (ftz : Bool) (bits : Nat) : Num :=
  let neg := bits / 2 ^ (f.e + f.m) % 2 == 1
  let ex := bits / 2 ^ f.m % 2 ^ f.e
  let fr := bits % 2 ^ f.m
  let top := ex = 2 ^ f.e - 1
  if f.style = .ieee ∧ top then (if fr = 0 then .inf neg else .nan)
  else if f.style = .allOnes ∧ top ∧ fr = 2 ^ f.m - 1 then .nan
  else if ex = 0 then .fin neg (if ftz then 0 else fr) (1 - f.bias - f.m)
  else .fin neg (2 ^ f.m + fr) (ex - f.bias - f.m)

/-- A TRI2 element of 0b10, which reads as 0 and is counted (R194). -/
def badTri2 (f : Fmt) (bits : Nat) : Bool := f == .tri2 && bits % 4 == 2

/-- Decode an element of an element format (R194, R195). -/
def decodeElem (f : Fmt) (ftz : Bool) (bits : Nat) : Num :=
  match f with
  | .tri2 => Num.ofInt (match bits % 4 with
    | 1 => 1
    | 3 => -1
    | _ => 0)
  | .uint4 => Num.ofInt (bits % 16 : Nat)
  | .uint8 => Num.ofInt (bits % 256 : Nat)
  | .bool1 => Num.ofInt (bits % 2 : Nat)
  | .int4 => Num.ofInt (if bits % 16 < 8 then (bits % 16 : Nat) else (bits % 16 : Nat) - 16)
  | .int8 => Num.ofInt (if bits % 256 < 128 then (bits % 256 : Nat) else (bits % 256 : Nat) - 256)
  | .int16 => Num.ofInt (if bits % 65536 < 32768 then (bits % 65536 : Nat) else (bits % 65536 : Nat) - 65536)
  | .int32 => Num.ofInt (if bits % 2 ^ 32 < 2 ^ 31 then (bits % 2 ^ 32 : Nat) else (bits % 2 ^ 32 : Nat) - 2 ^ 32)
  | .ue8m0 => if bits % 256 = 255 then .nan else .fin false 1 ((bits % 256 : Nat) - 127)
  | .fp19 => decodeFloat ⟨8, 10, 127, .ieee⟩ ftz (bits / 2 ^ 13)
  | f =>
    match floatFmt f with
    | some p => decodeFloat p ftz bits
    | none => .nan

/-- Decode an FP32 word. -/
def decodeFp32 (ftz : Bool) (w : Word32) : Num := decodeElem .fp32 ftz w.toNat

/-! ### Encoding (R206, R207, R212) -/

/-- What encoding meets beside its bits: nothing, or the fault that checked mode makes of it (R212). -/
inductive EncEx where
  | none | overflow | invalid
  deriving DecidableEq, Repr

/-- The bits of an encoding and what it met. -/
structure Enc where
  bits : Nat
  ex : EncEx
  deriving DecidableEq, Repr

/-- The largest exponent field and the fraction with it of a finite value. -/
def FloatFmt.top (f : FloatFmt) : Nat × Nat :=
  match f.style with
  | .ieee => (2 ^ f.e - 2, 2 ^ f.m - 1)
  | .allOnes => (2 ^ f.e - 1, 2 ^ f.m - 2)
  | .finite => (2 ^ f.e - 1, 2 ^ f.m - 1)

/-- The bits of sign, exponent field and fraction. -/
def FloatFmt.pack (f : FloatFmt) (neg : Bool) (ex fr : Nat) : Nat :=
  (if neg then 2 ^ (f.e + f.m) else 0) + ex * 2 ^ f.m + fr

/-- The canonical NaN (R195); +0 where the format has none (R206). -/
def FloatFmt.nan (f : FloatFmt) : Nat :=
  match f.style with
  | .ieee => (2 ^ f.e - 1) * 2 ^ f.m + 2 ^ (f.m - 1)
  | .allOnes => (2 ^ f.e - 1) * 2 ^ f.m + (2 ^ f.m - 1)
  | .finite => 0

/-- An overflowing value of a sign (R206). -/
def FloatFmt.overflow (f : FloatFmt) (rnd : Rnd) (sat neg : Bool) : Nat :=
  let mx := f.pack neg f.top.1 f.top.2
  let big : Bool := !sat && (match rnd with
    | .rne | .rna | .sr => true
    | .rtz => false
    | .rdn => neg
    | .rup => !neg)
  if !big then mx
  else match f.style with
    | .ieee => f.pack neg (2 ^ f.e - 1) 0
    | .allOnes => f.nan
    | .finite => mx

/-- Encode the finite nonzero num/den * 2^e into a floating format (R203, R206, R211). -/
def encodeFloatRat (f : FloatFmt) (rnd : Rnd) (sat ftz : Bool) (sr : SrKey) (neg : Bool) (num den : Nat) (e : Int) : Enc :=
  let lsb := max (ilog2Rat num den + e - f.m) (1 - f.bias - f.m)
  let q := roundMag rnd neg num den e lsb sr
  let q' := if q = 2 ^ (f.m + 1) then 2 ^ f.m else q
  let lsb' := if q = 2 ^ (f.m + 1) then lsb + 1 else lsb
  if q' < 2 ^ f.m then ⟨f.pack neg 0 (if ftz then 0 else q'), .none⟩
  else
    let ex := (lsb' + f.m + f.bias).toNat
    let fr := q' - 2 ^ f.m
    if f.top.1 < ex ∨ (ex = f.top.1 ∧ f.top.2 < fr) then ⟨f.overflow rnd sat neg, .overflow⟩
    else ⟨f.pack neg ex fr, .none⟩

/-- Encode a value into a floating format (R206). -/
def encodeFloat (f : FloatFmt) (rnd : Rnd) (sat ftz : Bool) (sr : SrKey) (v : Num) : Enc :=
  match v with
  | .nan => ⟨f.nan, if f.style = .finite then .invalid else .none⟩
  | .inf neg =>
    match f.style with
    | .ieee => ⟨f.pack neg (2 ^ f.e - 1) 0, .none⟩
    | .allOnes => ⟨if sat then f.pack neg f.top.1 f.top.2 else f.nan, .overflow⟩
    | .finite => ⟨f.pack neg f.top.1 f.top.2, .overflow⟩
  | .fin neg m e => if m = 0 then ⟨f.pack neg 0 0, .none⟩ else encodeFloatRat f rnd sat ftz sr neg m 1 e

/-- Encode a value into UE8M0 (R206) (DEDUCED, log entry 55). -/
def encodeUe8 (rnd : Rnd) (sat : Bool) (v : Num) : Enc :=
  match v with
  | .nan => ⟨0xFF, .none⟩
  | .inf true => ⟨0xFF, .overflow⟩
  | .inf false => ⟨if sat then 0xFE else 0xFF, .overflow⟩
  | .fin neg m e =>
    if neg ∨ m = 0 then ⟨0xFF, .none⟩
    else
      let l := Nat.log2 m
      let exact := m = 2 ^ l
      let up : Bool := match rnd with
        | .rne | .rna | .sr => decide (3 * 2 ^ l ≤ 2 * m)
        | .rup => true
        | .rtz | .rdn => false
      let a : Int := l + e + (if exact then 0 else if up then 1 else 0)
      if a < -127 then ⟨0x00, .none⟩
      else if 127 < a then ⟨if sat then 0xFE else 0xFF, .overflow⟩
      else ⟨(a + 127).toNat, .none⟩

/-- A finite value rounded to an integer (R203, R207). -/
def roundInt (rnd : Rnd) (sr : SrKey) (neg : Bool) (num den : Nat) (e : Int) : Int :=
  let q := roundMag rnd neg num den e 0 sr
  if neg then -(q : Int) else q

/-- The low w bits of an integer. -/
def intBits (w : Nat) (n : Int) : Nat := (n % (2 ^ w : Nat)).toNat

/-- Encode a value into an integer format (R207); srcInt says that the source counts as an integer one. -/
def encodeInt (f : Fmt) (lo hi : Int) (rnd : Rnd) (sat srcInt : Bool) (sr : SrKey) (v : Num) : Enc :=
  let ex0 : EncEx := match v with
    | .nan => .invalid
    | .inf _ => .overflow
    | _ => .none
  if f = .bool1 then ⟨if v.isZero then 0 else 1, ex0⟩
  else match v with
    | .nan => ⟨0, .invalid⟩
    | .inf neg => ⟨intBits f.width (if neg then lo else hi), .overflow⟩
    | .fin neg m e =>
      let n := roundInt rnd sr neg m 1 e
      if lo ≤ n ∧ n ≤ hi then ⟨intBits f.width n, .none⟩
      else if srcInt && !sat && f != .tri2 then ⟨intBits f.width n, .overflow⟩
      else ⟨intBits f.width (if n < lo then lo else hi), .overflow⟩

/-- Encode a value into an element format (R206, R207). -/
def encodeElem (f : Fmt) (rnd : Rnd) (sat ftz srcInt : Bool) (sr : SrKey) (v : Num) : Enc :=
  match intRange f with
  | some (lo, hi) => encodeInt f lo hi rnd sat srcInt sr v
  | none =>
    match f with
    | .ue8m0 => encodeUe8 rnd sat v
    | .fp19 =>
      let e := encodeFloat ⟨8, 10, 127, .ieee⟩ rnd sat ftz sr v
      ⟨e.bits * 2 ^ 13, e.ex⟩
    | f =>
      match floatFmt f with
      | some p => encodeFloat p rnd sat ftz sr v
      | none => ⟨0, .none⟩

/-- No stochastic rounding: its key is never read. -/
def SrKey.none : SrKey := ⟨0, 0⟩

/-- Round a value once into FP32 (rne of R7 and R224). -/
def rneFp32 (ftz : Bool) (v : Num) : Word32 :=
  BitVec.ofNat 32 (encodeElem .fp32 .rne false ftz false SrKey.none v).bits

/-- The value of an FP32 rounding of a value. -/
def rneNum (ftz : Bool) (v : Num) : Num := decodeFp32 ftz (rneFp32 ftz v)

/-! ### Block and scaled formats (R198 to R201, R208 to R210) -/

/-- The magnitude width of an SE format (R198). -/
def seMag : Fmt → Option Nat
  | .se4 => some 2
  | .se6 => some 4
  | .se9 => some 7
  | _ => none

/-- Decode an element with what it stands under: for an SE format aux is the shared exponent with the pair's
micro-exponent in bit 8; for an MX format the scale X; for INT4G the scale g; for a scaled format its FP32 scale. -/
def decodeAux (f : Fmt) (ftz : Bool) (bits aux : Nat) : Num :=
  match seMag f with
  | some m =>
    if aux % 256 = 255 then .nan
    else .fin (bits / 2 ^ m % 2 == 1) (bits % 2 ^ m) ((aux % 256 : Nat) - 127 - (aux / 256 % 2 : Nat) - ((m : Int) - 1))
  | none =>
    match f with
    | .mxfp4 | .mxfp6a | .mxfp6b | .mxfp8a | .mxfp8b => (decodeElem .ue8m0 false aux).mul (decodeElem f ftz bits)
    | .mxint8 => ((decodeElem .ue8m0 false aux).mul (decodeElem .int8 false bits)).mul (.fin false 1 (-6))
    | .int4g => (decodeElem .bf16 false aux).mul (decodeElem .int4 false bits)
    | .int8r => (decodeElem .fp32 false aux).mul (decodeElem .int8 false bits)
    | .fp8at | .fp8bt => (decodeElem .fp32 false aux).mul (decodeElem f ftz bits)
    | f => decodeElem f ftz bits

/-- The largest finite FP32 value of a sign. -/
def maxFp32 (neg : Bool) : Num := .fin neg (2 ^ 24 - 1) 104

/-- An infinite value as the largest finite FP32 value of its sign (R208, R209). -/
def Num.bound : Num → Num
  | .inf n => maxFp32 n
  | v => v

/-- floor(log2 |v|) of a finite nonzero value. -/
def Num.ilog2 : Num → Int
  | .fin _ m e => Nat.log2 m + e
  | _ => 0

/-- The largest of a list of exponents. -/
def maxInt? : List Int → Option Int
  | [] => none
  | x :: xs => some (xs.foldl max x)

/-- An element of an encoded block: its bits and what it stands under. -/
abbrev BlockElem := Nat × Nat

/-- The counter of the key of element n of a block whose first element has the key's counter: ctr[15:0] counts the
element of the tile (R204). -/
def SrKey.at (k : SrKey) (i : Nat) : SrKey := { k with ctr := (k.ctr &&& ~~~0xFFFF) ||| BitVec.ofNat 64 (i % 65536) }

/-- The byte of a shared exponent that the rules compute as e; beyond the last that they state it is free (R208, R209)
(DESIGN CHOICE, log entry 23). -/
def expByte (last e : Int) : Nat := if e ≤ last then e.toNat else (Config.blockExponent e).toNat

/-- R208: encode 16 values into an SE block. The keys of the elements are given beside them. -/
def encodeSe (m : Nat) (rnd : Rnd) (sat : Bool) (vs : List (Num × SrKey)) : List BlockElem :=
  if vs.any (fun v => v.1.isNan) || (!sat && vs.any (fun v => v.1.isInf)) then vs.map (fun _ => (0, 255))
  else
    let vs := vs.map (fun v => (v.1.bound, v.2))
    match maxInt? ((vs.filter (fun v => !v.1.isZero)).map (fun v => v.1.ilog2)) with
    | none => vs.map (fun v => (if v.1.neg? then 2 ^ m else 0, 0))
    | some emax =>
      let e := max (emax + 127) 0
      vs.zipIdx.map (fun p =>
        let pair := (vs.drop (p.2 / 2 * 2)).take 2
        let mu : Nat := match maxInt? ((pair.filter (fun v => !v.1.isZero)).map (fun v => v.1.ilog2)) with
          | none => 1
          | some pm => if pm < emax then 1 else 0
        let q := match p.1.1 with
          | .fin neg mm ee => (roundInt rnd p.1.2 neg mm 1 (ee - (e - 127 - Int.ofNat mu - ((m : Int) - 1)))).natAbs
          | _ => 0
        (min q (2 ^ m - 1) + (if p.1.1.neg? then 2 ^ m else 0), expByte 255 e + 256 * mu))

/-- The exponent of the element format's largest normal (R209). -/
def mxEmax : Fmt → Int
  | .mxfp4 | .mxfp6a => 2
  | .mxfp6b => 4
  | .mxfp8a => 8
  | .mxfp8b => 15
  | _ => 0

/-- R209: encode 32 values into an MX block. -/
def encodeMx (f : Fmt) (rnd : Rnd) (sat ftz : Bool) (vs : List (Num × SrKey)) : List BlockElem :=
  if vs.any (fun v => v.1.isNan) || (!sat && vs.any (fun v => v.1.isInf)) then vs.map (fun _ => (0, 255))
  else
    let vs := vs.map (fun v => (v.1.bound, v.2))
    let x : Int := match maxInt? ((vs.filter (fun v => !v.1.isZero)).map (fun v => v.1.ilog2)) with
      | none => -127
      | some e => max (e - mxEmax f) (-127)
    vs.map (fun v =>
      let s := v.1.mul (.fin false 1 (-x))
      let bits :=
        if f = .mxint8 then
          match s.mul (.fin false 1 6) with
          | .fin neg m e => intBits 8 (max (-127) (min 127 (roundInt rnd v.2 neg m 1 e)))
          | _ => 0
        else (encodeElem f rnd true ftz false v.2 s).bits
      (bits, expByte 254 (x + 127)))

/-- R210: encode 32 values into an INT4G block. The rule states no value for an infinite element with sat = 1: it counts
here as the largest finite FP32 value of its sign, as in R208 and R209 (DESIGN CHOICE, log entry 103). -/
def encodeInt4g (rnd : Rnd) (sat : Bool) (vs : List (Num × SrKey)) : List BlockElem :=
  if vs.any (fun v => v.1.isNan) || (!sat && vs.any (fun v => v.1.isInf)) then vs.map (fun _ => (0, 0x7FC0))
  else
    let vs := vs.map (fun v => (v.1.bound, v.2))
    let amax := vs.foldl (fun a v => match v.1 with
      | .fin _ m e => Num.maxRule a (.fin false m e)
      | _ => a) (Num.zero false)
    let g : Nat := match amax with
      | .fin _ m e => if m = 0 then 0 else (encodeFloatRat ⟨8, 7, 127, .ieee⟩ .rne sat false SrKey.none false m 7 e).bits
      | _ => 0
    match decodeElem .bf16 false g with
    | .fin _ gm ge =>
      vs.map (fun v => (match v.1 with
        | .fin neg m e =>
          if gm = 0 then 0 else intBits 4 (max (-8) (min 7 (roundInt rnd v.2 neg m gm (e - ge))))
        | _ => 0, g))
    | _ => vs.map (fun _ => (0, g))

/-- Encode the values of one block into a block format (R208 to R210), or of one element into an element format. What
checked mode would fault on is that of the elements before any clamp: an infinity or a NaN in a block. -/
def encodeBlock (f : Fmt) (rnd : Rnd) (sat ftz : Bool) (vs : List (Num × SrKey)) : List BlockElem :=
  match seMag f with
  | some m => encodeSe m rnd sat vs
  | none => if f = .int4g then encodeInt4g rnd sat vs else encodeMx f rnd sat ftz vs

/-- A value overflows the block format it is encoded into (R212): a finite one that the format's largest scale does not
reach (DEDUCED, log entry 106), or an infinity where the elements have none. -/
def blockOverflows (f : Fmt) (v : Num) : Bool :=
  match v with
  | .nan => false
  | .inf _ => !(f == .mxfp8b)
  | .fin neg m e =>
    if m = 0 then false
    else if (seMag f).isSome then decide (254 < v.ilog2 + 127)
    else if f = .int4g then
      (encodeFloatRat ⟨8, 7, 127, .ieee⟩ .rne false false SrKey.none neg m 7 e).ex != .none
    else decide (127 < v.ilog2 - mxEmax f)

/-- The bits of an element as a write leaves them: FP19 has bits [12:0] zero (R195). -/
def cleanBits (f : Fmt) (bits : Nat) : Nat := if f = .fp19 then bits / 2 ^ 13 * 2 ^ 13 else bits

/-! ### Sums (R216 to R219) -/

/-- The exact sum of a block of terms (R217). -/
def blockSum (ps : List Num) : Num :=
  match ps with
  | [] => Num.zero false
  | p :: rest => rest.foldl (fun a b => a.add b false) p

/-- The modes of an accumulation: saturate, FTZ. -/
structure AccMode where
  sat : Bool
  ftz : Bool
  deriving DecidableEq, Repr

/-- One step acc + s of the FP32 accumulator (R216): the rounded value, and what checked mode would fault on. -/
def accStep (m : AccMode) (acc s : Num) : Num × EncEx :=
  let t := acc.add s false
  let e := encodeElem .fp32 .rne m.sat m.ftz false SrKey.none t
  (decodeFp32 m.ftz (BitVec.ofNat 32 e.bits),
    if t.isNan && !acc.isNan && !s.isNan then .invalid else e.ex)

/-- The first of two findings. -/
def EncEx.or (a b : EncEx) : EncEx := if a = .none then b else a

/-- The terms cut into blocks of 16 (R216), with n as the bound on their number. -/
def blocks16 (ps : List Num) : Nat → List (List Num)
  | 0 => []
  | n + 1 => if ps.isEmpty then [] else ps.take 16 :: blocks16 (ps.drop 16) n

/-- The FP32 sum of terms in blocks of 16 from acc0 (R216, R219). -/
def sumFp (m : AccMode) (acc0 : Num) (ps : List Num) : Num × EncEx :=
  (blocks16 ps ps.length).foldl (fun (acc : Num × EncEx) b =>
    let s := blockSum b
    let inv : EncEx := if s.isNan && b.all (fun p => !p.isNan) then .invalid else .none
    let r := accStep m acc.1 s
    (r.1, (acc.2.or inv).or r.2)) (acc0, .none)

/-- The integer value of an exact integer. -/
def Num.toInt : Num → Int
  | .fin neg m e =>
    let a : Int := if 0 ≤ e then (m <<< e.toNat : Nat) else (m >>> (-e).toNat : Nat)
    if neg then -a else a
  | _ => 0

/-- The INT32 sum of integer terms in blocks of 16 from acc0 under wrap or saturate (R218). -/
def sumInt (sat : Bool) (acc0 : Int) (ps : List Int) : Int × EncEx :=
  (blocks16 (ps.map Num.ofInt) ps.length).foldl (fun (acc : Int × EncEx) b =>
    let t := acc.1 + (b.map Num.toInt).foldl (· + ·) 0
    if -2147483648 ≤ t ∧ t ≤ 2147483647 then (t, acc.2)
    else (if sat then (if t < 0 then -2147483648 else 2147483647)
          else (BitVec.ofInt 32 t).toInt, acc.2.or .overflow)) (acc0, .none)

/-! ### Functions (R222 to R225) -/

/-- Integer square root with n as the bound on the bits of its result. -/
def isqrt (v : Nat) : Nat → Nat
  | 0 => 0
  | n + 1 =>
    let r := isqrt (v / 4) n * 2
    if (r + 1) * (r + 1) ≤ v then r + 1 else r

/-- 1/x rounded once to FP32 (R223). -/
def rcpF (ftz : Bool) (v : Num) : Num :=
  match v with
  | .nan => .nan
  | .inf neg => Num.zero neg
  | .fin neg m e =>
    if m = 0 then .inf neg
    else decodeFp32 ftz (BitVec.ofNat 32 (encodeFloatRat ⟨8, 23, 127, .ieee⟩ .rne false ftz SrKey.none neg 1 m (-e)).bits)

/-- A root with a sticky last bit: floor(sqrt(num/den * 2^(2k))) * 2, plus one when inexact. -/
def rootSticky (num den k : Nat) : Nat :=
  let n := num <<< (2 * k)
  let q := n / den
  let r := isqrt q (Nat.log2 q + 2)
  if r * r * den = n then 2 * r else 2 * r + 1

/-- sqrt(x) rounded once to FP32 (R223). -/
def sqrtF (ftz : Bool) (v : Num) : Num :=
  match v with
  | .nan => .nan
  | .inf neg => if neg then .nan else .inf false
  | .fin neg m e =>
    if m = 0 then Num.zero neg
    else if neg then .nan
    else
      let m' := if e % 2 = 0 then m else 2 * m
      let e' := if e % 2 = 0 then e else e - 1
      rneNum ftz (.fin false (rootSticky m' 1 64) (e' / 2 - 65))

/-- 1/sqrt(x) rounded once to FP32 (R223). -/
def rsqrtF (ftz : Bool) (v : Num) : Num :=
  match v with
  | .nan => .nan
  | .inf neg => if neg then .nan else Num.zero false
  | .fin neg m e =>
    if m = 0 then .inf neg
    else if neg then .nan
    else
      let m' := if e % 2 = 0 then m else 2 * m
      let e' := if e % 2 = 0 then e else e - 1
      rneNum ftz (.fin false (rootSticky 1 m' (64 + Nat.log2 m')) (-(e' / 2) - 65 - Nat.log2 m'))

/-- Fraction bits of the fixed point in which exp2 and log2 are enclosed. -/
def fxBits : Nat := 128

/-- A lower bound of ln 2 in fixed point, by the series of 1/(k * 2^k); the sum lies at most n + 1 units below. -/
def ln2Fx : Nat := (List.range 130).foldl (fun a k => a + 2 ^ fxBits / ((k + 1) * 2 ^ (k + 1))) 0

/-- The terms of exp(y) for y in [0, 1) in fixed point, summed from below; each truncation loses less than one unit. -/
def expFx (y : Nat) : Nat :=
  ((List.range 40).foldl (fun (acc : Nat × Nat) k =>
    let t := acc.2 * y / (2 ^ fxBits * (k + 1))
    (acc.1 + t, t)) (2 ^ fxBits, 2 ^ fxBits)).1

/-- exp2(x) rounded once to FP32 (R223). The fraction's power is enclosed in 2^-110 of its value; the FP32 rounding of
the enclosure is that of the exact value, which is never halfway (DEDUCED, log entry 20). -/
def exp2F (ftz : Bool) (v : Num) : Num :=
  match v with
  | .nan => .nan
  | .inf neg => if neg then Num.zero false else .inf false
  | .fin neg m e =>
    if m = 0 then .fin false 1 0
    else
      -- x = n + f with f in [0, 1), both exact: the bits of x below 2^-128 do not reach the result but as a sticky bit
      let sh := e + fxBits
      let mag : Nat := if 0 ≤ sh then (if 200 < sh then 2 ^ (fxBits + 12) else m <<< sh.toNat)
        else m >>> (min (-sh).toNat (Nat.log2 m + 1))
      let lost : Bool := decide (sh < 0) && decide (m % 2 ^ (min (-sh).toNat (Nat.log2 m + 1)) ≠ 0)
      let mag := min mag (2 ^ (fxBits + 12))
      let fx : Int := if neg then -(mag : Int) - (if lost then 1 else 0) else mag
      let n := fx / (2 ^ fxBits : Nat)
      let f := (fx % (2 ^ fxBits : Nat)).toNat
      if f = 0 ∧ !lost then rneNum ftz (.fin false 1 n)
      else rneNum ftz (.fin false (2 * expFx (f * ln2Fx / 2 ^ fxBits) + 1) (n - fxBits - 1))

/-- The next fraction bit of log2: square, and halve when the square reaches 2. -/
def log2Step (acc : Nat × Nat) : Nat × Nat :=
  let s := acc.1 * acc.1 / 2 ^ 192
  if 2 ^ 193 ≤ s then (s / 2, acc.2 * 2 + 1) else (s, acc.2 * 2)

/-- log2(x) rounded once to FP32 (R223), from 96 fraction bits found by squaring with 192 bits (DEDUCED, log entry 20). -/
def log2F (ftz : Bool) (v : Num) : Num :=
  match v with
  | .nan => .nan
  | .inf neg => if neg then .nan else .inf false
  | .fin neg m e =>
    if m = 0 then .inf true
    else if neg then .nan
    else
      let l := Nat.log2 m
      let n : Int := l + e
      if m = 2 ^ l then rneNum ftz (if n = 0 then Num.zero false else Num.ofInt n)
      else
        let z := m * 2 ^ 192 / 2 ^ l
        let r := (List.range 96).foldl (fun a _ => log2Step a) (z, 0)
        let t : Int := 2 * (n * (2 ^ 96 : Nat) + r.2) + 1
        rneNum ftz (.fin (decide (t < 0)) t.natAbs (-97))

/-- A composition step: its value, and whether it made a NaN of operands that are none (R212, R224). -/
abbrev Step1 := Num × Bool

/-- Round a sum once to FP32. -/
def stepAdd (ftz : Bool) (a b : Step1) : Step1 :=
  let r := a.1.add b.1 false
  (rneNum ftz r, a.2 || b.2 || (r.isNan && !a.1.isNan && !b.1.isNan))

/-- Round a product once to FP32. -/
def stepMul (ftz : Bool) (a b : Step1) : Step1 :=
  let r := a.1.mul b.1
  (rneNum ftz r, a.2 || b.2 || (r.isNan && !a.1.isNan && !b.1.isNan))

/-- Apply a rounded function of one operand. -/
def stepFn (f : Num → Num) (a : Step1) : Step1 := (f a.1, a.2 || ((f a.1).isNan && !a.1.isNan))

/-- The operand with its sign inverted. -/
def stepNeg (a : Step1) : Step1 := (a.1.negate, a.2)

/-- 1 as a step. -/
def stepOne : Step1 := (.fin false 1 0, false)

/-- exp of R224. -/
def expS (ftz : Bool) (a : Step1) : Step1 :=
  stepFn (exp2F ftz) (stepMul ftz a (decodeFp32 ftz 0x3FB8_AA3B, false))

/-- tanh of R224. -/
def tanhS (ftz : Bool) (a : Step1) : Step1 :=
  let ab : Step1 := (match a.1 with
    | .fin _ m e => .fin false m e
    | .inf _ => .inf false
    | .nan => .nan, a.2)
  let e := expS ftz (stepMul ftz ab (.fin true 2 0, false))
  let y := stepMul ftz (stepAdd ftz stepOne (stepNeg e)) (stepFn (rcpF ftz) (stepAdd ftz stepOne e))
  (match y.1 with
    | .fin _ m e => .fin a.1.neg? m e
    | .inf _ => .inf a.1.neg?
    | .nan => .nan, y.2)

/-- sigmoid of R224. -/
def sigmoidS (ftz : Bool) (a : Step1) : Step1 :=
  stepFn (rcpF ftz) (stepAdd ftz stepOne (expS ftz (stepNeg a)))

/-- silu of R224. -/
def siluS (ftz : Bool) (a : Step1) : Step1 :=
  if a.1 = .inf true then (Num.zero true, a.2) else stepMul ftz a (sigmoidS ftz a)

/-- gelu of R224. -/
def geluS (ftz : Bool) (a : Step1) : Step1 :=
  let g1 : Step1 := (decodeFp32 ftz 0x3D37_2713, false)
  let g2 : Step1 := (decodeFp32 ftz 0x3F4C_422A, false)
  let half : Step1 := (.fin false 1 (-1), false)
  let u := stepAdd ftz a (stepMul ftz g1 (stepMul ftz (stepMul ftz a a) a))
  let w := stepAdd ftz stepOne (tanhS ftz (stepMul ftz g2 u))
  stepMul ftz (stepMul ftz half a) w

/-- A function of R222 on a value, which is first read as FP32 (with FTZ): the FP32 value, and whether a step made a
NaN of operands that are none. -/
def applyFun (f : FunCode) (ftz : Bool) (v : Num) : Num × Bool :=
  let a : Step1 := (rneNum ftz v, false)
  match f with
  | .exp2 => stepFn (exp2F ftz) a
  | .log2 => stepFn (log2F ftz) a
  | .rcp => stepFn (rcpF ftz) a
  | .rsqrt => stepFn (rsqrtF ftz) a
  | .sqrt => stepFn (sqrtF ftz) a
  | .exp => expS ftz a
  | .tanh => tanhS ftz a
  | .sigmoid => sigmoidS ftz a
  | .silu => siluS ftz a
  | .gelu => geluS ftz a
  | .relu => (a.1.maxRule (Num.zero false), false)

/-- The FP32 value of a value that is one, as its bits. -/
def Num.toFp32 (v : Num) : Word32 := rneFp32 false v

/-- tsmx (R225): the softmax of a row, with whether a step made a NaN of operands that are none. -/
def softmaxRow (m : AccMode) (xs : List Num) : List (Num × EncEx) :=
  let ftz := m.ftz
  let mx := xs.tail.foldl Num.maxRule (xs.headD .nan)
  if mx.isNan then xs.map (fun _ => (.nan, .none))
  else
    let es := xs.map (fun x => expS ftz (stepAdd ftz (x, false) (mx.negate, false)))
    let s := sumFp m (Num.zero false) (es.map Prod.fst)
    let r := stepFn (rcpF ftz) (s.1, false)
    let bad := es.any (fun e => e.2) || r.2
    es.map (fun e =>
      let y := stepMul ftz e r
      (y.1, if bad || y.2 then EncEx.invalid else s.2))

end Sys2Proof.Machine
end

