-- ==== Sys2Proof/Machine/Translate.lean ====
section
/-! DEFINITION. Tensors, translation and the L2 slices (spec/04 R65 to R91, R308 to R310): the layout unit's walk, the
port translation caches, reads and writes of main memory with replicas and dirty-sector signatures, release and
acquire. -/

namespace Sys2Proof

/-- Elements of a block of a format (R193); 1 for a format without blocks. -/
def Fmt.blockElems : Fmt → Nat
  | .se4 | .se6 | .se9 => 16
  | .mxfp4 | .mxfp6a | .mxfp6b | .mxfp8a | .mxfp8b | .mxint8 | .int4g => 32
  | _ => 1

/-- Bytes of a block of a block format (R193); 0 for a format without blocks. -/
def Fmt.blockBytes : Fmt → Nat
  | .se4 => 8
  | .se6 => 12
  | .se9 => 18
  | .mxfp4 => 17
  | .mxfp6a | .mxfp6b => 25
  | .mxfp8a | .mxfp8b | .mxint8 => 33
  | .int4g => 18
  | _ => 0

/-- Bytes of n elements of a format. -/
def Fmt.bytesOf (f : Fmt) (n : Nat) : Nat :=
  if f.isBlock then n / f.blockElems * f.blockBytes else (n * f.width + 7) / 8

/-- A cached entry is covered by an invalidation. -/
def InvKind.covers (k : InvKind) (e : Machine.TlbEntry) : Bool :=
  match k with
  | .all => true
  | .tensor t => e.tid == t
  | .range t first count => e.tid == t && decide (first ≤ e.tile) && decide (e.tile < first + count)
  | .secondStage => true

end Sys2Proof

namespace Sys2Proof.Machine

/-! ### The tensor table (R71, R73, R74, R201) -/

/-- A tensor-table entry that is valid. -/
structure Tensor where
  fmt : Fmt
  writable : Bool
  linear : Bool
  owner : Nat
  ttbase : Nat
  dims : List Nat
  strides : List Int
  tr : Nat
  tc : Nat
  deriving DecidableEq, Repr

/-- Bits [lo + n - 1 : lo] of an entry. -/
def ent (e : BitVec 512) (lo n : Nat) : Nat := (e.toNat >>> lo) % 2 ^ n

/-- A signed number of n bits. -/
def sgn (n w : Nat) : Int := if w % 2 ^ n < 2 ^ (n - 1) then (w % 2 ^ n : Nat) else (w % 2 ^ n : Nat) - (2 ^ n : Nat)

/-- The entry of a tensor, or none when it is not valid (R71, R73, R74, R201). R71 gives RANK the range 1 to 6 and no fault for another
value: such an entry is not valid here (DESIGN CHOICE, log entry 123). -/
def parseTensor (e : BitVec 512) : Option Tensor :=
  let f := Fmt.ofCode (ent e 0 5)
  let rank := ent e 8 8
  let linear := ent e 18 1 == 1
  let dims := (List.range 6).map (fun k => if k < rank then ent e (128 + 32 * k) 32 else 1)
  let tr := ent e 320 16
  let tc := ent e 336 16
  let okBits := ent e 5 3 == 0 && ent e 19 5 == 0 && ent e 24 8 == 0 && ent e 40 8 == 0 && ent e 48 16 == 0 &&
    ent e 64 3 == 0
  let okGrid := ent e 352 160 == 0 && tr != 0 && tc != 0 && decide (f.bytesOf (tr * tc) ≤ 65536) &&
    tc % f.blockElems == 0
  let okLinear := !f.isBlock && decide (8 ≤ f.width)
  if okBits && ent e 16 1 == 1 && decide (1 ≤ rank) && decide (rank ≤ 6) && !f.isScaled &&
      (if linear then okLinear else okGrid) then
    some { fmt := f, writable := ent e 17 1 == 1, linear := linear, owner := ent e 32 8, ttbase := ent e 64 64,
           dims := dims, strides := (List.range 6).map (fun k => sgn 32 (ent e (320 + 32 * k) 32)), tr := tr, tc := tc }
  else none

/-- Columns of a tensor (R72). -/
def Tensor.cols (t : Tensor) : Nat := t.dims.headD 1
/-- Rows of a tensor (R72). -/
def Tensor.rows (t : Tensor) : Nat := (t.dims.drop 1).foldl (· * ·) 1

/-- Coordinate sum of a linear tensor: the byte offset of element e (R74). -/
def linearOffset (e : Nat) : List Nat → List Int → Int
  | d :: ds, st :: sts => (if d = 0 then 0 else ((e % d : Nat) : Int) * st) + linearOffset (if d = 0 then 0 else e / d) ds sts
  | _, _ => 0

/-- The tile number and the bit offset within its frame of position (row, col); none for a byte offset below zero. -/
def Tensor.place (t : Tensor) (row col : Nat) : Option (Nat × Nat) :=
  if t.linear then
    let b := linearOffset (row * t.cols + col) t.dims t.strides
    if b < 0 then none else some (b.toNat / 65536, b.toNat % 65536 * 8)
  else
    let tile := row / t.tr * ((t.cols + t.tc - 1) / t.tc) + col / t.tc
    let n := row % t.tr * t.tc + col % t.tc
    some (tile, if t.fmt.isBlock then n / t.fmt.blockElems * t.fmt.blockBytes * 8 else n * t.fmt.width)

/-! ### Physical addresses and the second stage (R65, R78) -/

/-- A host-physical address of main memory that holds data (R65). -/
def hpaOk (a : Nat) : Bool := decide (a < 2 ^ 39) && decide (a % 2 ^ 38 < 248 * 2 ^ 30)

/-- The outcome of a second-stage walk. -/
inductive Stage2 where
  | ok (hpa : Nat) (writable : Bool)
  | fault
  | address
  deriving DecidableEq, Repr

/-- Eight bytes of memory as hardware that walks tables reads them. -/
def State.read8 (s : State) (a : Nat) : Nat := ofLe (s.seen a 8)

/-- The second stage (R78), with the addresses of the entries it reads: identity when it is off; else two levels. Writability
is of the mapping. Bits of the guest-physical address above 47 take no part in the walk (DEDUCED, log entry 72). -/
def stage2 (s : State) (root : Option Nat) (gpa : Nat) : Stage2 × List Nat :=
  match root with
  | none => (if hpaOk gpa then .ok gpa true else .address, [])
  | some r =>
    let a1 := r + gpa / 2 ^ 34 % 2 ^ 14 * 8
    let e1 := s.read8 a1
    if !hpaOk a1 then (.address, [])
    else if e1 / 2 ^ 63 = 0 ∨ e1 % 2 ^ 16 ≠ 0 ∨ e1 / 2 ^ 48 % 2 ^ 15 ≠ 0 then (.fault, [a1])
    else
      let a2 := e1 / 2 ^ 16 % 2 ^ 32 * 2 ^ 16 + gpa / 2 ^ 21 % 2 ^ 13 * 8
      let e2 := s.read8 a2
      if !hpaOk a2 then (.address, [a1])
      else if e2 / 2 ^ 63 = 0 ∨ e2 % 2 ^ 21 ≠ 0 ∨ e2 / 2 ^ 39 % 2 ^ 23 ≠ 0 then (.fault, [a1, a2])
      else
        let a := e2 / 2 ^ 21 % 2 ^ 18 * 2 ^ 21 + gpa % 2 ^ 21
        (if hpaOk a then .ok a (e2 / 2 ^ 62 % 2 == 1) else .address, [a1, a2])

/-! ### Translation (R75 to R81) -/

/-- The outcome of a translation: the bit address, the tensor's fields and the tile, or what stops it. -/
inductive Xlat where
  | ok (bitAddr : Nat) (t : Tensor) (tile : Nat)
  | fault (cause : BitVec 6) (tile : Nat)
  | page (tile : Nat)
  | stage2 (gpa tile : Nat)
  /-- The frame is moving (R83): the access waits. -/
  | moving (tile : Nat)
  deriving DecidableEq, Repr

/-- What an access names in a tensor (R70, R72, R102): a row and a column, an element by its index, or a byte of the control
tensor. -/
inductive Pos where
  | cell (row col : Int)
  | elem (e : Int)
  | byte (addr : Nat)
  deriving DecidableEq, Repr

/-- Row, column and bits beyond the element's first under a tensor's fields; none outside the tensor. A negative index is
outside it (DEDUCED, log entry 73). -/
def Tensor.find (t : Tensor) (p : Pos) : Option (Nat × Nat × Nat) :=
  let at? (row col : Int) (bits : Nat) : Option (Nat × Nat × Nat) :=
    if 0 ≤ row ∧ row < t.rows ∧ 0 ≤ col ∧ col < t.cols then some (row.toNat, col.toNat, bits) else none
  match p with
  | .cell row col => at? row col 0
  | .elem e => if t.cols = 0 then none else at? (e / t.cols) (e % t.cols) 0
  | .byte a =>
    let w := max 1 (t.fmt.width / 8)
    if t.cols = 0 then none else at? (a / w / t.cols : Nat) (a / w % t.cols : Nat) (a % w * 8)

/-- The tile and the bit offset of what an access names, under a tensor's fields. -/
def Tensor.spot (t : Tensor) (p : Pos) : Option (Nat × Nat) :=
  (t.find p).bind (fun g => (t.place g.1 g.2.1).map (fun q => (q.1, q.2 + g.2.2)))

/-- Permissions and address of a position through one translation entry (R75, R79). A fault that R75 finds before it has a
tile number reports tile 0 (DESIGN CHOICE, log entry 13). -/
def useEntry (e : TlbEntry) (t : Tensor) (off : Nat) (write : Bool) : Xlat :=
  if write && !t.writable then .fault Cause.protection 0
  else if write && e.tte / 2 ^ 61 % 2 == 0 then .fault Cause.protection e.tile
  else if write && !e.writable then .stage2 (e.tte.toNat / 2 ^ 16 % 2 ^ 32 * 65536 + off / 8) e.tile
  else .ok (e.hpa * 8 + off) t e.tile

/-- A walk of the entries in memory: its outcome, the entry that a port cache keeps of it, and the addresses it read. -/
structure Walk where
  out : Xlat
  entry : Option TlbEntry
  read : List Nat
  deriving DecidableEq, Repr

/-- A walk that ends before it has an entry. -/
def Walk.stop (x : Xlat) (read : List Nat) : Walk := { out := x, entry := none, read := read }

/-- The walk from a tile's number on: its entry in memory, then the second stage (R75, R77, R78). -/
def walkTile (s : State) (c : Ctx) (tid : Nat) (raw : BitVec 512) (t : Tensor) (tile off : Nat) (write : Bool) : Walk :=
  let ta := t.ttbase + tile * 8
  let w1 := stage2 s c.stage2 ta
  match w1.1 with
  | .fault => .stop (.stage2 ta tile) w1.2
  | .address => .stop (.fault Cause.address tile) w1.2
  | .ok a _ =>
    let e := s.read8 a
    let read := w1.2 ++ [a]
    if e / 2 ^ 63 = 0 ∨ e / 2 ^ 48 % 2 ^ 13 ≠ 0 then .stop (.page tile) read
    else if e / 2 ^ 62 % 2 = 1 then .stop (.moving tile) read
    else if write && e / 2 ^ 61 % 2 == 0 then .stop (.fault Cause.protection tile) read
    else
      let gpa := e / 2 ^ 16 % 2 ^ 32 * 65536 + off / 8
      let w2 := stage2 s c.stage2 gpa
      match w2.1 with
      | .fault => .stop (.stage2 gpa tile) (read ++ w2.2)
      | .address => .stop (.fault Cause.address tile) (read ++ w2.2)
      | .ok h wr =>
        let ent : TlbEntry := { ctx := c.id, tid := tid, tile := tile, entry := raw, tte := BitVec.ofNat 64 e, gpaOk := true,
                                hpa := h - off / 8, writable := wr }
        { out := useEntry ent t off write, entry := some ent, read := read ++ w2.2 }

/-- A fresh walk (R75), in the order of its checks. -/
def freshWalk (s : State) (c : Ctx) (tid : Nat) (p : Pos) (write : Bool) : Walk :=
  if c.tableLen ≤ tid then .stop (.fault Cause.translation 0) []
  else match lookupNat tid c.tensors with
    | none => .stop (.fault Cause.translation 0) []
    | some raw =>
      match parseTensor raw with
      | none => .stop (.fault Cause.translation 0) []
      | some t =>
        if t.owner ≠ s.fabric.self then .stop (.fault Cause.translation 0) []
        else if write && !t.writable then .stop (.fault Cause.protection 0) []
        else match t.spot p with
          | none => .stop (.fault Cause.address 0) []
          | some (tile, off) => walkTile s c tid raw t tile off write

/-- The cached entries that may serve an access (R79): under its own tensor fields, each places the access in its tile. -/
def cachedHits (es : List TlbEntry) (ctx tid : Nat) (p : Pos) : List (TlbEntry × Tensor × Nat) :=
  (es.filter (fun e => e.ctx == ctx && e.tid == tid)).filterMap (fun e =>
    (parseTensor e.entry).bind (fun t => (t.spot p).bind (fun q => if q.1 = e.tile then some (e, t, q.2) else none)))

/-- An entry is kept: one of a tile in each of the 48 port caches, of 2,048 entries (R79). Which slice serves an access no
rule states, so every copy of a tile may (DESIGN CHOICE, log entry 13). -/
def tlbInsert (e : TlbEntry) (es : List TlbEntry) : List TlbEntry :=
  let same (o : TlbEntry) : Bool := o.ctx == e.ctx && o.tid == e.tid && o.tile == e.tile
  let old := es.filter same
  let es := if old.length < 48 then es else es.filter (fun o => !same o || (old.take 47).contains o)
  if es.contains e then es else (e :: es).take (48 * 2048)

/-- A walk has read memory (R67, R68) and its entry is kept. -/
def State.walked (s : State) (ctx : Nat) (w : Walk) : State :=
  let r := s.touchBlocks ctx false ((w.read.map (fun a => a / 64)).dedup)
  let t := if r.2.isSome then r.1.bump else r.1
  match w.entry with
  | some e => t.modL2 (fun l => { l with tlb := tlbInsert e l.tlb })
  | none => t

/-- THE LAYOUT UNIT (R75, R79). An access translates through a cached entry or through a fresh walk, never a mixture.
Where they differ, which one serves is open (`Config.staleTranslation`) (DESIGN CHOICE, log entry 13). -/
def State.translate (s : State) (ctx tid : Nat) (p : Pos) (write : Bool) : State × Xlat :=
  match s.ctx? ctx with
  | none => (s, .fault Cause.translation 0)
  | some c =>
    let f := freshWalk s c tid p write
    let hits := cachedHits s.l2.tlb ctx tid p
    let t := if hits.any (fun h => f.entry == some h.1) then s else s.walked ctx f
    match hits.filter (fun h => f.entry != some h.1) with
    | [] => (t, f.out)
    | old =>
      match old[Config.staleTranslation s.tick]? with
      | some (e, ten, off) => (s.bump, useEntry e ten off write)
      | none => (t.bump, f.out)

/-- FAULT.INFO of a fault found in translation (R368): tensor id and tile number. -/
def xlatInfo (tid tile : Nat) : Word := BitVec.ofNat 64 (tid % 2 ^ 16 + tile % 2 ^ 32 * 2 ^ 16)

/-! ### Invalidation (R80) -/

/-- Drop every covered entry of a context. -/
def State.dropEntries (s : State) (ctx : Nat) (k : InvKind) : State :=
  s.modL2 (fun l => { l with tlb := l.tlb.filter (fun e => !(e.ctx == ctx && k.covers e)) })

/-! ### L2: replicas and signatures (R86 to R88, R308) -/

/-- The home die of a host-physical address (R65). -/
def homeDie (a : Nat) : Bool := a / 2 ^ 38 % 2 == 1

/-- First hash of a line address (R87), the line address being HPA[38:7]. -/
def hash1 (a : Nat) : Nat := a % 1024 ^^^ a / 2 ^ 10 % 1024 ^^^ a / 2 ^ 20 % 1024 ^^^ a / 2 ^ 30 % 4

/-- Second hash of a line address (R87). -/
def hash2 (a : Nat) : Nat := a * 0x9E3779B1 % 2 ^ 32 / 2 ^ 22

/-- The two bits of a line in a signature. -/
def sigBits (line : Nat) : BitVec 1024 :=
  BitVec.ofNat 1024 (1 <<< hash1 line) ||| BitVec.ofNat 1024 (1 <<< hash2 line)

/-- A line matches a signature when both of its bits are set (R87). -/
def sigMatch (sig : BitVec 1024) (line : Nat) : Bool := sig &&& sigBits line == sigBits line

/-- Index of a die. -/
def dieNo (d : Bool) : Fin 2 := if d then 1 else 0

/-- The slice of a line on its die (R86): the same number for its home and for its replica. -/
def sliceOf (line : Nat) : Nat := (line ^^^ line / 2 ^ 12) % 24

/-- The slice of the package that holds a line on a die. -/
def sliceOn (die : Bool) (line : Nat) : Nat := (dieNo die).val * 24 + sliceOf line

/-- The home slice of a line. -/
def homeSlice (line : Nat) : Nat := sliceOn (homeDie (line * 128)) line

/-- The 128 bytes of a line at home. -/
def State.homeLine (s : State) (line : Nat) : BitVec 1024 := BitVec.ofNat 1024 (ofLe (s.mem.readN (line * 128) 128))

/-- The line in a slice. -/
def L2.line? (l : L2) (slice line : Nat) : Option L2Line := l.lines.find? (fun o => o.slice == slice && o.line == line)

/-- Drop a line from a slice. -/
def L2.drop (l : L2) (slice line : Nat) : L2 :=
  { l with lines := l.lines.filter (fun o => !(o.slice == slice && o.line == line)) }

/-- A line in a slice, as the one used last. -/
def L2.put (l : L2) (x : L2Line) : L2 := { l with lines := x :: (l.drop x.slice x.line).lines }

/-- The replica of a line on a die. -/
def State.replica? (s : State) (die : Bool) (line : Nat) : Option (BitVec 1024) :=
  (s.l2.line? (sliceOn die line) line).bind (fun o => o.copy)

/-! ### The ways of a slice (R84, R86, R89) -/

/-- Cache ways of a slice (R84). -/
def L2.cacheWays (l : L2) (slice : Nat) : Nat := if h : slice < 48 then 12 - 2 * l.pairs[slice] else 0

/-- WAYS of an RSV value (R89). -/
def rsvWays (v : Word) : Nat := v.toNat / 2 ^ 56 % 16

/-- The cores of the package with their numbers, the focused one first. -/
def State.cores (s : State) : List (Nat × Core) := (s.cur, s.core) :: s.others

/-- The RSV registers of a core for a context: those that it holds while it runs or has last run the context, else those that lie
in the context's save area, or that the context keeps of it between steps (R90, R337, R377). -/
def State.rsvOf (s : State) (c : Ctx) (core : Nat) : Vector Word 16 :=
  let live := (s.cores.find? (fun k => k.1 == core && k.2.sys.ctxId.toNat == c.id)).map (fun k => k.2.sys.rsv)
  let saved := (c.saved.find? (fun e => e.1 % 128 == core)).map (fun e => e.2.sys.rsv)
  ((live.or saved).or ((lookupNat core c.kept).map (fun k => k.sys.rsv))).getD (Vector.replicate 16 0)

/-- The RSV registers of a context, each once: core, number and value (R89, R90). -/
def State.ctxRsv (s : State) (ctx : Nat) : List (Nat × Nat × Word) :=
  match s.ctx? ctx with
  | none => []
  | some c => (c.cores.map (fun k => (s.rsvOf c k).toList.zipIdx.map (fun r => (k, r.2, r.1)))).flatten

/-- Ways that the registers of every context reserve in every cache-mode slice (R89). -/
def State.reservedWays (s : State) : Nat :=
  ((s.ctxs.map (fun c => (s.ctxRsv c.id).map (fun r => rsvWays r.2.2))).flatten).foldl (· + ·) 0

/-- The reserved ways of a slice: at least two of its cache ways stay ordinary (R90). -/
def State.retainedWays (s : State) (slice : Nat) : Nat := min s.reservedWays (s.l2.cacheWays slice - 2)

/-- The first RSV register of a context whose range covers a line of a tile, when the line passes its sampling (R89). -/
def State.rsvCovers (s : State) (ctx tid tile line : Nat) : Option (Nat × Nat × Nat) :=
  ((s.ctxRsv ctx).find? (fun r =>
    let n := r.2.2.toNat
    decide (rsvWays r.2.2 ≠ 0) && n % 2 ^ 16 == tid && decide (n / 2 ^ 16 % 2 ^ 20 ≤ tile) &&
      decide (tile ≤ n / 2 ^ 36 % 2 ^ 20) && hash2 line % 2 ^ (n / 2 ^ 60) == 0)).map (fun r => (ctx, r.1, r.2.1))

/-- The function whose memory holds a block of main memory; none when no virtual function does. -/
def Maltings.holder (m : Maltings) (blk : Nat) : Option (Fin 17) :=
  match m.granules.find? (fun g => g.1 == blk / 32768) with
  | some (_, f) => if h : f < 17 then if f = 0 then none else some ⟨f, h⟩ else none
  | none => none

/-- Count an error of a block for the virtual function that holds it, or at the PF. -/
def State.countBlock (s : State) (blk : Nat) (f : ErrRegs → ErrRegs) : State :=
  s.modMalt (fun m => match m.holder blk with
    | some v => { m with vfErr := m.vfErr.set v (f m.vfErr[v]) }
    | none => { m with pfErr := f m.pfErr })

/-- The scrub of one block (R69): a correction is written back and counted, an uncorrectable block marked and counted. -/
def State.scrubBlock (s : State) (blk : Nat) (m : Mark) : State :=
  match m with
  | .latentCe => (s.setMark blk none).countBlock blk (fun e => { e with memCe := satInc e.memCe })
  | .latentUe => (s.setMark blk (some .poison)).countBlock blk (fun e => { e with memUe := satInc e.memUe })
  | .poison => s

/-- The context that a slice can name as the owner of a block of a line: that for which the line is retained, else the one context of
the virtual function that holds the block (R68; DEDUCED, log entry 74). -/
def State.lineOwner (s : State) (x : L2Line) (blk : Nat) : Option Nat :=
  match x.retained with
  | some r => some r.1
  | none =>
    match (s.malt.holder blk).map (fun v => s.ctxs.filter (fun c => c.vf == some v.val)) with
    | some [c] => some c.id
    | _ => none

/-- A block of a dirty line found uncorrectable at its eviction (R68): it is poison in memory, counted for its owner; without one it is
counted where the block lies and as an orphan. -/
def State.evictBlock (s : State) (x : L2Line) (blk : Nat) : State :=
  match lookupNat blk s.marks with
  | some .latentUe =>
    match s.lineOwner x blk with
    | some ctx => (s.setMark blk (some .poison)).countErr ctx (fun e => { e with memUe := satInc e.memUe })
    | none => ((s.scrubBlock blk .latentUe).modMalt (fun m =>
        { m with pfErr := { m.pfErr with memOrphan := satInc m.pfErr.memOrphan } })).report (.orphan (blk * 64))
  | _ => s

/-- A line leaves a slice (R68): a dirty one is written back. -/
def State.evict (s : State) (x : L2Line) : State :=
  (if x.dirty then (s.evictBlock x (2 * x.line)).evictBlock x (2 * x.line + 1) else s).modL2 (fun l => l.drop x.slice x.line)

/-- The lines of a set from the one used last: which set a line takes no rule states (`Config.l2Set`; DESIGN CHOICE, log
entry 94). -/
def L2.setOf (l : L2) (slice line : Nat) : List L2Line :=
  l.lines.filter (fun o => o.slice == slice && Config.l2Set o.line == Config.l2Set line)

/-! ### Pins (R91) -/

/-- Of lines in the order in which they were fetched, the last four of each set: a node pins no more (R91). -/
def lastPins (lines : List Nat) : List Nat :=
  lines.reverse.dedup.foldl (fun acc x =>
    if (acc.filter (fun y => Config.l2Set y == Config.l2Set x)).length < 4 then acc ++ [x] else acc) []

/-- The lines that a node under evaluation pins (R91). An evaluation that a moving frame keeps waiting is the one that spans more than
a step. -/
def TileNode.pins (n : TileNode) : List Nat :=
  match n.st with
  | .live => n.pinned
  | _ => []

/-- The lines of a slice that nodes of its die pin. -/
def State.pinned (s : State) (slice : Nat) : List Nat :=
  (s.cores.map (fun k => ((k.2.mash.nodes.map TileNode.pins).flatten).filter (fun line => sliceOn k.2.die line == slice))).flatten

/-- Every cache way of a line's set is pinned, by the fetching node, whose pins are given, or by others, and the line is not there: its
fetch waits (R91). -/
def State.pinWait (s : State) (slice line : Nat) (held : List Nat) : Bool :=
  let set := s.l2.setOf slice line
  decide (0 < s.l2.cacheWays slice) && decide (s.l2.cacheWays slice ≤ set.length) && !set.any (fun o => o.line == line) &&
    set.all (fun o => (s.pinned slice ++ held).contains o.line)

/-- The lines that leave a slice so that one more finds a way (R84, R89), none of them pinned (R91): a retained
line takes a reserved way, of which the line used least lately is given up, and an ordinary line makes room where the set is
full; an ordinary one takes another way, and which line gives it up no rule states (`Config.l2Victim`; DESIGN CHOICE, log
entry 94). None where no way can be freed. -/
def State.victims (s : State) (slice line : Nat) (retain : Bool) (held : List Nat) : Option (List L2Line) :=
  let w := s.l2.cacheWays slice
  let r := s.retainedWays slice
  let kind (b : Bool) (l : List L2Line) : List L2Line := l.filter (fun o => o.retained.isSome == b)
  let mine := s.l2.lines.filter (fun o => o.slice == slice)
  if mine.length < w && decide ((kind retain mine).length < (if retain then r else w - r)) then some []
  else
    let set := s.l2.setOf slice line
    let firm := s.pinned slice ++ held
    let order (l : List L2Line) : List L2Line := l.filter (fun o => !firm.contains o.line)
    let rets := kind true set
    let ords := kind false set
    let old := order rets.reverse
    let any := order (ords.rotateLeft (Config.l2Victim s.tick))
    let need := set.length + 1 - w
    let a := old.take (if retain then rets.length + 1 - r else min (rets.length - r) need)
    let b := any.take (max (need - a.length) (if !retain && decide (w - r ≤ ords.length) then 1 else 0))
    let fits := decide (set.length < w + a.length + b.length) &&
      (if retain then decide (rets.length < r + a.length) else decide (ords.length < w - r) || !b.isEmpty)
    if fits then some (a ++ b) else none

/-- A line is brought into a slice, or used there, where its class stays (R84, R86, R89): a line is retained only in a reserved
way, and one that finds no way is not kept. `held` names the lines that the fetching node has pinned. -/
def State.fetchLine (s : State) (x : L2Line) (held : List Nat) : State :=
  match s.l2.line? x.slice x.line with
  | some o =>
    s.modL2 (fun l => l.put { o with dirty := o.dirty || x.dirty, copy := x.copy.or o.copy,
                                     bad := if x.copy.isSome then x.bad else o.bad })
  | none =>
    let y := { x with retained := if 0 < s.retainedWays x.slice then x.retained else none }
    match s.victims y.slice y.line y.retained.isSome held with
    | some vs =>
      let t := vs.foldl State.evict s
      (if vs.isEmpty then t else t.bump).modL2 (fun l => l.put y)
    | none => s

/-- How an access fetches (R89, R91, R105, R107, R139): whether it may allocate lines, the context, tensor and tile for which it
fetches, whether it sees the own scratchpad through the store gate, whether it reads at the home slice whatever its die, and
whether it pins lines, with those that its node has fetched. -/
structure Fetch where
  alloc : Bool
  tile : Option (Nat × Nat × Nat)
  gated : Bool
  home : Bool
  pin : Bool
  held : List Nat
  deriving DecidableEq, Repr

/-- An access outside tensors. -/
def Fetch.plain : Fetch := { alloc := true, tile := none, gated := true, home := false, pin := false, held := [] }

/-- The retained class of a line that an access fetches. -/
def State.retainFor (s : State) (f : Fetch) (line : Nat) : Option (Nat × Nat × Nat) :=
  f.tile.bind (fun t => s.rsvCovers t.1 t.2.1 t.2.2 line)

/-- The home slice caches a line for every agent (R86). -/
def State.cacheHome (s : State) (line : Nat) (f : Fetch) (dirty : Bool) : State :=
  if f.alloc || (s.l2.line? (homeSlice line) line).isSome then
    s.fetchLine { slice := homeSlice line, line := line, dirty := dirty, retained := s.retainFor f line, copy := none,
                  bad := 0 } f.held
  else s

/-- The poison marks of the two halves of a line at home (R68). -/
def State.homeBad (s : State) (line : Nat) : BitVec 2 :=
  BitVec.ofNat 2 ((if lookupNat (2 * line) s.marks = some .poison then 1 else 0) +
    (if lookupNat (2 * line + 1) s.marks = some .poison then 2 else 0))

/-- Install or refill a replica with what stands at home, its marks with it (R86, R68). -/
def State.putReplica (s : State) (die : Bool) (line : Nat) (f : Fetch) : State :=
  s.fetchLine { slice := sliceOn die line, line := line, dirty := false, retained := s.retainFor f line,
                copy := some (s.homeLine line), bad := s.homeBad line } f.held

/-- A line leaves memory or its home slice: the blocks that the access needs are found as R67 and R68 say; where the line is
brought into its home slice or into a replica slice (`far`) it comes whole, and the other half is found with it. -/
def State.drawLine (s : State) (ctx line : Nat) (f : Fetch) (far : Bool) (blks : List Nat) : State × Option Bool :=
  let r := s.touchBlocks ctx false blks
  if f.alloc && (far || (s.l2.line? (homeSlice line) line).isNone) then
    ((r.1.touchBlocks ctx false [2 * line, 2 * line + 1]).1, r.2)
  else r

/-- A line whose replica on the reading die, where it needs one, is filled or refilled from its home, with the data and the mark of
the blocks that the access needs (R86, R67, R68). -/
def State.freshLine (s : State) (die : Bool) (line : Nat) (f : Fetch) (far : Bool) (blks : List Nat) :
    State × BitVec 1024 × Option Bool :=
  let r := s.drawLine s.ctxNo line f far blks
  let t := r.1.cacheHome line f false
  (if f.alloc && far then t.putReplica die line f else t, s.homeLine line, r.2)

/-- The data that an agent of a die reads of a line, and the mark of the blocks of it that it needs (R86, R308, R67, R68): at home
on its own die, else through a replica, which bears the marks with which it was filled. Where a replica differs from its home,
whether it still stands is open (`Config.staleReplica`; DESIGN CHOICE, log entry 14); one that does not has left its slice. -/
def State.readLine (s : State) (die : Bool) (line : Nat) (f : Fetch) (blks : List Nat) :
    State × BitVec 1024 × Option Bool :=
  let far := homeDie (line * 128) != die && !f.home
  let old (s : State) (x : L2Line) (d : BitVec 1024) : State × BitVec 1024 × Option Bool :=
    (s.modL2 (fun l => l.put x), d, if blks.any (fun b => x.bad.getLsbD (b % 2)) then some false else none)
  match if far then s.l2.line? (sliceOn die line) line else none with
  | none => s.freshLine die line f far blks
  | some x =>
    match x.copy with
    | none => s.freshLine die line f far blks
    | some d =>
      if d = s.homeLine line ∧ x.bad = s.homeBad line then old s x d
      else if Config.staleReplica s.tick then old s.bump x d
      else (s.bump.modL2 (fun l => l.drop x.slice line)).freshLine die line f far blks

/-- n bytes of main memory from a line's data. -/
def lineBytes (d : BitVec 1024) (off n : Nat) : List Byte :=
  (List.range n).map (fun i => BitVec.ofNat 8 (d.toNat >>> (8 * (off + i))))

/-- n bytes of main memory as an agent of a die reads them, and the mark of their blocks; they lie in one line. -/
def State.readMain (s : State) (die : Bool) (a n : Nat) (f : Fetch) : State × List Byte × Option Bool :=
  let r := s.readLine die (a / 128) f (blocksOf a n)
  (r.1, lineBytes r.2.1 (a % 128) n, r.2.2)

/-- The write of one line reaches its home slice (R86, R87): the home's signature notes writes of every agent but those of the
other die. -/
def State.writeLine (s : State) (agent : Option Bool) (f : Fetch) (line : Nat) : State :=
  let home := homeDie (line * 128)
  let s := s.cacheHome line f true
  if agent = some (!home) then s
  else s.modL2 (fun l => { l with sig := l.sig.set (dieNo home) (l.sig[dieNo home] ||| sigBits line) })

/-- Cells written to main memory by an agent, of which some are new in every bit: of a die, or none for the host, the fabric and the
Maltings, which write at home only (R86, R87, R309). -/
def State.writeMainBits (s : State) (agent : Option Bool) (f : Fetch) (cs full : List Host.Cell) : State :=
  ((cs.map (fun c => c.1 / 128)).dedup).foldl (fun s line => s.writeLine agent f line) (s.writeBits cs full)

/-- Whole bytes so written. -/
def State.writeMain (s : State) (agent : Option Bool) (f : Fetch) (cs : List Host.Cell) : State := s.writeMainBits agent f cs cs

/-- Step 1 of a release at package or pod scope by an agent of a die (R88): its signature goes to the other die's inbox,
ORed into the newest entry of a full one, and is cleared. -/
def State.publish (s : State) (die : Bool) : State :=
  s.modL2 (fun l =>
    let sig := l.sig[dieNo die]
    let box := l.inbox[dieNo (!die)]
    let box' := if box.length < 4 then box ++ [sig]
      else match box.getLast? with
        | some b => box.dropLast ++ [b ||| sig]
        | none => [sig]
    { l with sig := l.sig.set (dieNo die) 0, inbox := l.inbox.set (dieNo (!die)) box' })

/-- Cells written at home by the Maltings, the host or the fabric, which release after the write (R309). -/
def State.homeCells (s : State) (cs : List Host.Cell) : State :=
  let t := s.writeMain none Fetch.plain cs
  let t := if cs.any (fun c => !homeDie c.1) then t.publish false else t
  if cs.any (fun c => homeDie c.1) then t.publish true else t

/-- An acquire at package or pod scope by an agent of a die (R88): replicas that match a signature of its inbox go. -/
def State.applyInbox (s : State) (die : Bool) : State :=
  s.modL2 (fun l =>
    let box := l.inbox[dieNo die]
    { l with lines := l.lines.filter (fun r =>
               !(r.copy.isSome && r.slice / 24 == (dieNo die).val && box.any (fun g => sigMatch g r.line))),
             inbox := l.inbox.set (dieNo die) [] })

/-- A release at a scope by the focused core (R88, R305): at package and pod scope its die's signature is published. -/
def State.release (s : State) (sc : Scope) : State :=
  match sc with
  | .core | .cluster => s
  | .package | .pod => s.publish s.core.die

/-- An acquire at a scope by the focused core. -/
def State.acquire (s : State) (sc : Scope) : State :=
  match sc with
  | .core | .cluster => s
  | .package | .pod => s.applyInbox s.core.die

/-! ### The control tensor (R70, R331) -/

/-- A byte of the control tensor of a context, as the launch hardware and the fetch address it: linear element
addr div size, with the tensor's own translation. -/
def State.controlAt (s : State) (ctx : Nat) (addr : Nat) (write : Bool) : State × Xlat := s.translate ctx 0 (.byte addr) write

/-- Bytes of the control tensor's extent. -/
def Ctx.controlExtent (c : Ctx) : Nat :=
  match (lookupNat 0 c.tensors).bind parseTensor with
  | some t => t.rows * t.cols * (t.fmt.width / 8)
  | none => 0

end Sys2Proof.Machine
end

