-- ==== Sys2Proof/Machine/Operands.lean ====
section
/-! DEFINITION. Operand forms: literals, cluster addresses and their checks (R131, R133 to R135), the format table (R221),
regions (R189), tile access blocks (R163 to R165), and accesses to the own and to other scratchpads. -/

namespace Sys2Proof

/-- The value of a literal operand (R38, R57). -/
def Lit.value : Lit → Word
  | .word _ v => v.signExtend 64
  | .pair _ v => v

namespace Machine

/-! ### Cluster addresses (R131) -/

/-- Logical number of the first core of the focused core's die. -/
def State.dieBase (s : State) : Nat := if s.core.die then 48 else 0

/-- The core that a CORE field of six bits names, by its logical number (R131): 63 is the issuing core. -/
def State.clusterCore (s : State) (n : Nat) : Option Nat :=
  if n = 63 then some s.cur else if 48 ≤ n then none else some (s.dieBase + n)

/-- Core and offset of a cluster address, or none where it raises ADDRESS (R131). -/
def State.clusterAddr (s : State) (a : Word) : Option (Nat × Nat) :=
  if 2 ^ 28 ≤ a.toNat then none
  else (s.clusterCore (a.toNat / 2 ^ 22)).map (fun c => (c, a.toNat % 2 ^ 22))

/-- n bytes at an offset meet a spill region of so many slots from a base on; a region without slots has no bytes (R154, R158). -/
def meetsSpill (off n base slots : Nat) : Bool := decide (0 < slots) && meets off n base (slots * 16384)

/-- n bytes at a scratchpad offset meet the spill region of the task that runs on a core (R133, R158). The protection ends with
the core's last step of the task, though the task may still be resident on other cores (DESIGN CHOICE, log entry 101). -/
def Core.inSpill (c : Core) (off n : Nat) : Bool :=
  c.task.isSome && meetsSpill off n c.sys.stk.spillBase.toNat c.sys.stk.spillSlots.toNat

/-- The context map assigns a core to a context (R133). -/
def State.ctxHasCore (s : State) (ctx core : Nat) : Bool :=
  match s.ctx? ctx with
  | some c => c.cores.contains core
  | none => false

/-- The flat address of n bytes at a cluster address, or the cause that the access raises (R135). -/
def State.lane (s : State) (a : Word) (n align : Nat) : Except (BitVec 6) Nat :=
  match s.clusterAddr a with
  | none => .error Cause.address
  | some (core, off) =>
    if off % align ≠ 0 then .error Cause.alignment
    else if !s.ctxHasCore s.ctxNo core || (s.getCore core).inSpill off n then .error Cause.protection
    else .ok (spadBase core + off)

/-- The flat addresses of the lanes of an access, element 0 first; the first that is wrong decides (R135). -/
def State.lanes (s : State) (n align : Nat) : List Word → Except (BitVec 6) (List (Nat × Nat))
  | [] => .ok []
  | a :: rest =>
    match s.lane a n align with
    | .error c => .error c
    | .ok f =>
      match s.lanes n align rest with
      | .error c => .error c
      | .ok fs => .ok ((f, n) :: fs)

/-- Element addresses of a strided access (R135). -/
def stridedAddrs (base stride : Word) (disp : BitVec 9) : List Word :=
  (List.range 32).map (fun i => base + disp.signExtend 64 + BitVec.ofNat 64 i * stride)

/-- Word i of a vector register. -/
def vword (v : VWord) (i : Nat) : Word32 := BitVec.extractLsb' (32 * i) 32 v

/-- Element addresses of a gather or scatter (R135). -/
def gatherAddrs (base : Word) (idx : VWord) : List Word :=
  (List.range 32).map (fun i => base + (vword idx i).signExtend 64)

/-- The address of a scalar access or of vld and vst (R135). -/
def dispAddr (base : Word) (disp : BitVec 15) : List Word := [base + disp.signExtend 64]

/-! ### The range CAM (R178 to R180) -/

/-- The bytes of one row of a tile in memory, from the first to the last touched, as bit bounds (R164). -/
def rowBits (f : Fmt) (col n : Int) : Int × Int :=
  if f.isBlock then
    let b0 := col / f.blockElems
    let b1 := (col + n - 1) / f.blockElems
    (b0 * f.blockBytes * 8, (b1 + 1) * f.blockBytes * 8)
  else (col * f.width, (col + n) * f.width)

/-- The byte range of a region of a tile of so many rows in a scratchpad, its scales included (R164, R178, R201): first
byte and the byte after the last. -/
def TileAccess.range (a : TileAccess) (base rows : Nat) (r : Region) : Int × Int :=
  let g : Region := if a.tr then { r0 := r.c0, r1 := r.c1, c0 := r.r0, c1 := r.r1 } else r
  let f := a.mfmt.getD .int8
  let rb := rowBits f (a.col + g.c0) (g.c1 - g.c0 + 1)
  let lo : Int := base + (a.row + g.r0) * a.pitch + rb.1 / 8
  let hi : Int := base + (a.row + g.r1) * a.pitch + (rb.2 + 7) / 8
  let sc : Int := base + rows * a.pitch
  if f = .int8r then (min lo (sc + 4 * r.r0), max hi (sc + 4 * r.r1 + 4))
  else if f.isScaled then (min lo sc, max hi (sc + 4))
  else (lo, hi)

/-- The own-scratchpad range that a node's access records, in flat addresses; none for another place (R178, R181). -/
def TileAccess.camRange (a : TileAccess) (rows : Nat) (r : Region) : Option (Nat × Nat) :=
  match a.place with
  | .spad flat =>
    let q := a.range flat rows r
    some (q.1.toNat, (q.2 - max q.1 0).toNat)
  | _ => none

/-- The whole tile as a region. -/
def Tag.region (t : Tag) : Region := { r0 := 0, r1 := t.rows - 1, c0 := 0, c1 := t.cols - 1 }

/-- A load node of which the memory has not been read whole (R178). -/
def TileNode.pendingLoad (n : TileNode) : Bool :=
  !n.retired && (match n.op with
    | .load _ => decide (n.raw.length < n.tag.rows * n.tag.cols)
    | _ => false)

/-- The recorded range of a node, when it is a pending load. -/
def TileNode.camRange (n : TileNode) : Option (Nat × Nat) :=
  if n.pendingLoad then
    match n.op with
    | .load a => a.camRange n.tag.rows n.tag.region
    | _ => none
  else none

/-- The recorded range of a store node. -/
def StoreNode.camRange (n : StoreNode) : Option (Nat × Nat) := n.access.camRange n.rows n.region

/-- Some node has its range in the CAM (R178, R180). -/
def Mash.ranged (m : Mash) : Bool := m.nodes.any (fun n => n.camRange.isSome) || m.stores.any (fun n => n.camRange.isSome)

/-- Two ranges overlap; under coarse mode any two do (R180). -/
def rangesMeet (coarse : Bool) (a b : Option (Nat × Nat)) : Bool :=
  match a, b with
  | some x, some y => coarse || meets x.1 x.2 y.1 y.2
  | _, _ => false

/-- Runs of bytes overlap a recorded range; in coarse mode every one that lies in the own scratchpad does (R179, R180). -/
def lanesMeet (coarse : Bool) (own : Nat → Bool) (lanes : List (Nat × Nat)) (r : Option (Nat × Nat)) : Bool :=
  lanes.any (fun l => rangesMeet (coarse && own l.1) (some l) r)

/-- The pending loads whose source own-scratchpad accesses at these lanes would write (R179). -/
def State.loadsMet (s : State) (lanes : List (Nat × Nat)) : List Nat :=
  (s.core.mash.nodes.filter (fun n => lanesMeet s.core.mash.coarse (inSpad s.cur) lanes n.camRange)).map (fun n => n.id)

/-- The store nodes whose destination own-scratchpad accesses at these lanes meet (R179). -/
def State.storesMet (s : State) (lanes : List (Nat × Nat)) : List Nat :=
  (s.core.mash.stores.filter (fun n => lanesMeet s.core.mash.coarse (inSpad s.cur) lanes n.camRange)).map (fun n => n.id)

/-- As `storesMet`, of the store nodes that were there before the bundle that is issuing, for what a slot reads as it stood
then (R93, R163). -/
def State.storesMetBefore (s : State) (lanes : List (Nat × Nat)) : List Nat :=
  match s.core.issue.before with
  | some b =>
    (s.core.mash.stores.filter (fun n => decide (n.id < b.node) && lanesMeet b.coarse (inSpad s.cur) lanes n.camRange)).map
      (fun n => n.id)
  | none => s.storesMet lanes

/-! ### The format table (R220, R221) -/

/-- The number that a loop counter adds to an index; none adds 0. -/
def State.lcIndex (s : State) (k : Option LoopNo) : Nat :=
  match k with
  | none => 0
  | some k => (s.lc k.val).toNat

/-- The entry FMT[base + lc], or none for an index above 63 (R221). -/
def State.fmtEntry (s : State) (base : Nat) (k : Option LoopNo) : Option Word :=
  let i := base + s.lcIndex k
  if h : i < 64 then some (s.core.sys.fmt[i]) else none

/-- The rounding of a 3-bit code below 6; 6 and 7 are not stored. -/
def Rnd.ofNat (n : Nat) : Rnd :=
  match n with
  | 0 => .rne
  | 1 => .rtz
  | 2 => .rdn
  | 3 => .rup
  | 4 => .rna
  | _ => .sr

/-- The modes of a format-table entry (R220). -/
def entryMode (e : Word) : NodeMode :=
  let n := e.toNat
  { fmt := Fmt.ofCode (n % 32), rnd := Rnd.ofNat (n / 32 % 8), sat := n / 256 % 2 == 1, chk := n / 512 % 2 == 1,
    ftz := n / 1024 % 2 == 1 }

/-! ### Regions (R189) -/

/-- The region of a region word on a tile of rows by cols, or none where it raises SHAPE. -/
def regionOf (w : Word) (rows cols : Nat) : Option Region :=
  let n := w.toNat
  let r0 := n % 65536
  let r1 := n / 2 ^ 16 % 65536
  let c0 := n / 2 ^ 32 % 65536
  let c1 := n / 2 ^ 48
  if r0 = 0xFFFF then some { r0 := 0, r1 := rows - 1, c0 := 0, c1 := cols - 1 }
  else if r0 ≤ r1 ∧ r1 < rows ∧ c0 ≤ c1 ∧ c1 < cols then some { r0 := r0, r1 := r1, c0 := c0, c1 := c1 }
  else none

/-! ### Tile access blocks (R163 to R165) -/

/-- A tile access block as a slot read it. -/
structure Tab where
  tid : Nat
  l2 : Bool
  tr : Bool
  rem : Bool
  base : Nat
  row0 : Int
  col0 : Int
  rstr : List Int
  cstr : List Int
  rows : Nat
  cols : Nat
  mcode : Nat
  mtable : Bool
  mcnt : Nat
  ftbase : Nat
  pitch : Nat
  region : Word
  rnd : Nat
  sat : Bool
  chk : Bool
  ftz : Bool
  deriving DecidableEq, Repr

/-- n bytes at an offset of a block, as a number. -/
def field (bs : List Byte) (off n : Nat) : Nat := ofLe ((bs.drop off).take n)

/-- A block of 64 bytes as a TAB, or none where a field raises RESERVED-FIELD (R163). -/
def parseTab (bs : List Byte) : Option Tab :=
  let flags := field bs 2 2
  let mf := field bs 0x2C 4
  let md := field bs 0x3C 4
  let tid := field bs 0 2
  let base := field bs 4 4
  let l2 := flags % 2 == 1
  let rem := flags / 4 % 2 == 1
  let cnt := mf / 2 ^ 8 % 16
  let spad := tid == 0xFFFF && !l2
  let baseOk :=
    if tid = 0xFFFF then
      if l2 then true
      else if rem then decide (base < 2 ^ 28) && !(decide (48 ≤ base / 2 ^ 22) && decide (base / 2 ^ 22 ≤ 62))
      else decide (base < 2 ^ 22)
    else base == 0
  if flags / 8 = 0 ∧ (rem → spad) ∧ baseOk ∧ mf / 2 ^ 6 % 4 = 0 ∧ mf / 2 ^ 18 = 0 ∧ (cnt ≤ 5 ∨ cnt = 15) ∧
      md % 8 ≤ 5 ∧ md / 2 ^ 6 = 0 then
    some
      { tid := tid, l2 := l2, tr := flags / 2 % 2 == 1, rem := rem, base := base,
        row0 := sgn 32 (field bs 8 4), col0 := sgn 32 (field bs 12 4),
        rstr := (List.range 6).map (fun k => sgn 16 (field bs (0x10 + 2 * k) 2)),
        cstr := (List.range 6).map (fun k => sgn 16 (field bs (0x1C + 2 * k) 2)),
        rows := field bs 0x28 2, cols := field bs 0x2A 2, mcode := mf % 32, mtable := mf / 32 % 2 == 1, mcnt := cnt,
        ftbase := mf / 2 ^ 12 % 64, pitch := field bs 0x30 4,
        region := BitVec.ofNat 64 (field bs 0x34 8), rnd := md % 8, sat := md / 8 % 2 == 1, chk := md / 16 % 2 == 1,
        ftz := md / 32 % 2 == 1 }
  else none

/-- The counter of a number, none for 15. -/
def cntOf (n : Nat) : Option LoopNo := if h : n < 6 then some ⟨n, h⟩ else none

/-- The sum of strides times loop counters (R164). -/
def State.strideSum (s : State) (st : List Int) : Int :=
  (st.zipIdx.map (fun p => p.1 * ((s.lc p.2).toNat : Int))).foldl (· + ·) 0

/-- The position of element (0, 0) (R164). -/
def State.tabPos (s : State) (t : Tab) (xo : Word) : Int × Int :=
  (t.row0 + s.strideSum t.rstr + sgn 32 (xo.toNat % 2 ^ 32), t.col0 + s.strideSum t.cstr + sgn 32 (xo.toNat / 2 ^ 32))

/-- The memory format of a TAB (R165): none of the outer option for an index above 63, of the inner one for a tensor. -/
def State.tabFmt (s : State) (t : Tab) : Option (Option Fmt) :=
  if t.tid ≠ 0xFFFF then some none
  else if t.mtable then (s.fmtEntry t.ftbase (cntOf t.mcnt)).map (fun e => some (entryMode e).fmt)
  else some (some (Fmt.ofCode t.mcode))

/-- The memory that a TAB names (R163, R167, R191). A cluster address of the own core names the own scratchpad (R131). -/
def State.tabPlace (s : State) (t : Tab) : TilePlace :=
  if t.tid ≠ 0xFFFF then .tensor t.tid t.l2
  else if t.l2 then .staging (t.base / 2 ^ 26) (t.base % 2 ^ 26)
  else if t.rem then
    match s.clusterCore (t.base / 2 ^ 22) with
    | some c => if c = s.cur then .spad (spadBase s.cur + t.base % 2 ^ 22) else .remote c (t.base % 2 ^ 22)
    | none => .spad (spadBase s.cur)
  else .spad (spadBase s.cur + t.base % 2 ^ 22)

/-- The address of a 64-byte block of the own scratchpad that a register names, or the cause it raises at step 10
(R166, R94, R375). -/
def spadBlock (w : Word) : Except (BitVec 6) Nat :=
  if 2 ^ 22 ≤ w.toNat then .error Cause.address
  else if w.toNat % 64 ≠ 0 then .error Cause.alignment
  else .ok w.toNat

end Machine

end Sys2Proof
end

