-- ==== Sys2Proof/Machine/Issue.lean ====
section
/-! DEFINITION. What R46 checks of an instruction before its operands: the features that a hypervisor masks (R399), the
privilege rules (R275, R372), and the registers that a slot reads and writes (R42). -/

namespace Sys2Proof

open Machine

/-- The bit of the VF feature mask that masks an instruction (R399). -/
def Instr.feature : Instr → Option Nat
  | .sxfr _ _ _ => some 0
  | .satmFadd _ _ _ | .satmFmin _ _ _ | .satmFmax _ _ _ | .satmSwap _ _ _ | .satmCas _ _ _ | .satmIadd _ _ _
  | .satmAnd _ _ _ | .satmOr _ _ _ | .satmXor _ _ _ => some 1
  | .sacc _ _ _ _ => some 2
  | .ssig _ _ _ _ _ | .ssigRel _ _ _ _ _ _ => some 3
  | .launch _ _ | .launchGraph _ _ => some 4
  | .vrng _ _ _ _ _ => some 5
  | .tmmaD _ | .tmacD _ | .taddD _ => some 6
  | .icinv _ _ _ sc => if sc = .package then some 7 else none
  | .tlbiAll _ pod | .tlbiTensor _ _ _ pod | .tlbiRange _ _ _ pod => if pod then some 8 else none
  | _ => none

/-- A system register that only handler mode accesses (R292). -/
def SysReg.handlerOnly : SysReg → Bool
  | .faultCause | .faultOrigin | .faultDemand | .faultNode | .faultSeg | .faultInfo | .trapVec | .trapPc => true
  | _ => false

/-- A system register that only the kernel writes (R292). -/
def SysReg.kernelOnly : SysReg → Bool
  | .remopTmo | .dbgRoute | .schedHorizon => true
  | _ => false

/-- An instruction raises PRIVILEGE in a mode (R275, R359, R372, R63). -/
def Instr.privileged (hnd : Bool) : Instr → Bool
  | .rte | .xbnd _ => !hnd
  | .ckpt | .sstep _ _ | .rdv _ | .launch _ _ | .launchGraph _ _ | .yield => hnd
  | .mfs _ r => r.handlerOnly && !hnd
  | .mts r _ => r.kernelOnly || (r.handlerOnly && !hnd)
  | _ => false

/-- A register as R42 counts it. -/
inductive Res where
  | x (r : XReg) | v (r : Nat) | q (r : QReg) | p (r : PReg) | f (r : FlagNo) | c (k : CtrNo) | t (k : CtrNo)
  | sys (r : SysReg)
  deriving DecidableEq, Repr

/-- A run of vector registers (R42). -/
def vRun (r : VReg) (n : Nat) : List Res := (List.range n).map (fun i => .v (r.val + i))

/-- A system register as a resource: CNT.Tk is the threshold of counter k. -/
def SysReg.res : SysReg → Res
  | .cntT k => .t k
  | r => .sys r

/-- The registers of a vec instruction: runs read, runs written, the lane mask. -/
def vUses (c : VCtl) (w : List VReg) (r : List VReg) : List Res × List Res :=
  let n := c.beats.val + 1
  (.q c.q :: (r.map (fun a => vRun a n)).flatten, (w.map (fun a => vRun a n)).flatten)

/-- The registers that an instruction reads and writes, its guard apart (R42). A completion flag is no write; nor is the flag that
a threshold sets, and what an operation takes of MODE, SLACK or FMT is no read (DEDUCED, log entry 90). The counters are c0 to c15:
loop, loopr and lbrk count as writing nothing of the loop stack, and lcr or a tile slot's lc=K as reading nothing of it (DESIGN
CHOICE, log entry 111). vshf in the mode rev reads no vb (R264). -/
def Instr.uses : Instr → List Res × List Res
  | .add d a b | .sub d a b | .mul d a b | .mulh d a b | .mulhu d a b | .div d a b | .divu d a b | .rem d a b
  | .remu d a b | .and d a b | .or d a b | .xor d a b | .andn d a b | .shl d a b | .shr d a b | .sra d a b
  | .rotl d a b | .min d a b | .max d a b | .minu d a b | .maxu d a b | .ext d a b _ | .faddS d a b | .fsubS d a b
  | .fmulS d a b | .fminS d a b | .fmaxS d a b => ([.x a, .x b], [.x d])
  | .addImm d a _ | .subImm d a _ | .mulImm d a _ | .mulhImm d a _ | .mulhuImm d a _ | .divImm d a _ | .divuImm d a _
  | .remImm d a _ | .remuImm d a _ | .andImm d a _ | .orImm d a _ | .xorImm d a _ | .andnImm d a _ | .shlImm d a _
  | .shrImm d a _ | .sraImm d a _ | .rotlImm d a _ | .minImm d a _ | .maxImm d a _ | .minuImm d a _
  | .maxuImm d a _ => ([.x a], [.x d])
  | .addLit d a _ | .subLit d a _ | .mulLit d a _ | .mulhLit d a _ | .mulhuLit d a _ | .divLit d a _ | .divuLit d a _
  | .remLit d a _ | .remuLit d a _ | .andLit d a _ | .orLit d a _ | .xorLit d a _ | .andnLit d a _ | .shlLit d a _
  | .shrLit d a _ | .sraLit d a _ | .rotlLit d a _ | .minLit d a _ | .maxLit d a _ | .minuLit d a _
  | .maxuLit d a _ => ([.x a], [.x d])
  | .faddSLit d a _ _ | .fsubSLit d a _ _ | .fmulSLit d a _ _ | .fminSLit d a _ _
  | .fmaxSLit d a _ _ => ([.x a], [.x d])
  | .ffmaS d a b => ([.x a, .x b, .x d], [.x d])
  | .ffmaSLit d a _ _ => ([.x a, .x d], [.x d])
  | .sel d a b p => ([.x a, .x b, .p p], [.x d])
  | .mov d a | .bitClz d a | .bitCtz d a | .bitPopc d a | .bitBrev d a | .fcvtTo _ d a _
  | .fcvtFrom _ d a _ => ([.x a], [.x d])
  | .movImm d _ | .movLit d _ => ([], [.x d])
  | .cmp _ d a b | .fcmp _ d a b => ([.x a, .x b], [.p d])
  | .plog _ d a b => ([.p a, .p b], [.p d])
  | .mfs d r => ([r.res], [.x d])
  | .mts r a => ([.x a], [r.res])
  | .rsvWrite n a => ([.x a], [.sys (.rsv n)])
  | .injDropreplyArm a => ([.x a], [.sys .injDropReply])
  | .cmpt a b => ([.x a, .x b], [])
  | .crd d k => ([.c k], [.x d])
  | .cwr k inc a b => (.x a :: .x b :: (if inc then [.c k] else []), [.c k])
  | .cwrImm k inc a _ => (.x a :: (if inc then [.c k] else []), [.c k])
  | .lcr d _ => ([], [.x d])
  | .ldB d a _ | .ldBu d a _ | .ldH d a _ | .ldHu d a _ | .ldW d a _ | .ldWu d a _ | .ldD d a _ => ([.x a], [.x d])
  | .stB r a _ | .stH r a _ | .stW r a _ | .stD r a _ => ([.x r, .x a], [])
  | .vld d a _ => ([.x a], [.v d.val])
  | .vst r a _ => ([.v r.val, .x a], [])
  | .vlds d a st _ => ([.x a, .x st], [.v d.val])
  | .vsts r a st _ => ([.v r.val, .x a, .x st], [])
  | .vgth d a i => ([.x a, .v i.val], [.v d.val])
  | .vsct r a i => ([.v r.val, .x a, .v i.val], [])
  | .vadd c d a b _ | .vsub c d a b _ | .vmul c d a b _ => vUses c [d] [a, b, d]
  | .vfma c d a b e | .vfms c d a b e | .vdot c d a b e => vUses c [d] [a, b, e, d]
  | .vmin c d a b | .vmax c d a b | .vand c d a b | .vor c d a b | .vxor c d a b | .vshl c d a b | .vshr c d a b
  | .vsra c d a b | .vperm c d a b => vUses c [d] [a, b, d]
  | .vshf c d a b m => vUses c [d] (if m = .rev then [a, d] else [a, b, d])
  | .vabs c d a _ | .vneg c d a _ => vUses c [d] [a, d]
  | .vcmp q _ _ d a b _ => ([.q q, .v a.val, .v b.val, .q d], [.q d])
  | .vsel c d a b qs => let u := vUses c [d] [a, b, d]; (.q qs :: u.1, u.2)
  | .vcvt c d a t _ _ =>
    (.q c.q :: vRun a (vcvtRun c.beats c.fmt.width t.width) ++ vRun d (vcvtRun c.beats t.width c.fmt.width),
      vRun d (vcvtRun c.beats t.width c.fmt.width))
  | .vfun c d a _ | .vscn c d a | .vmov c d a => vUses c [d] [a, d]
  | .vred c d a _ => (.q c.q :: .v d.val :: vRun a (c.beats.val + 1), [.v d.val])
  | .vrng c d a _ _ => let u := vUses c [d] [d]; (.v a.val :: u.1, u.2)
  | .vbcs c d r => let u := vUses c [d] [d]; (.x r :: u.1, u.2)
  | .vmvx _ d b _ => ([.v b.val], [.x d])
  | .vins _ d r _ => ([.x r, .v d.val], [.v d.val])
  | .viota c d | .vlit c d _ _ => vUses c [d] [d]
  | .tld a b _ _ _ => ([.x a, .x b], [])
  | .tzer _ a => ([.x a], [])
  | .tfil _ a b => ([.x a, .x b], [])
  | .tscl _ a _ | .tslc _ a | .tbcs _ a => ([.x a], [])
  | .tmsk _ v => ((v.map Res.x).toList, [])
  | .tst a b _ => ([.x a, .x b], [])
  | .tfrc _ a _ => ([.x a], [])
  | .scpy a _ _ _ | .sacc a _ _ _ => ([.x a], [])
  | .satmFadd a _ _ | .satmFmin a _ _ | .satmFmax a _ _ | .satmSwap a _ _ | .satmCas a _ _ | .satmIadd a _ _
  | .satmAnd a _ _ | .satmOr a _ _ | .satmXor a _ _ => ([.x a], [])
  | .ssig a b _ _ _ | .ssigRel a b _ _ _ _ | .sgth a b _ _ _ | .sxfr a b _ => ([.x a, .x b], [])
  | .l2wb a _ | .l2inv a _ | .l2pf a _ _ => ([.x a], [])
  | .call _ => ([], [.x 63])
  | .ret => ([.x 63], [])
  | .jmpr a | .loopr a _ | .xbnd a => ([.x a], [])
  | .slack _ => ([], [.sys .slack])
  | .mode _ _ => ([.sys .mode], [.sys .mode])
  | .sstep d _ => ([], [.x d])
  | .exit s0 s1 s2 s3 =>
    ([s0, s1, s2, s3].filterMap (fun e => match e with
      | .reg r => some (.x (Fin.ofNat 64 r.val))
      | _ => none), [])
  | .launch d a | .launchGraph d a => ([.x a], [.x d])
  | .fset k | .fclr k => ([], [.f k])
  | .cset k _ => ([], [.c k, .t k, .f (Fin.ofNat 32 (16 + k.val))])
  | .icinv a b _ _ | .tlbiTensor a b _ _ | .tlbiRange a b _ _ => ([.x a, .x b], [])
  | _ => ([], [])

/-- Every entry of the format table, any of which a tile access block may name (R165, R221). -/
def fmtReads : List Res := (List.finRange 64).map (fun n => .sys (.fmt n))

/-- What a tile instruction takes of its output modes: MODE's FTZ, or an entry of the format table (R227, R228). -/
def TMode.sysReads : TMode → List Res
  | .direct _ _ _ => [.sys .mode]
  | .table _ _ => fmtReads

/-- The system registers that an instruction takes without naming them, for which a later group of its bundle waits in interlocked mode
(R55): MODE's rounding, saturation and FTZ (R253, R273, R291), the format table (R220), RND.SEED (R204, R267), and the owner that REMOP.NEXT names
(R292). -/
def Instr.sysReads : Instr → List Res
  | .faddS _ _ _ | .faddSLit _ _ _ _ | .fsubS _ _ _ | .fsubSLit _ _ _ _ | .fmulS _ _ _ | .fmulSLit _ _ _ _ | .ffmaS _ _ _
  | .ffmaSLit _ _ _ _ | .fminS _ _ _ | .fminSLit _ _ _ _ | .fmaxS _ _ _ | .fmaxSLit _ _ _ _ | .fcmp _ _ _ _ | .fcvtTo _ _ _ _
  | .fcvtFrom _ _ _ _ | .vadd _ _ _ _ _ | .vsub _ _ _ _ _ | .vmul _ _ _ _ _ | .vfma _ _ _ _ _ | .vfms _ _ _ _ _ | .vmin _ _ _ _
  | .vmax _ _ _ _ | .vabs _ _ _ _ | .vneg _ _ _ _ | .vcmp _ _ _ _ _ _ _ | .vfun _ _ _ _ | .vred _ _ _ _ | .vscn _ _ _
  | .vdot _ _ _ _ _ | .mode _ _ => [.sys .mode]
  | .vcvt _ _ _ _ _ _ | .vrng _ _ _ _ _ => [.sys .mode, .sys .rndSeed]
  | .mfs _ r => if r = .remopAcked then [.sys .remopNext] else []
  | .tld _ _ _ _ _ | .tst _ _ _ => .sys .rndSeed :: fmtReads
  | .tzer _ _ | .tfil _ _ _ | .tchk => [.sys .rndSeed]
  | .tmma m | .tmmaD m | .tmac m | .tmacD m | .tadd m | .taddD m | .tsub m | .tmul m | .tmax m | .tmin m | .tscl m _ _ | .tbia m _
  | .tfun m _ | .tred m _ _ | .tsmx m | .ttrn m | .tcvt m | .tslc m _ | .tcat m _ | .tbcs m _ | .tmsk m _ =>
    .sys .rndSeed :: m.sysReads
  | _ => []

/-- Registers that never conflict: x0, p0 and q0 (R42, R251). -/
def Res.never : Res → Bool
  | .x r => r == 0
  | .p r => r == 0
  | .q r => r == 0
  | _ => false

/-- A slot with its guard, as R42 counts reads and writes. -/
def SlotInstr.uses (i : SlotInstr) : List Res × List Res :=
  ((.p i.pred :: i.op.uses.1).filter (fun r => !r.never), i.op.uses.2.filter (fun r => !r.never))

/-- What a slot reads of registers, named or not (R55). -/
def SlotInstr.reads (i : SlotInstr) : List Res := i.uses.1 ++ i.op.sysReads

/-- Two slots of one group conflict (R42). -/
def SlotInstr.clash (a b : SlotInstr) : Bool :=
  let ua := a.uses
  let ub := b.uses
  ua.2.any (fun r => ub.1.contains r || ub.2.contains r) || ub.2.any (fun r => ua.1.contains r)

namespace Machine

/-- The feature mask that holds for the focused core (R399). -/
def State.featureMask (s : State) : BitVec 9 :=
  match (s.ctx? s.ctxNo).bind (fun c => c.vf) with
  | some v => if h : v < 17 then s.malt.vfMasks[v] else 0
  | none => 0

/-- Steps 6 and 7 of R46 for one slot: what its instruction, the mode and the feature mask decide. -/
def State.static67 (s : State) (i : Instr) : Option (Nat × BitVec 6) :=
  if (match i.feature with
      | some n => s.featureMask.getLsbD n
      | none => false) then some (6, Cause.featureMasked)
  else if i.privileged s.core.sys.hnd then some (7, Cause.privilege)
  else none

/-- The effect of an instruction behind steps 6 and 7 of R46. -/
def State.guarded (s : State) (i : Instr) (e : Eff) : Eff :=
  match s.static67 i with
  | some (n, c) => s.fault n c
  | none => e

end Machine

end Sys2Proof
end

