-- ==== Sys2Proof/Machine/Alu.lean ====
section
/-! DEFINITION. The integer, bit-field, predicate and counter instructions of the alu slots (R268 to R272, R276 to R278):
for each its effect at issue, and its execution by itself. -/

namespace Sys2Proof.Machine

/-! ### Shared operations -/

/-- The operands of a slot's outcome. -/
abbrev Out := Host.Outcome State Fault Refusal

/-- The value of a 15-bit immediate (R268). -/
def imm15 (i : BitVec 15) : Word := i.signExtend 64

/-- Write the result of an alu operation of latency 1, which chains (R43, R50). -/
def State.alu1 (s : State) (d : XReg) (v : Word) : Eff := .ok (s.putX d v 1 true)

/-- Write the result of an operation of a longer latency, which does not chain (R43, R50). -/
def State.aluN (s : State) (d : XReg) (v : Word) (lat : Nat) : Eff := .ok (s.putX d v lat false)

/-- Busy positions of the divider of the issuing alu slot (R52). -/
def State.divBusy (s : State) : Nat := if s.core.issue.slot = 0 then s.core.busy.div0 else s.core.busy.div1

/-- The divider of the issuing alu slot becomes busy. -/
def State.startDiv (s : State) : State :=
  s.modCore (fun c =>
    { c with busy := if c.issue.slot = 0 then { c.busy with div0 := 24 } else { c.busy with div1 := 24 } })

/-- A division (R50, R52, R270): SCHEDULE when the divider is busy, outside interlocked mode, where it waits (R55). -/
def State.aluDiv (s : State) (d : XReg) (v : Word) : Eff :=
  if s.divBusy = 0 then .ok (s.startDiv.putX d v 24 false)
  else if s.core.sys.modeBits.getLsbD 7 then .stall .flight
  else s.fault 9 Cause.schedule

/-- High half of the signed product. -/
def mulhOf (a b : Word) : Word := BitVec.ofInt 64 (a.toInt * b.toInt / 2 ^ 64)
/-- High half of the unsigned product. -/
def mulhuOf (a b : Word) : Word := BitVec.ofNat 64 (a.toNat * b.toNat / 2 ^ 64)
/-- Signed quotient (R270). -/
def divOf (a b : Word) : Word := if b = 0 then BitVec.allOnes 64 else BitVec.ofInt 64 (a.toInt.tdiv b.toInt)
/-- Unsigned quotient (R270). -/
def divuOf (a b : Word) : Word := if b = 0 then BitVec.allOnes 64 else BitVec.ofNat 64 (a.toNat / b.toNat)
/-- Signed remainder (R270). -/
def remOf (a b : Word) : Word := if b = 0 then a else BitVec.ofInt 64 (a.toInt.tmod b.toInt)
/-- Unsigned remainder (R270). -/
def remuOf (a b : Word) : Word := if b = 0 then a else BitVec.ofNat 64 (a.toNat % b.toNat)
/-- a AND NOT b. -/
def andnOf (a b : Word) : Word := a &&& ~~~b
/-- Left shift by b mod 64. -/
def shlOf (a b : Word) : Word := a <<< (b.toNat % 64)
/-- Right shift by b mod 64, zeros in. -/
def shrOf (a b : Word) : Word := a >>> (b.toNat % 64)
/-- Right shift by b mod 64, copies of a[63] in. -/
def sraOf (a b : Word) : Word := a.sshiftRight (b.toNat % 64)
/-- Left rotation by b mod 64. -/
def rotlOf (a b : Word) : Word := (a <<< (b.toNat % 64)) ||| (a >>> (64 - b.toNat % 64))
/-- Signed minimum. -/
def minOf (a b : Word) : Word := if a.toInt ≤ b.toInt then a else b
/-- Signed maximum. -/
def maxOf (a b : Word) : Word := if a.toInt ≤ b.toInt then b else a
/-- Unsigned minimum. -/
def minuOf (a b : Word) : Word := if a.toNat ≤ b.toNat then a else b
/-- Unsigned maximum. -/
def maxuOf (a b : Word) : Word := if a.toNat ≤ b.toNat then b else a

/-- The bit field of ext (R271). -/
def extOf (a b : Word) (signed : Bool) : Word :=
  let p := b.toNat % 64
  let n := if b.toNat / 2 ^ 8 % 64 = 0 then 64 else b.toNat / 2 ^ 8 % 64
  let f := a.toNat / 2 ^ p % 2 ^ n
  BitVec.ofNat 64 (if signed && decide (2 ^ (n - 1) ≤ f) then 2 ^ 64 - 2 ^ n + f else f)

/-- Leading zeros (R271). -/
def clzOf (a : Word) : Word := BitVec.ofNat 64 (if a = 0 then 64 else 63 - Nat.log2 a.toNat)
/-- Trailing zeros (R271). -/
def ctzOf (a : Word) : Word := BitVec.ofNat 64 (((List.range 64).find? (fun i => a.getLsbD i)).getD 64)
/-- Ones (R271). -/
def popcOf (a : Word) : Word := BitVec.ofNat 64 ((List.range 64).filter (fun i => a.getLsbD i)).length
/-- The bit order reversed (R271). -/
def brevOf (a : Word) : Word :=
  BitVec.ofNat 64 ((List.range 64).foldl (fun r i => 2 * r + (if a.getLsbD i then 1 else 0)) 0)

/-- The comparison of a cmp (R272). -/
def cmpOf (c : CmpCond) (a b : Word) : Bool :=
  match c with
  | .eq => a == b
  | .ne => a != b
  | .lt => decide (a.toInt < b.toInt)
  | .le => decide (a.toInt ≤ b.toInt)
  | .ltu => decide (a.toNat < b.toNat)
  | .leu => decide (a.toNat ≤ b.toNat)

/-- The operation of a plog (R272). -/
def plogOf (o : PLogOp) (a b : Bool) : Bool :=
  match o with
  | .and => a && b
  | .or => a || b
  | .xor => a != b
  | .andn => a && !b

/-- A counter write (R277). It lands at the next position, where it is compared; it chains. -/
def State.writeCtr (s : State) (k : CtrNo) (v : Word32) : Eff := .ok (s.put (.ctr k v) 1 true)

/-! ### Integer operations (R269, R270) -/

/-- add, register form (R269). -/
def effAdd (d a b : XReg) (s : State) : Eff := s.alu1 d (s.x a + s.x b)
/-- add by itself. -/
def execAdd (d a b : XReg) (s : State) : Out := settle s (effAdd d a b s)
/-- add, immediate form (R269). -/
def effAddImm (d a : XReg) (imm : BitVec 15) (s : State) : Eff := s.alu1 d (s.x a + imm15 imm)
/-- addImm by itself. -/
def execAddImm (d a : XReg) (imm : BitVec 15) (s : State) : Out := settle s (effAddImm d a imm s)
/-- add, literal form (R269). -/
def effAddLit (d a : XReg) (l : Lit) (s : State) : Eff := s.alu1 d (s.x a + l.value)
/-- addLit by itself. -/
def execAddLit (d a : XReg) (l : Lit) (s : State) : Out := settle s (effAddLit d a l s)
/-- sub, register form (R269). -/
def effSub (d a b : XReg) (s : State) : Eff := s.alu1 d (s.x a - s.x b)
/-- sub by itself. -/
def execSub (d a b : XReg) (s : State) : Out := settle s (effSub d a b s)
/-- sub, immediate form (R269). -/
def effSubImm (d a : XReg) (imm : BitVec 15) (s : State) : Eff := s.alu1 d (s.x a - imm15 imm)
/-- subImm by itself. -/
def execSubImm (d a : XReg) (imm : BitVec 15) (s : State) : Out := settle s (effSubImm d a imm s)
/-- sub, literal form (R269). -/
def effSubLit (d a : XReg) (l : Lit) (s : State) : Eff := s.alu1 d (s.x a - l.value)
/-- subLit by itself. -/
def execSubLit (d a : XReg) (l : Lit) (s : State) : Out := settle s (effSubLit d a l s)
/-- mul, register form (R269). -/
def effMul (d a b : XReg) (s : State) : Eff := s.aluN d (s.x a * s.x b) 3
/-- mul by itself. -/
def execMul (d a b : XReg) (s : State) : Out := settle s (effMul d a b s)
/-- mul, immediate form (R269). -/
def effMulImm (d a : XReg) (imm : BitVec 15) (s : State) : Eff := s.aluN d (s.x a * imm15 imm) 3
/-- mulImm by itself. -/
def execMulImm (d a : XReg) (imm : BitVec 15) (s : State) : Out := settle s (effMulImm d a imm s)
/-- mul, literal form (R269). -/
def effMulLit (d a : XReg) (l : Lit) (s : State) : Eff := s.aluN d (s.x a * l.value) 3
/-- mulLit by itself. -/
def execMulLit (d a : XReg) (l : Lit) (s : State) : Out := settle s (effMulLit d a l s)
/-- mulh, register form (R269). -/
def effMulh (d a b : XReg) (s : State) : Eff := s.aluN d (mulhOf (s.x a) (s.x b)) 3
/-- mulh by itself. -/
def execMulh (d a b : XReg) (s : State) : Out := settle s (effMulh d a b s)
/-- mulh, immediate form (R269). -/
def effMulhImm (d a : XReg) (imm : BitVec 15) (s : State) : Eff := s.aluN d (mulhOf (s.x a) (imm15 imm)) 3
/-- mulhImm by itself. -/
def execMulhImm (d a : XReg) (imm : BitVec 15) (s : State) : Out := settle s (effMulhImm d a imm s)
/-- mulh, literal form (R269). -/
def effMulhLit (d a : XReg) (l : Lit) (s : State) : Eff := s.aluN d (mulhOf (s.x a) l.value) 3
/-- mulhLit by itself. -/
def execMulhLit (d a : XReg) (l : Lit) (s : State) : Out := settle s (effMulhLit d a l s)
/-- mulhu, register form (R269). -/
def effMulhu (d a b : XReg) (s : State) : Eff := s.aluN d (mulhuOf (s.x a) (s.x b)) 3
/-- mulhu by itself. -/
def execMulhu (d a b : XReg) (s : State) : Out := settle s (effMulhu d a b s)
/-- mulhu, immediate form (R269). -/
def effMulhuImm (d a : XReg) (imm : BitVec 15) (s : State) : Eff := s.aluN d (mulhuOf (s.x a) (imm15 imm)) 3
/-- mulhuImm by itself. -/
def execMulhuImm (d a : XReg) (imm : BitVec 15) (s : State) : Out := settle s (effMulhuImm d a imm s)
/-- mulhu, literal form (R269). -/
def effMulhuLit (d a : XReg) (l : Lit) (s : State) : Eff := s.aluN d (mulhuOf (s.x a) l.value) 3
/-- mulhuLit by itself. -/
def execMulhuLit (d a : XReg) (l : Lit) (s : State) : Out := settle s (effMulhuLit d a l s)
/-- div, register form (R270). -/
def effDiv (d a b : XReg) (s : State) : Eff := s.aluDiv d (divOf (s.x a) (s.x b))
/-- div by itself. -/
def execDiv (d a b : XReg) (s : State) : Out := settle s (effDiv d a b s)
/-- div, immediate form (R270). -/
def effDivImm (d a : XReg) (imm : BitVec 15) (s : State) : Eff := s.aluDiv d (divOf (s.x a) (imm15 imm))
/-- divImm by itself. -/
def execDivImm (d a : XReg) (imm : BitVec 15) (s : State) : Out := settle s (effDivImm d a imm s)
/-- div, literal form (R270). -/
def effDivLit (d a : XReg) (l : Lit) (s : State) : Eff := s.aluDiv d (divOf (s.x a) l.value)
/-- divLit by itself. -/
def execDivLit (d a : XReg) (l : Lit) (s : State) : Out := settle s (effDivLit d a l s)
/-- divu, register form (R270). -/
def effDivu (d a b : XReg) (s : State) : Eff := s.aluDiv d (divuOf (s.x a) (s.x b))
/-- divu by itself. -/
def execDivu (d a b : XReg) (s : State) : Out := settle s (effDivu d a b s)
/-- divu, immediate form (R270). -/
def effDivuImm (d a : XReg) (imm : BitVec 15) (s : State) : Eff := s.aluDiv d (divuOf (s.x a) (imm15 imm))
/-- divuImm by itself. -/
def execDivuImm (d a : XReg) (imm : BitVec 15) (s : State) : Out := settle s (effDivuImm d a imm s)
/-- divu, literal form (R270). -/
def effDivuLit (d a : XReg) (l : Lit) (s : State) : Eff := s.aluDiv d (divuOf (s.x a) l.value)
/-- divuLit by itself. -/
def execDivuLit (d a : XReg) (l : Lit) (s : State) : Out := settle s (effDivuLit d a l s)
/-- rem, register form (R270). -/
def effRem (d a b : XReg) (s : State) : Eff := s.aluDiv d (remOf (s.x a) (s.x b))
/-- rem by itself. -/
def execRem (d a b : XReg) (s : State) : Out := settle s (effRem d a b s)
/-- rem, immediate form (R270). -/
def effRemImm (d a : XReg) (imm : BitVec 15) (s : State) : Eff := s.aluDiv d (remOf (s.x a) (imm15 imm))
/-- remImm by itself. -/
def execRemImm (d a : XReg) (imm : BitVec 15) (s : State) : Out := settle s (effRemImm d a imm s)
/-- rem, literal form (R270). -/
def effRemLit (d a : XReg) (l : Lit) (s : State) : Eff := s.aluDiv d (remOf (s.x a) l.value)
/-- remLit by itself. -/
def execRemLit (d a : XReg) (l : Lit) (s : State) : Out := settle s (effRemLit d a l s)
/-- remu, register form (R270). -/
def effRemu (d a b : XReg) (s : State) : Eff := s.aluDiv d (remuOf (s.x a) (s.x b))
/-- remu by itself. -/
def execRemu (d a b : XReg) (s : State) : Out := settle s (effRemu d a b s)
/-- remu, immediate form (R270). -/
def effRemuImm (d a : XReg) (imm : BitVec 15) (s : State) : Eff := s.aluDiv d (remuOf (s.x a) (imm15 imm))
/-- remuImm by itself. -/
def execRemuImm (d a : XReg) (imm : BitVec 15) (s : State) : Out := settle s (effRemuImm d a imm s)
/-- remu, literal form (R270). -/
def effRemuLit (d a : XReg) (l : Lit) (s : State) : Eff := s.aluDiv d (remuOf (s.x a) l.value)
/-- remuLit by itself. -/
def execRemuLit (d a : XReg) (l : Lit) (s : State) : Out := settle s (effRemuLit d a l s)
/-- and, register form (R269). -/
def effAnd (d a b : XReg) (s : State) : Eff := s.alu1 d (s.x a &&& s.x b)
/-- and by itself. -/
def execAnd (d a b : XReg) (s : State) : Out := settle s (effAnd d a b s)
/-- and, immediate form (R269). -/
def effAndImm (d a : XReg) (imm : BitVec 15) (s : State) : Eff := s.alu1 d (s.x a &&& imm15 imm)
/-- andImm by itself. -/
def execAndImm (d a : XReg) (imm : BitVec 15) (s : State) : Out := settle s (effAndImm d a imm s)
/-- and, literal form (R269). -/
def effAndLit (d a : XReg) (l : Lit) (s : State) : Eff := s.alu1 d (s.x a &&& l.value)
/-- andLit by itself. -/
def execAndLit (d a : XReg) (l : Lit) (s : State) : Out := settle s (effAndLit d a l s)
/-- or, register form (R269). -/
def effOr (d a b : XReg) (s : State) : Eff := s.alu1 d (s.x a ||| s.x b)
/-- or by itself. -/
def execOr (d a b : XReg) (s : State) : Out := settle s (effOr d a b s)
/-- or, immediate form (R269). -/
def effOrImm (d a : XReg) (imm : BitVec 15) (s : State) : Eff := s.alu1 d (s.x a ||| imm15 imm)
/-- orImm by itself. -/
def execOrImm (d a : XReg) (imm : BitVec 15) (s : State) : Out := settle s (effOrImm d a imm s)
/-- or, literal form (R269). -/
def effOrLit (d a : XReg) (l : Lit) (s : State) : Eff := s.alu1 d (s.x a ||| l.value)
/-- orLit by itself. -/
def execOrLit (d a : XReg) (l : Lit) (s : State) : Out := settle s (effOrLit d a l s)
/-- xor, register form (R269). -/
def effXor (d a b : XReg) (s : State) : Eff := s.alu1 d (s.x a ^^^ s.x b)
/-- xor by itself. -/
def execXor (d a b : XReg) (s : State) : Out := settle s (effXor d a b s)
/-- xor, immediate form (R269). -/
def effXorImm (d a : XReg) (imm : BitVec 15) (s : State) : Eff := s.alu1 d (s.x a ^^^ imm15 imm)
/-- xorImm by itself. -/
def execXorImm (d a : XReg) (imm : BitVec 15) (s : State) : Out := settle s (effXorImm d a imm s)
/-- xor, literal form (R269). -/
def effXorLit (d a : XReg) (l : Lit) (s : State) : Eff := s.alu1 d (s.x a ^^^ l.value)
/-- xorLit by itself. -/
def execXorLit (d a : XReg) (l : Lit) (s : State) : Out := settle s (effXorLit d a l s)
/-- andn, register form (R269). -/
def effAndn (d a b : XReg) (s : State) : Eff := s.alu1 d (andnOf (s.x a) (s.x b))
/-- andn by itself. -/
def execAndn (d a b : XReg) (s : State) : Out := settle s (effAndn d a b s)
/-- andn, immediate form (R269). -/
def effAndnImm (d a : XReg) (imm : BitVec 15) (s : State) : Eff := s.alu1 d (andnOf (s.x a) (imm15 imm))
/-- andnImm by itself. -/
def execAndnImm (d a : XReg) (imm : BitVec 15) (s : State) : Out := settle s (effAndnImm d a imm s)
/-- andn, literal form (R269). -/
def effAndnLit (d a : XReg) (l : Lit) (s : State) : Eff := s.alu1 d (andnOf (s.x a) l.value)
/-- andnLit by itself. -/
def execAndnLit (d a : XReg) (l : Lit) (s : State) : Out := settle s (effAndnLit d a l s)
/-- shl, register form (R269). -/
def effShl (d a b : XReg) (s : State) : Eff := s.alu1 d (shlOf (s.x a) (s.x b))
/-- shl by itself. -/
def execShl (d a b : XReg) (s : State) : Out := settle s (effShl d a b s)
/-- shl, immediate form (R269). -/
def effShlImm (d a : XReg) (imm : BitVec 15) (s : State) : Eff := s.alu1 d (shlOf (s.x a) (imm15 imm))
/-- shlImm by itself. -/
def execShlImm (d a : XReg) (imm : BitVec 15) (s : State) : Out := settle s (effShlImm d a imm s)
/-- shl, literal form (R269). -/
def effShlLit (d a : XReg) (l : Lit) (s : State) : Eff := s.alu1 d (shlOf (s.x a) l.value)
/-- shlLit by itself. -/
def execShlLit (d a : XReg) (l : Lit) (s : State) : Out := settle s (effShlLit d a l s)
/-- shr, register form (R269). -/
def effShr (d a b : XReg) (s : State) : Eff := s.alu1 d (shrOf (s.x a) (s.x b))
/-- shr by itself. -/
def execShr (d a b : XReg) (s : State) : Out := settle s (effShr d a b s)
/-- shr, immediate form (R269). -/
def effShrImm (d a : XReg) (imm : BitVec 15) (s : State) : Eff := s.alu1 d (shrOf (s.x a) (imm15 imm))
/-- shrImm by itself. -/
def execShrImm (d a : XReg) (imm : BitVec 15) (s : State) : Out := settle s (effShrImm d a imm s)
/-- shr, literal form (R269). -/
def effShrLit (d a : XReg) (l : Lit) (s : State) : Eff := s.alu1 d (shrOf (s.x a) l.value)
/-- shrLit by itself. -/
def execShrLit (d a : XReg) (l : Lit) (s : State) : Out := settle s (effShrLit d a l s)
/-- sra, register form (R269). -/
def effSra (d a b : XReg) (s : State) : Eff := s.alu1 d (sraOf (s.x a) (s.x b))
/-- sra by itself. -/
def execSra (d a b : XReg) (s : State) : Out := settle s (effSra d a b s)
/-- sra, immediate form (R269). -/
def effSraImm (d a : XReg) (imm : BitVec 15) (s : State) : Eff := s.alu1 d (sraOf (s.x a) (imm15 imm))
/-- sraImm by itself. -/
def execSraImm (d a : XReg) (imm : BitVec 15) (s : State) : Out := settle s (effSraImm d a imm s)
/-- sra, literal form (R269). -/
def effSraLit (d a : XReg) (l : Lit) (s : State) : Eff := s.alu1 d (sraOf (s.x a) l.value)
/-- sraLit by itself. -/
def execSraLit (d a : XReg) (l : Lit) (s : State) : Out := settle s (effSraLit d a l s)
/-- rotl, register form (R269). -/
def effRotl (d a b : XReg) (s : State) : Eff := s.alu1 d (rotlOf (s.x a) (s.x b))
/-- rotl by itself. -/
def execRotl (d a b : XReg) (s : State) : Out := settle s (effRotl d a b s)
/-- rotl, immediate form (R269). -/
def effRotlImm (d a : XReg) (imm : BitVec 15) (s : State) : Eff := s.alu1 d (rotlOf (s.x a) (imm15 imm))
/-- rotlImm by itself. -/
def execRotlImm (d a : XReg) (imm : BitVec 15) (s : State) : Out := settle s (effRotlImm d a imm s)
/-- rotl, literal form (R269). -/
def effRotlLit (d a : XReg) (l : Lit) (s : State) : Eff := s.alu1 d (rotlOf (s.x a) l.value)
/-- rotlLit by itself. -/
def execRotlLit (d a : XReg) (l : Lit) (s : State) : Out := settle s (effRotlLit d a l s)
/-- min, register form (R269). -/
def effMin (d a b : XReg) (s : State) : Eff := s.alu1 d (minOf (s.x a) (s.x b))
/-- min by itself. -/
def execMin (d a b : XReg) (s : State) : Out := settle s (effMin d a b s)
/-- min, immediate form (R269). -/
def effMinImm (d a : XReg) (imm : BitVec 15) (s : State) : Eff := s.alu1 d (minOf (s.x a) (imm15 imm))
/-- minImm by itself. -/
def execMinImm (d a : XReg) (imm : BitVec 15) (s : State) : Out := settle s (effMinImm d a imm s)
/-- min, literal form (R269). -/
def effMinLit (d a : XReg) (l : Lit) (s : State) : Eff := s.alu1 d (minOf (s.x a) l.value)
/-- minLit by itself. -/
def execMinLit (d a : XReg) (l : Lit) (s : State) : Out := settle s (effMinLit d a l s)
/-- max, register form (R269). -/
def effMax (d a b : XReg) (s : State) : Eff := s.alu1 d (maxOf (s.x a) (s.x b))
/-- max by itself. -/
def execMax (d a b : XReg) (s : State) : Out := settle s (effMax d a b s)
/-- max, immediate form (R269). -/
def effMaxImm (d a : XReg) (imm : BitVec 15) (s : State) : Eff := s.alu1 d (maxOf (s.x a) (imm15 imm))
/-- maxImm by itself. -/
def execMaxImm (d a : XReg) (imm : BitVec 15) (s : State) : Out := settle s (effMaxImm d a imm s)
/-- max, literal form (R269). -/
def effMaxLit (d a : XReg) (l : Lit) (s : State) : Eff := s.alu1 d (maxOf (s.x a) l.value)
/-- maxLit by itself. -/
def execMaxLit (d a : XReg) (l : Lit) (s : State) : Out := settle s (effMaxLit d a l s)
/-- minu, register form (R269). -/
def effMinu (d a b : XReg) (s : State) : Eff := s.alu1 d (minuOf (s.x a) (s.x b))
/-- minu by itself. -/
def execMinu (d a b : XReg) (s : State) : Out := settle s (effMinu d a b s)
/-- minu, immediate form (R269). -/
def effMinuImm (d a : XReg) (imm : BitVec 15) (s : State) : Eff := s.alu1 d (minuOf (s.x a) (imm15 imm))
/-- minuImm by itself. -/
def execMinuImm (d a : XReg) (imm : BitVec 15) (s : State) : Out := settle s (effMinuImm d a imm s)
/-- minu, literal form (R269). -/
def effMinuLit (d a : XReg) (l : Lit) (s : State) : Eff := s.alu1 d (minuOf (s.x a) l.value)
/-- minuLit by itself. -/
def execMinuLit (d a : XReg) (l : Lit) (s : State) : Out := settle s (effMinuLit d a l s)
/-- maxu, register form (R269). -/
def effMaxu (d a b : XReg) (s : State) : Eff := s.alu1 d (maxuOf (s.x a) (s.x b))
/-- maxu by itself. -/
def execMaxu (d a b : XReg) (s : State) : Out := settle s (effMaxu d a b s)
/-- maxu, immediate form (R269). -/
def effMaxuImm (d a : XReg) (imm : BitVec 15) (s : State) : Eff := s.alu1 d (maxuOf (s.x a) (imm15 imm))
/-- maxuImm by itself. -/
def execMaxuImm (d a : XReg) (imm : BitVec 15) (s : State) : Out := settle s (effMaxuImm d a imm s)
/-- maxu, literal form (R269). -/
def effMaxuLit (d a : XReg) (l : Lit) (s : State) : Eff := s.alu1 d (maxuOf (s.x a) l.value)
/-- maxuLit by itself. -/
def execMaxuLit (d a : XReg) (l : Lit) (s : State) : Out := settle s (effMaxuLit d a l s)
/-! ### Moves and bit fields (R271) -/

/-- sel (R271). -/
def effSel (d a b : XReg) (p : PReg) (s : State) : Eff := s.alu1 d (if s.p p then s.x a else s.x b)
/-- sel by itself. -/
def execSel (d a b : XReg) (p : PReg) (s : State) : Out := settle s (effSel d a b p s)
/-- mov, register form (R271). -/
def effMov (d a : XReg) (s : State) : Eff := s.alu1 d (s.x a)
/-- mov by itself. -/
def execMov (d a : XReg) (s : State) : Out := settle s (effMov d a s)
/-- mov, immediate form (R271). -/
def effMovImm (d : XReg) (imm : BitVec 15) (s : State) : Eff := s.alu1 d (imm15 imm)
/-- movImm by itself. -/
def execMovImm (d : XReg) (imm : BitVec 15) (s : State) : Out := settle s (effMovImm d imm s)
/-- mov, literal form (R271). -/
def effMovLit (d : XReg) (l : Lit) (s : State) : Eff := s.alu1 d l.value
/-- movLit by itself. -/
def execMovLit (d : XReg) (l : Lit) (s : State) : Out := settle s (effMovLit d l s)
/-- ext (R271). -/
def effExt (d a b : XReg) (sg : Bool) (s : State) : Eff := s.alu1 d (extOf (s.x a) (s.x b) sg)
/-- ext by itself. -/
def execExt (d a b : XReg) (sg : Bool) (s : State) : Out := settle s (effExt d a b sg s)
/-- bit.clz (R271). -/
def effBitClz (d a : XReg) (s : State) : Eff := s.alu1 d (clzOf (s.x a))
/-- bitClz by itself. -/
def execBitClz (d a : XReg) (s : State) : Out := settle s (effBitClz d a s)
/-- bit.ctz (R271). -/
def effBitCtz (d a : XReg) (s : State) : Eff := s.alu1 d (ctzOf (s.x a))
/-- bitCtz by itself. -/
def execBitCtz (d a : XReg) (s : State) : Out := settle s (effBitCtz d a s)
/-- bit.popc (R271). -/
def effBitPopc (d a : XReg) (s : State) : Eff := s.alu1 d (popcOf (s.x a))
/-- bitPopc by itself. -/
def execBitPopc (d a : XReg) (s : State) : Out := settle s (effBitPopc d a s)
/-- bit.brev (R271). -/
def effBitBrev (d a : XReg) (s : State) : Eff := s.alu1 d (brevOf (s.x a))
/-- bitBrev by itself. -/
def execBitBrev (d a : XReg) (s : State) : Out := settle s (effBitBrev d a s)
/-! ### Predicates (R272) -/

/-- cmp (R272). -/
def effCmp (c : CmpCond) (d : PReg) (a b : XReg) (s : State) : Eff := .ok (s.putP d (cmpOf c (s.x a) (s.x b)))
/-- cmp by itself. -/
def execCmp (c : CmpCond) (d : PReg) (a b : XReg) (s : State) : Out := settle s (effCmp c d a b s)
/-- plog (R272). -/
def effPlog (o : PLogOp) (d a b : PReg) (s : State) : Eff := .ok (s.putP d (plogOf o (s.p a) (s.p b)))
/-- plog by itself. -/
def execPlog (o : PLogOp) (d a b : PReg) (s : State) : Out := settle s (effPlog o d a b s)
/-! ### Checks and counters (R276 to R278) -/

/-- cmpt (R276, R366): a difference rolls the core back, and no slot of the bundle takes effect. The table of R46 names no step for it:
it is found at step 10 (DESIGN CHOICE, log entry 100). -/
def effCmpt (a b : XReg) (s : State) : Eff :=
  if s.x a = s.x b then .ok s
  else .raise { step := 10, slot := s.core.issue.slot, cause := Cause.silentMismatch,
                info := recoveryInfo s.core.pc s.core.issue.slot, rollback := true }
/-- cmpt by itself. -/
def execCmpt (a b : XReg) (s : State) : Out := settle s (effCmpt a b s)
/-- crd (R277). -/
def effCrd (d : XReg) (k : CtrNo) (s : State) : Eff := s.alu1 d ((s.ctr k).setWidth 64)
/-- crd by itself. -/
def execCrd (d : XReg) (k : CtrNo) (s : State) : Out := settle s (effCrd d k s)
/-- cwr, register form (R277). -/
def effCwr (k : CtrNo) (inc : Bool) (a b : XReg) (s : State) : Eff :=
  s.writeCtr k ((if inc then s.ctr k else 0) + (s.x a + s.x b).setWidth 32)
/-- cwr by itself. -/
def execCwr (k : CtrNo) (inc : Bool) (a b : XReg) (s : State) : Out := settle s (effCwr k inc a b s)
/-- cwr, immediate form (R277). -/
def effCwrImm (k : CtrNo) (inc : Bool) (a : XReg) (imm : BitVec 15) (s : State) : Eff :=
  s.writeCtr k ((if inc then s.ctr k else 0) + (s.x a + imm15 imm).setWidth 32)
/-- cwrImm by itself. -/
def execCwrImm (k : CtrNo) (inc : Bool) (a : XReg) (imm : BitVec 15) (s : State) : Out :=
  settle s (effCwrImm k inc a imm s)
/-- lcr (R278). -/
def effLcr (d : XReg) (k : LoopNo) (s : State) : Eff := s.alu1 d ((s.lc k.val).setWidth 64)
/-- lcr by itself. -/
def execLcr (d : XReg) (k : LoopNo) (s : State) : Out := settle s (effLcr d k s)
/-- nop (R48). -/
def effNop (s : State) : Eff := .ok s
/-- nop by itself. -/
def execNop (s : State) : Out := settle s (effNop s)

end Sys2Proof.Machine
end

