-- ==== Sys2Proof/Machine/AluFp.lean ====
section
/-! DEFINITION. Scalar floating point (R273, R274) and the instructions of the system registers (R275, R90, R129). -/

namespace Sys2Proof.Machine

/-! ### Scalar floating point (R273, R274) -/

/-- MODE.FTZ (R291). -/
def State.ftz (s : State) : Bool := s.core.sys.modeBits.getLsbD 2

/-- MODE.FRND (R291). -/
def State.frnd (s : State) : Rnd := Rnd.ofNat ((s.core.sys.modeBits >>> 3) &&& 7).toNat

/-- The FP32 value of the low half of a register (R273). -/
def State.fval (s : State) (w : Word) : Num := decodeFp32 s.ftz (w.setWidth 32)

/-- Write an exact result rounded once under MODE (R273): latency 4. -/
def State.putFp (s : State) (d : XReg) (v : Num) : Eff :=
  s.aluN d (BitVec.ofNat 64 (encodeElem .fp32 s.frnd false s.ftz false SrKey.none v).bits) 4

/-- The sign of an exact zero under MODE.FRND (R213). -/
def State.zneg (s : State) : Bool := s.frnd == .rdn

/-- A literal FP32 operand (R273). -/
def litWord (v : BitVec 32) : Word := v.setWidth 64

/-- fadd.s, register form: a + b (R273). -/
def effFaddS (d a b : XReg) (s : State) : Eff := s.putFp d ((s.fval (s.x a)).add (s.fval (s.x b)) s.zneg)
/-- fadd.s by itself. -/
def execFaddS (d a b : XReg) (s : State) : Out := settle s (effFaddS d a b s)
/-- fadd.s, literal form (R273). -/
def effFaddSLit (d a : XReg) (_k : Fin 4) (v : BitVec 32) (s : State) : Eff :=
  s.putFp d ((s.fval (s.x a)).add (s.fval (litWord v)) s.zneg)
/-- fadd.s, literal form, by itself. -/
def execFaddSLit (d a : XReg) (k : Fin 4) (v : BitVec 32) (s : State) : Out := settle s (effFaddSLit d a k v s)

/-- fsub.s, register form: a − b (R273). -/
def effFsubS (d a b : XReg) (s : State) : Eff := s.putFp d ((s.fval (s.x a)).add (s.fval (s.x b)).negate s.zneg)
/-- fsub.s by itself. -/
def execFsubS (d a b : XReg) (s : State) : Out := settle s (effFsubS d a b s)
/-- fsub.s, literal form (R273). -/
def effFsubSLit (d a : XReg) (_k : Fin 4) (v : BitVec 32) (s : State) : Eff :=
  s.putFp d ((s.fval (s.x a)).add (s.fval (litWord v)).negate s.zneg)
/-- fsub.s, literal form, by itself. -/
def execFsubSLit (d a : XReg) (k : Fin 4) (v : BitVec 32) (s : State) : Out := settle s (effFsubSLit d a k v s)

/-- fmul.s, register form: a × b (R273). -/
def effFmulS (d a b : XReg) (s : State) : Eff := s.putFp d ((s.fval (s.x a)).mul (s.fval (s.x b)))
/-- fmul.s by itself. -/
def execFmulS (d a b : XReg) (s : State) : Out := settle s (effFmulS d a b s)
/-- fmul.s, literal form (R273). -/
def effFmulSLit (d a : XReg) (_k : Fin 4) (v : BitVec 32) (s : State) : Eff :=
  s.putFp d ((s.fval (s.x a)).mul (s.fval (litWord v)))
/-- fmul.s, literal form, by itself. -/
def execFmulSLit (d a : XReg) (k : Fin 4) (v : BitVec 32) (s : State) : Out := settle s (effFmulSLit d a k v s)

/-- ffma.s, register form: a × b + xd (R273). -/
def effFfmaS (d a b : XReg) (s : State) : Eff := s.putFp d (((s.fval (s.x a)).mul (s.fval (s.x b))).add (s.fval (s.x d)) s.zneg)
/-- ffma.s by itself. -/
def execFfmaS (d a b : XReg) (s : State) : Out := settle s (effFfmaS d a b s)
/-- ffma.s, literal form (R273). -/
def effFfmaSLit (d a : XReg) (_k : Fin 4) (v : BitVec 32) (s : State) : Eff :=
  s.putFp d (((s.fval (s.x a)).mul (s.fval (litWord v))).add (s.fval (s.x d)) s.zneg)
/-- ffma.s, literal form, by itself. -/
def execFfmaSLit (d a : XReg) (k : Fin 4) (v : BitVec 32) (s : State) : Out := settle s (effFfmaSLit d a k v s)

/-- fmin.s, register form: the min rule (R273). -/
def effFminS (d a b : XReg) (s : State) : Eff := s.putFp d ((s.fval (s.x a)).minRule (s.fval (s.x b)))
/-- fmin.s by itself. -/
def execFminS (d a b : XReg) (s : State) : Out := settle s (effFminS d a b s)
/-- fmin.s, literal form (R273). -/
def effFminSLit (d a : XReg) (_k : Fin 4) (v : BitVec 32) (s : State) : Eff :=
  s.putFp d ((s.fval (s.x a)).minRule (s.fval (litWord v)))
/-- fmin.s, literal form, by itself. -/
def execFminSLit (d a : XReg) (k : Fin 4) (v : BitVec 32) (s : State) : Out := settle s (effFminSLit d a k v s)

/-- fmax.s, register form: the max rule (R273). -/
def effFmaxS (d a b : XReg) (s : State) : Eff := s.putFp d ((s.fval (s.x a)).maxRule (s.fval (s.x b)))
/-- fmax.s by itself. -/
def execFmaxS (d a b : XReg) (s : State) : Out := settle s (effFmaxS d a b s)
/-- fmax.s, literal form (R273). -/
def effFmaxSLit (d a : XReg) (_k : Fin 4) (v : BitVec 32) (s : State) : Eff :=
  s.putFp d ((s.fval (s.x a)).maxRule (s.fval (litWord v)))
/-- fmax.s, literal form, by itself. -/
def execFmaxSLit (d a : XReg) (k : Fin 4) (v : BitVec 32) (s : State) : Out := settle s (effFmaxSLit d a k v s)

/-- The condition of an fcmp (R274). -/
def fcmpOf (c : FCmpCond) (a b : Num) : Bool :=
  match c with
  | .eq => a.eqv b
  | .ne => !a.eqv b
  | .lt => a.lt b
  | .le => a.lt b || a.eqv b
  | .uo => a.isNan || b.isNan

/-- fcmp (R274). -/
def effFcmp (c : FCmpCond) (d : PReg) (a b : XReg) (s : State) : Eff :=
  .ok (s.putP d (fcmpOf c (s.fval (s.x a)) (s.fval (s.x b))))
/-- fcmp by itself. -/
def execFcmp (c : FCmpCond) (d : PReg) (a b : XReg) (s : State) : Out := settle s (effFcmp c d a b s)

/-- An encoding as fcvt.to writes it: sign-extended for INT8, INT16 and INT32 (R274). -/
def fcvtBits (f : Fmt) (bits : Nat) : Word :=
  match f with
  | .int8 => (BitVec.ofNat 8 bits).signExtend 64
  | .int16 => (BitVec.ofNat 16 bits).signExtend 64
  | .int32 => (BitVec.ofNat 32 bits).signExtend 64
  | _ => BitVec.ofNat 64 bits

/-- fcvt.to: FP32 into an element format, under MODE.SSAT and MODE.FTZ (R274); into FP32 itself it keeps the bits (R210). -/
def effFcvtTo (f : Fmt) (d a : XReg) (r : Rnd) (s : State) : Eff :=
  let bits := if f = .fp32 then (s.x a).toNat % 2 ^ 32
    else (encodeElem f r (s.core.sys.modeBits.getLsbD 6) s.ftz false SrKey.none (s.fval (s.x a))).bits
  s.aluN d (fcvtBits f bits) 2
/-- fcvt.to by itself. -/
def execFcvtTo (f : Fmt) (d a : XReg) (r : Rnd) (s : State) : Out := settle s (effFcvtTo f d a r s)

/-- A TRI2 read of 0b10 is counted (R194). -/
def State.noteTri2 (s : State) (bad : Bool) : State :=
  if bad then s.countErr s.ctxNo (fun e => { e with tri2 := satInc e.tri2 }) else s

/-- fcvt.from: an element into FP32 (R274); from FP32 itself it keeps the bits (R210). -/
def effFcvtFrom (f : Fmt) (d a : XReg) (r : Rnd) (s : State) : Eff :=
  let bits := (s.x a).toNat % 2 ^ f.width
  (s.noteTri2 (badTri2 f bits)).aluN d
    (BitVec.ofNat 64 (if f = .fp32 then bits
      else (encodeElem .fp32 r false s.ftz false SrKey.none (decodeElem f s.ftz bits)).bits)) 2
/-- fcvt.from by itself. -/
def execFcvtFrom (f : Fmt) (d a : XReg) (r : Rnd) (s : State) : Out := settle s (effFcvtFrom f d a r s)

/-! ### System registers (R275, R292 to R295) -/

/-- What a context keeps toward an owner package. -/
def Ctx.owner? (c : Ctx) (o : Nat) : Option OwnerSt := c.owners.find? (fun w => w.owner == o)

/-- An ERR register of the running context (R295). -/
def State.errReg (s : State) (f : ErrRegs → Word32) : Word :=
  match s.ctx? s.ctxNo with
  | some c => (f c.err).setWidth 64
  | none => 0

/-- The retransmission engine's view toward REMOP.NEXT.OWNER (R129): next serial, cumulative acknowledgement. -/
def State.remop (s : State) : Nat × Nat :=
  match (s.ctx? s.ctxNo).bind (fun c => c.owner? s.core.sys.nextOwner.toNat) with
  | some w => (w.next, w.acked)
  | none => (1, 0)

/-- The value of a system register as mfs reads it (R275, R292). -/
def State.sysRead (s : State) (r : SysReg) : Word :=
  let y := s.core.sys
  match r with
  | .ctxId => y.ctxId.setWidth 64
  | .coreLog => BitVec.ofNat 64 s.core.logical
  | .corePhy => BitVec.ofNat 64 ((if s.core.die then 64 else 0) + s.core.pos % 64)
  | .timePod => s.podTime
  | .mode => (if y.hnd then 0x100 else 0) ||| y.modeBits.setWidth 64
  | .slack => y.slack.setWidth 64
  | .fmt n => y.fmt[n]
  | .stkDepth => BitVec.ofNat 64 s.core.mash.spine.length
  | .stkLimit => y.stk.limit.setWidth 64
  | .stkWin => y.stk.win.setWidth 64
  | .stkSpill => y.stk.spillSlots.setWidth 64 <<< 32 ||| y.stk.spillBase.setWidth 64
  | .stkL2Spill => y.stk.l2Slice.setWidth 64 <<< 32 ||| y.stk.l2Slots.setWidth 64
  | .nodeFree => BitVec.ofNat 64 s.core.mash.free
  | .rndSeed => y.rndSeed
  | .faultCause => y.fCause.setWidth 64
  | .faultOrigin => y.fOrigin
  | .faultDemand => y.fDemand
  | .faultNode => y.fNode
  | .faultSeg => y.fSeg
  | .faultInfo => y.fInfo
  | .trapVec => y.trapVec.setWidth 64
  | .trapPc => y.trapPc.setWidth 64
  | .rsv n => y.rsv[n]
  | .cntT k => (s.core.regs.t[k]).setWidth 64
  | .remopNext => y.nextOwner.setWidth 64 <<< 48 ||| BitVec.ofNat 64 s.remop.1
  | .remopAcked => BitVec.ofNat 64 s.remop.2
  | .remopTmo => match s.ctx? s.ctxNo with
    | some c => c.tmo
    | none => 0
  | .errMemCe => s.errReg (fun e => e.memCe)
  | .errMemUe => s.errReg (fun e => e.memUe)
  | .errMemOrphan => s.errReg (fun e => e.memOrphan)
  | .errSpadCe => s.errReg (fun e => e.spadCe)
  | .errFmtTri2 => s.errReg (fun e => e.tri2)
  | .errRemopRtx => s.errReg (fun e => e.rtx)
  | .errRemopDup => s.errReg (fun e => e.dup)
  | .errImplicit => s.errReg (fun e => e.implicit)
  | .injDropReply => match s.ctx? s.ctxNo with
    | some c => c.inj
    | none => 0
  | .dbgRoute => if y.dbgRoute then 1 else 0
  | .schedHorizon => BitVec.ofNat 64 (min y.horizon.toNat 10000)

/-- A register whose mts is discarded (R275, R292). -/
def sysReadOnly : SysReg → Bool
  | .ctxId | .coreLog | .corePhy | .timePod | .slack | .stkDepth | .stkLimit | .stkWin | .stkSpill | .stkL2Spill
  | .nodeFree | .remopAcked | .errMemCe | .errMemUe | .errMemOrphan | .errSpadCe | .errFmtTri2 | .errRemopRtx
  | .errRemopDup | .errImplicit => true
  | _ => false

/-- mfs (R275): latency 2; an H register outside handler mode raises PRIVILEGE. -/
def effMfs (d : XReg) (r : SysReg) (s : State) : Eff := s.guarded (.mfs d r) (s.aluN d (s.sysRead r) 2)
/-- mfs by itself. -/
def execMfs (d : XReg) (r : SysReg) (s : State) : Out := settle s (effMfs d r s)

/-- mts (R275): in force from the next position; discarded for an RO register; PRIVILEGE for a K register, and for an H
register outside handler mode. -/
def effMts (r : SysReg) (a : XReg) (s : State) : Eff :=
  s.guarded (.mts r a) (if sysReadOnly r then .ok s else .ok (s.put (.sys r (s.x a)) 1 false))
/-- mts by itself. -/
def execMts (r : SysReg) (a : XReg) (s : State) : Out := settle s (effMts r a s)

/-- The quota of a context in a slice (R90) (DESIGN CHOICE, log entry 57). -/
def Ctx.quota (c : Ctx) (sl : Nat) : Nat := (lookupNat sl c.quotas).getD 0

/-- The RESIDENCY code of a write to RSV.n (R90), or none. The context's registers are those of all its cores,
each counted once (DEDUCED, log entry 109). Where several checks of the table fail the lowest code in its order is given, which no rule
says (DESIGN CHOICE, log entry 113). -/
def State.rsvCode (s : State) (n : Fin 16) (v : Word) : Option Nat :=
  let others := (s.ctxRsv s.ctxNo).filter (fun r => r.1 != s.cur || r.2.1 != n.val)
  let total := (others.map (fun r => rsvWays r.2.2)).foldl (· + ·) (rsvWays v)
  let c := s.ctx? s.ctxNo
  let tooMany := (List.range 48).any (fun sl => decide (((c.map (fun c => c.quota sl)).getD 0) < total))
  let valid := match c.bind (fun c => if v.toNat % 65536 < c.tableLen then lookupNat (v.toNat % 65536) c.tensors else none) with
    | some e => (parseTensor e).isSome
    | none => false
  if tooMany then some 1
  else if 8 < v.toNat / 2 ^ 60 then some 2
  else if rsvWays v ≠ 0 ∧ v.toNat / 2 ^ 36 % 2 ^ 20 < v.toNat / 2 ^ 16 % 2 ^ 20 then some 3
  else if rsvWays v ≠ 0 ∧ !valid then some 4
  else none

/-- mts to RSV.n (R90): RESIDENCY when a check fails, with its code in FAULT.INFO. -/
def effRsvWrite (n : Fin 16) (a : XReg) (s : State) : Eff :=
  match s.rsvCode n (s.x a) with
  | some k => s.faultInfo 10 Cause.residency (BitVec.ofNat 64 k)
  | none => .ok (s.put (.sys (.rsv n) (s.x a)) 1 false)
/-- mts to RSV.n by itself. -/
def execRsvWrite (n : Fin 16) (a : XReg) (s : State) : Out := settle s (effRsvWrite n a s)

/-- mts to INJ.DROPREPLY (R129). -/
def effInjDropreplyArm (a : XReg) (s : State) : Eff := .ok (s.put (.sys .injDropReply (s.x a)) 1 false)
/-- mts to INJ.DROPREPLY by itself. -/
def execInjDropreplyArm (a : XReg) (s : State) : Out := settle s (effInjDropreplyArm a s)

end Sys2Proof.Machine
end

