-- ==== Sys2Proof/Machine/Tile.lean ====
section
/-! DEFINITION. Values of tile nodes (spec/10 R227 to R249, spec/09 R202): tags, index maps, and the computation of
demanded elements. -/

namespace Sys2Proof.Machine

/-! ### Tags (R150, R202) -/

/-- Bytes of a tile (R202). -/
def tileSize (f : Fmt) (rows cols : Nat) (orient : Bool) : Nat :=
  if f.isBlock then
    if orient then cols * (rows / f.blockElems) * f.blockBytes else rows * (cols / f.blockElems) * f.blockBytes
  else
    match f with
    | .int8r => rows * cols + 4 * rows
    | .fp8at | .fp8bt => rows * cols + 4
    | f => (rows * cols * f.width + 7) / 8

/-- Rows and columns lie in 1 to 256 (R151). -/
def dimsOk (rows cols : Nat) : Bool := decide (1 ≤ rows) && decide (rows ≤ 256) && decide (1 ≤ cols) && decide (cols ≤ 256)

/-- The tile's length along its block direction is a whole number of blocks (R150). -/
def blocksOk (f : Fmt) (rows cols : Nat) (orient : Bool) : Bool :=
  !f.isBlock || (if orient then rows % f.blockElems == 0 else cols % f.blockElems == 0)

/-- A value of this tag may exist (R151). -/
def Tag.ok (t : Tag) : Bool :=
  dimsOk t.rows t.cols && blocksOk t.fmt t.rows t.cols t.orient &&
    decide (tileSize t.fmt t.rows t.cols t.orient ≤ 16384)

/-- Whole blocks of n that cover a list of indexes. -/
def widenList (n : Nat) (xs : List Nat) : List Nat :=
  ((xs.map (fun x => x / n)).dedup.map (fun b => (List.range n).map (fun i => b * n + i))).flatten

/-- Demand along the block direction widens to whole blocks (R175); in a scaled format it widens to the elements that the
scales of the demanded rows serve: whole rows of INT8R, the whole tile of FP8AT and FP8BT (DEDUCED, log entry 76). -/
def Tag.widen (t : Tag) (rows cols : List Nat) : List Nat × List Nat :=
  if t.fmt.isBlock then
    if t.orient then (widenList t.fmt.blockElems rows, cols) else (rows, widenList t.fmt.blockElems cols)
  else if rows = [] ∨ cols = [] then (rows, cols)
  else if t.fmt = .int8r then (rows, List.range t.cols)
  else if t.fmt.isScaled then (List.range t.rows, List.range t.cols)
  else (rows, cols)

/-! ### Index maps (R174) -/

/-- Row or column 0 in place of a set, for an operand of extent 1 (R174). -/
def bcast (extent : Nat) (xs : List Nat) : List Nat := if extent = 1 ∧ xs ≠ [] then [0] else xs

/-- The demand that rows R and columns Q of a node's result pass to each operand (R174). -/
def demandMaps (op : NodeOp) (tags : List Tag) (R Q : List Nat) : List (List Nat × List Nat) :=
  let ew := tags.map (fun t => (bcast t.rows R, bcast t.cols Q))
  match op with
  | .load _ | .const _ => []
  | .mma _ =>
    match tags with
    | a :: b :: _ => [(R, List.range a.cols), (List.range b.rows, Q)]
    | _ => []
  | .mac _ =>
    match tags with
    | _ :: a :: b :: _ => [(R, Q), (R, List.range a.cols), (List.range b.rows, Q)]
    | _ => []
  | .ew _ _ | .scl _ _ | .bia _ | .fn _ | .cvt | .msk _ | .bcs => ew
  | .chk => tags.map (fun _ => (R, Q))
  | .trn => [(Q, R)]
  | .slc r c => [(R.map (· + r), Q.map (· + c))]
  | .cat cols =>
    match tags with
    | a :: _ =>
      if cols then [(R, Q.filter (· < a.cols)), (R, (Q.filter (a.cols ≤ ·)).map (· - a.cols))]
      else [(R.filter (· < a.rows), Q), ((R.filter (a.rows ≤ ·)).map (· - a.rows), Q)]
    | _ => []
  | .red _ cols =>
    match tags with
    | a :: _ => if cols then [(List.range a.rows, Q)] else [(R, List.range a.cols)]
    | _ => []
  | .smx =>
    match tags with
    | a :: _ => [(R, List.range a.cols)]
    | _ => []

/-- The operand elements that one result element reads, operand by operand, in the order of their index. -/
def cellsRead (op : NodeOp) (tags : List Tag) (i j : Nat) : List (List (Nat × Nat)) :=
  (demandMaps op tags [i] [j]).map (fun m => (m.1.map (fun r => m.2.map (fun c => (r, c)))).flatten)

/-! ### Computation -/

/-- What a fault of an element is (R212, R187). -/
inductive CellEx where
  | none | overflow | invalid | mismatch
  deriving DecidableEq, Repr

/-- An element of a result. -/
structure CellOut where
  row : Nat
  col : Nat
  e : Elem
  ex : CellEx
  deriving DecidableEq, Repr

/-- An exact result before its conversion, with what its steps met. -/
structure CellVal where
  v : Num
  ex : EncEx
  int : Bool
  deriving DecidableEq, Repr

/-- A NaN that arises from operands none of which is NaN (R212). -/
def arose (r : Num) (ops : List Num) : EncEx := if r.isNan && ops.all (fun o => !o.isNan) then .invalid else .none

/-- The exact value of an element. -/
def Elem.num (e : Elem) (f : Fmt) (ftz : Bool) : Num := decodeAux f ftz e.bits e.aux

/-- The products of a row and a column. -/
def products (a b : List Num) : List Num := List.zipWith Num.mul a b

/-- The exact result of one element from the values of the elements it reads, operand by operand (R232 to R249). An
intermediate rounding to FP32 that overflows, of tmac's C or of tbia's sum, is no overflow of a floating target and
raises nothing in checked mode (R212 does not name it: DESIGN CHOICE, log entry 105). -/
def cellVal (m : NodeMode) (op : NodeOp) (tags : List Tag) (xs : List (List Num)) : CellVal :=
  let allInt := tags.all (fun t => t.fmt.isInt)
  let am : AccMode := { sat := m.sat && !m.chk, ftz := m.ftz }
  let h (n : Nat) : Num := ((xs[n]?).getD []).headD .nan
  let one (v : Num) : CellVal := { v := v, ex := .none, int := allInt }
  match op with
  | .load _ | .const _ => one .nan
  | .mma _ =>
    let a := (xs[0]?).getD []
    let b := (xs[1]?).getD []
    if allInt then
      let r := sumInt am.sat 0 (List.zipWith (fun x y => x.toInt * y.toInt) a b)
      { v := Num.ofInt r.1, ex := r.2, int := true }
    else
      let ps := products a b
      let bad : EncEx := if (List.zipWith (fun x y => (x.mul y).isNan && !x.isNan && !y.isNan) a b).any id then .invalid
        else .none
      let r := sumFp am (.zero false) ps
      { v := r.1, ex := bad.or r.2, int := false }
  | .mac _ =>
    let c := h 0
    let a := (xs[1]?).getD []
    let b := (xs[2]?).getD []
    if allInt then
      let r := sumInt am.sat c.toInt (List.zipWith (fun x y => x.toInt * y.toInt) a b)
      { v := Num.ofInt r.1, ex := r.2, int := true }
    else
      let ps := products a b
      let bad : EncEx := if (List.zipWith (fun x y => (x.mul y).isNan && !x.isNan && !y.isNan) a b).any id then .invalid
        else .none
      let r := sumFp am (rneNum m.ftz c) ps
      { v := r.1, ex := bad.or r.2, int := false }
  | .ew o _ =>
    let a := h 0
    let b := h 1
    let z := m.rnd == .rdn
    let v := match o with
      | .add => a.add b z
      | .sub => a.add b.negate z
      | .mul => a.mul b
      | .max => a.maxRule b
      | .min => a.minRule b
    { v := v, ex := arose v [a, b], int := allInt }
  | .scl w int =>
    let sc := if int then Num.ofInt w.toInt else decodeFp32 m.ftz w
    let v := (h 0).mul sc
    { v := v, ex := arose v [h 0, sc], int := allInt && int }
  | .bia fn =>
    let a := h 0
    let b := h 1
    match fn with
    | none =>
      let v := a.add b (m.rnd == .rdn)
      { v := v, ex := arose v [a, b], int := allInt }
    | some f =>
      let t := a.add b false
      let r := applyFun f m.ftz (rneNum m.ftz t)
      { v := r.1, ex := (arose t [a, b]).or (if r.2 then .invalid else .none), int := false }
  | .fn f =>
    let r := applyFun f m.ftz (h 0)
    { v := r.1, ex := if r.2 then .invalid else .none, int := false }
  | .red o _ =>
    let a := (xs[0]?).getD []
    match o with
    | .sum =>
      if allInt then
        let r := sumInt am.sat 0 (a.map Num.toInt)
        { v := Num.ofInt r.1, ex := r.2, int := true }
      else
        let r := sumFp am (.zero false) a
        { v := r.1, ex := r.2, int := false }
    | .max => one (a.tail.foldl Num.maxRule (a.headD .nan))
    | .min => one (a.tail.foldl Num.minRule (a.headD .nan))
  | .cat _ =>
    match (xs[0]?).getD [] with
    | v :: _ => { v := v, ex := .none, int := ((tags[0]?).map (fun t => t.fmt.isInt)).getD false }
    | [] => { v := h 1, ex := .none, int := ((tags[1]?).map (fun t => t.fmt.isInt)).getD false }
  | .msk _ => { v := h 0, ex := .none, int := ((tags[0]?).map (fun t => t.fmt.isInt)).getD false }
  | .smx | .trn | .cvt | .slc _ _ | .bcs | .chk => one (h 0)

/-- The first element of a list in row-major order that faults. -/
def firstBad (cs : List CellOut) : Option CellOut :=
  cs.foldl (fun (acc : Option CellOut) c =>
    if c.ex = .none then acc
    else match acc with
      | some a => if c.row * 256 + c.col < a.row * 256 + a.col then some c else acc
      | none => some c) none

/-- What the conversion of an exact value met, in checked mode (R212). -/
def EncEx.cell : EncEx → CellEx
  | .none => .none
  | .overflow => .overflow
  | .invalid => .invalid

/-- The key of a result element (R204). -/
def srKeyAt (ctr key : Word) (i j : Nat) : SrKey := { ctr := ctr ||| BitVec.ofNat 64 (i * 256 + j), key := key }

/-- Modes of a conversion into a format. -/
structure ConvMode where
  fmt : Fmt
  rnd : Rnd
  sat : Bool
  chk : Bool
  ftz : Bool
  deriving DecidableEq, Repr

/-- A value to convert: its place, its value with what its steps met, its key. -/
structure ConvIn where
  row : Nat
  col : Nat
  val : CellVal
  key : SrKey
  deriving DecidableEq, Repr

/-- Convert values into an element format, one by one (R206, R207). -/
def convElem (m : ConvMode) (x : ConvIn) : CellOut :=
  let r := encodeElem m.fmt m.rnd (m.sat && !m.chk) m.ftz x.val.int x.key x.val.v
  { row := x.row, col := x.col, e := { bits := r.bits, aux := 0, mark := none },
    ex := if m.chk then (x.val.ex.or r.ex).cell else .none }

/-- Convert one whole block (R208 to R210). Checked mode faults on what its values met and on those that overflow it. -/
def convBlock (m : ConvMode) (xs : List ConvIn) : List CellOut :=
  let bs := encodeBlock m.fmt m.rnd (m.sat && !m.chk) m.ftz (xs.map (fun x => (x.val.v, x.key)))
  List.zipWith (fun (x : ConvIn) (b : BlockElem) =>
    { row := x.row, col := x.col, e := { bits := b.1, aux := b.2, mark := none },
      ex := if m.chk then (x.val.ex.or (if blockOverflows m.fmt x.val.v then .overflow else .none)).cell else .none }) xs bs

/-- The block in which an element of a tile lies: in an element format it stands by itself. -/
def blockKey (f : Fmt) (orient : Bool) (row col : Nat) : Nat × Nat :=
  if f.isBlock then (if orient then (row / f.blockElems, col) else (row, col / f.blockElems)) else (row, col)

/-- Convert values into a format; a block format takes them block by block along its direction. -/
def convAll (m : ConvMode) (orient : Bool) (xs : List ConvIn) : List CellOut :=
  if m.fmt.isBlock then
    let key (x : ConvIn) : Nat × Nat := blockKey m.fmt orient x.row x.col
    let keys := (xs.map key).dedup
    (keys.map (fun k => convBlock m (xs.filter (fun x => key x == k)))).flatten
  else xs.map (convElem m)

/-- The elements that operand k gives keep their bits: the node moves them between equal formats (R197, R210), and a block
format's blocks stay whole. A block tile of O = 1 whose result has O = 0 (R230) keeps none of them: its blocks lie along
the other direction, and they are encoded anew from the values (DESIGN CHOICE, log entry 104). -/
def keepsBits (n : TileNode) (tags : List Tag) (k : Nat) : Bool :=
  match tags[k]? with
  | none => false
  | some a =>
    let same := a.fmt == n.tag.fmt && (!a.fmt.isBlock || a.orient == n.tag.orient)
    match n.op with
    | .chk => true
    | .trn => a.fmt == n.tag.fmt
    | .cvt | .slc _ _ | .msk _ | .bcs => same
    | .cat cols =>
      same && (!a.fmt.isBlock || !cols || k == 0 || ((tags[0]?).map (fun t => t.cols)).getD 0 % a.fmt.blockElems == 0)
    | _ => false

/-- The elements of operands, by operand, row and column. -/
abbrev Operands := Nat → Nat → Nat → Elem

/-- Values and conversions of the target elements of an arithmetic node (R232). -/
def computeCells (n : TileNode) (tags : List Tag) (get : Operands) (targets : List (Nat × Nat)) : List CellOut :=
  let m := n.mode
  let cm : ConvMode := { fmt := n.tag.fmt, rnd := m.rnd, sat := m.sat, chk := m.chk, ftz := m.ftz }
  let fmtAt (k : Nat) : Fmt := ((tags[k]?).map (fun t => t.fmt)).getD .int8
  let nums (i j : Nat) : List (List Num) :=
    ((cellsRead n.op tags i j).zipIdx).map (fun p => p.1.map (fun c => (get p.2 c.1 c.2).num (fmtAt p.2) m.ftz))
  let val (i j : Nat) : CellVal := cellVal m n.op tags (nums i j)
  let input (v : CellVal) (t : Nat × Nat) : ConvIn :=
    { row := t.1, col := t.2, val := v, key := srKeyAt n.srCtr n.srKey t.1 t.2 }
  let conv (ts : List (Nat × Nat)) : List CellOut := convAll cm n.tag.orient (ts.map (fun t => input (val t.1 t.2) t))
  let source (t : Nat × Nat) : Nat × Option (Nat × Nat) :=
    match ((cellsRead n.op tags t.1 t.2).zipIdx).find? (fun p => !p.1.isEmpty) with
    | some (c :: _, k) => (k, some c)
    | _ => (0, none)
  let moved (e : Elem) : Elem := { e with bits := cleanBits n.tag.fmt e.bits, mark := none }
  let first (t : Nat × Nat) : Elem :=
    match source t with
    | (k, some c) => moved (get k c.1 c.2)
    | _ => { bits := 0, aux := 0, mark := none }
  let move (t : Nat × Nat) : CellOut := { row := t.1, col := t.2, e := first t, ex := .none }
  let keeps (t : Nat × Nat) : Bool := keepsBits n tags (source t).1
  match n.op with
  | .load _ => []
  | .const e => targets.map (fun t => { row := t.1, col := t.2, e := e, ex := .none })
  | .chk =>
    targets.map (fun t =>
      let a := get 0 t.1 t.2
      let b := get 1 t.1 t.2
      { row := t.1, col := t.2, e := moved a,
        ex := if a.bits = b.bits ∧ a.aux = b.aux then .none else .mismatch })
  | .smx =>
    let am : AccMode := { sat := m.sat && !m.chk, ftz := m.ftz }
    let rows := (targets.map Prod.fst).dedup
    let ys := rows.map (fun i =>
      (i, softmaxRow am ((List.range n.tag.cols).map (fun j => (get 0 i j).num (fmtAt 0) m.ftz))))
    convAll cm n.tag.orient (targets.map (fun t =>
      let r := (((lookupNat t.1 ys).getD [])[t.2]?).getD (.nan, .none)
      input { v := r.1, ex := r.2, int := false } t))
  | .msk fill =>
    let on (t : Nat × Nat) : Bool := match nums t.1 t.2 with
      | _ :: (v :: _) :: _ => !v.isZero
      | _ => false
    let blk (t : Nat × Nat) : Nat × Nat := blockKey n.tag.fmt n.tag.orient t.1 t.2
    -- the fill zero stands under the block's own scale, or under a zero one where the whole block is masked
    -- (DEDUCED, log entry 77)
    let zero (t : Nat × Nat) : Elem :=
      if n.tag.fmt.isBlock then
        { bits := 0, aux := if targets.any (fun u => blk u == blk t && on u) then (first t).aux else 0, mark := none }
      else { bits := (encodeElem n.tag.fmt .rne true false true SrKey.none (Num.zero false)).bits, aux := 0, mark := none }
    let put (e : Elem) (t : Nat × Nat) : CellOut := { row := t.1, col := t.2, e := e, ex := .none }
    match fill with
    | some v =>
      let fv : Elem := { bits := cleanBits n.tag.fmt (v.toNat % 2 ^ n.tag.fmt.width), aux := 0, mark := none }
      (targets.filter (fun t => !on t)).map (put fv) ++
        (if keepsBits n tags 0 then (targets.filter on).map move else conv (targets.filter on))
    | none =>
      if keepsBits n tags 0 then targets.map (fun t => if on t then move t else put (zero t) t)
      else if n.tag.fmt.isBlock then
        convAll cm n.tag.orient (targets.map (fun t => input
          (if on t then val t.1 t.2 else { v := Num.zero false, ex := .none, int := true }) t))
      else
        (targets.filter (fun t => !on t)).map (fun t => put (zero t) t) ++ conv (targets.filter on)
  | _ => (targets.filter keeps).map move ++ conv (targets.filter (fun t => !keeps t))

/-- How many operand elements of TRI2 with the bits 0b10 the target elements read (R194); a node that moves them between
equal formats reads them too (DESIGN CHOICE, log entry 112). -/
def badTri2Reads (n : TileNode) (tags : List Tag) (get : Operands) (targets : List (Nat × Nat)) : Nat :=
  if tags.any (fun t => t.fmt == .tri2) then
    (targets.map (fun t =>
      ((cellsRead n.op tags t.1 t.2).zipIdx.map (fun p =>
        match tags[p.2]? with
        | some tg => if tg.fmt = .tri2 then (p.1.filter (fun c => badTri2 .tri2 (get p.2 c.1 c.2).bits)).length else 0
        | none => 0)).foldl (· + ·) 0)).foldl (· + ·) 0
  else 0

end Sys2Proof.Machine
end

