-- ==== Sys2Proof/Machine/Mash.lean ====
section
/-! DEFINITION. The Mash (spec/08 R169 to R192): the node table, reading of sources, demand and evaluation, load windows,
alias forces, store nodes, and evaluation faults. -/

namespace Sys2Proof.Machine

/-! ### The node table -/

/-- Apply f to the focused core's Mash. -/
def State.modMash (s : State) (f : Mash → Mash) : State := s.modCore (fun c => { c with mash := f c.mash })

/-- The node of an id. -/
def Mash.node? (m : Mash) (id : Nat) : Option TileNode := m.nodes.find? (fun n => n.id == id)

/-- Ids of the node table, oldest first. -/
def Mash.ids (m : Mash) : List Nat := m.nodes.map (fun n => n.id)

/-- Put a node back. -/
def State.putNode (s : State) (n : TileNode) : State :=
  s.modMash (fun m => { m with nodes := m.nodes.map (fun o => if o.id == n.id then n else o) })

/-- Nodes that something refers to, from the youngest to the oldest: operands are older than their node (R171). -/
def keepNodes (roots : List Nat) : List TileNode → List TileNode × List Nat
  | [] => ([], roots)
  | n :: rest =>
    let r := keepNodes roots rest
    if r.2.contains n.id then (n :: r.1, n.args ++ r.2) else r

/-- The elements of a rectangle, row-major. -/
def rect (rows cols : List Nat) : List (Nat × Nat) := (rows.map (fun r => cols.map (fun c => (r, c)))).flatten

/-- The rows of a region. -/
def Region.rows (r : Region) : List Nat := (List.range (r.r1 + 1)).drop r.r0

/-- The columns of a region. -/
def Region.cols (r : Region) : List Nat := (List.range (r.c1 + 1)).drop r.c0

/-- The elements of a region, row-major. -/
def Region.cells (r : Region) : List (Nat × Nat) := rect r.rows r.cols

/-- The elements of a tile, row-major. -/
def Tag.cells (t : Tag) : List (Nat × Nat) := rect (List.range t.rows) (List.range t.cols)

/-- The element of an index, when it is computed. -/
def TileNode.val? (n : TileNode) (i j : Nat) : Option Elem := lookupNat (i * n.tag.cols + j) n.vals

/-- Every element of a region of a node is computed. -/
def Mash.hasRegion (m : Mash) (id : Nat) (r : Region) : Bool :=
  match m.node? id with
  | none => false
  | some n => n.retired || r.cells.all (fun c => (n.val? c.1 c.2).isSome)

/-- A node is poisoned (R186). -/
def Mash.hurt (m : Mash) (id : Nat) : Bool :=
  (m.node? id).any (fun n => !n.retired && (match n.st with
    | .poisoned _ => true
    | _ => false))

/-- A node whose region a demand finds computed: its value is there, and no poison bars the way (R186, R192). -/
def Mash.computed (m : Mash) (id : Nat) (r : Region) : Bool := m.hasRegion id r && !m.hurt id

/-- A demand that waits only for its flag: its region is computed, or was as its node was released (R192). -/
def Mash.flagDue (m : Mash) (d : Demand) : Bool := d.flag.isSome && (d.met || m.computed d.node d.region)

/-- The demands that stand once only some nodes do (R171): those on these nodes, and those that only wait for their flag. -/
def Mash.keepDemands (m : Mash) (kept : List TileNode) : List Demand :=
  m.demands.filterMap (fun d =>
    if kept.any (fun n => n.id == d.node) then some d else if m.flagDue d then some { d with met := true } else none)

/-- Release what nothing refers to (R149, R171), and the demands on it; a computed region of a tfrc still has its flag set. -/
def Core.release (c : Core) : Core :=
  let roots := c.mash.spine ++ c.shadow.spine ++ c.mash.stores.map (fun n => n.src)
  let kept := (keepNodes roots c.mash.nodes).1
  { c with mash := { c.mash with nodes := kept, demands := c.mash.keepDemands kept,
                                 coarse := c.mash.coarse && { c.mash with nodes := kept }.ranged } }

/-- The shallowest depth at which a value stands; none when no entry refers to it. -/
def Mash.depth? (m : Mash) (id : Nat) : Option Nat := m.spine.findIdx? (fun e => e == id)

/-- The class that a depth gives (R155). -/
def StkRegs.classAt (k : StkRegs) (d : Nat) : ValueLoc :=
  if d < k.win.toNat then .head else if d < k.win.toNat + k.spillSlots.toNat then .spill else .l2

/-- Values that stand in a class by their depth. -/
def Core.claimed (c : Core) (l : ValueLoc) : Nat :=
  (c.mash.nodes.filter (fun n => !n.vals.isEmpty &&
    ((c.mash.depth? n.id).map c.sys.stk.classAt).any (fun k => k == l))).length

/-- Values of older nodes that no entry refers to. -/
def Core.unclaimedBefore (c : Core) (id : Nat) : Nat :=
  (c.mash.nodes.filter (fun n => decide (n.id < id) && !n.vals.isEmpty && (c.mash.depth? n.id).isNone)).length

/-- The storage class of a materialised value (R155). One that no entry refers to takes a slot that the values of these
depths leave, head slots first, the oldest value first (DEDUCED, log entry 70). -/
def Core.classOf (c : Core) (id : Nat) : ValueLoc :=
  match c.mash.depth? id with
  | some d => c.sys.stk.classAt d
  | none =>
    let k := c.unclaimedBefore id
    let head := 32 - c.claimed .head
    if k < head then .head
    else if k - head < c.sys.stk.spillSlots.toNat - c.claimed .spill then .spill
    else .l2

/-- Values move to the classes that their depths give (R155 to R157). -/
def Core.moveValues (c : Core) : Core :=
  { c with mash := { c.mash with nodes := c.mash.nodes.map (fun n =>
      if n.vals.isEmpty then n else { n with loc := c.classOf n.id }) } }

/-! ### Reading a source -/

/-- How an access to one element ends. -/
inductive Got (α : Type) where
  | ok (v : α)
  | fault (f : EngFault)
  /-- The frame is moving (R83). -/
  | wait
  deriving Repr

/-- Where an element lies: the bit address of the element, or of its block; its format; the byte address of its scale; the
context, tensor and tile of an element of a tensor. -/
structure ElemAt where
  bit : Nat
  fmt : Fmt
  scale : Option Nat
  tile : Option (Nat × Nat × Nat)
  deriving DecidableEq, Repr

/-- How an access to an element fetches, and whether it pins what it fetches (R91). -/
def ElemAt.fetch (e : ElemAt) (alloc pin : Bool) : Fetch :=
  { alloc := alloc, tile := e.tile, gated := true, home := false, pin := pin, held := [] }

/-- The cause of a byte range of a scratchpad or staging region that an access may not touch (R158, R164, R85). A BASE that names a slice
from 48 to 63, which the package has not, has no staging ways and raises ADDRESS when it is evaluated (DESIGN CHOICE, log entry 122). -/
def State.rangeCause (s : State) (p : TilePlace) (off : Int) (n : Nat) : Option (BitVec 6) :=
  match p with
  | .spad _ =>
    if off < 0 ∨ (2 ^ 22 : Nat) < off + n then some Cause.address
    else if s.core.inSpill off.toNat n then some Cause.protection else none
  | .remote c _ =>
    if off < 0 ∨ (2 ^ 22 : Nat) < off + n then some Cause.address
    else if !s.ctxHasCore s.ctxNo c || (s.getCore c).inSpill off.toNat n then some Cause.protection else none
  | .staging sl _ =>
    let ways : Nat := if h : sl < 48 then 2 * s.l2.pairs[sl] * 2 ^ 19 else 0
    if off < 0 ∨ (ways : Int) < off + n then some Cause.address
    else
      let win := ((s.ctx? s.ctxNo).bind (fun c => c.windows.find? (fun w => w.1 == sl)))
      match win with
      | none => some Cause.protection
      | some (_, b, len) =>
        if off < b ∨ ((b + len : Nat) : Int) < off + n then some Cause.protection
        else
          let hit (k : Core) : Bool := k.task.isSome && k.sys.stk.l2Slice.toNat == sl && k.sys.ctxId == s.core.sys.ctxId &&
            meets off.toNat n b (k.sys.stk.l2Slots.toNat * 16384)
          if hit s.core || s.others.any (fun o => hit o.2) then some Cause.protection else none
  | .tensor _ _ => none

/-- First flat address of a place that is no tensor, and the offset at which the block's BASE lies in it. -/
def TilePlace.base : TilePlace → Nat × Nat
  | .spad flat => (flat / 2 ^ 22 * 2 ^ 22, flat % 2 ^ 22)
  | .remote c off => (spadBase c, off)
  | .staging sl off => (stagingBase sl, off)
  | .tensor _ _ => (0, 0)

/-- FAULT.INFO of a fault that is no fault of translation: the slot of the node (R368). -/
def slotInfoOf (slot : Nat) : Word := BitVec.ofNat 64 slot

/-- The place of element (i, j) of a tile of so many rows (R164, R75). -/
def State.elemAt (s : State) (a : TileAccess) (rows slot i j : Nat) (write : Bool) : State × Got ElemAt :=
  let r : Int := a.row + (if a.tr then j else i)
  let c : Int := a.col + (if a.tr then i else j)
  match a.place with
  | .tensor tid _ =>
    let t := s.translate s.ctxNo tid (.cell r c) write
    match t.2 with
    | .ok b ten tile =>
      if ten.fmt.isBlock ∧ a.col % ten.fmt.blockElems ≠ 0 then (t.1, .fault (.cause Cause.address (xlatInfo tid 0)))
      else (t.1, .ok { bit := b, fmt := ten.fmt, scale := none, tile := some (s.ctxNo, tid, tile) })
    | .fault k tile => (t.1, .fault (.cause k (xlatInfo tid tile)))
    | .page tile => (t.1, .fault (.page tid tile))
    | .stage2 g tile => (t.1, .fault (.stage2 g tid tile write))
    | .moving _ => (t.1, .wait)
  | p =>
    let f := a.mfmt.getD .int8
    let b := p.base
    let n := f.blockElems
    if r < 0 ∨ c < 0 then (s, .fault (.cause Cause.address (slotInfoOf slot)))
    else if f.isBlock ∧ a.col % n ≠ 0 then (s, .fault (.cause Cause.address (slotInfoOf slot)))
    else
      let bit : Int := ((b.2 : Int) + r * a.pitch) * 8 + (if f.isBlock then c / n * f.blockBytes * 8 else c * f.width)
      let bytes := if f.isBlock then f.blockBytes else ((bit % 8).toNat + f.width + 7) / 8
      let sc : Option Nat :=
        if f = .int8r then some (b.2 + rows * a.pitch + 4 * i)
        else if f.isScaled then some (b.2 + rows * a.pitch) else none
      match (s.rangeCause p (bit / 8) bytes).or (sc.bind (fun x => s.rangeCause p x 4)) with
      | some k => (s, .fault (.cause k (slotInfoOf slot)))
      | none => (s, .ok { bit := b.1 * 8 + bit.toNat, fmt := f, scale := sc.map (· + b.1), tile := none })

/-- Read one 64-byte sector at one instant (R177), the own scratchpad through the store gate, which hides the mark of a block whose
bytes it holds all (R139). -/
def State.readSector (s : State) (key : Nat) (f : Fetch) : State × Sector :=
  let a := key * 64
  let r : State × List Byte × Option Bool :=
    if a < 2 ^ 40 then s.readMain s.core.die a 64 f
    else if f.gated && inSpad s.cur a then
      let t := s.touchBlocks s.ctxNo true (gateOpen s.core.gate a 64)
      (t.1, s.readOwn a 64, t.2)
    else
      let t := s.touchBlocks s.ctxNo (decide (a < 2 ^ 41)) [key]
      (t.1, s.mem.readN a 64, t.2)
  (r.1, { key := key, bytes := BitVec.ofNat 512 (ofLe r.2.1), mark := r.2.2 })

/-- The sectors of n bytes, those that the node has not read yet read now. -/
def State.needSectors (s : State) (secs : List Sector) (a n : Nat) (f : Fetch) : State × List Sector :=
  (blocksOf a n).foldl (fun acc key =>
    if acc.2.any (fun x => x.key == key) then acc
    else
      let new := acc.2.filter (fun x => !secs.any (fun y => y.key == x.key))
      let r := acc.1.readSector key { f with held := if f.pin then f.held ++ new.map (fun x => x.key / 2) else [] }
      (r.1, acc.2 ++ [r.2])) (s, secs)

/-- n bytes at an address from the sectors read. -/
def sectorBytes (secs : List Sector) (a n : Nat) : List Byte :=
  (List.range n).map (fun i => match secs.find? (fun x => x.key == (a + i) / 64) with
    | some x => BitVec.ofNat 8 (x.bytes.toNat >>> (8 * ((a + i) % 64)))
    | none => 0)

/-- The first mark of the sectors of n bytes. -/
def sectorMark (secs : List Sector) (a n : Nat) : Option Bool :=
  ((blocksOf a n).filterMap (fun k => (secs.find? (fun x => x.key == k)).bind (fun x => x.mark))).head?

/-- Element k of a block of a block format as it lies in memory (R198 to R200). -/
def blockElem (f : Fmt) (v k : Nat) : Nat × Nat :=
  match seMag f with
  | some m => ((v >>> (16 + (m + 1) * k)) % 2 ^ (m + 1), v % 256 + 256 * ((v >>> (8 + k / 2)) % 2))
  | none =>
    if f = .int4g then ((v >>> (16 + 4 * k)) % 16, v % 65536)
    else ((v >>> (8 + f.width * k)) % 2 ^ f.width, v % 256)

/-- A load node through the L2-source flag waits for a pin (R91): a sector that it has not read yet lies in a line whose set is
pinned whole, by this node or by others. -/
def State.pinHolds (s : State) (n : TileNode) (keys : List Nat) : Bool :=
  keys.any (fun k => !n.sectors.any (fun x => x.key == k) && s.pinWait (sliceOn s.core.die (k / 2)) (k / 2) n.pinned)

/-- The lines that a node pins after it has fetched sectors: the last four of each set (R91). -/
def TileNode.pinLines (n : TileNode) (secs : List Sector) : TileNode :=
  { n with pinned := lastPins (n.pinned ++ ((secs.filter (fun x => !n.sectors.any (fun y => y.key == x.key))).map (fun x => x.key / 2)).dedup) }

/-- The raw element (i, j) of a load node's source, read within the window; the sectors that it needs are read whole. False where it
waits for a pin (R91). -/
def State.readRaw (s : State) (n : TileNode) (a : TileAccess) (i j : Nat) : State × TileNode × Got Bool :=
  let idx := i * n.tag.cols + j
  if n.raw.any (fun r => r.1 == idx) then (s, n, .ok true)
  else
    let w := s.elemAt a n.tag.rows n.origin.slot i j false
    match w.2 with
    | .fault f => (w.1, n, .fault f)
    | .wait => (w.1, n, .wait)
    | .ok e =>
      let pos : Nat := (a.col + (if a.tr then i else j)).toNat
      let bytes := if e.fmt.isBlock then e.fmt.blockBytes else (e.bit % 8 + e.fmt.width + 7) / 8
      let l2 := match a.place with
        | .tensor _ b => b
        | _ => false
      let fe := { e.fetch (!a.noAlloc) l2 with held := n.pinned }
      if l2 && w.1.pinHolds n (blocksOf (e.bit / 8) bytes) then (w.1, n, .ok false) else
      let r := w.1.needSectors n.sectors (e.bit / 8) bytes fe
      let q := match e.scale with
        | some x => r.1.needSectors r.2 x 4 fe
        | none => r
      let v := ofLe (sectorBytes q.2 (e.bit / 8) bytes)
      let el : Elem :=
        if e.fmt.isBlock then
          let b := blockElem e.fmt v (pos % e.fmt.blockElems)
          { bits := b.1, aux := b.2, mark := sectorMark q.2 (e.bit / 8) bytes }
        else
          match e.scale with
          | some x =>
            { bits := v % 256, aux := ofLe (sectorBytes q.2 x 4),
              mark := (sectorMark q.2 (e.bit / 8) bytes).or (sectorMark q.2 x 4) }
          | none => { bits := (v >>> (e.bit % 8)) % 2 ^ e.fmt.width, aux := 0, mark := sectorMark q.2 (e.bit / 8) bytes }
      let m := if l2 then n.pinLines q.2 else n
      (q.1, { m with sectors := q.2, raw := n.raw ++ [(idx, el)], rfmt := some e.fmt }, .ok true)

/-! ### Faults of an evaluation -/

/-- A fault of an element of a node. -/
structure NodeFault where
  node : Nat
  row : Nat
  col : Nat
  what : EngFault
  deriving DecidableEq, Repr

/-- Where a fault stands in the order of R184: by its node's append, then row-major. -/
def NodeFault.rank (f : NodeFault) : Nat := f.node * 65536 + f.row * 256 + f.col

/-- The fault of a demand that is reported (R184): the earliest appended node's, its first in row-major order. -/
def firstFault (fs : List NodeFault) : Option NodeFault :=
  fs.foldl (fun (acc : Option NodeFault) f =>
    match acc with
    | none => some f
    | some g => if f.rank < g.rank then some f else some g) none

/-- A code address and a slot as FAULT.ORIGIN holds them (R184). -/
def originWord (o : Origin) : Word :=
  (o.addr.setWidth 64 &&& 0xFFFF_FFFF_FFC0) ||| BitVec.ofNat 64 (o.slot % 8)

/-- The code of a kind of demand. -/
def DemandKind.code : DemandKind → Nat
  | .tst => 0
  | .tfrc => 1
  | .sstep => 2
  | .fence => 3
  | .overlap => 4

/-- FAULT.DEMAND (R184). -/
def demandWord (o : Origin) (k : DemandKind) : Word := originWord o ||| BitVec.ofNat 64 (k.code * 8)

/-- The opcode of a store node. -/
def tstOpcode : BitVec 8 := 0x30

/-- The evaluation fault of a demand (R184). The node's number is whichever free node its append took. -/
def State.evalFaultOf (s : State) (f : NodeFault) (o : Origin) (k : DemandKind) (handler : Bool) : EvalFault :=
  let og : Origin × BitVec 8 :=
    match s.core.mash.node? f.node with
    | some n => (n.origin, n.opcode)
    | none =>
      match s.core.mash.stores.find? (fun n => n.id == f.node) with
      | some n => (n.origin, tstOpcode)
      | none => (o, 0)
  { what := f.what, origin := originWord og.1, demand := demandWord o k,
    node := BitVec.ofNat 64 (f.col % 256 * 2 ^ 56 + f.row % 256 * 2 ^ 48 + og.2.toNat * 2 ^ 32) |||
      (Config.nodeNumber f.node).setWidth 64,
    seg := og.1.seg ++ o.seg, handler := handler }

/-- The evaluation fault that waits, of the handler's demands or of the program's (R372). -/
def Core.faultOf (c : Core) (handler : Bool) : Option EvalFault := if handler then c.hndFault else c.evalFault

/-- The evaluation fault that waits for what the core issues now. -/
def Core.issueFault (c : Core) : Option EvalFault := c.faultOf c.sys.hnd

/-- An evaluation fault waits. -/
def Core.putFault (c : Core) (f : EvalFault) : Core := if f.handler then { c with hndFault := some f } else { c with evalFault := some f }

/-- Record the first fault of a demand; an earlier one of its class stands. -/
def State.noteFault (s : State) (fs : List NodeFault) (o : Origin) (k : DemandKind) (handler : Bool) : State :=
  match firstFault fs with
  | none => s
  | some f => if (s.core.faultOf handler).isSome then s else s.modCore (fun c => c.putFault (s.evalFaultOf f o k handler))

/-! ### Evaluation (R172 to R175, R186) -/

/-- Two index lists joined, rising. -/
def joinIdx (a b : List Nat) : List Nat := (a ++ b).dedup.insertionSort (· ≤ ·)

/-- The cause of a mark (R186). -/
def markCause (ue : Bool) : BitVec 6 := if ue then Cause.eccUncorrectable else Cause.poison

/-- A node and everything that depends on it become poisoned (R172, R186). -/
def Mash.poison (m : Mash) (id : Nat) (ue : Bool) : Mash :=
  let r := m.nodes.foldl (fun (acc : List TileNode × List Nat) n =>
    if n.id = id ∨ (!n.retired ∧ n.args.any (fun a => acc.2.contains a)) then
      (acc.1 ++ [match n.st with
        | .poisoned _ => n
        | _ => { n with st := .poisoned ue }], n.id :: acc.2)
    else (acc.1 ++ [n], acc.2)) ([], [])
  { m with nodes := r.1 }

/-- A node whose elements are all computed retires into its value (R171). -/
def Core.retire (c : Core) (n : TileNode) : TileNode :=
  if n.vals.length = n.tag.rows * n.tag.cols then
    { n with retired := true, args := [], sectors := [], pinned := [], raw := [], drows := [], dcols := [], closing := none,
             loc := c.classOf n.id }
  else { n with loc := if n.vals.isEmpty then .none else c.classOf n.id }

/-- Take computed elements into a node. -/
def State.takeCells (s : State) (n : TileNode) (cs : List CellOut) : State :=
  s.putNode (s.core.retire { n with
    vals := cs.foldl (fun v c => insertNat (c.row * n.tag.cols + c.col) c.e v) n.vals })

/-- The cause of an element's fault. -/
def CellEx.cause : CellEx → BitVec 6
  | .overflow => Cause.evalOverflow
  | .invalid => Cause.evalInvalid
  | _ => Cause.silentMismatch

/-- The fault of the first of some elements in row-major order that faults (R184). -/
def TileNode.faultOf (n : TileNode) (cs : List CellOut) : List NodeFault :=
  match firstBad cs with
  | some c => [{ node := n.id, row := c.row, col := c.col, what := .cause c.ex.cause (slotInfoOf n.origin.slot) }]
  | none => []

/-- Take the elements of a computation: with a fault in one, a demanded node is left faulted and the first in row-major
order is reported (R184); ahead of demand the faulting ones stay uncomputed (R176), with the blocks in which they lie: those
are encoded whole (R208 to R210). -/
def State.finishCells (s : State) (n : TileNode) (ahead : Bool) (cs : List CellOut) : State × List NodeFault :=
  let bad := cs.filter (fun c => c.ex != .none)
  if bad.isEmpty then (s.takeCells n cs, [])
  else if ahead then
    let key (c : CellOut) : Nat × Nat := blockKey n.tag.fmt n.tag.orient c.row c.col
    let out := bad.map key
    (s.takeCells n (cs.filter (fun c => !out.contains (key c))), [])
  else (s.putNode { n with st := .faulted }, n.faultOf cs)

/-- A TRI2 element of 0b10 has been read so many times for a context (R194). -/
def State.countTri2For (s : State) (ctx n : Nat) : State :=
  if n = 0 then s
  else s.countErr ctx (fun e => { e with tri2 := if e.tri2.toNat + n < 2 ^ 32 then e.tri2 + BitVec.ofNat 32 n
                                                 else 0xFFFF_FFFF })

/-- The same for the focused core's context. -/
def State.countTri2 (s : State) (n : Nat) : State := s.countTri2For s.ctxNo n

/-- A pair of a memory format and a tile format that R167 gives no conversion for. -/
def badPair (a : TileAccess) (mem tile : Fmt) : Bool :=
  (tile.isScaled && mem != tile) || (a.tr && (mem.isScaled || tile.isScaled))

/-- Read elements of a load node's source, up to the first that cannot be read. -/
def State.readCells (s : State) (n : TileNode) (a : TileAccess) (cells : List (Nat × Nat)) :
    State × TileNode × Option (Nat × Nat × Got Bool) :=
  cells.foldl (fun (acc : State × TileNode × Option (Nat × Nat × Got Bool)) c =>
    match acc.2.2 with
    | some _ => acc
    | none =>
      let q := acc.1.readRaw acc.2.1 a c.1 c.2
      match q.2.2 with
      | .ok true => (q.1, q.2.1, none)
      | g => (q.1, q.2.1, some (c.1, c.2, g))) (s, n, none)

/-- An element as it is moved with its mark: a marked one raises nothing (R186). -/
def CellOut.marked (o : CellOut) (m : Option Bool) : CellOut :=
  { o with e := { o.e with mark := m }, ex := if m.isSome then .none else o.ex }

/-- The elements of a load node as they come from those read (R167): moved between equal formats, or converted. What a marked
element meets is no fault: moving its mark is no consumption (R186). -/
def TileNode.loaded (n : TileNode) (a : TileAccess) (rf : Fmt) (cells : List (Nat × Nat)) : List CellOut :=
  let raw (c : Nat × Nat) : Elem := (lookupNat (c.1 * n.tag.cols + c.2) n.raw).getD ⟨0, 0, none⟩
  if rf == n.tag.fmt && (!rf.isBlock || n.tag.orient == a.tr) then
    cells.map (fun c => { row := c.1, col := c.2, e := { raw c with bits := cleanBits rf (raw c).bits }, ex := .none })
  else
    let cm : ConvMode := { fmt := n.tag.fmt, rnd := a.rnd, sat := a.sat, chk := a.chk, ftz := a.ftz }
    (convAll cm n.tag.orient (cells.map (fun c =>
      { row := c.1, col := c.2, val := { v := (raw c).num rf a.ftz, ex := .none, int := rf.isInt },
        key := srKeyAt n.srCtr n.srKey c.1 c.2 }))).map (fun o => o.marked (raw (o.row, o.col)).mark)

/-- Take elements of a load node that have been read (R167), with what reading them counts (R194). -/
def State.takeLoaded (s : State) (n : TileNode) (a : TileAccess) (rf : Fmt) (ahead : Bool) (cells : List (Nat × Nat)) :
    State × List NodeFault :=
  let raw (c : Nat × Nat) : Elem := (lookupNat (c.1 * n.tag.cols + c.2) n.raw).getD ⟨0, 0, none⟩
  let k := if rf = .tri2 ∧ n.tag.fmt ≠ .tri2 then (cells.filter (fun c => badTri2 .tri2 (raw c).bits)).length else 0
  (s.countTri2 k).finishCells n ahead (n.loaded a rf cells)

/-- Of elements wanted, those read before the one that has to wait which a conversion can take: whole blocks of the tile (R208 to
R210). -/
def TileNode.ready (n : TileNode) (cells : List (Nat × Nat)) (stop : Nat × Nat) : List (Nat × Nat) :=
  let key (c : Nat × Nat) : Nat × Nat := blockKey n.tag.fmt n.tag.orient c.1 c.2
  let open_ := (cells.dropWhile (fun c => c != stop)).map key
  (cells.takeWhile (fun c => c != stop)).filter (fun c => !open_.contains (key c))

/-- A node whose evaluation a moving frame keeps waiting has pins left while elements that it has read are not consumed (R91). -/
def TileNode.keepPins (n : TileNode) (moving : Bool) : TileNode :=
  if moving && n.raw.any (fun r => (lookupNat r.1 n.vals).isNone) then n else { n with pinned := [] }

/-- Read and convert elements of a load node (R167), and whether some of them wait: for a frame, or for a pin of another node (R83,
R91). Of a read that faults and of the conversions of the elements read before it, the first in row-major order is reported (R184).
Before a wait the Mash consumes what has been read; a fetch that has waited for pins of its own node then goes on. -/
def State.loadRun (s : State) (n : TileNode) (a : TileAccess) (ahead : Bool) (cells : List (Nat × Nat)) :
    Nat → State × List NodeFault × Bool
  | 0 => (s, [], true)
  | fuel + 1 =>
    let r := s.readCells n a cells
    let n := r.2.1
    let rf := n.rfmt.getD n.tag.fmt
    let format : List NodeFault :=
      if badPair a rf n.tag.fmt then
        (cells.take 1).map (fun c => { node := n.id, row := c.1, col := c.2,
                                       what := .cause Cause.format (slotInfoOf n.origin.slot) })
      else []
    let rest : TileNode := { n with pinned := [] }
    let end_ (fs : List NodeFault) : State × List NodeFault × Bool :=
      if ahead then (r.1.putNode rest, [], false) else (r.1.putNode { rest with st := .faulted }, fs, false)
    match r.2.2 with
    | none =>
      if !format.isEmpty then end_ format
      else
        let q := (r.1.putNode rest).takeLoaded rest a rf ahead cells
        (q.1, q.2, false)
    | some (i, j, .fault f) =>
      let before := cells.takeWhile (fun c => c != (i, j))
      end_ ({ node := n.id, row := i, col := j, what := f } ::
        (if before.isEmpty then [] else if format.isEmpty then n.faultOf (n.loaded a rf before) else format))
    | some (i, j, g) =>
      let moving := match g with
        | .wait => true
        | _ => false
      let ready := if format.isEmpty then n.ready cells (i, j) else []
      let q := if ready.isEmpty then (r.1.putNode n, []) else (r.1.putNode n).takeLoaded n a rf ahead ready
      if !q.2.isEmpty then (q.1, q.2, false)
      else
        match q.1.core.mash.node? n.id with
        | none => (q.1, [], true)
        | some m =>
          let t := q.1.putNode (m.keepPins moving)
          if !moving && !m.pinned.isEmpty then
            t.loadRun (m.keepPins moving) a ahead (cells.filter (fun c => (m.val? c.1 c.2).isNone)) fuel
          else (t, [], true)

/-- Read and convert elements of a load node, as far as they can be read. -/
def State.evalLoad (s : State) (n : TileNode) (a : TileAccess) (ahead : Bool) (cells : List (Nat × Nat)) :
    State × List NodeFault :=
  let r := s.loadRun n a ahead cells (cells.length + 1)
  (r.1, r.2.1)

/-- A store node of a list has not performed (R179). -/
def Mash.storesOpen (m : Mash) (ids : List Nat) : Bool := m.stores.any (fun n => ids.contains n.id)

/-- A node of a duplicate form (R187). -/
def NodeOp.dup : NodeOp → Bool
  | .mma d | .mac d | .ew _ d => d
  | _ => false

/-- The elements of a duplicate form with its second evaluation compared (R187): where the two units differ, which no rule
states, is free (`Config.unitsDiffer`; DESIGN CHOICE, log entry 89). -/
def NodeOp.compared (op : NodeOp) (tick : Nat) (cs : List CellOut) : List CellOut :=
  if op.dup then
    cs.map (fun c => if c.ex == .none && Config.unitsDiffer tick (c.row * 256 + c.col) then { c with ex := .mismatch } else c)
  else cs

/-- A free value has been used. -/
def State.tock (s : State) (used : Bool) : State := if used then s.bump else s

/-- The node of an id, its operands demanded or computed before it; n bounds the depth of the graph. -/
def State.demand (s : State) (ahead : Bool) (id : Nat) (rows cols : List Nat) : Nat → State × List NodeFault
  | 0 => (s, [])
  | fuel + 1 =>
    match s.core.mash.node? id with
    | none => (s, [])
    | some n0 =>
      if n0.retired then (s, [])
      else
        let wd := n0.tag.widen rows cols
        match n0.st, ahead with
        | .faulted, true => (s, [])
        | .poisoned ue, _ =>
          if ahead then (s, [])
          else (s, [{ node := id, row := wd.1.headD 0, col := wd.2.headD 0,
                      what := .cause (markCause ue) (slotInfoOf n0.origin.slot) }])
        | _, _ =>
          let dr := if ahead then wd.1 else joinIdx n0.drows wd.1
          let dc := if ahead then wd.2 else joinIdx n0.dcols wd.2
          let n1 := if ahead then n0 else { n0 with drows := dr, dcols := dc, st := .live }
          let new := (rect dr dc).filter (fun c => (n1.val? c.1 c.2).isNone)
          let s := s.putNode n1
          if new.isEmpty then (s, [])
          else
            match n1.op with
            | .load a => if s.core.mash.storesOpen n1.after then (s, []) else s.evalLoad n1 a ahead new
            | .const e => s.finishCells n1 ahead (new.map (fun c => { row := c.1, col := c.2, e := e, ex := .none }))
            | op =>
              let tags := n1.args.map (fun a => ((s.core.mash.node? a).map (fun o => o.tag)).getD n1.tag)
              let maps := demandMaps op tags (new.map Prod.fst).dedup (new.map Prod.snd).dedup
              let r := (n1.args.zip maps).foldl (fun (acc : State × List NodeFault) p =>
                if p.2.1.isEmpty ∨ p.2.2.isEmpty then acc
                else
                  let q := State.demand acc.1 ahead p.1 p.2.1 p.2.2 fuel
                  (q.1, acc.2 ++ q.2)) (s, [])
              let s := r.1
              let ops := n1.args.map (fun a => s.core.mash.node? a)
              let get (k i j : Nat) : Option Elem := ((ops[k]?).getD none).bind (fun o => o.val? i j)
              let reads (c : Nat × Nat) : List (Nat × Nat × Nat) :=
                ((cellsRead op tags c.1 c.2).zipIdx.map (fun p => p.1.map (fun x => (p.2, x.1, x.2)))).flatten
              let hurt (k : Nat) : Option Bool := ((ops[k]?).getD none).bind (fun o => match o.st with
                | .poisoned ue => some ue
                | _ => none)
              let marked (c : Nat × Nat) : Option Bool :=
                ((reads c).filterMap (fun x => (hurt x.1).or ((get x.1 x.2.1 x.2.2).bind (fun e => e.mark)))).head?
              match new.find? (fun c => (marked c).isSome) with
              | some c =>
                let ue := (marked c).getD false
                (s.modMash (fun m => m.poison id ue),
                  if ahead then r.2
                  else r.2 ++ [{ node := id, row := c.1, col := c.2,
                                 what := .cause (markCause ue) (slotInfoOf n1.origin.slot) }])
              | none =>
                if new.any (fun c => (reads c).any (fun x => (get x.1 x.2.1 x.2.2).isNone)) then (s, r.2)
                else
                  let g : Operands := fun k i j => (get k i j).getD ⟨0, 0, none⟩
                  let s := s.countTri2 (badTri2Reads n1 tags g new)
                  let q := (s.tock op.dup).finishCells n1 ahead (op.compared s.tick (computeCells n1 tags g new))
                  (q.1, r.2 ++ q.2)

/-- A bound on the depth of the node graph. -/
def State.depth (s : State) : Nat := s.core.mash.nodes.length + 1

/-- Release what nothing refers to any more. -/
def State.gc (s : State) : State := s.modCore Core.release

/-- Evaluate a demand as far as it goes (R173); a fault is noted for the next boundary. A demand whose region is computed is
done, but for its flag. -/
def State.runDemand (s : State) (d : Demand) : State :=
  let r := s.demand false d.node d.region.rows d.region.cols s.depth
  let s := r.1.noteFault r.2 d.origin d.kind d.handler
  let done := r.2.isEmpty && s.core.mash.hasRegion d.node d.region && d.flag.isNone
  (if done then s.modMash (fun m => { m with demands := m.demands.filter (fun e => e.id != d.id) }) else s).gc

/-! ### Windows and alias forces (R177, R179) -/

/-- A window has closed in the present run of its segment. -/
def TileNode.liveClosing (n : TileNode) : Bool := (n.closing.map (fun c => c.live)).getD false

/-- Read every element of a load node that is not read, and so compute it (R177, R167): the node retires, or its first fault is
given (DEDUCED, log entry 60). A window that closed in a discarded run is read without a fault, and a faulted node then waits for
what reaches it in the new run (R172). -/
def State.closeNode (s : State) (n : TileNode) : State × List NodeFault :=
  match n.op with
  | .load a =>
    if s.core.mash.storesOpen n.after then (s, [])
    else
      let cells := n.tag.cells.filter (fun c => (n.val? c.1 c.2).isNone)
      if n.liveClosing then s.evalLoad { n with st := if n.st = .faulted then .live else n.st } a false cells
      else if n.st = .faulted then (s, [])
      else s.evalLoad n a true cells
  | _ => (s, [])

/-- A node's window is closing, unless an earlier event of this run closes it or it is read whole. -/
def TileNode.close (n : TileNode) (ids : List Nat) (c : Closing) : TileNode :=
  if ids.contains n.id && n.pendingLoad && !n.liveClosing then { n with closing := some c } else n

/-- A closing window is read, if it can be; a fault is noted for the instruction that closed it (R177, R184). -/
def State.readClosing (s : State) (id : Nat) : State :=
  match s.core.mash.node? id with
  | none => s
  | some n =>
    match n.closing with
    | none => s
    | some c =>
      if (s.core.faultOf c.handler).isSome then s
      else
        let q := s.closeNode n
        q.1.noteFault q.2 c.origin c.kind c.handler

/-- Every closing window is read as far as it goes, the earliest appended first. -/
def State.readClosings (s : State) : State := (s.core.mash.ids.foldl State.readClosing s).gc

/-- Close the windows of the named nodes (R177): they are read now, or as soon as the stores and frames that they wait for
allow. -/
def State.closeNodes (s : State) (ids : List Nat) (o : Origin) (k : DemandKind) : State :=
  (s.modMash (fun m => { m with
    nodes := m.nodes.map (fun n => n.close ids { kind := k, origin := o, handler := s.core.sys.hnd, live := true }) })).readClosings

/-- A window that has closed in this run is not read whole yet. -/
def TileNode.closingOpen (n : TileNode) : Bool := n.liveClosing && n.pendingLoad

/-- The origin of the slot that is issuing. -/
def State.originHere (s : State) : Origin := { addr := s.core.pc, slot := s.core.issue.slot, seg := s.core.seg }

/-- Close the window of every pending load node of the core (R144, R117). -/
def State.closeAll (s : State) (k : DemandKind) : State :=
  match s.core.mash.nodes.filter TileNode.pendingLoad with
  | [] => s
  | ns => s.closeNodes (ns.map (fun n => n.id)) s.originHere k

/-- A load node is still to be read after a force: a store or a moving frame keeps it. -/
def Mash.stillPending (m : Mash) (ids : List Nat) : Bool :=
  m.nodes.any (fun n => ids.contains n.id && n.pendingLoad)

/-- Force every pending load node that a write to own-scratchpad lanes overlaps (R179). -/
def State.aliasForce (s : State) (lanes : List (Nat × Nat)) : State :=
  match s.loadsMet lanes with
  | [] => s
  | ids => s.closeNodes ids s.originHere .overlap

/-! ### Appending (R159, R169, R182) -/

/-- The fences that later stores of the core wait for (R304). -/
def Core.openFences (c : Core) : List Nat := c.eng.fences.map (fun f => f.id)

/-- Counter and key of stochastic rounding that a node records at append (R204) (DEDUCED, log entry 58). -/
def State.srKey (s : State) : Word × Word :=
  let ctr := BitVec.ofNat 64 ((s.lc 0).toNat % 65536 * 2 ^ 16 + (s.lc 1).toNat % 65536 * 2 ^ 32 +
    (s.lc 2).toNat % 65536 * 2 ^ 48)
  let x7 : Word32 := match s.core.task with
    | some t => BitVec.ofNat 32 t.number
    | none => 0
  let a : Word32 := (s.core.pc >>> 6).setWidth 32
  let lo : Word32 := s.core.sys.rndSeed.setWidth 32 ^^^ a
  let hi : Word32 := (s.core.sys.rndSeed >>> 32).setWidth 32 ^^^ x7 ^^^
    (if s.core.issue.slot = 5 then 0x8000_0000 else 0)
  (ctr, hi ++ lo)

/-- Live values of the core (R159): every value that is not released. -/
def Mash.live (m : Mash) : Nat := m.nodes.length

/-- Values the store holds (R159). -/
def Core.capacity (c : Core) : Nat := 32 + c.sys.stk.spillSlots.toNat + c.sys.stk.l2Slots.toNat

/-- Room for one more node and, with a value, one more live value. -/
def Core.hasRoom (c : Core) (value : Bool) : Bool :=
  let c := c.release
  decide (1 ≤ c.mash.free) && (!value || decide (c.mash.live + 1 ≤ c.capacity))

/-- A node that pressure may evaluate (R182 step 2): suspended or partial, its operands all materialised. -/
def Mash.candidate (m : Mash) (n : TileNode) : Bool :=
  !n.retired && (match n.st with
    | .live => true
    | _ => false) &&
  n.args.all (fun a => match m.node? a with
    | some o => o.retired
    | none => true)

/-- A load node cannot be read now: a store before it has not performed, or a frame that it reads is moving. -/
def State.loadWaits (s : State) (n : TileNode) : Bool :=
  match n.op with
  | .load a =>
    let cells := n.tag.cells.filter (fun c => (n.val? c.1 c.2).isNone)
    s.core.mash.storesOpen n.after || (s.loadRun n a true cells (cells.length + 1)).2.2
  | _ => false

/-- Evaluation by pressure (R182 step 2): from the oldest node on whose operands are all materialised, until there is room.
True when issue has to wait for the evaluation of a candidate. The node whose append is judged has had its operands popped
already. -/
def State.makeRoom (s : State) (value : Bool) (tail : Core → Core) : List Nat → State × Bool
  | [] => (s, false)
  | id :: rest =>
    if (tail s.core).hasRoom value then (s, false)
    else
      match s.core.mash.node? id with
      | none => s.makeRoom value tail rest
      | some n =>
        if s.core.mash.candidate n then
          if s.loadWaits n then (s, true)
          else (s.demand true id (List.range n.tag.rows) (List.range n.tag.cols) s.depth).1.makeRoom value tail rest
        else s.makeRoom value tail rest

/-- The state of a node at its append: poisoned when an operand is (R186). -/
def Mash.firstSt (m : Mash) (args : List Nat) : NodeSt :=
  (args.filterMap (fun a => (m.node? a).bind (fun o => match o.st with
    | .poisoned ue => some (NodeSt.poisoned ue)
    | _ => none))).headD .live

/-- Append a value node and push its handle (R169). Its operands are already popped. -/
def State.appendNode (s : State) (op : NodeOp) (opcode : BitVec 8) (args : List Nat) (tag : Tag) (mode : NodeMode)
    (after : List Nat) : State :=
  let k := s.srKey
  s.modMash (fun m => { m with
    spine := m.nextId :: m.spine,
    nodes := m.nodes ++ [{ id := m.nextId, op := op, opcode := opcode, args := args, tag := tag, mode := mode,
                           srCtr := k.1, srKey := k.2, origin := s.originHere, st := m.firstSt args, drows := [],
                           dcols := [], vals := [], sectors := [], pinned := [], raw := [], rfmt := none, after := after,
                           closing := none, retired := false, loc := .none }],
    nextId := m.nextId + 1 })

/-! ### Store nodes (R188 to R191) -/

/-- The bits that one region element writes: bit address, width, value, mark, and how its line is fetched. -/
structure BitWrite where
  bit : Nat
  width : Nat
  v : Nat
  mark : Bool
  fetch : Fetch
  deriving DecidableEq, Repr

/-- The bytes of a block in memory from its elements (R198 to R200). -/
def blockBits (f : Fmt) (es : List Elem) : Nat :=
  let a := (es.headD ⟨0, 0, none⟩).aux
  match seMag f with
  | some m =>
    a % 256 + (es.zipIdx.map (fun p => if p.2 % 2 = 0 then (p.1.aux / 256 % 2) <<< (8 + p.2 / 2) else 0)).foldl (· + ·) 0 +
      (es.zipIdx.map (fun p => p.1.bits <<< (16 + (m + 1) * p.2))).foldl (· + ·) 0
  | none =>
    if f = .int4g then a % 65536 + (es.zipIdx.map (fun p => p.1.bits <<< (16 + 4 * p.2))).foldl (· + ·) 0
    else a % 256 + (es.zipIdx.map (fun p => p.1.bits <<< (8 + f.width * p.2))).foldl (· + ·) 0

/-- The elements of a store's region after conversion to the memory format (R190); a marked element raises nothing (R186). -/
def storeCells (n : StoreNode) (src : TileNode) (mf : Fmt) : List CellOut :=
  let cells := n.region.cells
  let a := n.access
  let raw (c : Nat × Nat) : Elem := (src.val? c.1 c.2).getD ⟨0, 0, none⟩
  if mf == src.tag.fmt && (!mf.isBlock || src.tag.orient == a.tr) then
    cells.map (fun c => { row := c.1, col := c.2, e := { raw c with bits := cleanBits mf (raw c).bits }, ex := .none })
  else
    let cm : ConvMode := { fmt := mf, rnd := a.rnd, sat := a.sat, chk := a.chk, ftz := a.ftz }
    (convAll cm a.tr (cells.map (fun c =>
      { row := c.1, col := c.2, val := { v := (raw c).num src.tag.fmt a.ftz, ex := .none, int := src.tag.fmt.isInt },
        key := srKeyAt n.srCtr n.srKey c.1 c.2 }))).map (fun o => o.marked (raw (o.row, o.col)).mark)

/-- TRI2 elements of 0b10 in a store's region (R194). -/
def badTri2Cells (n : StoreNode) (src : TileNode) : Nat :=
  (n.region.cells.filter (fun c => badTri2 src.tag.fmt ((src.val? c.1 c.2).getD ⟨0, 0, none⟩).bits)).length

/-- Where the elements of a store's region go, up to the first whose place stops it. -/
def State.storePlaces (s : State) (n : StoreNode) :
    State × List (Nat × Nat × ElemAt) × Option (Nat × Nat × Got ElemAt) :=
  n.region.cells.foldl
    (fun (acc : State × List (Nat × Nat × ElemAt) × Option (Nat × Nat × Got ElemAt)) c =>
      match acc.2.2 with
      | some _ => acc
      | none =>
        let r := acc.1.elemAt n.access n.rows n.origin.slot c.1 c.2 true
        match r.2 with
        | .ok e => (r.1, acc.2.1 ++ [(c.1, c.2, e)], none)
        | g => (r.1, acc.2.1, some (c.1, c.2, g))) (s, [], none)

/-- The bit writes of a store's region. -/
def storeWrites (mf : Fmt) (places : List (Nat × Nat × ElemAt)) (cells : List CellOut) : List BitWrite :=
  let at? (i j : Nat) : Option Elem := (cells.find? (fun c => c.row == i && c.col == j)).map (fun c => c.e)
  if mf.isBlock then
    let bits := (places.map (fun p => p.2.2.bit)).dedup
    bits.map (fun b =>
      let mine := places.filter (fun p => p.2.2.bit == b)
      let es := mine.filterMap (fun p => at? p.1 p.2.1)
      { bit := b, width := mf.blockBytes * 8, v := blockBits mf es, mark := es.any (fun e => e.mark.isSome),
        fetch := ((mine.map (fun p => p.2.2.fetch true false)).headD Fetch.plain) })
  else
    (places.map (fun p =>
      let e := (at? p.1 p.2.1).getD ⟨0, 0, none⟩
      let own : BitWrite := { bit := p.2.2.bit, width := mf.width, v := e.bits, mark := e.mark.isSome, fetch := p.2.2.fetch true false }
      match p.2.2.scale with
      | some x => [own, { own with bit := x * 8, width := 32, v := e.aux }]
      | none => [own])).flatten

/-- The sectors that bit writes touch, in the order of the writes: it is the same when a frame among them has moved (R83). -/
def writeSectors (ws : List BitWrite) : List Nat :=
  (ws.map (fun w => blocksOf (w.bit / 8) ((w.bit % 8 + w.width + 7) / 8))).flatten.dedup

/-- A byte after the bit writes that touch it. -/
def byteAfter (ws : List BitWrite) (a : Nat) (b : Byte) : Byte :=
  ws.foldl (fun b w =>
    if w.bit < a * 8 + 8 ∧ a * 8 < w.bit + w.width then
      BitVec.ofNat 8 ((List.range 8).foldl (fun v k =>
        let g := a * 8 + k
        let bit := if w.bit ≤ g ∧ g < w.bit + w.width then (w.v >>> (g - w.bit)) % 2 else (b.toNat >>> k) % 2
        v + bit * 2 ^ k) 0)
    else b) b

/-- Some bit of a byte is written. -/
def touchesByte (ws : List BitWrite) (a : Nat) : Bool :=
  ws.any (fun w => decide (w.bit < a * 8 + 8) && decide (a * 8 < w.bit + w.width))

/-- Every bit of a byte is written. -/
def coversByte (ws : List BitWrite) (a : Nat) : Bool := byteAfter (ws.map (fun w => { w with v := 2 ^ w.width - 1 })) a 0 == 0xFF

/-- A gate entry after later bit writes of its core have performed: those bits stand in memory, and are neither seen through the
entry nor written by it any more; a byte of which none is left goes (R139, R179, R300; DEDUCED, log entry 49). -/
def GateEntry.overwritten (e : GateEntry) (ws : List BitWrite) : GateEntry :=
  let ones : List BitWrite := ws.map (fun w => { w with v := 2 ^ w.width - 1 })
  let hit := (e.cells.map Prod.fst).dedup.filter (touchesByte ws)
  let gone := hit.foldl (fun g a => insertNat a (byteAfter ones a ((lookupNat a g).getD 0)) g) e.gone
  let full (a : Nat) : Bool := lookupNat a gone == some 0xFF
  { e with cells := e.cells.filter (fun c => !full c.1), gone := gone.filter (fun g => !full g.1) }

/-- The gate after bit writes: only entries of earlier stores change. -/
def gateAfter (g : List GateEntry) (earlier : GateEntry → Bool) (ws : List BitWrite) : List GateEntry :=
  g.map (fun e => if earlier e then e.overwritten ws else e)

/-- The bytes of a line's data after the bit writes that touch one of its sectors. -/
def lineAfter (ws : List BitWrite) (key : Nat) (d : BitVec 1024) : BitVec 1024 :=
  let base := key / 2 * 128
  BitVec.ofNat 1024 (ofLe ((List.range 128).map (fun i =>
    let b : Byte := BitVec.ofNat 8 (d.toNat >>> (8 * i))
    if (base + i) / 64 = key then byteAfter ws (base + i) b else b)))

/-- A bit write touches a sector. -/
def BitWrite.inSector (w : BitWrite) (key : Nat) : Bool :=
  decide (w.bit < (key * 64 + 64) * 8) && decide (key * 64 * 8 < w.bit + w.width)

/-- A far write updates the replica of its die where one is present (R86, R308): the bits written, and the mark of the sector, which
stands for the written data where the whole sector is written (R68). -/
def State.patchReplica (s : State) (ws : List BitWrite) (key : Nat) : State :=
  match if homeDie (key * 64) != s.core.die then s.l2.line? (sliceOn s.core.die (key / 2)) (key / 2) else none with
  | none => s
  | some x =>
    match x.copy with
    | none => s
    | some d =>
      let whole := (lineAfter (ws.map (fun w => { w with v := 2 ^ w.width - 1 })) key 0).toNat ==
        2 ^ (512 * (key % 2)) * (2 ^ 512 - 1)
      let half : BitVec 2 := BitVec.ofNat 2 (2 ^ (key % 2))
      let kept := if whole then x.bad &&& ~~~half else x.bad
      let bad := if ws.any (fun w => w.mark && w.inSector key) then kept ||| half else kept
      s.modL2 (fun l => l.put { x with copy := some (lineAfter ws key d), bad := bad })

/-- Write one sector of bit writes at one instant, with its mark (R186, R190): only the bits written change. `earlier` says
which gated stores of the core came before. -/
def State.writeSector (s : State) (ws : List BitWrite) (earlier : GateEntry → Bool) (key : Nat) : State :=
  let fe := ((ws.find? (fun w => w.inSector key)).map (fun w => w.fetch)).getD Fetch.plain
  let touched := ((List.range 64).map (fun i => key * 64 + i)).filter (touchesByte ws)
  let cells : List Host.Cell := touched.map (fun a => (a, byteAfter ws a (s.mem.read a)))
  let full := cells.filter (fun c => coversByte ws c.1)
  let s1 := if key * 64 < 2 ^ 40 then s.writeMainBits (some s.core.die) fe cells full else s.writeBits cells full
  let s1 := s1.patchReplica ws key
  let s1 := if inSpad s.cur (key * 64) then s1.modCore (fun c => { c with gate := gateAfter c.gate earlier ws }) else s1
  if ws.any (fun w => w.mark && w.inSector key) then
    s1.setMark key (some .poison)
  else s1

/-- A store node is complete (R191): its flag is set and its node is free. -/
def State.storeDone (s : State) (n : StoreNode) : State :=
  (s.modMash (fun m => { m with stores := m.stores.filter (fun o => o.id != n.id) })).raiseFlag? n.flag false |>.gc

/-- A store node may write: its region is computed, and its own demand has not met poison (R186), no fence before it is open (R304),
and no earlier store node of the own scratchpad and no closing load source before it overlaps it (R179), as everything there does in
coarse mode (R180). -/
def State.storeReady (s : State) (n : StoreNode) : Bool :=
  let m := s.core.mash
  m.hasRegion n.src n.region && (s.core.faultOf n.handler).isNone &&
    !(m.hurt n.src && m.demands.any (fun d => d.node == n.src && d.kind == .tst && d.origin == n.origin)) &&
    n.after.all (fun f => !(s.core.eng.fences.any (fun g => g.id == f))) &&
    !((m.stores.takeWhile (fun o => o.id != n.id)).any (fun o => rangesMeet m.coarse o.camRange n.camRange)) &&
    !(m.nodes.any (fun o => decide (o.id < n.id) && o.closingOpen && rangesMeet m.coarse o.camRange n.camRange))

/-- The gated stores that came before a store node. -/
def StoreNode.after? (n : StoreNode) (e : GateEntry) : Bool := decide (e.node ≤ n.id)

/-- What stops a store node as it would write: a place that faults, and what the conversion of its elements meets once a place
gives the memory format; the first in row-major order is reported (R184, R190). -/
def StoreNode.faults (n : StoreNode) (src : TileNode) (mf : Fmt) (nowhere : Bool) (stop : Option (Nat × Nat × Got ElemAt))
    (cells : List CellOut) : List NodeFault :=
  let place : List NodeFault := match stop with
    | some (i, j, .fault f) => [{ node := n.id, row := i, col := j, what := f }]
    | _ => []
  let conv : List NodeFault :=
    if nowhere then []
    else if badPair n.access src.tag.fmt mf then
      [{ node := n.id, row := n.region.r0, col := n.region.c0, what := .cause Cause.format (slotInfoOf n.origin.slot) }]
    else ((firstBad cells).map (fun c =>
      { node := n.id, row := c.row, col := c.col, what := .cause c.ex.cause (slotInfoOf n.origin.slot) })).toList
  place ++ conv

/-- Up to k sectors of a store node are written (R190, R191). -/
def State.storePerform (s : State) (n : StoreNode) (k : Nat) : State :=
  match s.core.mash.node? n.src with
  | none => s
  | some src =>
    let o := n.origin
    let pl := s.storePlaces n
    let places := pl.2.1
    let mf := match places with
      | p :: _ => p.2.2.fmt
      | [] => src.tag.fmt
    let cells := if places.isEmpty then [] else storeCells n src mf
    let fs := n.faults src mf places.isEmpty pl.2.2 cells
    match pl.2.2 with
    | some (_, _, .wait) => pl.1
    | _ =>
      if !fs.isEmpty then pl.1.noteFault fs o .tst n.handler
      else
        let ws := storeWrites mf places cells
        let secs := writeSectors ws
        let now := (secs.drop n.done).take k
        let read := if n.done = 0 ∧ now ≠ [] ∧ src.tag.fmt ≠ mf then badTri2Cells n src else 0
        let s := now.foldl (fun s key => s.writeSector ws n.after? key) (pl.1.countTri2 read)
        let n' := { n with done := n.done + now.length }
        if n'.done < secs.length then
          s.modMash (fun m => { m with stores := m.stores.map (fun q => if q.id == n.id then n' else q) })
        else
          match n.access.place with
          | .remote _ _ =>
            s.modMash (fun m => { m with stores := m.stores.map (fun q => if q.id == n.id then { n' with sent := true } else q) })
          | _ => s.storeDone n

end Sys2Proof.Machine
end

