-- ==== Sys2Proof/Machine/Copy.lean ====
section
/-! DEFINITION. The copy slot (spec/05 R93 to R120, R411): stream descriptors, atomic blocks, and the entry of commands into
the engine or into the store gate. -/

namespace Sys2Proof.Machine

/-! ### Stream descriptors (R100, R101, R106, R107, R118, R119) -/

/-- The instructions that take a stream descriptor. -/
inductive DescUse where
  | scpy | sgth | sacc | l2 | sxfr
  deriving DecidableEq, Repr

/-- Bytes of a scratchpad or of staging, not of a tensor (R101). -/
def byteKind (k : Nat) : Bool := k == 0 || k == 2

/-- SID or DID of a side (R100, R101): [6] die and [5:0] core 0 to 47 or 63 for the own core; a package slice; a tensor. -/
def sideIdOk (kind id : Nat) : Bool :=
  match kind with
  | 0 => decide (id < 128) && (decide (id % 64 < 48) || id == 63)
  | 2 => decide (id < 48)
  | _ => true

/-- A format whose walk goes by whole bytes or blocks (R101): a block format, or elements narrower than 8 bits. -/
def narrow (fmt : Nat) : Bool := decide (fmt ≤ 0x1F) && ((Fmt.ofCode fmt).isBlock || decide ((Fmt.ofCode fmt).width < 8))

/-- The checks of R100 and R101 on one side with an explicit format or 0xFF; `strs` are its strides, level 0 first. -/
def sideOk (kind fmt id base count0 : Nat) (strs : List Int) : Bool :=
  decide (kind ≤ 3) && sideIdOk kind id &&
    (if fmt = 0xFF then !byteKind kind
     else if 0x1F < fmt then false
     else
      let f := Fmt.ofCode fmt
      if f.isBlock then
        count0 % f.blockElems == 0 && (!byteKind kind || strs.tail.all (fun st => st % f.blockElems == 0))
      else if f.width < 8 then
        count0 * f.width % 8 == 0 && (!byteKind kind || strs.tail.all (fun st => st * f.width % 8 == 0))
      else !byteKind kind || base % (f.width / 8) == 0)

/-- The format of a side's code: none for the tensor's own. -/
def sideFmt (fmt : Nat) : Option Fmt := if fmt = 0xFF then none else some (Fmt.ofCode fmt)

/-- A pairing of the formats of a sacc (R107, R108). -/
def saccPair (op : Nat) (sf df : Fmt) : Bool :=
  if op = 6 then !sf.isInt && !df.isInt
  else sf == df && (decide (op ≤ 2) || df.isInt)

/-- An explicit format that a command may name: no scaled format (R201), and for sacc no block format (R107). -/
def copyFmtOk (u : DescUse) (f : Option Fmt) : Bool :=
  match f with
  | none => true
  | some f => !f.isScaled && (u != .sacc || !f.isBlock)

/-- The explicit formats of a sacc pair (R108); a side of the tensor's own format is checked when it is translated. -/
def saccPairOk (u : DescUse) (op : Nat) (sf df : Option Fmt) : Bool :=
  match u, sf, df with
  | .sacc, some sf, some df => saccPair op sf df
  | _, _, _ => true

/-- A stream descriptor of 128 bytes, or the cause it raises at step 10 of R46: RESERVED-FIELD (R100, R101), FORMAT (R108,
R201). Of one with both errors no rule says which is raised: RESERVED-FIELD here (DESIGN CHOICE, log entry 116). -/
def parseDesc (u : DescUse) (bs : List Byte) : Except (BitVec 6) Desc :=
  let sk := field bs 0 1
  let dk := field bs 1 1
  let sf := field bs 2 1
  let df := field bs 3 1
  let sid := field bs 4 2
  let did := field bs 6 2
  let sb := field bs 8 8
  let db := field bs 0x10 8
  let nd := field bs 0x18 1
  let fl := field bs 0x19 1
  let pkg := field bs 0x1A 2
  let sub := field bs 0x1C 4
  let all : List Dim := (List.range 6).map (fun k =>
    { count := field bs (0x20 + 16 * k) 4, sstr := sgn 32 (field bs (0x24 + 16 * k) 4),
      dstr := sgn 32 (field bs (0x28 + 16 * k) 4) })
  let ds := all.take nd
  let c0 := (ds.headD ⟨0, 0, 0⟩).count
  let zero := (List.range 6).all (fun k => field bs (0x2C + 16 * k) 4 == 0) &&
    (all.drop nd).all (fun d => d == ⟨0, 0, 0⟩)
  let common := decide (1 ≤ nd) && decide (nd ≤ 6) && zero && decide (fl < 64) && decide (fl % 8 ≤ 4) &&
    decide (pkg < 256) && (sk == 3 || dk == 3 || pkg == 0) && !(sk == 3 && dk == 3) &&
    sideOk sk sf sid sb c0 (ds.map (fun d => d.sstr))
  let dst := if u = .l2 then dk == 0 && df == 0 && did == 0 && db == 0 && ds.all (fun d => d.dstr == 0)
    else sideOk dk df did db c0 (ds.map (fun d => d.dstr))
  let unit := !(narrow sf || (u != .l2 && narrow df)) ||
    ((ds.headD ⟨0, 1, 1⟩).sstr == 1 && (u == .l2 || (ds.headD ⟨0, 1, 1⟩).dstr == 1))
  let own := match u with
    | .scpy | .sgth => sub == 0
    | .sacc => decide (sub ≤ 6) && sk != 3
    | .l2 => sub == 0 && sk == 1
    | .sxfr => dk == 3 && byteKind sk
  if !(common && dst && unit && own) then .error Cause.reservedField
  else if !(copyFmtOk u (sideFmt sf) && (u == .l2 || copyFmtOk u (sideFmt df)) &&
      saccPairOk u sub (sideFmt sf) (sideFmt df)) then .error Cause.format
  else .ok
    { src := { kind := sk, fmt := sideFmt sf, id := sid, base := sb },
      dst := { kind := dk, fmt := if u = .l2 then none else sideFmt df, id := did, base := db },
      rnd := Rnd.ofNat (fl % 8), sat := fl / 8 % 2 == 1, ftz := fl / 16 % 2 == 1, noAlloc := fl / 32 % 2 == 1,
      pkg := pkg, subop := sub, dims := ds }

/-- Elements of a walk (R102): none when a count is zero. -/
def Desc.total (d : Desc) : Nat := (d.dims.map (fun x => x.count)).foldl (· * ·) 1

/-! ### Atomic blocks (R109 to R111, R411) -/

/-- A format that an operation of satm takes (R110). -/
def satmFmtOk (op : SatmOp) (f : Fmt) (w64 : Bool) : Bool :=
  match op with
  | .fadd | .fmin | .fmax => !w64 && (f == .fp16 || f == .bf16 || f == .fp32)
  | .swap | .cas => w64 || (f.isElem && decide (8 ≤ f.width))
  | .iadd | .and | .or | .xor => w64 || f == .int8 || f == .uint8 || f == .int16 || f == .int32

/-- Bytes of a satm target. -/
def satmSize (f : Fmt) (w64 : Bool) : Nat := if w64 then 8 else f.width / 8

/-- An atomic block of 48 bytes, or the cause it raises at step 10 of R46. A nonzero PKG beside another kind than 3 and nonzero
reserved fields raise RESERVED-FIELD, as in a descriptor (R100; DEDUCED, log entry 79). Of several errors no rule says which is raised:
here RESERVED-FIELD, then FORMAT, then those of RESULT, ALIGNMENT, ADDRESS and PROTECTION, then the ALIGNMENT of OFFSET (DESIGN
CHOICE, log entry 115). -/
def parseAtom (op : SatmOp) (bs : List Byte) (spill : Nat → Bool) : Except (BitVec 6) AtomBlock :=
  let kind := field bs 0 1
  let ef := field bs 1 1
  let pkg := field bs 2 2
  let id := field bs 4 2
  let off := field bs 8 8
  let res := field bs 0x20 4
  let w64 := ef / 32 % 2 == 1
  let f := Fmt.ofCode (ef % 32)
  if !(decide (kind ≤ 3) && decide (ef < 64) && (!w64 || ef % 32 == 0) && decide (pkg < 256) && (kind == 3 || pkg == 0) &&
      field bs 6 2 == 0 && field bs 0x24 12 == 0 && sideIdOk kind id) then .error Cause.reservedField
  else if !satmFmtOk op f w64 then .error Cause.format
  else if res % 16 ≠ 0 then .error Cause.alignment
  else if 2 ^ 22 ≤ res then .error Cause.address
  else if spill res then .error Cause.protection
  else if byteKind kind && off % satmSize f w64 != 0 then .error Cause.alignment
  else .ok { kind := kind, fmt := f, w64 := w64, pkg := pkg, id := id, off := off,
             op1 := BitVec.ofNat 64 (field bs 0x10 8), op2 := BitVec.ofNat 64 (field bs 0x18 8), result := res }

/-! ### Targets -/

/-- A kind-3 side of a package other than the own one (R105, R122) (DEDUCED, log entry 50). -/
def State.otherPkg (s : State) (kind pkg : Nat) : Bool := kind == 3 && pkg != s.fabric.self

/-- The package of an ssig target (R113): 0xFFFF and the own number are the own package. -/
def State.sigPkg (s : State) (pkg : Nat) : Nat := if pkg = 0xFFFF then s.fabric.self else pkg

/-- The package that a gated command's target lies on, when it is another one (R122). -/
def State.remoteOwner (s : State) (op : CmdOp) : Option Nat :=
  match op with
  | .sacc _ d => if s.otherPkg d.dst.kind d.pkg then some d.pkg else none
  | .satm _ b => if s.otherPkg b.kind b.pkg then some b.pkg else none
  | .ssig _ _ pkg _ _ => if pkg = s.fabric.self then none else some pkg
  | _ => none

/-- The flags of the launch block of the running task: replay-safe (R331). -/
def State.replaySafe (s : State) : Bool :=
  match s.core.task with
  | some t =>
    match s.launch.resident.find? (fun x => x.id == t.task) with
    | some x => x.lb.flags % 2 == 1
    | none => false
  | none => false

/-! ### Entry into the engine (R93, R94, R98, R361, R372) -/

/-- A command writes (R117: it waits for an open fence). -/
def CmdOp.writes : CmdOp → Bool
  | .scpy _ | .sgth _ _ | .sacc _ _ | .satm _ _ | .ssig _ _ _ _ _ | .sxfr _ _ _ => true
  | _ => false

/-- Commands and fences of the engine that have not completed (R94). -/
def Engine.held (e : Engine) : Nat := e.cmds.length + e.fences.length

/-- A command of the issuing slot. -/
def State.newCmd (s : State) (op : CmdOp) (flag : Option FlagNo) (cls : Nat) (x : Bool) : Cmd :=
  let rel := match op with
    | .ssig _ _ _ _ (some _) => true
    | _ => false
  { id := s.core.eng.nextId, op := op, flag := flag, cls := cls, x := x, addr := s.core.pc, seg := s.core.seg,
    committed := false, pos := 0,
    after := (if op.writes then s.core.openFences else []) ++
      (if rel then s.core.eng.cmds.map (fun c => c.id) ++ s.core.gateCmds.map (fun c => c.id) else []),
    discard := false, fault := none, wait := .no,
    accs := if rel then s.core.remote.map (fun a => a.id) else [], clean := [], handler := s.core.sys.hnd }

/-- A plain command enters the engine (R93); it stalls while 64 are held (R94). -/
def State.enter (s : State) (op : CmdOp) (flag : Option FlagNo) (cls : Nat) (x : Bool) : Eff :=
  if 64 ≤ s.core.eng.held then .stall .engine
  else .ok (s.modCore (fun c =>
    { c with eng := { c.eng with cmds := c.eng.cmds ++ [s.newCmd op flag cls x], nextId := c.eng.nextId + 1 } }))

/-- A gated command takes a place of the gate (R98, R361); in handler mode it enters the engine (R372). -/
def State.enterGated (s : State) (op : CmdOp) (flag : Option FlagNo) (cls : Nat) (x : Bool) : Eff :=
  if s.core.sys.hnd then s.enter op flag cls x
  else if 32 ≤ s.core.gateCmds.length then .stall .gate
  else .ok (s.modCore (fun c =>
    { c with gateCmds := c.gateCmds ++ [s.newCmd op flag cls x], eng := { c.eng with nextId := c.eng.nextId + 1 } }))

/-- n bytes of the own scratchpad that a copy instruction reads at its issue, as `read` has them (R93, R105, R109, R179), or the effect
of what is wrong with the address; the state that goes on has seen the errors of its blocks (R67, R68, R130). A block that runs past
the 4 MiB raises ADDRESS too, and ADDRESS comes before ALIGNMENT, which no rule states (DESIGN CHOICE, log entry 117). -/
def State.readBlock (s : State) (read : State → Nat → Nat → State × List Byte) (w : Word) (align n : Nat)
    (k : State → List Byte → Eff) : Eff :=
  if 2 ^ 22 < w.toNat + n ∨ 2 ^ 22 ≤ w.toNat then s.fault 10 Cause.address
  else if w.toNat % align ≠ 0 then s.fault 10 Cause.alignment
  else if s.core.inSpill w.toNat n then s.fault 10 Cause.protection
  else if !(s.storesMetBefore [(spadBase s.cur + w.toNat, n)]).isEmpty then .stall .store
  else
    let r := read s (spadBase s.cur + w.toNat) n
    k r.1 r.2

/-- Read the stream descriptor that a register names. -/
def State.readDesc (s : State) (u : DescUse) (w : Word) (k : State → Desc → Eff) : Eff :=
  s.readBlock State.controlBefore w 64 128 (fun s bs =>
    match parseDesc u bs with
    | .error c => s.fault 10 c
    | .ok d => k s d)

/-! ### scpy, sgth, sacc -/

/-- scpy (R105). -/
def effScpy (a : XReg) (flag : Option FlagNo) (cls : Fin 4) (x : Bool) (s : State) : Eff :=
  s.readDesc .scpy (s.x a) (fun s d => s.enter (.scpy d) flag cls.val x)
/-- scpy by itself. -/
def execScpy (a : XReg) (flag : Option FlagNo) (cls : Fin 4) (x : Bool) (s : State) : Out := settle s (effScpy a flag cls x s)

/-- The indices of a gather list (R106). -/
def indices (n : Nat) (bs : List Byte) : List Int := (List.range n).map (fun i => sgn 32 (field bs (4 * i) 4))

/-- sgth (R106): the list is read when the command enters, and so with what its own bundle has stored (R302). -/
def effSgth (a b : XReg) (flag : Option FlagNo) (cls : Fin 4) (x : Bool) (s : State) : Eff :=
  s.readDesc .sgth (s.x a) (fun s d =>
    let n := if d.total = 0 then 0 else (d.dims.getLastD ⟨0, 0, 0⟩).count
    s.readBlock State.controlNow (s.x b) 4 (4 * n) (fun s bs => s.enter (.sgth d (indices n bs)) flag cls.val x))
/-- sgth by itself. -/
def execSgth (a b : XReg) (flag : Option FlagNo) (cls : Fin 4) (x : Bool) (s : State) : Out :=
  settle s (effSgth a b flag cls x s)

/-- The operation of a SUBOP of sacc (R108). -/
def SaccOp.ofNat (n : Nat) : SaccOp :=
  match n with
  | 0 => .add
  | 1 => .max
  | 2 => .min
  | 3 => .and
  | 4 => .or
  | 5 => .xor
  | _ => .wadd

/-- sacc (R107, R98, R352). -/
def effSacc (a : XReg) (flag : Option FlagNo) (cls : Fin 4) (x : Bool) (s : State) : Eff :=
  s.guarded (.sacc a flag cls x) (s.readDesc .sacc (s.x a) (fun s d =>
    if s.replaySafe && !s.otherPkg d.dst.kind d.pkg then s.fault 10 Cause.protection
    else s.enterGated (.sacc (SaccOp.ofNat d.subop) d) flag cls.val x))
/-- sacc by itself. -/
def execSacc (a : XReg) (flag : Option FlagNo) (cls : Fin 4) (x : Bool) (s : State) : Out := settle s (effSacc a flag cls x s)

/-! ### satm (R109 to R112) -/

/-- A satm of an operation: block, checks, gate. -/
def State.satm (s : State) (op : SatmOp) (a : XReg) (flag : Option FlagNo) (cls : Fin 4) : Eff :=
  s.readBlock State.controlBefore (s.x a) 16 48 (fun s bs =>
    match parseAtom op bs (fun r => s.core.inSpill r 16) with
    | .error c => s.fault 10 c
    | .ok b =>
      if s.replaySafe && !s.otherPkg b.kind b.pkg then s.fault 10 Cause.protection
      else s.enterGated (.satm op b) flag cls.val false)

/-- satm.fadd (R110). -/
def effSatmFadd (a : XReg) (flag : Option FlagNo) (cls : Fin 4) (s : State) : Eff :=
  s.guarded (.satmFadd a flag cls) (s.satm .fadd a flag cls)
/-- satmFadd by itself. -/
def execSatmFadd (a : XReg) (flag : Option FlagNo) (cls : Fin 4) (s : State) : Out := settle s (effSatmFadd a flag cls s)
/-- satm.fmin (R110). -/
def effSatmFmin (a : XReg) (flag : Option FlagNo) (cls : Fin 4) (s : State) : Eff :=
  s.guarded (.satmFmin a flag cls) (s.satm .fmin a flag cls)
/-- satmFmin by itself. -/
def execSatmFmin (a : XReg) (flag : Option FlagNo) (cls : Fin 4) (s : State) : Out := settle s (effSatmFmin a flag cls s)
/-- satm.fmax (R110). -/
def effSatmFmax (a : XReg) (flag : Option FlagNo) (cls : Fin 4) (s : State) : Eff :=
  s.guarded (.satmFmax a flag cls) (s.satm .fmax a flag cls)
/-- satmFmax by itself. -/
def execSatmFmax (a : XReg) (flag : Option FlagNo) (cls : Fin 4) (s : State) : Out := settle s (effSatmFmax a flag cls s)
/-- satm.swap (R110). -/
def effSatmSwap (a : XReg) (flag : Option FlagNo) (cls : Fin 4) (s : State) : Eff :=
  s.guarded (.satmSwap a flag cls) (s.satm .swap a flag cls)
/-- satmSwap by itself. -/
def execSatmSwap (a : XReg) (flag : Option FlagNo) (cls : Fin 4) (s : State) : Out := settle s (effSatmSwap a flag cls s)
/-- satm.cas (R110). -/
def effSatmCas (a : XReg) (flag : Option FlagNo) (cls : Fin 4) (s : State) : Eff :=
  s.guarded (.satmCas a flag cls) (s.satm .cas a flag cls)
/-- satmCas by itself. -/
def execSatmCas (a : XReg) (flag : Option FlagNo) (cls : Fin 4) (s : State) : Out := settle s (effSatmCas a flag cls s)
/-- satm.iadd (R110). -/
def effSatmIadd (a : XReg) (flag : Option FlagNo) (cls : Fin 4) (s : State) : Eff :=
  s.guarded (.satmIadd a flag cls) (s.satm .iadd a flag cls)
/-- satmIadd by itself. -/
def execSatmIadd (a : XReg) (flag : Option FlagNo) (cls : Fin 4) (s : State) : Out := settle s (effSatmIadd a flag cls s)
/-- satm.and (R110). -/
def effSatmAnd (a : XReg) (flag : Option FlagNo) (cls : Fin 4) (s : State) : Eff :=
  s.guarded (.satmAnd a flag cls) (s.satm .and a flag cls)
/-- satmAnd by itself. -/
def execSatmAnd (a : XReg) (flag : Option FlagNo) (cls : Fin 4) (s : State) : Out := settle s (effSatmAnd a flag cls s)
/-- satm.or (R110). -/
def effSatmOr (a : XReg) (flag : Option FlagNo) (cls : Fin 4) (s : State) : Eff :=
  s.guarded (.satmOr a flag cls) (s.satm .or a flag cls)
/-- satmOr by itself. -/
def execSatmOr (a : XReg) (flag : Option FlagNo) (cls : Fin 4) (s : State) : Out := settle s (effSatmOr a flag cls s)
/-- satm.xor (R110). -/
def effSatmXor (a : XReg) (flag : Option FlagNo) (cls : Fin 4) (s : State) : Eff :=
  s.guarded (.satmXor a flag cls) (s.satm .xor a flag cls)
/-- satmXor by itself. -/
def execSatmXor (a : XReg) (flag : Option FlagNo) (cls : Fin 4) (s : State) : Out := settle s (effSatmXor a flag cls s)

/-! ### ssig (R113) -/

/-- The target word of ssig: core, counter, package; none where it raises ADDRESS. -/
def sigTarget (w : Word) : Option (Nat × CtrNo × Nat) :=
  let n := w.toNat
  let pkg := n / 2 ^ 16
  if n % 128 ≤ 95 ∧ n / 2 ^ 7 % 2 = 0 ∧ n / 2 ^ 12 % 16 = 0 ∧ n < 2 ^ 32 ∧ (pkg < 256 ∨ pkg = 0xFFFF) then
    some (n % 128, Fin.ofNat 16 (n / 2 ^ 8), pkg)
  else none

/-- ssig with or without a release (R113, R98, R352). -/
def State.signal (s : State) (a b : XReg) (flag : Option FlagNo) (cls : Nat) (x : Bool) (rel : Option Scope) : Eff :=
  match sigTarget (s.x a) with
  | none => s.fault 10 Cause.address
  | some (core, k, pkg) =>
    if s.replaySafe && s.sigPkg pkg == s.fabric.self then s.fault 10 Cause.protection
    else s.enterGated (.ssig core k (s.sigPkg pkg) ((s.x b).setWidth 32) rel) flag cls x

/-- ssig (R113). -/
def effSsig (a b : XReg) (flag : Option FlagNo) (cls : Fin 4) (x : Bool) (s : State) : Eff :=
  s.guarded (.ssig a b flag cls x) (s.signal a b flag cls.val x none)
/-- ssig by itself. -/
def execSsig (a b : XReg) (flag : Option FlagNo) (cls : Fin 4) (x : Bool) (s : State) : Out :=
  settle s (effSsig a b flag cls x s)
/-- ssig.rel (R113, R305). -/
def effSsigRel (a b : XReg) (flag : Option FlagNo) (cls : Fin 4) (x : Bool) (scope : Scope) (s : State) : Eff :=
  s.guarded (.ssigRel a b flag cls x scope) (s.signal a b flag cls.val x (some scope))
/-- ssigRel by itself. -/
def execSsigRel (a b : XReg) (flag : Option FlagNo) (cls : Fin 4) (x : Bool) (scope : Scope) (s : State) : Out :=
  settle s (effSsigRel a b flag cls x scope s)

/-! ### Barriers, drains and fences (R115 to R117) -/

/-- sbar (R115). -/
def effSbar (a b : KindMask) (flag : Option FlagNo) (s : State) : Eff := s.enter (.sbar a b) flag 0 false
/-- sbar by itself. -/
def execSbar (a b : KindMask) (flag : Option FlagNo) (s : State) : Out := settle s (effSbar a b flag s)

/-- Hold the next bundle until what precedes has performed; like any command it finds room in the engine first (R94). -/
def State.drainAt (s : State) (k : DrainKind) (sc : Scope) (flag : Option FlagNo) : Eff :=
  if 64 ≤ s.core.eng.held then .stall .engine
  else .ok (s.modCore (fun c => { c with hold := .drain k sc flag .none }))

/-- sdrn (R116). -/
def effSdrn (flag : Option FlagNo) (s : State) : Eff := s.drainAt .sdrn .pod flag
/-- sdrn by itself. -/
def execSdrn (flag : Option FlagNo) (s : State) : Out := settle s (effSdrn flag s)

/-- fence.acq (R117, R177): every pending load node is forced, and the next bundle is held. -/
def effFenceAcq (scope : Scope) (flag : Option FlagNo) (s : State) :
    Eff := (s.closeAll .fence).drainAt .acq scope flag
/-- fenceAcq by itself. -/
def execFenceAcq (scope : Scope) (flag : Option FlagNo) (s : State) : Out := settle s (effFenceAcq scope flag s)

/-- The remote accesses that a release waits for: at core scope a store is performed when it issues, for the core's own
accesses to its bytes keep their order (R140, R299, R312). -/
def Core.relAccesses (c : Core) (sc : Scope) : List Nat :=
  (c.remote.filter (fun a => !(a.store && sc == .core))).map (fun a => a.id)

/-- fence.rel (R117): issue goes on; what follows and writes waits for it. -/
def effFenceRel (scope : Scope) (flag : Option FlagNo) (s : State) : Eff :=
  if 64 ≤ s.core.eng.held then .stall .engine
  else .ok (s.modCore (fun c =>
    { c with eng := { c.eng with
        fences := c.eng.fences ++ [{ id := c.eng.nextId, scope := scope, accesses := c.relAccesses scope,
                                     cmds := c.eng.cmds.map (fun k => k.id), flag := flag }],
        nextId := c.eng.nextId + 1 } }))
/-- fenceRel by itself. -/
def execFenceRel (scope : Scope) (flag : Option FlagNo) (s : State) : Out := settle s (effFenceRel scope flag s)

/-- fence.sc (R117): both, with the next bundle held until every earlier access has performed. -/
def effFenceSc (scope : Scope) (flag : Option FlagNo) (s : State) :
    Eff := (s.closeAll .fence).drainAt .sc scope flag
/-- fenceSc by itself. -/
def execFenceSc (scope : Scope) (flag : Option FlagNo) (s : State) : Out := settle s (effFenceSc scope flag s)

/-! ### L2 maintenance (R118) -/

/-- l2wb (R118). -/
def effL2wb (a : XReg) (flag : Option FlagNo) (s : State) : Eff :=
  s.readDesc .l2 (s.x a) (fun s d => s.enter (.l2wb d) flag 0 false)
/-- l2wb by itself. -/
def execL2wb (a : XReg) (flag : Option FlagNo) (s : State) : Out := settle s (effL2wb a flag s)
/-- l2inv (R118). -/
def effL2inv (a : XReg) (flag : Option FlagNo) (s : State) : Eff :=
  s.readDesc .l2 (s.x a) (fun s d => s.enter (.l2inv d) flag 0 false)
/-- l2inv by itself. -/
def execL2inv (a : XReg) (flag : Option FlagNo) (s : State) : Out := settle s (effL2inv a flag s)
/-- l2pf (R118). -/
def effL2pf (a : XReg) (retained : Bool) (flag : Option FlagNo) (s : State) : Eff :=
  s.readDesc .l2 (s.x a) (fun s d => s.enter (.l2pf d retained) flag 0 false)
/-- l2pf by itself. -/
def execL2pf (a : XReg) (retained : Bool) (flag : Option FlagNo) (s : State) : Out := settle s (effL2pf a retained flag s)

/-! ### sxfr (R119, R120, R404, R405) -/

/-- Bytes that a walk of a byte-kind side carries: the payload of a class-0 slot holds 12,488 (R404). Between two formats the
bytes of the source count (DEDUCED, log entry 78). -/
def Desc.srcBytes (d : Desc) : Nat :=
  match d.src.fmt with
  | some f => f.bytesOf d.total
  | none => d.total

/-- The reservation of a slot for the issuing context. -/
def State.reserved (s : State) (slot : Nat) : Option Reservation :=
  s.fabric.reservations.find? (fun r => r.slot.sender == s.fabric.self && r.slot.ctx == s.ctxNo && r.slot.start == slot)

/-- The port of the slot into which a transfer goes: of the reservations of its context at that time one toward its receiver that no
transfer has taken, or else the first (R404). -/
def State.slotPort (s : State) (slot pkg : Nat) : Nat :=
  let rs := s.fabric.reservations.filter (fun r => r.slot.sender == s.fabric.self && r.slot.ctx == s.ctxNo && r.slot.start == slot)
  let toward := rs.filter (fun r => r.slot.receiver == pkg || (pkg == 0xFFFF && r.slot.receiver == s.fabric.self))
  let free := toward.filter (fun r => !s.fabric.transfers.any (fun t => t.ctx == s.ctxNo && t.start == slot && t.port == r.slot.port))
  (((free ++ toward ++ rs).head?).map (fun r => r.slot.port)).getD 0

/-- Admission of a new transfer (R119, R402). -/
def State.admits (s : State) (d : Desc) (slot : Nat) : Bool :=
  slot % 64 == 0 && decide (s.podTime.toNat < slot) && s.fabric.inStep && (s.reserved slot).isSome &&
    decide (d.srcBytes ≤ 12488)

/-- sxfr: the descriptor at step 10 (the causes of SUBOP's address DEDUCED, log entry 30), a recorded transfer (R120) or admission
at step 12. -/
def effSxfr (a b : XReg) (flag : Option FlagNo) (s : State) : Eff :=
  s.guarded (.sxfr a b flag) (s.readDesc .sxfr (s.x a) (fun s d =>
    if d.subop % 8 ≠ 0 then s.fault 10 Cause.alignment
    else if 2 ^ 22 ≤ d.subop then s.fault 10 Cause.address
    else if s.core.inSpill d.subop 8 then s.fault 10 Cause.protection
    else
      let slot := (s.x b).toNat
      let addr := (s.x a).toNat
      let e := s.core.eng
      match e.sxfrs.find? (fun r => r.again && r.slot == slot && r.addr == addr) with
      | some r =>
        match s.enter (.sxfr d slot addr) flag 0 false with
        | .ok s' =>
          .ok ((s'.modCore (fun c => { c with eng := { c.eng with
              sxfrs := c.eng.sxfrs.map (fun x => if x.transfer = r.transfer then { x with again := false } else x) } })).modFabric
            (fun f => { f with transfers := f.transfers.map (fun x =>
              if x.id = r.transfer ∧ x.core = s.cur then { x with cmd := e.nextId, status := d.subop } else x) }))
        | w => w
      | none =>
        if !s.admits d slot then s.fault 12 Cause.admission
        else
          match s.enter (.sxfr d slot addr) flag 0 false with
          | .ok s' =>
            .ok ((s'.modCore (fun c => { c with eng := { c.eng with
                sxfrs := c.eng.sxfrs ++ [{ slot := slot, addr := addr, transfer := s.fabric.nextTag, again := false }] } })).modFabric
              (fun f => { f with nextTag := f.nextTag + 1, transfers := f.transfers ++
                [{ id := f.nextTag, core := s.cur, cmd := e.nextId, ctx := s.ctxNo, desc := d, port := s.slotPort slot d.pkg, start := slot, status := d.subop, tries := 0,
                   delivered := false, done := false, word := 0 }] }))
          | w => w))
/-- sxfr by itself. -/
def execSxfr (a b : XReg) (flag : Option FlagNo) (s : State) : Out := settle s (effSxfr a b flag s)

end Sys2Proof.Machine
end

