-- ==== Sys2Proof/Machine/Engine.lean ====
section
/-! DEFINITION. The copy engine at work (spec/05 R95 to R118, R126; spec/13 R300 to R307): the order of commands, walks,
atomics, signals, completion and faults. Remote operations are in Machine/Remote.lean. -/

namespace Sys2Proof.Machine

/-! ### Order (R115, R117, R305, R307) -/

/-- The kinds of a command (R115). The index list that sgth reads from the own scratchpad as it enters does not make it of kind R, which
no rule settles (DESIGN CHOICE, log entry 120). -/
def CmdOp.kinds : CmdOp → KindMask
  | .scpy d | .sgth d _ => { r := d.src.kind == 0, w := d.dst.kind == 0, m := d.src.kind != 0 || d.dst.kind != 0 }
  | .sacc _ d => { r := d.src.kind == 0 || d.dst.kind == 0, w := d.dst.kind == 0, m := d.src.kind != 0 || d.dst.kind != 0 }
  | .satm _ b => { r := b.kind == 0, w := true, m := b.kind != 0 }
  | .ssig _ _ _ _ _ => { r := false, w := true, m := false }
  | .sxfr d _ _ => { r := d.src.kind == 0, w := true, m := true }
  | .l2wb _ | .l2inv _ | .l2pf _ _ => { r := false, w := false, m := true }
  | .sbar _ _ => { r := false, w := false, m := false }

/-- Two masks share a kind. -/
def maskMeets (a b : KindMask) : Bool := (a.r && b.r) || (a.w && b.w) || (a.m && b.m)

/-- A packet of the focused core that was sent again may still be in flight (R116, R307): 10 µs have not passed since
its last transmission. `before` bounds the commands looked at. -/
def State.retxWait (s : State) (before : Nat) : Bool :=
  s.fabric.out.any (fun p => p.core == s.cur && p.retx && decide (p.cmd < before) &&
    decide (s.podTime.toNat < p.lastTx + 10000))

/-- A command may not act yet: an earlier sbar holds its kinds, a fence before it is open, or, for a release, an earlier
access has not performed (R113, R115, R117, R307). -/
def State.cmdBlocked (s : State) (c : Cmd) : Bool :=
  let e := s.core.eng
  (e.cmds.takeWhile (fun o => o.id != c.id)).any (fun o => match o.op with
    | .sbar _ b => maskMeets b c.op.kinds
    | _ => false) ||
  c.after.any (fun i => e.fences.any (fun f => f.id == i) || e.cmds.any (fun o => o.id == i)) ||
  c.accs.any (fun i => s.core.remote.any (fun a => a.id == i && !a.performed)) ||
  (match c.op with
    | .ssig _ _ _ _ (some .pod) => s.retxWait c.id
    | _ => false)

/-- The condition of an sbar (R115): every earlier command of a kind in A has completed. -/
def State.sbarMet (s : State) (c : Cmd) (a : KindMask) : Bool :=
  !((s.core.eng.cmds.takeWhile (fun o => o.id != c.id)).any (fun o => maskMeets a o.op.kinds))

/-- The condition of a fence.rel (R117, R307). -/
def State.fenceMet (s : State) (f : Fence) : Bool :=
  f.accesses.all (fun i => !(s.core.remote.any (fun a => a.id == i && !a.performed))) &&
    f.cmds.all (fun i => !(s.core.eng.cmds.any (fun c => c.id == i))) &&
    !(f.scope == .pod && s.retxWait f.id)

/-- What a hold of sdrn, fence.acq or fence.sc waits for (R116, R117). sdrn waits for an open fence.rel too, which is a command
of the engine (R93, R94; DEDUCED, log entry 69); at core scope a remote store is performed when it issues (R299, R322). -/
def State.drainMet (s : State) (k : DrainKind) (sc : Scope) : Bool :=
  match k with
  | .sdrn => !(s.core.remote.any (fun a => a.store)) && s.core.eng.cmds.isEmpty && s.core.eng.fences.isEmpty &&
      !s.retxWait s.core.eng.nextId
  | .acq => !(s.core.remote.any (fun a => !a.store)) && !(s.core.mash.nodes.any TileNode.closingOpen)
  | .sc => !(s.core.remote.any (fun a => !a.performed && !(a.store && sc == .core))) && s.core.eng.cmds.isEmpty &&
      !(s.core.mash.nodes.any TileNode.closingOpen) && !(sc == .pod && s.retxWait s.core.eng.nextId)

/-! ### Commands in the list -/

/-- Put a command back. -/
def State.putCmd (s : State) (c : Cmd) : State :=
  s.modCore (fun k => { k with eng := { k.eng with cmds := k.eng.cmds.map (fun o => if o.id = c.id then c else o) } })

/-- A command leaves the engine. -/
def State.dropCmd (s : State) (id : Nat) : State :=
  s.modCore (fun k => { k with eng := { k.eng with cmds := k.eng.cmds.filter (fun o => o.id != id) } })

/-- The command of a number. -/
def Engine.cmd? (e : Engine) (id : Nat) : Option Cmd := e.cmds.find? (fun c => c.id == id)

/-- A command completes (R95): its flag is set, unless its segment was discarded (R99). -/
def State.finishCmd (s : State) (c : Cmd) : State :=
  let s := s.dropCmd c.id
  if c.discard then s else s.raiseFlag? c.flag c.committed

/-- The origin of a command's slot: its bundle and slot 6 (R104). -/
def Cmd.origin (c : Cmd) : Origin := { addr := c.addr, slot := 6, seg := c.seg }

/-- A late-class trap of the focused core waits for its boundary (R369). -/
def State.lateTrapOf (s : State) (c : Cmd) (cause : BitVec 6) (info : Word) : State :=
  s.modCore (fun k => { k with lateTraps := k.lateTraps ++
    [{ cause := cause, info := info, origin := some (originWord c.origin) }] })

/-! ### Units of memory (R102): an element, or a block of a block format -/

/-- Bits of a unit. -/
def unitBits (f : Fmt) : Nat := if f.isBlock then f.blockBytes * 8 else f.width

/-- The values of a unit's elements. -/
def unitNums (f : Fmt) (ftz : Bool) (raw : Nat) : List Num :=
  if f.isBlock then (List.range f.blockElems).map (fun k => let b := blockElem f raw k; decodeAux f ftz b.1 b.2)
  else [decodeAux f ftz raw 0]

/-- TRI2 elements of 0b10 whose values a conversion reads (R194; DEDUCED, log entry 71). -/
def badReads (sf df : Fmt) (raws : List Nat) : Nat := if sf = df then 0 else (raws.filter (fun r => badTri2 sf r)).length

/-- Lists of n. -/
def groups {α : Type} (n : Nat) (xs : List α) : List (List α) :=
  (List.range ((xs.length + n - 1) / max n 1)).map (fun k => (xs.drop (k * n)).take n)

/-- convert of R102 on whole units: equal formats keep their bits, as a write of the format leaves them (R195); else R206 to R210 under the descriptor's FLAGS. -/
def convUnits (sf df : Fmt) (rnd : Rnd) (sat ftz : Bool) (raws : List Nat) : List Nat :=
  if sf = df then raws.map (cleanBits df)
  else
    let vs := (raws.map (unitNums sf ftz)).flatten
    if df.isBlock then
      (groups df.blockElems vs).map (fun g => blockBits df
        ((encodeBlock df rnd sat ftz (g.map (fun v => (v, SrKey.none)))).map (fun b => { bits := b.1, aux := b.2, mark := none })))
    else vs.map (fun v => (encodeElem df rnd sat ftz sf.isInt SrKey.none v).bits)

/-- Elements of a step of a walk between two formats: a whole block of either. -/
def stepSize (sf df : Fmt) : Nat := max sf.blockElems df.blockElems

/-! ### Places (R102, R104, R105) -/

/-- The core of a scratchpad side. -/
def State.sideCore (s : State) (id : Nat) : Nat := if id % 64 = 63 then s.cur else id / 64 % 2 * 48 + id % 64

/-- A side lies in the own scratchpad. -/
def State.ownSide (s : State) (kind id : Nat) : Bool := kind == 0 && s.sideCore id == s.cur

/-- The format that the tensor of a context has in the own package's replica of its table (R82). -/
def State.tensorFmt (s : State) (tid : Nat) : Option Fmt :=
  ((s.ctx? s.ctxNo).bind (fun c => lookupNat tid c.tensors)).bind (fun e => (parseTensor e).map (fun t => t.fmt))

/-- The format of a side. -/
def State.sideFmt (s : State) (sd : Side) : Option Fmt :=
  match sd.fmt with
  | some f => some f
  | none => s.tensorFmt sd.id

/-- FAULT.INFO of a fault of a byte-kind side (R104): the SID or DID of a scratchpad, the slot for staging (R368). -/
def sideInfo (kind id : Nat) : Word := BitVec.ofNat 64 (if kind = 0 then id else 6)

/-- The place of an element of a tensor of a context, as the layout unit places it (R72, R75), with its tile. The format must
be the tensor's own (R101), and the element must begin a block where `whole` says so (DEDUCED, log entry 31). -/
def State.tensorPlace (s : State) (ctx tid : Nat) (e : Int) (f : Option Fmt) (whole write : Bool) : State × Got (ElemAt × Nat) :=
  let r := s.translate ctx tid (.elem e) write
  match r.2 with
  | .ok b ten tile =>
    if f.isSome && f != some ten.fmt then (r.1, .fault (.cause Cause.format (xlatInfo tid tile)))
    else if whole && e % ten.cols % ten.fmt.blockElems != 0 then (r.1, .fault (.cause Cause.address (xlatInfo tid tile)))
    else (r.1, .ok ({ bit := b, fmt := ten.fmt, scale := none, tile := some (ctx, tid, tile) }, tile))
  | .fault k tile => (r.1, .fault (.cause k (xlatInfo tid tile)))
  | .page tile => (r.1, .fault (.page tid tile))
  | .stage2 g tile => (r.1, .fault (.stage2 g tid tile write))
  | .moving _ => (r.1, .wait)

/-- The place of a byte-kind unit: bit address in the flat space, or its fault (R85, R104, R158). -/
def State.bytePlace (s : State) (kind id : Nat) (off : Int) (n : Nat) : Except EngFault Nat :=
  if kind = 0 then
    let c := s.sideCore id
    if off < 0 ∨ (2 ^ 22 : Nat) < off + n then .error (.cause Cause.address (sideInfo kind id))
    else if !s.ctxHasCore s.ctxNo c || (s.getCore c).inSpill off.toNat n then
      .error (.cause Cause.protection (sideInfo kind id))
    else .ok (spadBase c + off.toNat)
  else
    match s.rangeCause (.staging id 0) off n with
    | some k => .error (.cause k (sideInfo kind id))
    | none => .ok (stagingBase id + off.toNat)

/-- The unit at term n of a side (R102). -/
def State.unitPlace (s : State) (sd : Side) (n : Int) (f : Fmt) (write : Bool) : State × Got (ElemAt × Nat) :=
  if byteKind sd.kind then
    let bit : Int := if f.isBlock then ((sd.base : Int) + n / f.blockElems * f.blockBytes) * 8
      else (sd.base : Int) * 8 + n * f.width
    match s.bytePlace sd.kind sd.id (bit / 8) (((bit % 8).toNat + (unitBits f) + 7) / 8) with
    | .ok a => (s, .ok ({ bit := a * 8 + (bit % 8).toNat, fmt := f, scale := none, tile := none }, 0))
    | .error e => (s, .fault e)
  else s.tensorPlace s.ctxNo sd.id ((sd.base : Int) + n) sd.fmt true write

/-- The bytes of a unit: first byte and length. -/
def unitRange (e : ElemAt) : Nat × Nat := (e.bit / 8, (e.bit % 8 + unitBits e.fmt + 7) / 8)

/-- The raw bits of a unit with the mark of what it was read from (R68). -/
def State.readUnit (s : State) (e : ElemAt) (bits : Nat) (f : Fetch) : State × Nat × Option Bool :=
  let a := e.bit / 8
  let n := (e.bit % 8 + bits + 7) / 8
  let q := s.needSectors [] a n f
  (q.1, (ofLe (sectorBytes q.2 a n) >>> (e.bit % 8)) % 2 ^ bits, sectorMark q.2 a n)

/-- A block that an agent of the focused core's die has written whole is clean in the replica of its die too (R68, R86). -/
def State.cleanReplica (s : State) (blk : Nat) : State :=
  s.modL2 (fun l => { l with lines := l.lines.map (fun o =>
    if o.copy.isSome ∧ o.line = blk / 2 ∧ o.slice = sliceOn s.core.die (blk / 2) then
      { o with bad := o.bad &&& ~~~(BitVec.ofNat 2 (2 ^ (blk % 2))) }
    else o) })

/-- Bits written clean so far in blocks that bear a mark, and the marks that fall because a block is now whole (R68). -/
def State.cleanUp (s : State) (clean : List Nat) (bit n : Nat) (mark : Bool) : State × List Nat :=
  let blks := (blocksOf (bit / 8) ((bit % 8 + n + 7) / 8)).filter (fun b => (lookupNat b s.marks).isSome)
  if blks.isEmpty then (s, clean)
  else if mark then (s, clean.filter (fun x => !blks.contains (x / 512)))
  else
    let clean := (clean ++ (List.range n).map (fun i => bit + i)).dedup
    let full := blks.filter (fun b => decide ((clean.filter (fun x => x / 512 == b)).length = 512))
    (full.foldl (fun s b => (s.setMark b none).cleanReplica b) s, clean.filter (fun x => !full.contains (x / 512)))

/-- The gated stores that came before a command. -/
def Cmd.earlier (c : Cmd) (e : GateEntry) : Bool := decide (e.cmd ≤ c.id)

/-- A command writes the raw bits of a unit at one instant, as an agent of the focused core's die. -/
def State.writeUnit (s : State) (c : Cmd) (f : Fetch) (bit bits v : Nat) (mark : Bool) : State × List Nat :=
  let w : BitWrite := { bit := bit, width := bits, v := v, mark := mark, fetch := f }
  ((writeSectors [w]).foldl (fun s key => s.writeSector [w] c.earlier key) s).cleanUp c.clean bit bits mark

/-- What stands at a destination that is read and written as one step: memory itself, neither the store gate nor a replica, so that
no write of another agent comes between (R107, R139, R300). -/
def State.readDest (s : State) (e : ElemAt) (bits : Nat) (alloc : Bool) : State × Nat × Option Bool :=
  s.readUnit e bits { e.fetch alloc false with gated := false, home := true }

/-- The own-scratchpad lanes of an access of a command. -/
def State.ownLanes (s : State) (a n : Nat) : List (Nat × Nat) := if inSpad s.cur a then [(a, n)] else []

/-- A command reads own bytes that a pending store node will write: it waits (R179). -/
def State.readWaits (s : State) (a n : Nat) : Bool := !(s.storesMet (s.ownLanes a n)).isEmpty

/-- Before a command writes own bytes: pending loads of them are forced, in the segment that now runs (R184), a pending store node is
waited for (R179). -/
def State.forceFor (s : State) (o : Origin) (a n : Nat) : State × Bool :=
  let ls := s.ownLanes a n
  if !(s.storesMet ls).isEmpty then (s, false)
  else
    match s.loadsMet ls with
    | [] => (s, true)
    | ids =>
      let t := s.closeNodes ids { o with seg := s.core.seg } .overlap
      (t, !t.core.mash.stillPending ids)

/-! ### Walks (R102, R106, R107) -/

/-- The loop indices of a walk position, dimension 0 first. -/
def walkIdx : List Dim → Nat → List Nat
  | [], _ => []
  | d :: ds, n => (if d.count = 0 then 0 else n % d.count) :: walkIdx ds (if d.count = 0 then 0 else n / d.count)

/-- Source and destination terms of a position; sgth puts an index in place of the outermost one (R106). -/
def walkTerms (d : Desc) (idx : Option (List Int)) (n : Nat) : Int × Int :=
  let is := walkIdx d.dims n
  let last := d.dims.length - 1
  (d.dims.zip is).zipIdx.foldl (fun (acc : Int × Int) p =>
    let i : Int := match idx with
      | some l => if p.2 = last then (l[p.1.2]?).getD 0 else p.1.2
      | none => p.1.2
    (acc.1 + i * p.1.1.sstr, acc.2 + (p.1.2 : Int) * p.1.1.dstr)) (0, 0)

/-- How a piece of a walk ends. -/
inductive WalkEnd where
  | more
  | wait
  | fault (f : EngFault)
  deriving DecidableEq, Repr

/-- The formats of a walk and the size of its step, or the fault of a side without a format, of a scaled format (R201), or
of a walk that does not go by whole bytes and blocks (R101, DEDUCED, log entry 32). -/
def State.walkFmts (s : State) (d : Desc) : Except EngFault (Fmt × Fmt × Nat) :=
  match s.sideFmt d.src, s.sideFmt d.dst with
  | none, _ => .error (.cause Cause.translation (xlatInfo d.src.id 0))
  | _, none => .error (.cause Cause.translation (xlatInfo d.dst.id 0))
  | some sf, some df =>
    let d0 := d.dims.headD ⟨0, 1, 1⟩
    let ok (f : Fmt) : Bool := if f.isBlock then d0.count % f.blockElems == 0 && d0.sstr == 1 && d0.dstr == 1
      else if f.width < 8 then d0.count * f.width % 8 == 0 && d0.sstr == 1 && d0.dstr == 1 else true
    if !ok sf then .error (.cause Cause.format (xlatInfo d.src.id 0))
    else if !ok df then .error (.cause Cause.format (xlatInfo d.dst.id 0))
    else .ok (sf, df, stepSize sf df)

/-- Read the units of a step from a local source: raw bits and the joined mark. -/
def State.readStep (s : State) (d : Desc) (idx : Option (List Int)) (sf : Fmt) (pos g : Nat) :
    State × Except WalkEnd (List Nat × Option Bool) :=
  ((List.range (g / sf.blockElems)).map (fun k => pos + k * sf.blockElems)).foldl
    (fun (acc : State × Except WalkEnd (List Nat × Option Bool)) p =>
      match acc.2 with
      | .error _ => acc
      | .ok (raws, mark) =>
        let r := acc.1.unitPlace d.src (walkTerms d idx p).1 sf false
        match r.2 with
        | .fault f => (r.1, .error (.fault f))
        | .wait => (r.1, .error .wait)
        | .ok (e, _) =>
          -- a tile still under other tensor fields waits (R79, log entry 13)
          let rg := unitRange e
          if e.fmt != sf || r.1.readWaits rg.1 rg.2 then (r.1, .error .wait)
          else
            let q := r.1.readUnit e (unitBits sf) (e.fetch (!d.noAlloc) false)
            (q.1, .ok (raws ++ [q.2.1], mark.or q.2.2))) (s, .ok ([], none))

/-- Write the units of a step to a local destination. -/
def State.writeStep (s : State) (c : Cmd) (d : Desc) (df : Fmt) (pos : Nat) (raws : List Nat) (mark : Bool) :
    State × Cmd × WalkEnd :=
  raws.zipIdx.foldl (fun (acc : State × Cmd × WalkEnd) p =>
    match acc.2.2 with
    | .more =>
      let r := acc.1.unitPlace d.dst (walkTerms d none (pos + p.2 * df.blockElems)).2 df true
      match r.2 with
      | .fault f => (r.1, acc.2.1, .fault f)
      | .wait => (r.1, acc.2.1, .wait)
      | .ok (e, _) =>
        let rg := unitRange e
        let q := r.1.forceFor c.origin rg.1 rg.2
        if q.2 && e.fmt == df then
          let w := q.1.writeUnit acc.2.1 (e.fetch (!d.noAlloc) false) e.bit (unitBits df) p.1 mark
          (w.1, { acc.2.1 with clean := w.2 }, .more)
        else (q.1, acc.2.1, .wait)
    | _ => acc) (s, c, .more)

/-- One step of a copy whose sides both lie on the own package (R102). -/
def State.copyStep (s : State) (c : Cmd) (d : Desc) (idx : Option (List Int)) : State × Cmd × WalkEnd :=
  match s.walkFmts d with
  | .error f => (s, c, .fault f)
  | .ok (sf, df, g) =>
    let r := s.readStep d idx sf c.pos g
    match r.2 with
    | .error e => (r.1, c, e)
    | .ok (raws, mark) =>
      let w := r.1.writeStep c d df c.pos (convUnits sf df d.rnd d.sat d.ftz raws) mark.isSome
      match w.2.2 with
      | .more => (w.1.countTri2 (badReads sf df raws), { w.2.1 with pos := c.pos + g }, .more)
      | _ => w

/-- The element that sacc leaves (R108). A sum of TRI2 elements outside the format is a free value of the format where it is not
saturated (DESIGN CHOICE, log entry 81). -/
def saccOf (op : SaccOp) (sf df : Fmt) (rnd : Rnd) (sat ftz : Bool) (old inc : Nat) : Nat :=
  let a := decodeElem df ftz old
  let b := decodeElem sf ftz inc
  let enc (v : Num) : Nat := (encodeElem df rnd sat ftz df.isInt SrKey.none v).bits
  match op with
  | .add =>
    if df.isInt && !sat then
      if df = .tri2 && decide (1 < (a.toInt + b.toInt).natAbs) then #[0, 1, 3].getD (Config.triSum (old * 4 + inc)).val 0
      else intBits df.width (a.toInt + b.toInt)
    else enc (a.add b (rnd == .rdn))
  | .max => enc (a.maxRule b)
  | .min => enc (a.minRule b)
  | .and => old &&& inc
  | .or => old ||| inc
  | .xor => old ^^^ inc
  | .wadd => enc (rneNum ftz (a.add b false))

/-- An operation that takes the values of its elements, not their bits. -/
def saccReads : SaccOp → Bool
  | .and | .or | .xor => false
  | _ => true

/-- TRI2 elements of 0b10 whose values a sacc reads (R194). -/
def saccBad (op : SaccOp) (xs : List (Fmt × Nat)) : Nat := (xs.filter (fun x => saccReads op && badTri2 x.1 x.2)).length

/-- One element of a sacc whose destination lies on the own package (R107): read, combined and written as one step. -/
def State.saccStep (s : State) (c : Cmd) (op : SaccOp) (d : Desc) : State × Cmd × WalkEnd :=
  match s.walkFmts d with
  | .error f => (s, c, .fault f)
  | .ok (sf, df, _) =>
    let t := walkTerms d none c.pos
    let r := s.unitPlace d.src t.1 sf false
    match r.2 with
    | .fault f => (r.1, c, .fault f)
    | .wait => (r.1, c, .wait)
    | .ok (es, ts) =>
      let w := r.1.unitPlace d.dst t.2 df true
      match w.2 with
      | .fault f => (w.1, c, .fault f)
      | .wait => (w.1, c, .wait)
      | .ok (ed, td) =>
        if !(saccPair d.subop sf df && !sf.isBlock && !df.isBlock) then
          (w.1, c, .fault (.cause Cause.format
            (if d.dst.fmt.isNone then xlatInfo d.dst.id td else xlatInfo d.src.id ts)))
        else
          let rs := unitRange es
          let rd := unitRange ed
          if w.1.readWaits rs.1 rs.2 then (w.1, c, .wait)
          else
            let q := w.1.forceFor c.origin rd.1 rd.2
            if !q.2 then (q.1, c, .wait)
            else
              let a := q.1.readUnit es sf.width (es.fetch (!d.noAlloc) false)
              let b := a.1.readDest ed df.width (!d.noAlloc)
              let v := saccOf op sf df d.rnd d.sat d.ftz b.2.1 a.2.1
              let z := b.1.writeUnit c (ed.fetch (!d.noAlloc) false) ed.bit df.width v (a.2.2.or b.2.2).isSome
              (z.1.countTri2 (saccBad op [(sf, a.2.1), (df, b.2.1)]), { c with pos := c.pos + 1, clean := z.2 }, .more)

/-! ### L2 maintenance (R118, R89) -/

/-- The effect of l2wb, l2inv or l2pf on a line. A prefetch is never dropped but by a fault (DESIGN CHOICE, log entry 80);
without .ret it asks for no retained class. -/
def State.l2Line (s : State) (op : CmdOp) (tid tile line : Nat) : State :=
  match op with
  | .l2wb _ => s.modL2 (fun l => { l with lines := l.lines.map (fun o => if o.line = line then { o with dirty := false } else o) })
  | .l2inv _ => (s.l2.lines.filter (fun o => o.line == line)).foldl State.evict s
  | .l2pf _ ret =>
    let f : Fetch := { Fetch.plain with tile := if ret then some (s.ctxNo, tid, tile) else none }
    let far := homeDie (line * 128) != s.core.die && (s.replica? s.core.die line).isNone
    let t := (s.drawLine s.ctxNo line f far []).1.cacheHome line f false
    if far then t.putReplica s.core.die line f else t
  | _ => s

/-- One element of an L2 maintenance walk, with every line that it touches. l2pf drops what faults. -/
def State.l2Step (s : State) (c : Cmd) (d : Desc) : State × Cmd × WalkEnd :=
  let hint := match c.op with
    | .l2pf _ _ => true
    | _ => false
  let next := { c with pos := c.pos + 1 }
  let r := s.tensorPlace s.ctxNo d.src.id ((d.src.base : Int) + (walkTerms d none c.pos).1) d.src.fmt false false
  match r.2 with
  | .fault f => if hint then (r.1, next, .more) else (r.1, c, .fault f)
  | .wait => (r.1, c, .wait)
  | .ok (e, tile) =>
    let rg := unitRange e
    let lines := (List.range ((rg.1 % 128 + rg.2 + 127) / 128)).map (fun k => rg.1 / 128 + k)
    (lines.foldl (fun s line => s.l2Line c.op d.src.id tile line) r.1, next, .more)

/-! ### satm (R109 to R112) -/

/-- The new value of a satm target (R110). -/
def atomOf (op : SatmOp) (f : Fmt) (bits t : Nat) (op1 op2 : Word) : Nat :=
  let a := op1.toNat % 2 ^ bits
  let num (r : Num) : Nat := (encodeElem f .rne false false false SrKey.none r).bits
  let x := decodeElem f false t
  let y := decodeElem f false a
  match op with
  | .fadd => num (x.add y false)
  | .fmin => num (x.minRule y)
  | .fmax => num (x.maxRule y)
  | .swap => cleanBits f a
  | .cas => if t = a then cleanBits f (op2.toNat % 2 ^ bits) else t
  | .iadd => (t + a) % 2 ^ bits
  | .and => t &&& a
  | .or => t ||| a
  | .xor => t ^^^ a

/-- Bits of a satm element. -/
def AtomBlock.bits (b : AtomBlock) : Nat := if b.w64 then 64 else b.fmt.width

/-- The place of a satm target on the own package; W64 names no tensor's own format (DEDUCED, log entry 33); a scaled format, which no tensor has, stands for it. -/
def State.atomPlace (s : State) (b : AtomBlock) : State × Got ElemAt :=
  if byteKind b.kind then
    match s.bytePlace b.kind b.id b.off (b.bits / 8) with
    | .ok a => (s, .ok { bit := a * 8, fmt := b.fmt, scale := none, tile := none })
    | .error e => (s, .fault e)
  else
    let r := s.tensorPlace s.ctxNo b.id b.off (if b.w64 then some .fp8bt else some b.fmt) true true
    match r.2 with
    | .ok (e, _) => (r.1, .ok e)
    | .fault f => (r.1, .fault f)
    | .wait => (r.1, .wait)

/-- A result record: OLD, STATUS, SERIAL (R112). -/
def recordBits (old : Word) (status serial : Nat) : Nat :=
  old.toNat + status % 2 ^ 32 * 2 ^ 64 + serial % 2 ^ 24 * 2 ^ 96

/-- Write the record of a satm and complete it, when its place in the own scratchpad is free (R112, R179); until then its answer is kept,
with the cause code that stands for OLD under status 4. -/
def State.recordAtom (s : State) (c : Cmd) (b : AtomBlock) (old : Word) (status serial : Nat) : State :=
  let a := spadBase s.cur + b.result
  let q := s.forceFor c.origin a 16
  if q.2 then ((q.1.writeUnit { c with clean := [] } Fetch.plain (a * 8) 128 (recordBits old status serial) false).1).finishCmd c
  else q.1.putCmd { c with wait := .answered status old serial (old.setWidth 6) }

/-- A satm on the own package (R109 to R112). A fault goes into its record, but a missing page is waited for (R104). -/
def State.atomStep (s : State) (c : Cmd) (op : SatmOp) (b : AtomBlock) : State :=
  if s.readWaits (spadBase s.cur + b.result) 16 then s
  else
    let r := s.atomPlace b
    match r.2 with
    | .wait => r.1
    | .fault (.cause k _) => r.1.recordAtom c b (k.setWidth 64) 4 0
    | .fault f => r.1.putCmd { c with fault := some f }
    | .ok e =>
      if r.1.readWaits (e.bit / 8) (b.bits / 8) then r.1
      else
        let q := r.1.forceFor c.origin (e.bit / 8) (b.bits / 8)
        if !q.2 then q.1
        else
          let t := q.1.readDest e b.bits true
          let w := t.1.writeUnit { c with clean := [] } (e.fetch true false) e.bit b.bits (atomOf op b.fmt b.bits t.2.1 b.op1 b.op2)
            t.2.2.isSome
          w.1.recordAtom c b (BitVec.ofNat 64 t.2.1) 0 0

/-! ### ssig on the own package (R113, R114) -/

/-- The increment of a signal reaches a context's state on a core of this package (R114): live, in the save area, or
discarded, which false tells: at a core of another context, or one out of service. A core of the context that is idle with nothing
saved takes it in its live counter, which no rule settles (DESIGN CHOICE, log entry 118). `old` says that a rollback applies it
again (R363). -/
def State.takeSignal (s : State) (ctx core : Nat) (k : CtrNo) (n : Word32) (old : Bool) : State × Bool :=
  match s.ctx? ctx with
  | none => (s, false)
  | some c =>
    let live := s.getCore core
    if !c.cores.contains core || live.run == .outOfService then (s, false)
    else
      match c.saved.find? (fun e => e.1 % 128 == core) with
      | some (key, _) =>
        if live.task.isSome && live.run != .switchedOut && live.sys.ctxId.toNat == ctx then (s.increment core k n old, true)
        else (s.modCtx ctx (fun c => { c with savedIncs := c.savedIncs ++ [(key, k, n)] }), true)
      | none =>
        if live.task.isSome && live.sys.ctxId.toNat != ctx then (s, false) else (s.increment core k n old, true)

/-- An ssig toward the own package performs: its release first, then the increment (R113, R305); a discarded increment is
a late PROTECTION of the issuing core (R114), and then the flag of the ssig stays as it is (DEDUCED, log entry 68). A core's
own signal is applied again by a rollback when it entered the engine before the checkpoint, one of another core always
(R363). -/
def State.signalStep (s : State) (c : Cmd) (core : Nat) (k : CtrNo) (n : Word32) (rel : Option Scope) : State :=
  let s := match rel with
    | some sc => s.release sc
    | none => s
  let r := s.takeSignal s.ctxNo core k n (c.committed || core != s.cur)
  if r.2 ∨ c.discard then r.1.finishCmd c
  else (r.1.lateTrapOf c Cause.protection (BitVec.ofNat 64 core)).dropCmd c.id

/-! ### Faults (R104, R126) -/

/-- Put a context's side toward an owner back. -/
def State.putSide (s : State) (ctx : Nat) (w : OwnerSt) : State :=
  s.modCtx ctx (fun c =>
    { c with owners := if (c.owner? w.owner).isSome then c.owners.map (fun x => if x.owner = w.owner then w else x)
                       else c.owners ++ [w] })

/-- A command leaves the engine unperformed: the serial of an operation that was never sent no longer holds others back. -/
def State.abandonCmd (s : State) (c : Cmd) : State :=
  match c.wait with
  | .op o n =>
    match (s.ctx? s.ctxNo).bind (fun x => x.owner? o) with
    | some w =>
      let ops := w.ops.map (fun x => if x.serial = n ∧ x.tries = 0 then { x with completed := true } else x)
      (s.putSide s.ctxNo { w with ops := ops }).dropCmd c.id
    | none => s.dropCmd c.id
  | _ => s.dropCmd c.id

/-- A command meets a fault: discarded commands and hints run out without one (R99, R118); a missing page is reported. -/
def State.cmdFault (s : State) (c : Cmd) (f : EngFault) : State :=
  if c.discard then s.abandonCmd c
  else
    let s := s.putCmd { c with fault := some f }
    match f with
    | .page tid tile => s.report (.pageFault s.ctxNo tid tile)
    | .stage2 g _ _ _ => s.report (.stage2Fault s.ctxNo g)
    | .cause _ _ => s

/-- The core takes the consequence of a command's fault at a bundle boundary (R104): an uncommitted command rolls the
core back, a committed one traps late or waits for the kernel. In handler mode a fault of the handler's own command, or of
an uncommitted one of the program, stops the core, and one of a committed command waits for rte (R372). -/
def State.takeCmdFault (s : State) (c : Cmd) : State :=
  match c.fault with
  | none => s
  | some f =>
    if s.core.sys.hnd then
      if c.handler || !c.committed then
        match f with
        | .cause k _ => (s.abandonCmd c).stopCore k
        | _ => s
      else s
    else
      match f with
      | .page tid tile =>
        if c.committed then s
        else (s.abandonCmd c).pageRollback (.page tid tile { info := xlatInfo tid tile, origin := some (originWord c.origin), eval := none })
      | .stage2 g tid tile w =>
        if c.committed then s
        else (s.abandonCmd c).pageRollback (.stage2 g tid tile w { info := xlatInfo tid tile, origin := some (originWord c.origin), eval := none })
      | .cause k info =>
        if c.committed then (s.lateTrapOf c k info).abandonCmd c
        else
          let s := (s.abandonCmd c).modCore (fun h => { h with sys := { h.sys with fOrigin := originWord c.origin } })
          s.rollbackTrap k info

/-- FAULT.INFO of a remote operation whose owner answers FAULT (R104, R126): the tensor and the tile of a sacc, which the answer brings
in place of OLD, else the slot. -/
def CmdOp.answerInfo (op : CmdOp) (old : Word) : Word :=
  match op with
  | .sacc _ d => xlatInfo d.dst.id old.toNat
  | _ => BitVec.ofNat 64 6

/-- Completion of an answered remote operation, or of a satm that was never sent (R112, R126). -/
def State.finishAnswer (s : State) (c : Cmd) (status : Nat) (old : Word) (serial : Nat) (cause : BitVec 6) : State :=
  match c.op with
  | .satm _ b =>
    s.recordAtom c b (if status = 4 then cause.setWidth 64 else old) status serial
  | _ =>
    let s := s.finishCmd c
    if c.discard ∨ status ≤ 1 then s
    else if status = 4 then s.lateTrapOf c cause (c.op.answerInfo old)
    else s.lateTrapOf c Cause.remoteIndeterminate (BitVec.ofNat 64 status)

end Sys2Proof.Machine
end

