-- ==== Sys2Proof/Machine/Remote.lean ====
section
/-! DEFINITION. Remote operations (spec/05 R121 to R129, spec/15 R324 to R326): serials, the retransmission engine, packets of
plain copies toward other packages, the owner ports; and the step of a command, local or remote. -/

namespace Sys2Proof.Machine

/-! ### Serials and acknowledgements (R122, R123, R128) -/

/-- The step of a serial on the circle of 24 bits. -/
def serialStep (a b : Nat) : Nat := (2 ^ 24 + a - b % 2 ^ 24) % 2 ^ 24

/-- Serial a is newer than serial b (R122). -/
def newer (a b : Nat) : Bool := decide (1 ≤ serialStep a b) && decide (serialStep a b < 2 ^ 23)

/-- A context's side toward an owner to which it has sent nothing (R122). -/
def OwnerSt.fresh (o : Nat) : OwnerSt :=
  { owner := o, next := 1, acked := 0, ackSent := 0, ackAt := 0, inc := none, query := none, ops := [], queue := [] }

/-- A context's side toward an owner. -/
def Ctx.side (c : Ctx) (o : Nat) : OwnerSt := (c.owner? o).getD (OwnerSt.fresh o)

/-- The side of a context toward an owner. -/
def State.side (s : State) (ctx o : Nat) : OwnerSt :=
  match s.ctx? ctx with
  | some c => c.side o
  | none => OwnerSt.fresh o

/-- A task is replay-safe (R331). -/
def Task.replaySafe (t : Task) : Bool := t.lb.flags % 2 == 1

/-- The task of a step, resident or pre-empted. -/
def State.taskOf (s : State) (t : StepRec) : Option Task :=
  (s.launch.resident ++ s.launch.queue).find? (fun x => x.id == t.task)

/-- The replay record of a step: the generations of its sstep completions and its serial blocks by owner (R351, R128). -/
def Task.replayRec (t : Task) (step : Nat) : List Word32 × List (Nat × List Nat) :=
  ((t.replays.find? (fun r => r.1 == step)).map (fun r => r.2)).getD ([], [])

/-- Put a replay record. -/
def Task.putReplay (t : Task) (step : Nat) (r : List Word32 × List (Nat × List Nat)) : Task :=
  { t with replays := insertNat step r t.replays }

/-- Apply f to a task. -/
def State.modTask (s : State) (id : Nat) (f : Task → Task) : State :=
  s.modLaunch (fun l => { l with resident := l.resident.map (fun t => if t.id = id then f t else t),
                                 queue := l.queue.map (fun t => if t.id = id then f t else t) })

/-- Every core of the package that a step runs on or that is saved with one, with its context. -/
def State.stepCores (s : State) : List Core :=
  s.core :: s.others.map (fun o => o.2) ++ (s.ctxs.map (fun c => c.saved.map (fun o => o.2))).flatten

/-- The oldest serials toward an owner that running replay-safe steps of a context have issued, a replayed step's in its
first run (R123, R128). -/
def State.floors (s : State) (ctx owner : Nat) : List Nat :=
  s.stepCores.filterMap (fun k =>
    match k.task with
    | none => none
    | some st =>
      if k.sys.ctxId.toNat ≠ ctx ∨ k.run = .switchedOut then none
      else
        match s.taskOf st with
        | none => none
        | some t => if t.replaySafe then ((lookupNat owner (t.replayRec st.number).2).getD []).head? else none)

/-- The cumulative acknowledgement advances as far as R123 lets it, and acknowledged operations are freed (R125). -/
def State.advanceAck (s : State) (ctx owner : Nat) : State :=
  let w := s.side ctx owner
  let stops := (w.ops.filter (fun o => !o.completed)).map (fun o => o.serial) ++ s.floors ctx owner ++ [w.next]
  let first := stops.foldl (fun a b => if serialStep b w.acked < serialStep a w.acked then b else a) w.next
  let ack := (2 ^ 24 - 1 + first) % 2 ^ 24
  if newer ack w.acked then
    s.putSide ctx { w with acked := ack, ops := w.ops.filter (fun o => !(o.completed && !newer o.serial ack)) }
  else s

/-- The acknowledgements of a context advance when a step of it has ended (R123). -/
def State.advanceAcks (s : State) (ctx : Nat) : State :=
  match s.ctx? ctx with
  | some c => c.owners.foldl (fun s w => s.advanceAck ctx w.owner) s
  | none => s

/-- The next serial toward an owner for an operation of the focused core's step, or none while 2^23 are unacknowledged. In
a replay-safe step serials come from the step's blocks of 256 (R128). -/
def State.takeSerial (s : State) (owner : Nat) : State × Option Nat :=
  let ctx := s.ctxNo
  let w := s.side ctx owner
  match s.core.task.bind (fun st => (s.taskOf st).map (fun t => (st, t))) with
  | some (st, t) =>
    if t.replaySafe then
      let n := (lookupNat owner st.serialCount).getD 0
      let r := t.replayRec st.number
      let blocks := (lookupNat owner r.2).getD []
      let counted (s : State) : State := s.modCore (fun k =>
        { k with task := some { st with serialCount := insertNat owner (n + 1) st.serialCount } })
      match blocks[n / 256]? with
      | some b => (counted s, some ((b + n % 256) % 2 ^ 24))
      | none =>
        if 2 ^ 23 < serialStep (w.next + 256) (w.acked + 1) then (s, none)
        else
          let s := s.putSide ctx { w with next := (w.next + 256) % 2 ^ 24 }
          let s := s.modTask st.task (fun t => t.putReplay st.number (r.1, insertNat owner (blocks ++ [w.next]) r.2))
          (counted s, some w.next)
    else
      if 2 ^ 23 < serialStep (w.next + 1) (w.acked + 1) then (s, none)
      else (s.putSide ctx { w with next := (w.next + 1) % 2 ^ 24 }, some w.next)
  | none =>
    if 2 ^ 23 < serialStep (w.next + 1) (w.acked + 1) then (s, none)
    else (s.putSide ctx { w with next := (w.next + 1) % 2 ^ 24 }, some w.next)

/-- A command that moves nothing (R102). -/
def CmdOp.empty : CmdOp → Bool
  | .scpy d | .sgth d _ | .sacc _ d | .l2wb d | .l2inv d | .l2pf d _ | .sxfr d _ _ => d.total == 0
  | _ => false

/-- A command of the focused core takes its serial where there is room; the answer tells. -/
def State.giveSerial (s : State) (c : Cmd) (o : Nat) : State × Bool :=
  let r := s.takeSerial o
  match r.2 with
  | none => (r.1, false)
  | some n =>
    let w := r.1.side s.ctxNo o
    let ops := w.ops.filter (fun x => x.serial != n) ++
      [{ serial := n, req := none, core := s.cur, cmd := c.id, busy := 0, tries := 0, sentAt := 0, busyAt := none,
         completed := false }]
    ((r.1.putSide s.ctxNo { w with ops := ops }).putCmd { c with wait := .op o n }, true)

/-- Act on another core and come back. -/
def State.onCore (s : State) (n : Nat) (f : State → State) : State := (f (s.focus n)).focus s.cur

/-- Act on a saved core of a context as if it were on its logical core (R127), and save it again. -/
def State.asSaved (s : State) (ctx key : Nat) (f : State → State) : State :=
  match (s.ctx? ctx).bind (fun c => lookupNat key c.saved) with
  | none => s
  | some k =>
    s.onCore (key % 128) (fun u =>
      let t := f { u with core := k }
      { t.modCtx ctx (fun c => { c with saved := insertNat key t.core c.saved }) with core := u.core })

/-- The save area of a context in which a core's command stands. -/
def State.savedWith (s : State) (ctx core cmd : Nat) : Option Nat :=
  ((s.ctx? ctx).bind (fun c => c.saved.find? (fun e => e.1 % 128 == core && (e.2.eng.cmd? cmd).isSome))).map (fun e => e.1)

/-- Act on the core that a command stands on, live or saved. -/
def State.onHolder (s : State) (ctx core cmd : Nat) (f : State → State) : State :=
  match s.savedWith ctx core cmd with
  | some key => s.asSaved ctx key f
  | none => s.onCore core f

/-- A command of a core, live or saved. -/
def State.cmdOf (s : State) (ctx core cmd : Nat) : Option Cmd :=
  match (s.savedWith ctx core cmd).bind (fun key => (s.ctx? ctx).bind (fun c => lookupNat key c.saved)) with
  | some k => k.eng.cmd? cmd
  | none => (s.getCore core).eng.cmd? cmd

/-- A command waits for its serial. -/
def Cmd.unserialised (c : Cmd) : Bool :=
  match c.wait with
  | .held _ => true
  | _ => false

/-- The operations that wait for room toward an owner take their serials in the order of their commits (R122, R324). -/
def State.settleQueue (s : State) (ctx o : Nat) : List (Nat × Nat) → State
  | [] => s
  | q :: rest =>
    let t := s.onHolder ctx q.1 q.2 (fun u =>
      match u.core.eng.cmd? q.2 with
      | some c => (u.giveSerial c o).1
      | none => u)
    if ((t.cmdOf ctx q.1 q.2).map Cmd.unserialised).getD false then t
    else (t.putSide ctx { t.side ctx o with queue := rest }).settleQueue ctx o rest

/-- Serials for the gated operations that have entered, in their order (R324): without room they queue. An operation toward
no package of the pod takes none (R122). -/
def State.assignSerials (s : State) : State :=
  s.core.eng.cmds.foldl (fun s c =>
    match s.remoteOwner c.op, c.wait with
    | some o, .no =>
      if !(s.fabric.pods.contains o) || c.op.empty then s
      else
        let t := s.settleQueue s.ctxNo o (s.side s.ctxNo o).queue
        let r := if (t.side s.ctxNo o).queue.isEmpty then t.giveSerial c o else (t, false)
        if r.2 then r.1
        else
          let w := r.1.side s.ctxNo o
          (r.1.putSide s.ctxNo { w with queue := w.queue ++ [(s.cur, c.id)] }).putCmd { c with wait := .held o }
    | _, _ => s) s

/-! ### Sending (R122, R125) -/

/-- A packet goes out on the fabric. -/
def State.send (s : State) (p : Packet) : State := s.modFabric (fun f => { f with sent := f.sent ++ [p] })

/-- Apply f to a side. -/
def State.modSide (s : State) (ctx o : Nat) (f : OwnerSt → OwnerSt) : State := s.putSide ctx (f (s.side ctx o))

/-- Put an operation of a side. -/
def OwnerSt.putOp (w : OwnerSt) (o : RemOp) : OwnerSt :=
  { w with ops := w.ops.map (fun x => if x.serial = o.serial then o else x) }

/-- The target of an operation: its tensor and the request's body but for a sacc, whose values are read at its sending. -/
def plainBody : CmdOp → Option ReqBody
  | .satm op b => some (.satm op b.fmt b.w64 b.id b.off b.op1 b.op2)
  | .ssig core k _ n _ => some (.ssig core k n)
  | _ => none

/-- The values of a whole walk read from its local source, in walk order, each with the destination index it goes to. -/
def State.gather (s : State) (d : Desc) (sf : Fmt) : Nat → State × List PktElem → State × Except WalkEnd (List PktElem)
  | 0, acc => (acc.1, .ok acc.2)
  | n + 1, acc =>
    let p := d.total - (n + 1)
    let r := acc.1.readStep d none sf p 1
    match r.2 with
    | .error e => (r.1, .error e)
    | .ok (raws, mark) =>
      let i := (d.dst.base : Int) + (walkTerms d none p).2
      if i < 0 then (r.1, .error (.fault (.cause Cause.address (xlatInfo d.dst.id 0))))
      else s.gather d sf n (r.1, acc.2 ++ [{ idx := i.toNat, bits := raws.headD 0, poison := mark.isSome }])

/-- The body of a request as it leaves the package. -/
def State.opBody (s : State) (c : Cmd) : State × Except WalkEnd ReqBody :=
  match c.op with
  | .sacc op d =>
    match s.sideFmt d.src with
    | none => (s, .error (.fault (.cause Cause.translation (xlatInfo d.src.id 0))))
    | some sf =>
      if sf.isBlock then (s, .error (.fault (.cause Cause.format (xlatInfo d.src.id 0))))
      else
        let r := s.gather d sf d.total (s, [])
        match r.2 with
        | .error e => (r.1, .error e)
        | .ok es => (r.1, .ok (.sacc op sf d.dst.fmt d.rnd d.sat d.ftz d.dst.id es (!d.noAlloc)))
  | op =>
    match plainBody op with
    | some b => (s, .ok b)
    | none => (s, .error .wait)

/-- The acknowledgement that a packet of a context carries toward a package, and its note (R123). -/
def State.carryAck (s : State) (ctx o : Nat) : State × Nat :=
  match (s.ctx? ctx).bind (fun c => c.owner? o) with
  | some w => (s.putSide ctx { w with ackSent := w.acked, ackAt := s.podTime.toNat }, w.acked)
  | none => (s, 0)

/-- A request as R122 makes it up. -/
def State.request (s : State) (cls owner serial inc tag : Nat) (body : ReqBody) : RemReq :=
  { cls := cls, owner := owner, pkg := s.fabric.self, ctx := s.ctxNo, serial := serial, ack := (s.side s.ctxNo owner).acked,
    retx := false, inc := inc, tag := tag, body := body }

/-- The first transmission of a gated operation: after every older serial, with an incarnation seen; without one a query goes out
first (R122, R324). A fault of its source keeps its serial (R104). An ssig.rel releases before it (R305). -/
def State.sendOp (s : State) (c : Cmd) (owner serial : Nat) : State :=
  let w := s.side s.ctxNo owner
  match w.ops.find? (fun o => o.serial == serial) with
  | none => s
  | some o =>
    if decide (0 < o.tries) || w.ops.any (fun x => x.tries == 0 && !x.completed && newer serial x.serial) then s
    else
      match w.inc with
      | none =>
        if w.query.isSome then s
        else (s.putSide s.ctxNo { w with query := some s.podTime.toNat }).send (.query s.fabric.self s.ctxNo owner)
      | some inc =>
        let r := s.opBody c
        match r.2 with
        | .error (.fault f) => r.1.cmdFault c f
        | .error _ => r.1
        | .ok body =>
          let t := match c.op with
            | .ssig _ _ _ _ (some sc) => r.1.release sc
            | _ => r.1
          let q := t.request c.cls owner serial inc 0 body
          ((t.carryAck s.ctxNo owner).1.modSide s.ctxNo owner (fun w =>
            w.putOp { o with req := some q, tries := 1, sentAt := s.podTime.toNat })).send (.request q)

/-! ### Plain copies toward another package (R95, R105, R121) -/

/-- Positions of so many steps of a walk from a position on. -/
def stepsFrom (d : Desc) (g pos n : Nat) : List Nat :=
  ((List.range n).map (fun k => pos + k * g)).filter (fun p => decide (p < d.total))

/-- A packet of a plain copy goes out and its command waits for it. -/
def State.sendPacket (s : State) (c : Cmd) (owner pos next : Nat) (body : ReqBody) : State :=
  let tag := s.fabric.nextTag
  let q := s.request c.cls owner 0 0 tag body
  let tags := match c.wait with
    | .packets ts => ts
    | _ => []
  (((s.carryAck s.ctxNo owner).1.modFabric (fun f => { f with
      nextTag := tag + 1,
      out := f.out ++ [{ tag := tag, core := s.cur, cmd := c.id, pos := pos, req := q, retx := false, acked := false,
                         lastTx := s.podTime.toNat, held := none }] })).send (.request q)).putCmd
    { c with pos := next, wait := .packets (tags ++ [tag]) }

/-- The units of the steps of a walk, read from a local source and converted, each with the destination index it goes to. -/
def State.readConverted (s : State) (d : Desc) (idx : Option (List Int)) (sf df : Fmt) (g : Nat) (ps : List Nat) :
    State × Except WalkEnd (List PktElem) :=
  ps.foldl (fun (acc : State × Except WalkEnd (List PktElem)) p =>
    match acc.2 with
    | .error _ => acc
    | .ok es =>
      let q := acc.1.readStep d idx sf p g
      match q.2 with
      | .error e => (q.1, .error e)
      | .ok (raws, mark) =>
        let outs := (convUnits sf df d.rnd d.sat d.ftz raws).zipIdx
        if outs.any (fun o => decide ((d.dst.base : Int) + (walkTerms d none (p + o.2 * df.blockElems)).2 < 0)) then
          (q.1, .error (.fault (.cause Cause.address (xlatInfo d.dst.id 0))))
        else
          (q.1.countTri2 (badReads sf df raws), .ok (es ++ outs.map (fun o =>
            { idx := ((d.dst.base : Int) + (walkTerms d none (p + o.2 * df.blockElems)).2).toNat, bits := o.1,
              poison := mark.isSome })))) (s, .ok [])

/-- The next packet of a copy whose destination lies on another package: n steps of the walk, read and converted here. -/
def State.sendWrites (s : State) (c : Cmd) (d : Desc) (idx : Option (List Int)) (n : Nat) : State :=
  match s.walkFmts d with
  | .error f => s.cmdFault c f
  | .ok (sf, df, g) =>
    let ps := stepsFrom d g c.pos n
    let r := s.readConverted d idx sf df g ps
    match r.2 with
    | .error (.fault f) => r.1.cmdFault c f
    | .error _ => r.1
    | .ok es =>
      if es.isEmpty then s
      else r.1.sendPacket c d.pkg c.pos (c.pos + ps.length * g) (.write d.dst.id (some df) es (!d.noAlloc))

/-- The next packet of a copy whose source lies on another package: it asks for the units of n steps. -/
def State.sendReads (s : State) (c : Cmd) (d : Desc) (idx : Option (List Int)) (n : Nat) : State :=
  match s.walkFmts d with
  | .error f => s.cmdFault c f
  | .ok (sf, _, g) =>
    let ps := stepsFrom d g c.pos n
    let is := (ps.map (fun p => (List.range (g / sf.blockElems)).map (fun k =>
      (d.src.base : Int) + (walkTerms d idx (p + k * sf.blockElems)).1))).flatten
    if is.any (fun i => decide (i < 0)) then s.cmdFault c (.cause Cause.address (xlatInfo d.src.id 0))
    else if is.isEmpty then s
    else s.sendPacket c d.pkg c.pos (c.pos + ps.length * g) (.read d.src.id d.src.fmt (is.map Int.toNat) (!d.noAlloc))

/-- One step's data of a read packet goes to its place. -/
def State.placeStep (s : State) (c : Cmd) (d : Desc) (sf df : Fmt) (pos : Nat) (es : List PktElem) : State × Cmd × WalkEnd :=
  let raws := es.map (fun e => e.bits)
  let w := s.writeStep c d df pos (convUnits sf df d.rnd d.sat d.ftz raws) (es.any (fun e => e.poison))
  match w.2.2 with
  | .more => (w.1.countTri2 (badReads sf df raws), w.2)
  | _ => w

/-- The data of a read packet goes to its place, from a step of the walk on, until a step must wait: what is left, and the
position of its first step. -/
def State.placeReads (s : State) (c : Cmd) (d : Desc) (sf df : Fmt) (g : Nat) :
    List (List PktElem) → Nat → State × Cmd × WalkEnd × List (List PktElem) × Nat
  | [], pos => (s, c, .more, [], pos)
  | es :: rest, pos =>
    let w := s.placeStep c d sf df pos es
    match w.2.2 with
    | .more => w.1.placeReads w.2.1 d sf df g rest (pos + g)
    | e => (w.1, w.2.1, e, es :: rest, pos)

/-- A copy whose packets are all sent and answered completes (R95). -/
def State.tryFinish (s : State) (c : Cmd) (d : Desc) : State :=
  match c.wait with
  | .packets [] => if d.total ≤ c.pos ∧ c.fault = none then s.finishCmd c else s
  | _ => s

/-- A packet of a command is answered for good. -/
def Cmd.answered (c : Cmd) (tag : Nat) : Cmd :=
  match c.wait with
  | .packets ts => { c with wait := .packets (ts.filter (fun t => t != tag)) }
  | _ => c

/-- Apply g to the packet of a tag; packets that are answered, hold no data and cannot arrive again are forgotten. -/
def State.modOut (s : State) (tag : Nat) (g : OutPacket → OutPacket) : State :=
  s.modFabric (fun f =>
    let out := f.out.map (fun x => if x.tag = tag then g x else x)
    { f with out := out.filter (fun x => !(x.acked && !x.retx && x.held.isNone)) })

/-- The data of an answered read packet goes as far as its destination is free (R310); each element was read once. -/
def State.placeHeld (s : State) (c : Cmd) (d : Desc) (p : OutPacket) (es : List PktElem) (r : RemRep) : State :=
  match s.walkFmts d with
  | .error f => s.cmdFault c f
  | .ok (sf, df, g) =>
    let w := s.placeReads c d sf df g (groups (g / sf.blockElems) es) p.pos
    let left : Option RemRep := match w.2.2.1 with
      | .more => none
      | _ => some { r with body := .readData sf w.2.2.2.1.flatten }
    let t := w.1.modOut p.tag (fun x => { x with held := left, pos := w.2.2.2.2 })
    match w.2.2.1 with
    | .more => (t.putCmd (w.2.1.answered p.tag)).tryFinish (w.2.1.answered p.tag) d
    | .wait => t.putCmd w.2.1
    | .fault f => (t.putCmd w.2.1).cmdFault w.2.1 f

/-- The data that a command's answered read packets hold goes on. -/
def State.retryHeld (s : State) (c : Cmd) (d : Desc) : Option State :=
  match s.fabric.out.find? (fun p => p.core == s.cur && p.cmd == c.id && p.held.isSome) with
  | some p =>
    match p.held with
    | some r =>
      match r.body with
      | .readData _ es => some (s.placeHeld c d p es r)
      | _ => none
    | none => none
  | none => none

/-! ### The step of a command (R95, R102) -/

/-- Walk so many steps of a local command. -/
def State.walk (s : State) (c : Cmd) (total : Nat) (f : State → Cmd → State × Cmd × WalkEnd) : Nat → State
  | 0 => if total ≤ c.pos then s.finishCmd c else s.putCmd c
  | n + 1 =>
    if total ≤ c.pos then s.finishCmd c
    else
      let r := f s c
      match r.2.2 with
      | .more => r.1.walk r.2.1 total f n
      | .wait => r.1.putCmd r.2.1
      | .fault e => (r.1.putCmd r.2.1).cmdFault r.2.1 e

/-- A gated operation toward another package: answered, sent, or without a package to go to (R122). -/
def State.remoteStep (s : State) (c : Cmd) (owner : Nat) : State :=
  match c.wait with
  | .answered st old n k => s.finishAnswer c st old n k
  | .op o n => s.sendOp c o n
  | .held o => s.settleQueue s.ctxNo o (s.side s.ctxNo o).queue
  | _ =>
    if s.fabric.pods.contains owner then s.assignSerials
    else
      match c.op with
      | .satm _ _ => s.finishAnswer c 4 0 0 Cause.translation
      | op => s.cmdFault c (.cause Cause.translation (op.answerInfo 0))

/-- A plain copy of one descriptor. -/
def State.plainStep (s : State) (c : Cmd) (d : Desc) (idx : Option (List Int)) (n : Nat) : State :=
  if s.otherPkg d.src.kind d.pkg || s.otherPkg d.dst.kind d.pkg then
    if !(s.fabric.pods.contains d.pkg) then
      s.cmdFault c (.cause Cause.translation (xlatInfo (if s.otherPkg d.src.kind d.pkg then d.src.id else d.dst.id) 0))
    else
      match s.retryHeld c d with
      | some t => t
      | none =>
        if d.total ≤ c.pos then s.tryFinish c d
        else if s.otherPkg d.dst.kind d.pkg then s.sendWrites c d idx n
        else s.sendReads c d idx n
  else s.walk c d.total (fun s c => s.copyStep c d idx) n

/-- A fence.rel completes: what it publishes comes first (R117, R88). -/
def State.fenceStep (s : State) (id : Nat) : State :=
  match s.core.eng.fences.find? (fun f => f.id == id) with
  | none => s
  | some f =>
    if s.fenceMet f then
      ((s.release f.scope).modCore (fun k =>
        { k with eng := { k.eng with fences := k.eng.fences.filter (fun g => g.id != id) } })).raiseFlag? f.flag false
    else s

/-- A transfer is over, with its status word. -/
def State.closeTransfer (s : State) (id core : Nat) (w : Word) : State :=
  s.modFabric (fun f => { f with transfers := f.transfers.map (fun x =>
    if x.id = id ∧ x.core = core then { x with done := true, word := w } else x) })

/-- The transfer's destination lies on this package. -/
def State.ownPackage (s : State) (n : Nat) : Bool := n == s.fabric.self || n == 0xFFFF

/-- The status word of a transfer that is over is written, when its place in the own scratchpad is free, and its command completes
(R119, R179). -/
def State.writeStatus (s : State) (c : Cmd) (t : Transfer) : State :=
  let a := spadBase s.cur + t.status
  let q := s.forceFor c.origin a 8
  if q.2 then ((q.1.writeUnit { c with clean := [] } Fetch.plain (a * 8) 64 t.word.toNat false).1).finishCmd c
  else q.1

/-- An sxfr completes when its transfer has, be it one that it has taken over; one of a discarded segment whose transfer another has
taken over is gone (R119, R120). A package outside the pod is a fault of translation (R104), and an empty walk moves nothing: its
status word is a free value (R102; DESIGN CHOICE, log entry 95). -/
def State.sxfrStep (s : State) (c : Cmd) (d : Desc) : State :=
  match s.fabric.transfers.find? (fun t => t.core == s.cur && t.ctx == s.ctxNo && t.cmd == c.id) with
  | some t =>
    if t.done then s.writeStatus c t
    else if d.total = 0 then
      (s.bump.closeTransfer t.id t.core (Config.emptyStatus s.tick)).writeStatus c { t with word := Config.emptyStatus s.tick }
    else if !(s.ownPackage d.pkg || s.fabric.pods.contains d.pkg) then
      s.cmdFault c (.cause Cause.translation (xlatInfo d.dst.id 0))
    else s
  | none => if c.discard then s.dropCmd c.id else s

/-- A command is a transfer, which writes a status word as it completes. -/
def Cmd.isSxfr (c : Cmd) : Bool :=
  match c.op with
  | .sxfr _ _ _ => true
  | _ => false

/-- Up to n steps of the command, or the fence, of a number. -/
def State.cmdStep (s : State) (id n : Nat) : State :=
  match s.core.eng.cmd? id with
  | none => s.fenceStep id
  | some c =>
    if c.fault.isSome || s.cmdBlocked c then s
    else if c.op.empty && !c.isSxfr then s.finishCmd c
    else
      match c.op, s.remoteOwner c.op with
      | .scpy d, _ => s.plainStep c d none n
      | .sgth d idx, _ => s.plainStep c d (some idx) n
      | .sbar a _, _ => if s.sbarMet c a then s.finishCmd c else s
      | .l2wb d, _ | .l2inv d, _ | .l2pf d _, _ => s.walk c d.total (fun s c => s.l2Step c d) n
      | .sxfr d _ _, _ => s.sxfrStep c d
      | .sacc _ _, some o | .satm _ _, some o | .ssig _ _ _ _ _, some o => s.remoteStep c o
      | .sacc op d, none => s.walk c d.total (fun s c => s.saccStep c op d) n
      | .satm op b, none =>
        match c.wait with
        | .answered st old k _ => s.recordAtom c b old st k
        | _ => s.atomStep c op b
      | .ssig core k _ v rel, none => s.signalStep c core k v rel

/-! ### Replies (R125, R127) -/

/-- An operation of a saved core goes out (R127). -/
def Cmd.sends (c : Cmd) : Bool :=
  match c.wait with
  | .op _ _ | .held _ => true
  | _ => false

/-- The operations that cores saved from the focused one's place have yet to send (R127): context, save area, command. -/
def State.savedSends (s : State) : List (Nat × Nat × Nat) :=
  (s.ctxs.map (fun c => ((c.saved.filter (fun e => e.1 % 128 == s.cur)).map (fun e =>
    (e.2.eng.cmds.filter Cmd.sends).map (fun k => (c.id, e.1, k.id)))).flatten)).flatten

/-- The record of an operation of a switched-out core goes to its scratchpad, where the loads that it overlaps are forced as for
any command (R179), its flag and its trap wait (R127). Where the record must wait, the command stands answered until the core is back. -/
def State.answerSaved (s : State) (ctx key : Nat) (c : Cmd) (status : Nat) (old : Word) (serial : Nat) (cause : BitVec 6) : State :=
  let flag (u : State) : State :=
    if c.discard then u else u.modCtx ctx (fun x => { x with savedFlags := x.savedFlags ++ (c.flag.map (fun f => (key, f))).toList })
  s.asSaved ctx key (fun u =>
    match c.op with
    | .satm _ b =>
      let a := spadBase u.cur + b.result
      let q := u.forceFor c.origin a 16
      if q.2 then
        flag (((q.1.writeUnit { c with clean := [] } Fetch.plain (a * 8) 128
          (recordBits (if status = 4 then cause.setWidth 64 else old) status serial) false).1).dropCmd c.id)
      else q.1.putCmd { c with wait := .answered status old serial cause }
    | _ =>
      let t := flag (u.dropCmd c.id)
      if c.discard ∨ status ≤ 1 then t
      else if status = 4 then t.lateTrapOf c cause (c.op.answerInfo old)
      else t.lateTrapOf c Cause.remoteIndeterminate (BitVec.ofNat 64 status))

/-- The command of a completed operation is recorded and flagged, where the context stands (R112, R125, R127). -/
def State.recordOp (s : State) (ctx : Nat) (o : RemOp) (status : Nat) (old : Word) (cause : BitVec 6) : State :=
  match (s.ctx? ctx).bind (fun c => c.saved.find? (fun e => e.1 % 128 == o.core && (e.2.eng.cmd? o.cmd).isSome)) with
  | some (key, k) =>
    match k.eng.cmd? o.cmd with
    | some c => s.answerSaved ctx key c status old o.serial cause
    | none => s
  | none =>
    s.onCore o.core (fun s =>
      match s.core.eng.cmd? o.cmd with
      | some c => s.finishAnswer { c with wait := .answered status old o.serial cause } status old o.serial cause
      | none => s)

/-- An operation completes with a status: the acknowledgement advances and its command is recorded (R123, R125). -/
def State.completeOp (s : State) (ctx owner : Nat) (o : RemOp) (status : Nat) (old : Word) (cause : BitVec 6) : State :=
  ((s.putSide ctx ((s.side ctx owner).putOp { o with completed := true })).advanceAck ctx owner).recordOp ctx o status old
    cause

/-- The armed drop of a reply fires (R325). -/
def dropFires (inj : Word) (owner serial : Nat) : Bool :=
  inj.getLsbD 63 && inj.toNat / 2 ^ 40 % 256 == owner && inj.toNat % 2 ^ 24 == serial

/-- An answer to an operation with a serial (R125). -/
def State.opReply (s : State) (r : RemRep) : State :=
  let w := s.side r.ctx r.owner
  match w.ops.find? (fun o => o.serial == r.serial && !o.completed && decide (0 < o.tries)) with
  | none => s
  | some o =>
    let done (s : State) (st : Nat) (old : Word) (k : BitVec 6) : State := s.completeOp r.ctx r.owner o st old k
    if w.inc ≠ some r.inc ∨ r.body = .indeterminate then
      done ((s.putSide r.ctx { w with inc := some r.inc }).bump) 2 (Config.openOld s.tick) 0
    else
      match r.body with
      | .ok dup old =>
        if dup then done (s.countErr r.ctx (fun e => { e with dup := satInc e.dup })) 1 old 0 else done s 0 old 0
      | .fault k tile => done s 4 (BitVec.ofNat 64 tile) k
      | .busy =>
        if 256 ≤ o.busy + 1 then done s.bump 3 (Config.openOld s.tick) 0
        else s.putSide r.ctx (w.putOp { o with busy := o.busy + 1, busyAt := some s.podTime.toNat })
      | _ => s

/-- A packet of a plain copy is answered (R95, R104). -/
def State.plainReply (s : State) (r : RemRep) : State :=
  match s.fabric.out.find? (fun p => p.tag == r.tag && !p.acked) with
  | none => s
  | some p =>
    let data := match r.body with
      | .readData _ _ => some r
      | _ => none
    let s := s.modOut p.tag (fun x => { x with acked := true, held := data })
    s.onCore p.core (fun s =>
      match s.core.eng.cmd? p.cmd with
      | none => s.modOut p.tag (fun x => { x with held := none })
      | some c =>
        match c.op, r.body with
        | .scpy d, .writeAck | .sgth d _, .writeAck => (s.putCmd (c.answered p.tag)).tryFinish (c.answered p.tag) d
        | .scpy d, .readData _ es | .sgth d _, .readData _ es => s.placeHeld c d p es r
        | .scpy d, .fault k tile | .sgth d _, .fault k tile =>
          (s.putCmd (c.answered p.tag)).cmdFault (c.answered p.tag)
            (.cause k (xlatInfo (if d.dst.kind = 3 then d.dst.id else d.src.id) tile))
        | _, _ => s)

/-- An acknowledgement of a pair reaches a port: it retires entries up to it (R124). -/
def Port.ack (p : Port) (pkg ctx n : Nat) : Port :=
  match p.acks.find? (fun a => a.1 == pkg && a.2.1 == ctx) with
  | some (_, _, old) =>
    if newer n old then
      { p with acks := p.acks.map (fun a => if a.1 = pkg ∧ a.2.1 = ctx then (pkg, ctx, n) else a),
               cache := p.cache.filter (fun e => !(e.pkg == pkg && e.ctx == ctx && !newer e.serial n)) }
    else p
  | none => { p with acks := p.acks ++ [(pkg, ctx, n)],
                     cache := p.cache.filter (fun e => !(e.pkg == pkg && e.ctx == ctx && !newer e.serial n)) }

/-- Apply f to the port of a die. -/
def State.modPort (s : State) (die : Bool) (f : Port → Port) : State :=
  { s with ports := s.ports.set (dieNo die) (f s.ports[dieNo die]) }

/-- An acknowledgement is forwarded to the ports of both dies (R123). -/
def State.takeAck (s : State) (pkg ctx n : Nat) : State :=
  (s.modPort false (fun p => p.ack pkg ctx n)).modPort true (fun p => p.ack pkg ctx n)

/-- A reply answers an operation with a serial. -/
def opAnswer (r : RemRep) : Bool :=
  match r.body with
  | .incarnation | .writeAck | .readData _ _ => false
  | .fault _ _ => r.tag == 0
  | _ => true

/-- The reply's own effect (R125, R122). -/
def State.useReply (s : State) (r : RemRep) : State :=
  match r.body with
  | .incarnation => s.modSide r.ctx r.owner (fun w => { w with inc := some r.inc, query := none })
  | _ => if opAnswer r then s.opReply r else s.plainReply r

/-- REMOTE_REPLY (R125, R122): a reply that INJ.DROPREPLY drops is lost (R129); another brings the acknowledgement of the
answering side (R123). -/
def State.takeReply (s : State) (r : RemRep) : State :=
  if opAnswer r && ((s.ctx? r.ctx).map (fun c => dropFires c.inj r.owner r.serial)).getD false then
    s.modCtx r.ctx (fun c => { c with inj := c.inj &&& 0x7FFF_FFFF_FFFF_FFFF })
  else (s.useReply r).takeAck r.owner r.ctx r.ack

/-! ### Timeouts (R125, R129, R403) -/

/-- LIMIT of REMOP.TMO. -/
def tmoLimit (tmo : Word) : Nat := tmo.toNat / 2 ^ 48 % 256

/-- The timeout of a class in ns: T1, T2 or T3 of REMOP.TMO (R129). -/
def tmoNs (tmo : Word) (cls : Nat) : Nat :=
  (if cls = 1 then tmo.toNat / 2 ^ 16 % 2 ^ 16 else if cls = 3 then tmo.toNat / 2 ^ 32 % 2 ^ 16 else tmo.toNat % 2 ^ 16) * 1000

/-- The timeout of a class of a context has passed since a pod time. -/
def State.timedOut (s : State) (ctx cls since : Nat) : Bool :=
  match s.ctx? ctx with
  | some c => decide (since + tmoNs c.tmo cls ≤ s.podTime.toNat)
  | none => false

/-- A packet of an operation that was sent again, as sdrn and a release at pod scope look at it (R116). -/
def State.noteRetx (s : State) (o : RemOp) (q : RemReq) : State :=
  s.modFabric (fun f => { f with
    nextTag := f.nextTag + 1,
    out := f.out ++ [{ tag := f.nextTag, core := o.core, cmd := o.cmd, pos := 0, req := q, retx := true, acked := true,
                       lastTx := s.podTime.toNat, held := none }] })

/-- Send an operation again: its serial and its incarnation stand, the acknowledgement is the present one (R122, R125, DEDUCED,
log entry 34). -/
def State.resend (s : State) (ctx owner : Nat) (o : RemOp) (count : Bool) : State :=
  match o.req with
  | none => s
  | some q =>
    let s := if count then s.countErr ctx (fun e => { e with rtx := satInc e.rtx }) else s
    let a := s.carryAck ctx owner
    let q := { q with retx := true, ack := a.2 }
    ((a.1.modSide ctx owner (fun w =>
      w.putOp { o with req := some q, tries := o.tries + 1, sentAt := s.podTime.toNat, busyAt := none })).noteRetx o q).send
      (.request q)

/-- The operation that is out under a serial. -/
def State.opOut (s : State) (ctx owner serial : Nat) : Option RemOp :=
  (s.side ctx owner).ops.find? (fun o => o.serial == serial && !o.completed && decide (0 < o.tries))

/-! ### Owner ports (R124, R309, R310, R326) -/

/-- Bits of main memory as a home slice reads them for the fabric or the host, with their mark (R86, R310); `alloc` says whether
lines may be allocated (R105). -/
def State.homeRead (s : State) (ctx bit n : Nat) (alloc : Bool) : State × Nat × Option Bool :=
  let a := bit / 8
  let k := (bit % 8 + n + 7) / 8
  let f : Fetch := { Fetch.plain with alloc := alloc }
  let t := ((List.range k).map (fun i => (a + i) / 128)).dedup.foldl (fun (acc : State × Option Bool) line =>
    let d := acc.1.drawLine ctx line f false ((blocksOf a k).filter (fun b => b / 2 == line))
    (d.1.cacheHome line f false, acc.2.or d.2)) (s, none)
  (t.1, (ofLe (t.1.mem.readN a k) >>> (bit % 8)) % 2 ^ n, t.2)

/-- Bits of main memory written at home by the fabric or the host, which release after each write (R309). -/
def State.homeWrite (s : State) (bit n v : Nat) (mark alloc : Bool) : State :=
  let f : Fetch := { Fetch.plain with alloc := alloc }
  let w : BitWrite := { bit := bit, width := n, v := v, mark := mark, fetch := f }
  let a := bit / 8
  let k := (bit % 8 + n + 7) / 8
  let s := s.writeMain none f ((List.range k).map (fun i => (a + i, byteAfter [w] (a + i) (s.mem.read (a + i)))))
  let s := if mark then (blocksOf a k).foldl (fun s b => s.setMark b (some .poison)) s else s
  s.publish (homeDie a)

/-- How an owner's execution ends. -/
inductive PortEnd where
  | done (b : RepBody)
  /-- It meets a frame that is moving and waits (R83), or a fault that the kernel or the hypervisor resolves (R78, R81). -/
  | wait (why : Option EngFault)
  deriving DecidableEq, Repr

/-- The place of an element at the owner: its outcome for the port. -/
def State.portPlace (s : State) (ctx tid e : Nat) (f : Option Fmt) (write : Bool) : State × Except PortEnd ElemAt :=
  let r := s.tensorPlace ctx tid e f true write
  match r.2 with
  | .ok (x, _) => (r.1, .ok x)
  | .fault (.cause k info) => (r.1, .error (.done (.fault k (info.toNat / 2 ^ 16))))
  | .fault f => (r.1, .error (.wait (some f)))
  | .wait => (r.1, .error (.wait none))

/-- The first element of a list that must wait for its frame, ahead of any that faults. -/
def State.portWaits (s : State) (ctx tid : Nat) (f : Option Fmt) (write : Bool) : List Nat → Option PortEnd
  | [] => none
  | e :: rest =>
    match (s.portPlace ctx tid e f write).2 with
    | .error (.wait w) => some (.wait w)
    | .error (.done _) => none
    | .ok _ => s.portWaits ctx tid f write rest

/-- Marks fall from blocks of which a packet has written every bit, clean (R68). -/
def State.clearWhole (s : State) (ws : List BitWrite) : State :=
  if s.marks.isEmpty then s
  else
    let full := ((writeSectors ws).map (fun b => (List.range 64).map (fun i => 64 * b + i))).flatten.filter (coversByte ws)
    (wholeBlocks (full.map (fun a => (a, 0)))).foldl (fun s b => s.setMark b none) s

/-- The executed effect of a request at the owner: elements in order up to the first that faults. -/
def State.portExec (s : State) (r : RemReq) : State × PortEnd :=
  match r.body with
  | .ssig core k n =>
    let t := s.takeSignal r.ctx core k n true
    (t.1, .done (if t.2 then .ok false 0 else .fault Cause.protection 0))
  | .satm op f w64 tid e op1 op2 =>
    let p := s.portPlace r.ctx tid e (some (if w64 then .fp8bt else f)) true
    match p.2 with
    | .error x => (p.1, x)
    | .ok x =>
      let q := p.1.homeRead r.ctx x.bit f.width true
      (q.1.homeWrite x.bit f.width (atomOf op f f.width q.2.1 op1 op2) q.2.2.isSome true, .done (.ok false (BitVec.ofNat 64 q.2.1)))
  | .sacc op sf df rnd sat ftz tid es alloc =>
    match s.portWaits r.ctx tid df true (es.map (fun e => e.idx)) with
    | some x => (s, x)
    | none =>
      es.foldl (fun (acc : State × PortEnd) e =>
        match acc.2 with
        | .done (.ok _ _) =>
          let p := acc.1.portPlace r.ctx tid e.idx df true
          match p.2 with
          | .error x => (p.1, x)
          | .ok x =>
            let code := match op with
              | .add => 0
              | .max => 1
              | .min => 2
              | .and => 3
              | .or => 4
              | .xor => 5
              | .wadd => 6
            if x.fmt.isBlock || !saccPair code sf x.fmt then (p.1, .done (.fault Cause.format ((x.tile.map (fun t => t.2.2)).getD 0)))
            else
              let q := p.1.homeRead r.ctx x.bit x.fmt.width alloc
              let v := saccOf op sf x.fmt rnd sat ftz q.2.1 e.bits
              ((q.1.homeWrite x.bit x.fmt.width v (q.2.2.isSome || e.poison) alloc).countTri2For r.ctx
                (saccBad op [(sf, e.bits), (x.fmt, q.2.1)]), acc.2)
        | _ => acc) (s, .done (.ok false 0))
  | .write tid f es alloc =>
    match s.portWaits r.ctx tid f true (es.map (fun e => e.idx)) with
    | some x => (s, x)
    | none =>
      let z := es.foldl (fun (acc : State × PortEnd × List BitWrite) e =>
        match acc.2.1 with
        | .done .writeAck =>
          let p := acc.1.portPlace r.ctx tid e.idx f true
          match p.2 with
          | .error x => (p.1, x, acc.2.2)
          | .ok x =>
            let n := unitBits x.fmt
            let s := p.1.homeWrite x.bit n e.bits e.poison alloc
            let ws : List BitWrite := if e.poison then [] else [{ bit := x.bit, width := n, v := 0, mark := false, fetch := Fetch.plain }]
            (s, acc.2.1, acc.2.2 ++ ws)
        | _ => acc) (s, .done .writeAck, [])
      (z.1.clearWhole z.2.2, z.2.1)
  | .read tid f is alloc =>
    match s.portWaits r.ctx tid f false is with
    | some x => (s, x)
    | none =>
      let z := is.foldl (fun (acc : State × Option PortEnd × Fmt × List PktElem) i =>
        match acc.2.1 with
        | some _ => acc
        | none =>
          let p := acc.1.portPlace r.ctx tid i f false
          match p.2 with
          | .error x => (p.1, some x, acc.2.2)
          | .ok x =>
            let q := p.1.homeRead r.ctx x.bit (unitBits x.fmt) alloc
            (q.1, none, x.fmt, acc.2.2.2 ++ [{ idx := i, bits := q.2.1, poison := q.2.2.isSome }])) (s, none, .int8, [])
      (z.1, z.2.1.getD (.done (.readData z.2.2.1 z.2.2.2)))

/-- A request carries a serial (R122). -/
def serialised : ReqBody → Bool
  | .satm _ _ _ _ _ _ _ | .sacc _ _ _ _ _ _ _ _ _ | .ssig _ _ _ => true
  | _ => false

/-- An entry stands for a request (R124). -/
def ReplyEntry.isFor (e : ReplyEntry) (r : RemReq) : Bool := e.pkg == r.pkg && e.ctx == r.ctx && e.serial == r.serial

/-- A port has an entry of a request. -/
def Port.knows (p : Port) (r : RemReq) : Bool := serialised r.body && p.cache.any (fun e => e.isFor r)

/-- The die whose port handles a request (R124): the one that keeps its entry; else of the target core, or of the first
element's home. -/
def State.portDie (s : State) (r : RemReq) : Bool :=
  if s.ports[0].knows r then false else if s.ports[1].knows r then true else
  let home (tid e : Nat) : Bool :=
    match (s.portPlace r.ctx tid e none false).2 with
    | .ok x => homeDie (x.bit / 8)
    | _ => false
  match r.body with
  | .ssig core _ _ => decide (48 ≤ core)
  | .satm _ _ _ tid e _ _ => home tid e
  | .sacc _ _ _ _ _ _ tid es _ => home tid ((es.head?.map (fun e => e.idx)).getD 0)
  | .write tid _ es _ => home tid ((es.head?.map (fun e => e.idx)).getD 0)
  | .read tid _ is _ => home tid (is.headD 0)

/-- An answer goes out, with the acknowledgement of the context's own side toward the package that it goes to (R123). What a
class-0 transfer brings is not answered. -/
def State.answer (s : State) (r : RemReq) (inc : Nat) (b : RepBody) : State :=
  if r.cls = 0 then s
  else
    let a := s.carryAck r.ctx r.pkg
    a.1.send (.reply { ack := a.2, owner := s.fabric.self, pkg := r.pkg, ctx := r.ctx, serial := r.serial, inc := inc,
                       tag := r.tag, body := b })

/-- A fault of translation at an owner port or of the host goes to the kernel or to the hypervisor, once (R78, R81). -/
def State.tellFault (s : State) (ctx : Nat) (w : Option EngFault) : State :=
  let new (r : Report) : State := if s.malt.reports.contains r then s else s.report r
  match w with
  | some (.page tid tile) => new (.pageFault ctx tid tile)
  | some (.stage2 g _ _ _) => new (.stage2Fault ctx g)
  | _ => s

/-- A request has its answer. -/
def Port.settle (p : Port) (r : RemReq) (b : RepBody) : Port :=
  { p with waiting := p.waiting.filter (fun q => q != r),
           cache := if serialised r.body then p.cache.map (fun e => if e.isFor r then { e with rep := b, pending := false } else e)
             else p.cache }

/-- Execution of a request at its port: the entry is pending while a frame is waited for; a missing one is reported (R124,
R81, R78). -/
def State.portRun (s : State) (die : Bool) (r : RemReq) : State :=
  let x := s.portExec r
  match x.2 with
  | .wait w =>
    (x.1.modPort die (fun p => if p.waiting.contains r then p else { p with waiting := p.waiting ++ [r] })).tellFault r.ctx w
  | .done b => (x.1.modPort die (fun p => p.settle r b)).answer r s.ports[dieNo die].inc b

/-- The cached result under DUPLICATE-ANSWERED: OLD, or the cause of a FAULT (R124, R112; DEDUCED, log entry 82). -/
def cachedAnswer : RepBody → RepBody
  | .ok _ old => .ok true old
  | .fault k _ => .ok true (k.setWidth 64)
  | b => b

/-- REMOTE_REQUEST: the rows of R124 in their order; the acknowledgement that the request carries is applied after it
(R326). -/
def State.takeRequest (s : State) (r : RemReq) : State :=
  let die := s.portDie r
  let p := s.ports[dieNo die]
  if !serialised r.body then (s.portRun die r).takeAck r.pkg r.ctx r.ack
  else
    let s :=
      if (match p.acks.find? (fun a => a.1 == r.pkg && a.2.1 == r.ctx) with
          | some (_, _, old) => !newer r.serial old
          | none => false) then s
      else
        match p.cache.find? (fun e => e.isFor r) with
        | some e => if e.pending then s else s.answer r e.inc (cachedAnswer e.rep)
        | none =>
          if r.retx && r.inc != p.inc then s.answer r p.inc .indeterminate
          else if 65536 ≤ p.cache.length then s.answer r p.inc .busy
          else
            (s.modPort die (fun p => { p with cache := p.cache ++
              [{ pkg := r.pkg, ctx := r.ctx, serial := r.serial, rep := .busy, inc := p.inc, pending := true }] })).portRun die r
    s.takeAck r.pkg r.ctx r.ack

/-! ### The host's window (R398, R309, R83) -/

/-- The context that exports a tensor to a function. -/
def State.exporter (s : State) (fn tid : Nat) : Option Ctx :=
  s.ctxs.find? (fun c => c.vf.getD 0 == fn && c.exports.contains tid)

/-- The answer to a BAR2 read: the element's bits, and whether its line was poisoned. -/
def State.answerHost (s : State) (bits : Nat) (mark : Option Bool) : State :=
  s.modMalt (fun m => { m with hostReads := m.hostReads ++ [(bits, mark.isSome)] })

/-- An access through BAR2 at its home slice, and what it must wait for (DESIGN CHOICE, log entry 38). -/
def State.hostTry (s : State) (a : HostAccess) : State × Option (Nat × Option EngFault) :=
  match s.exporter a.fn.val a.tid with
  | none => (s, none)
  | some c =>
    let r := s.portPlace c.id a.tid a.elem none a.data.isSome
    match r.2 with
    | .error (.wait w) => (r.1, some (c.id, w))
    | .error (.done _) => (r.1, none)
    | .ok x =>
      match a.data with
      | none =>
        let q := r.1.homeRead c.id x.bit (unitBits x.fmt) true
        (q.1.answerHost q.2.1 q.2.2, none)
      | some v => (r.1.homeWrite x.bit (unitBits x.fmt) v.toNat false true, none)

/-- An access of the host: it waits behind earlier ones of its function (R309), and for its frame (R83, R81, R78). -/
def State.hostAccess (s : State) (a : HostAccess) : State :=
  let wait (s : State) : State := s.modMalt (fun m => { m with hostWaiting := m.hostWaiting ++ [a] })
  if s.malt.hostWaiting.any (fun b => b.fn == a.fn) then wait s
  else
    let r := s.hostTry a
    match r.2 with
    | none => r.1
    | some (ctx, w) => wait (r.1.tellFault ctx w)

/-- The host's waiting accesses are tried again, in their order. -/
def State.retryHost (s : State) : State :=
  s.malt.hostWaiting.foldl State.hostAccess (s.modMalt (fun m => { m with hostWaiting := [] }))

/-! ### Faults of translation at the ports (R78, R81, R124) -/

/-- Waiting requests are tried again, and then the host's accesses. -/
def State.retryPorts (s : State) : State :=
  ([false, true].foldl (fun s die => s.ports[dieNo die].waiting.foldl (fun s r => s.portRun die r) s) s).retryHost

/-- The first fault of translation for which a port or the host waits, with its context. -/
def State.portFault (s : State) (p : EngFault → Bool) : Option (Nat × EngFault) :=
  let found (ctx : Nat) (w : Option EngFault) : Option (Nat × EngFault) := (w.filter p).map (fun f => (ctx, f))
  let reqs := (s.ports[0].waiting ++ s.ports[1].waiting).filterMap (fun r =>
    match (s.portExec r).2 with
    | .wait w => found r.ctx w
    | .done _ => none)
  let hosts := s.malt.hostWaiting.filterMap (fun a => (s.hostTry a).2.bind (fun w => found w.1 w.2))
  (reqs ++ hosts).head?

/-- What waits for a fault that is not resolved ends: a request is answered FAULT with the cause (R124, R78), an access of the
host is dropped. -/
def State.denyPorts (s : State) (ctx : Nat) (f : EngFault) (cause : BitVec 6) (tile : Nat) : State :=
  let t := [false, true].foldl (fun s die =>
    s.ports[dieNo die].waiting.foldl (fun s r =>
      if r.ctx = ctx ∧ (s.portExec r).2 = .wait (some f) then
        (s.modPort die (fun p => p.settle r (.fault cause tile))).answer r s.ports[dieNo die].inc (.fault cause tile)
      else s) s) s
  (t.modMalt (fun m => { m with hostWaiting := m.hostWaiting.filter (fun a => (t.hostTry a).2 != some (ctx, some f)) })).retryHost

end Sys2Proof.Machine
end

