-- ==== Sys2Proof/Machine/Ctl.lean ====
section
/-! DEFINITION. The ctl slot (spec/11 R279 to R291, spec/06 R143, R148, spec/18 R359, R374, R375): transfers, loops, flags,
segments, supersteps, ends of steps, traps, invalidations and modes, as far as they act at their issue. -/

namespace Sys2Proof.Machine

/-! ### Transfers (R280, R39) -/

/-- A taken transfer to a target: its checks, and where the sequencer goes after the bundle. Of a target with both bits [5:0] and
bits [63:48] nonzero R39 does not say which cause wins: ALIGNMENT does here (DESIGN CHOICE, log entry 99). -/
def State.transfer (s : State) (target : Word) : Eff :=
  if target.toNat % 64 ≠ 0 then s.fault 10 Cause.alignment
  else if 2 ^ 48 ≤ target.toNat then s.fault 10 Cause.address
  else .ok (s.modCore (fun c => { c with issue := { c.issue with taken := some (target.setWidth 48) } }))

/-- The address of the issuing bundle plus n bundles, not yet reduced to a code address. -/
def State.ahead (s : State) (n : Int) : Word := s.core.pc.setWidth 64 + BitVec.ofInt 64 (64 * n)

/-- br (R280). -/
def effBr (off : BitVec 25) (s : State) : Eff := s.transfer (s.ahead off.toInt)
/-- br by itself. -/
def execBr (off : BitVec 25) (s : State) : Out := settle s (effBr off s)

/-- call (R280): x63 takes the address of the next bundle, with latency 1. -/
def effCall (off : BitVec 25) (s : State) : Eff :=
  (s.transfer (s.ahead off.toInt)).bind (fun t => .ok (t.putX 63 (s.ahead 1) 1 false))
/-- call by itself. -/
def execCall (off : BitVec 25) (s : State) : Out := settle s (effCall off s)

/-- ret (R280). -/
def effRet (s : State) : Eff := s.transfer (s.x 63)
/-- ret by itself. -/
def execRet (s : State) : Out := settle s (effRet s)

/-- jmpr (R280). -/
def effJmpr (a : XReg) (s : State) : Eff := s.transfer (s.x a)
/-- jmpr by itself. -/
def execJmpr (a : XReg) (s : State) : Out := settle s (effJmpr a s)

/-! ### Loops (R281, R282) -/

/-- An entry of the loop stack for the len bundles that follow, or what R281 does instead of it. -/
def State.pushLoop (s : State) (n : Word32) (len : Nat) : Eff :=
  let last := s.ahead len
  if 6 ≤ s.core.loops.length then s.faultInfo 10 Cause.loopOverflow 1
  else if (match s.core.loops.head? with
      | some e => decide (e.last.toNat < last.toNat)
      | none => false) then s.faultInfo 10 Cause.loopOverflow 2
  else if n = 0 then s.transfer (s.ahead (len + 1))
  else .ok (s.modCore (fun c => { c with
    loops := { first := (s.ahead 1).setWidth 48, last := last.setWidth 48, count := n, index := 0 } :: c.loops }))

/-- loop (R281). -/
def effLoop (n : BitVec 14) (len : Fin 64) (s : State) : Eff := s.pushLoop (n.setWidth 32) (len.val + 1)
/-- loop by itself. -/
def execLoop (n : BitVec 14) (len : Fin 64) (s : State) : Out := settle s (effLoop n len s)

/-- loopr (R281). -/
def effLoopr (a : XReg) (len : Fin 64) (s : State) : Eff := s.pushLoop ((s.x a).setWidth 32) (len.val + 1)
/-- loopr by itself. -/
def execLoopr (a : XReg) (len : Fin 64) (s : State) : Out := settle s (effLoopr a len s)

/-- lbrk (R282). -/
def effLbrk (s : State) : Eff :=
  match s.core.loops with
  | [] => .ok s
  | e :: rest => (s.transfer (e.last.setWidth 64 + 64)).bind (fun t => .ok (t.modCore (fun c => { c with loops := rest })))
/-- lbrk by itself. -/
def execLbrk (s : State) : Out := settle s (effLbrk s)

/-- The end of an iteration (R282): the bundle at the last address of the innermost entry has issued without a taken
transfer. The loop stack after it and the next bundle. -/
def loopEnd (pc next : CodeAddr) : List LoopEntry → List LoopEntry × CodeAddr
  | [] => ([], next)
  | e :: rest =>
    if e.last ≠ pc then (e :: rest, next)
    else if e.index.toNat + 1 < e.count.toNat then ({ e with index := e.index + 1 } :: rest, e.first)
    else loopEnd pc next rest

/-! ### Segments, supersteps and slack (R284, R359, R143, R148, R54) -/

/-- Hold the next bundle. -/
def State.holdFor (s : State) (h : Hold) : State := s.modCore (fun c => { c with hold := h })

/-- The hold of a ctl slot: after the drain or fence of the copy slot of its bundle, if there is one (R42, R116, R117); so the rdv of
such a bundle counts as issued, and its core as arrived (R148), once that drain or fence has ended (DESIGN CHOICE, log entry 107). -/
def Hold.andThen (now next : Hold) : Hold :=
  match now with
  | .drain k sc f _ => .drain k sc f next
  | _ => next

/-- Hold the next bundle, for the ctl slot. -/
def State.holdNext (s : State) (h : Hold) : State := s.holdFor (s.core.hold.andThen h)

/-- ckpt (R359, R360). -/
def effCkpt (s : State) : Eff := s.guarded .ckpt (.ok (s.holdNext (.commit .ckpt)))
/-- ckpt by itself. -/
def execCkpt (s : State) : Out := settle s (effCkpt s)

/-- The task of the step that the focused core runs. -/
def State.myTask (s : State) : Option Task := s.core.task.bind (fun t => s.taskOf t)

/-- rdv (R148): a core without a group passes at once. -/
def effRdv (n : BitVec 8) (s : State) : Eff :=
  s.guarded (.rdv n) (match s.myTask with
    | some t => if t.lb.rvGroup = 0 then .ok s else .ok (s.holdNext (.rdv n))
    | none => .ok s)
/-- rdv by itself. -/
def execRdv (n : BitVec 8) (s : State) : Out := settle s (effRdv n s)

/-- slack (R54): in force from the next position. -/
def effSlack (n : BitVec 8) (s : State) : Eff := .ok (s.put (.slack n) 1 false)
/-- slack by itself. -/
def execSlack (n : BitVec 8) (s : State) : Out := settle s (effSlack n s)

/-- sstep (R143, R144): step 1 forces the pending load nodes; the rest holds the next bundle. -/
def effSstep (d : XReg) (dom : Fin 16) (s : State) : Eff :=
  s.guarded (.sstep d dom) (match s.myTask with
    | some t =>
      if t.lb.domain = dom.val then .ok ((s.closeAll .sstep).holdNext (.commit (.sstep d dom)))
      else s.fault 10 Cause.protection
    | none => s.fault 10 Cause.protection)
/-- sstep by itself. -/
def execSstep (d : XReg) (dom : Fin 16) (s : State) : Out := settle s (effSstep d dom s)

/-! ### Ends of steps and launches (R285 to R287) -/

/-- The launch-block address that a field of exit names; 0 names none. -/
def State.successor (s : State) : ExitSrc → Word
  | .none => 0
  | .reg r => s.x (Fin.ofNat 64 r.val)
  | .pair _ v => v

/-- The end of a step: the stack is released, and the rest holds. In handler mode the core stops; the report carries no
cause of R369 (DEDUCED, log entry 48). -/
def State.endAt (s : State) (succ : List Word) : State :=
  if s.core.sys.hnd then s.stopCore 0
  else ((s.modMash (fun m => { m with spine := [] })).gc).holdNext (.commit (.exit succ))

/-- exit (R285). -/
def effExit (s0 s1 s2 s3 : ExitSrc) (s : State) : Eff :=
  .ok (s.endAt (([s0, s1, s2, s3].map s.successor).filter (fun a => a != 0)))
/-- exit by itself. -/
def execExit (s0 s1 s2 s3 : ExitSrc) (s : State) : Out := settle s (effExit s0 s1 s2 s3 s)

/-- halt (R285): exit without successors. -/
def effHalt (s : State) : Eff := .ok (s.endAt [])
/-- halt by itself. -/
def execHalt (s : State) : Out := settle s (effHalt s)

/-- A launch, plain or of a graph (R286): the commit comes first. -/
def State.launchAt (s : State) (i : Instr) (d a : XReg) (graph : Bool) : Eff :=
  s.guarded i (if s.replaySafe then s.fault 10 Cause.protection
    else .ok (s.holdNext (.commit (.launch d (s.x a) graph))))

/-- launch (R286). -/
def effLaunch (d a : XReg) (s : State) : Eff := s.launchAt (.launch d a) d a false
/-- launch by itself. -/
def execLaunch (d a : XReg) (s : State) : Out := settle s (effLaunch d a s)

/-- launch of a graph table (R286). -/
def effLaunchGraph (d a : XReg) (s : State) : Eff := s.launchAt (.launchGraph d a) d a true
/-- launchGraph by itself. -/
def execLaunchGraph (d a : XReg) (s : State) : Out := settle s (effLaunchGraph d a s)

/-- yield (R287): without a pending pre-emption it has no effect. -/
def effYield (s : State) : Eff :=
  s.guarded .yield (.ok (match s.core.preempt with
    | some _ => s.holdNext (.commit .yield)
    | none => s))
/-- yield by itself. -/
def execYield (s : State) : Out := settle s (effYield s)

/-! ### Flags, counters and modes (R283, R291) -/

/-- fset (R283). -/
def effFset (k : FlagNo) (s : State) : Eff := .ok (s.put (.flag k true) 1 false)
/-- fset by itself. -/
def execFset (k : FlagNo) (s : State) : Out := settle s (effFset k s)

/-- fclr (R283). -/
def effFclr (k : FlagNo) (s : State) : Eff := .ok (s.put (.flag k false) 1 false)
/-- fclr by itself. -/
def execFclr (k : FlagNo) (s : State) : Out := settle s (effFclr k s)

/-- cset (R283). -/
def effCset (k : CtrNo) (n : BitVec 20) (s : State) : Eff := .ok (s.put (.cset k (n.setWidth 32)) 1 false)
/-- cset by itself. -/
def execCset (k : CtrNo) (n : BitVec 20) (s : State) : Out := settle s (effCset k n s)

/-- mode (R291): in force from the next position. -/
def effMode (value mask : BitVec 8) (s : State) : Eff :=
  .ok (s.put (.sys .mode (((s.core.sys.modeBits &&& ~~~mask) ||| (value &&& mask)).setWidth 64)) 1 false)
/-- mode by itself. -/
def execMode (value mask : BitVec 8) (s : State) : Out := settle s (effMode value mask s)

/-! ### Traps and returns (R288, R374, R375) -/

/-- brk (R288). The table of R46 names no step for it: it is found at step 10 (DESIGN CHOICE, log entry 100). -/
def effBrk (k : BitVec 16) (s : State) : Eff := s.faultInfo 10 Cause.breakpoint (k.setWidth 64)
/-- brk by itself. -/
def execBrk (k : BitVec 16) (s : State) : Out := settle s (effBrk k s)

/-- trap (R288), found at step 10 as brk is (DESIGN CHOICE, log entry 100). -/
def effTrap (k : BitVec 16) (s : State) : Eff := s.faultInfo 10 Cause.software (k.setWidth 64)
/-- trap by itself. -/
def execTrap (k : BitVec 16) (s : State) : Out := settle s (effTrap k s)

/-- rte (R374): it holds for the handler's results; leaving follows. -/
def effRte (s : State) : Eff := s.guarded .rte (.ok (s.holdNext (.ret none)))
/-- rte by itself. -/
def execRte (s : State) : Out := settle s (effRte s)

/-- xbnd (R375): the 64 bytes are read through the gate as they stand before the bundle (DEDUCED, log entry 40); a spill
region raises PROTECTION (R158). -/
def effXbnd (a : XReg) (s : State) : Eff :=
  s.guarded (.xbnd a) (
    let w := s.x a
    if 2 ^ 22 ≤ w.toNat then s.fault 10 Cause.address
    else if w.toNat % 64 ≠ 0 then s.fault 10 Cause.alignment
    else if s.core.inSpill w.toNat 64 then s.fault 10 Cause.protection
    else
      let r := s.controlBefore (spadBase s.cur + w.toNat) 64
      .ok (r.1.holdNext (.ret (some (BitVec.ofNat 512 (ofLe r.2))))))
/-- xbnd by itself. -/
def execXbnd (a : XReg) (s : State) : Out := settle s (effXbnd a s)

/-! ### Invalidations (R289, R290) -/

/-- An invalidation is under way, for the context of its issuer (R80). -/
def State.invalidate (s : State) (code : Option (Nat × Nat)) (kind : InvKind) (sc : Scope) (flag : Option FlagNo) : State :=
  s.modCore (fun c => { c with eng := { c.eng with
    invals := c.eng.invals ++ [{ id := c.eng.nextId, code := code, ctx := s.ctxNo, kind := kind, scope := sc, flag := flag, seg := c.seg,
                                 committed := false }],
    nextId := c.eng.nextId + 1 } })

/-- icinv (R289): the bundles from xa to xa + xb − 1, rounded outward; xb = 0 names every bundle. -/
def effIcinv (a b : XReg) (flag : Option FlagNo) (scope : Scope) (s : State) : Eff :=
  s.guarded (.icinv a b flag scope) (
    let lo := (s.x a).toNat
    let n := (s.x b).toNat
    if 2 ^ 48 ≤ lo then s.fault 10 Cause.address
    else .ok (s.invalidate (some (if n = 0 then (0, 2 ^ 48) else (lo / 64 * 64, (lo + n + 63) / 64 * 64))) .all scope flag))
/-- icinv by itself. -/
def execIcinv (a b : XReg) (flag : Option FlagNo) (scope : Scope) (s : State) : Out := settle s (effIcinv a b flag scope s)

/-- The scope of a tlbi. -/
def tlbiScope (pod : Bool) : Scope := if pod then .pod else .package

/-- tlbi of every entry (R290, R80). -/
def effTlbiAll (flag : Option FlagNo) (pod : Bool) (s : State) : Eff :=
  s.guarded (.tlbiAll flag pod) (.ok (s.invalidate none .all (tlbiScope pod) flag))
/-- tlbiAll by itself. -/
def execTlbiAll (flag : Option FlagNo) (pod : Bool) (s : State) : Out := settle s (effTlbiAll flag pod s)

/-- tlbi of a tensor (R290, R80). -/
def effTlbiTensor (a b : XReg) (flag : Option FlagNo) (pod : Bool) (s : State) : Eff :=
  s.guarded (.tlbiTensor a b flag pod)
    (.ok (s.invalidate none (.tensor ((s.x a).toNat % 2 ^ 16)) (tlbiScope pod) flag))
/-- tlbiTensor by itself. -/
def execTlbiTensor (a b : XReg) (flag : Option FlagNo) (pod : Bool) (s : State) : Out :=
  settle s (effTlbiTensor a b flag pod s)

/-- tlbi of a range of tiles (R290, R80): with a count of 0 its flag is set at the next position, as any completion sets it (R44). -/
def effTlbiRange (a b : XReg) (flag : Option FlagNo) (pod : Bool) (s : State) : Eff :=
  s.guarded (.tlbiRange a b flag pod) (
    let n := (s.x b).toNat
    if n / 2 ^ 32 % 2 ^ 20 = 0 then
      .ok (match flag with
        | some f => s.put (.done f false) 1 false
        | none => s)
    else .ok (s.invalidate none (.range ((s.x a).toNat % 2 ^ 16) (n % 2 ^ 20) (n / 2 ^ 32 % 2 ^ 20)) (tlbiScope pod) flag))
/-- tlbiRange by itself. -/
def execTlbiRange (a b : XReg) (flag : Option FlagNo) (pod : Bool) (s : State) : Out :=
  settle s (effTlbiRange a b flag pod s)

end Sys2Proof.Machine
end

