-- ==== Sys2Proof/Machine/Mem.lean ====
section
/-! DEFINITION. The mem slot (R134 to R140): scalar and vector loads and stores of scratchpad. -/

namespace Sys2Proof.Machine

/-! ### Shared operations -/

/-- The blocks of the own lanes of which a load reads some byte in memory, and not from the store gate (R68, R139). -/
def State.ownBlocks (s : State) (ls : List (Nat × Nat)) : List Nat :=
  (((ls.filter (fun l => inSpad s.cur l.1)).map (fun l => (List.range l.2).map (fun i => l.1 + i))).flatten.filter
    (fun a => !gateCovers s.core.gate a)).map (fun a => a / 64) |>.dedup

/-- A load of lanes that passed their checks (R136, R179). The own lanes are read now; with a lane in another scratchpad
the whole result is cluster-remote, of the nominal latency far and under SLACK (R50, R54). -/
def State.load (s : State) (ls : List (Nat × Nat)) (form : LoadForm) (near far : Nat) : Eff :=
  let own := ls.filter (fun l => inSpad s.cur l.1)
  if !(s.storesMet own).isEmpty then .stall .store
  else
    let data := (ls.map (fun l => if inSpad s.cur l.1 then s.readOwn l.1 l.2 else List.replicate l.2 0)).flatten
    let t := s.touchBlocks s.ctxNo true (s.ownBlocks ls)
    let m : Option LoadMark := t.2.map (fun ue => { ue := ue, pc := s.core.pc })
    let win := if s.core.sys.modeBits.getLsbD 7 then 0 else s.core.sys.slack.toNat
    if own.length = ls.length then
      .ok (t.1.modCore (fun c =>
        { c with flight := c.flight ++ [{ what := form.landing data, k := near, mark := m, wait := none }] }))
    else
      .ok (t.1.modCore (fun c =>
        { c with
          nextAcc := c.nextAcc + 1,
          flight := c.flight ++ [{ what := form.landing data, k := far, mark := m,
                                   wait := some { id := c.nextAcc, window := win, arrived := false } }],
          remote := c.remote ++ [{ id := c.nextAcc, store := false, lanes := ls, data := data, form := form,
                                   performed := false, pc := c.pc, deps := [], handler := c.sys.hnd }] }))

/-- The bytes of lanes of one length, in order. -/
def laneBytes (ls : List (Nat × Nat)) (data : List Byte) (p : Nat → Bool) : List (Nat × Nat) × List Byte :=
  let r := ls.foldl (fun (acc : List (Nat × Nat) × List Byte × List Byte) l =>
    if p l.1 then (acc.1 ++ [l], acc.2.1 ++ acc.2.2.take l.2, acc.2.2.drop l.2)
    else (acc.1, acc.2.1, acc.2.2.drop l.2)) ([], [], data)
  (r.1, r.2.1)

/-- The cells of lanes with their bytes. -/
def laneCells (l : List (Nat × Nat) × List Byte) : List Host.Cell :=
  (l.1.foldl (fun (acc : List Host.Cell × List Byte) k =>
    (acc.1 ++ cellsAt k.1 (acc.2.take k.2), acc.2.drop k.2)) ([], l.2)).1

/-- A store of lanes that passed their checks (R137, R139, R140, R179): pending loads that it overlaps are forced first;
the own lanes go to one gate entry, or in handler mode to memory, once no fence.rel before them is open (R117, R372); the others go out as a cluster-remote store. -/
def State.store (s : State) (ls : List (Nat × Nat)) (data : List Byte) : Eff :=
  let own := laneBytes ls data (inSpad s.cur)
  let far := laneBytes ls data (fun a => !inSpad s.cur a)
  if !(s.storesMet own.1).isEmpty then .stall .store
  else if !own.1.isEmpty && !s.core.sys.hnd && decide (256 ≤ s.core.gate.length) then .stall .gate
  else if !own.1.isEmpty && s.core.sys.hnd && !s.core.eng.fences.isEmpty then .stall .fence
  else
    let t := s.aliasForce own.1
    if t.core.issueFault.isNone && t.core.mash.stillPending (s.loadsMet own.1) then .stall .store
    else
      let t := if own.1.isEmpty then t
        else if t.core.sys.hnd then t.writeCells (laneCells own)
        else t.modCore (fun c => { c with
            gate := c.gate ++ [{ cells := laneCells own, gone := [], cmd := c.eng.nextId, node := c.mash.nextId }] })
      .ok (if far.1.isEmpty then t
        else t.modCore (fun c =>
          { c with nextAcc := c.nextAcc + 1,
                   remote := c.remote ++ [{ id := c.nextAcc, store := true, lanes := far.1, data := far.2,
                                            form := .scalar 1 false 0 false, performed := false, pc := c.pc,
                                            deps := c.openFences, handler := c.sys.hnd }] }))

/-- A scalar load of n bytes at a displacement (R134 to R136). -/
def State.loadScalar (s : State) (n : Nat) (signed : Bool) (d a : XReg) (disp : BitVec 15) : Eff :=
  match s.lanes n n (dispAddr (s.x a) disp) with
  | .error c => s.fault 10 c
  | .ok ls => s.load ls (.scalar n signed d (s.core.sys.hnd && decide (48 ≤ d.val))) 4 16

/-- A scalar store of the low n bytes of a register (R137). -/
def State.storeScalar (s : State) (n : Nat) (src a : XReg) (disp : BitVec 15) : Eff :=
  match s.lanes n n (dispAddr (s.x a) disp) with
  | .error c => s.fault 10 c
  | .ok ls => s.store ls (leBytes n (s.x src).toNat)

/-- A vector load of the given element addresses (R135, R136). -/
def State.loadVector (s : State) (n : Nat) (d : VReg) (eas : List Word) : Eff :=
  match s.lanes n n eas with
  | .error c => s.fault 10 c
  | .ok ls => s.load ls (.vector d) 5 17

/-- A vector store to the given element addresses (R135, R137). -/
def State.storeVector (s : State) (n : Nat) (src : VReg) (eas : List Word) : Eff :=
  match s.lanes n n eas with
  | .error c => s.fault 10 c
  | .ok ls => s.store ls (leBytes 128 (s.v src).toNat)

/-! ### The instructions -/

/-- ld.b (R134, R136). -/
def effLdB (d a : XReg) (disp : BitVec 15) (s : State) : Eff := s.loadScalar 1 true d a disp
/-- ldB by itself. -/
def execLdB (d a : XReg) (disp : BitVec 15) (s : State) : Out := settle s (effLdB d a disp s)

/-- ld.bu (R134, R136). -/
def effLdBu (d a : XReg) (disp : BitVec 15) (s : State) : Eff := s.loadScalar 1 false d a disp
/-- ldBu by itself. -/
def execLdBu (d a : XReg) (disp : BitVec 15) (s : State) : Out := settle s (effLdBu d a disp s)

/-- ld.h (R134, R136). -/
def effLdH (d a : XReg) (disp : BitVec 15) (s : State) : Eff := s.loadScalar 2 true d a disp
/-- ldH by itself. -/
def execLdH (d a : XReg) (disp : BitVec 15) (s : State) : Out := settle s (effLdH d a disp s)

/-- ld.hu (R134, R136). -/
def effLdHu (d a : XReg) (disp : BitVec 15) (s : State) : Eff := s.loadScalar 2 false d a disp
/-- ldHu by itself. -/
def execLdHu (d a : XReg) (disp : BitVec 15) (s : State) : Out := settle s (effLdHu d a disp s)

/-- ld.w (R134, R136). -/
def effLdW (d a : XReg) (disp : BitVec 15) (s : State) : Eff := s.loadScalar 4 true d a disp
/-- ldW by itself. -/
def execLdW (d a : XReg) (disp : BitVec 15) (s : State) : Out := settle s (effLdW d a disp s)

/-- ld.wu (R134, R136). -/
def effLdWu (d a : XReg) (disp : BitVec 15) (s : State) : Eff := s.loadScalar 4 false d a disp
/-- ldWu by itself. -/
def execLdWu (d a : XReg) (disp : BitVec 15) (s : State) : Out := settle s (effLdWu d a disp s)

/-- ld.d (R134, R136). -/
def effLdD (d a : XReg) (disp : BitVec 15) (s : State) : Eff := s.loadScalar 8 false d a disp
/-- ldD by itself. -/
def execLdD (d a : XReg) (disp : BitVec 15) (s : State) : Out := settle s (effLdD d a disp s)

/-- st.b (R134, R137). -/
def effStB (src a : XReg) (disp : BitVec 15) (s : State) : Eff := s.storeScalar 1 src a disp
/-- stB by itself. -/
def execStB (src a : XReg) (disp : BitVec 15) (s : State) : Out := settle s (effStB src a disp s)

/-- st.h (R134, R137). -/
def effStH (src a : XReg) (disp : BitVec 15) (s : State) : Eff := s.storeScalar 2 src a disp
/-- stH by itself. -/
def execStH (src a : XReg) (disp : BitVec 15) (s : State) : Out := settle s (effStH src a disp s)

/-- st.w (R134, R137). -/
def effStW (src a : XReg) (disp : BitVec 15) (s : State) : Eff := s.storeScalar 4 src a disp
/-- stW by itself. -/
def execStW (src a : XReg) (disp : BitVec 15) (s : State) : Out := settle s (effStW src a disp s)

/-- st.d (R134, R137). -/
def effStD (src a : XReg) (disp : BitVec 15) (s : State) : Eff := s.storeScalar 8 src a disp
/-- stD by itself. -/
def execStD (src a : XReg) (disp : BitVec 15) (s : State) : Out := settle s (effStD src a disp s)

/-- vld (R135, R136). -/
def effVld (d : VReg) (a : XReg) (disp : BitVec 15) (s : State) : Eff := s.loadVector 128 d (dispAddr (s.x a) disp)
/-- vld by itself. -/
def execVld (d : VReg) (a : XReg) (disp : BitVec 15) (s : State) : Out := settle s (effVld d a disp s)

/-- vst (R135, R137). -/
def effVst (src : VReg) (a : XReg) (disp : BitVec 15) (s : State) : Eff := s.storeVector 128 src (dispAddr (s.x a) disp)
/-- vst by itself. -/
def execVst (src : VReg) (a : XReg) (disp : BitVec 15) (s : State) : Out := settle s (effVst src a disp s)

/-- vlds (R135, R136). -/
def effVlds (d : VReg) (a stride : XReg) (disp : BitVec 9) (s : State) : Eff := s.loadVector 4 d (stridedAddrs (s.x a) (s.x stride) disp)
/-- vlds by itself. -/
def execVlds (d : VReg) (a stride : XReg) (disp : BitVec 9) (s : State) : Out := settle s (effVlds d a stride disp s)

/-- vsts (R135, R137). -/
def effVsts (src : VReg) (a stride : XReg) (disp : BitVec 9) (s : State) : Eff := s.storeVector 4 src (stridedAddrs (s.x a) (s.x stride) disp)
/-- vsts by itself. -/
def execVsts (src : VReg) (a stride : XReg) (disp : BitVec 9) (s : State) : Out := settle s (effVsts src a stride disp s)

/-- vgth (R135, R136). -/
def effVgth (d : VReg) (a : XReg) (idx : VReg) (s : State) : Eff := s.loadVector 4 d (gatherAddrs (s.x a) (s.v idx))
/-- vgth by itself. -/
def execVgth (d : VReg) (a : XReg) (idx : VReg) (s : State) : Out := settle s (effVgth d a idx s)

/-- vsct (R135, R137). -/
def effVsct (src : VReg) (a : XReg) (idx : VReg) (s : State) : Eff := s.storeVector 4 src (gatherAddrs (s.x a) (s.v idx))
/-- vsct by itself. -/
def execVsct (src : VReg) (a : XReg) (idx : VReg) (s : State) : Out := settle s (effVsct src a idx s)

end Sys2Proof.Machine
end

