-- ==== Sys2Proof/Machine/TileSlot.lean ====
section
/-! DEFINITION. The tile slots (spec/07 R152 to R168, spec/08 R188 to R192, spec/10 R227 to R249): stack instructions,
loads, constants, arithmetic, stores and forces. -/

namespace Sys2Proof.Machine

/-! ### Appending -/

/-- What an append checks and makes, from the operands of its stack effect, top last (R160): the shape and format
findings, and the node. -/
structure Build where
  shapeBad : Bool
  fmtBad : Bool
  op : NodeOp
  tag : Tag
  mode : NodeMode
  deriving DecidableEq, Repr

/-- The operands of a stack effect with n pops: handles, top last. -/
def Mash.top (m : Mash) (n : Nat) : List Nat := (m.spine.take n).reverse

/-- The tags of handles. -/
def Mash.tags (m : Mash) (ids : List Nat) : List Tag := ids.filterMap (fun a => (m.node? a).map (fun n => n.tag))

/-- The spine while the popped operands are still referred to by the node to come. -/
def held (args : List Nat) (pops : Nat) (c : Core) : Core :=
  { c with mash := { c.mash with spine := args ++ c.mash.spine.drop pops } }

/-- Ranges in the CAM (R178): past 64 it records one range over the whole scratchpad (R180). -/
def Core.coarsen (c : Core) : Core :=
  let n := (c.mash.nodes.filter (fun n => n.camRange.isSome)).length + (c.mash.stores.filter (fun n => n.camRange.isSome)).length
  { c with mash := { c.mash with coarse := c.mash.coarse || decide (64 < n) } }

/-- Append a value node of the issuing slot (R159, R160, R169, R182): the checks in their order, room made by pressure
where there is none, the pops, the push. -/
def State.append (s : State) (pops : Nat) (opcode : BitVec 8) (after : List Nat) (f : List Tag → Build) : Eff :=
  let m := s.core.mash
  if m.spine.length < pops then s.fault 11 Cause.stackUnderflow
  else if s.core.sys.stk.limit.toNat < m.spine.length - pops + 1 then s.fault 11 Cause.stackOverflow
  else
    let args := m.top pops
    let b := f (m.tags args)
    if b.shapeBad then s.fault 11 Cause.shape
    else if b.fmtBad then s.fault 11 Cause.format
    else
      let r := s.makeRoom true (held args pops) m.ids
      let t := r.1
      if r.2 then .stall .store
      else if (held args pops t.core).hasRoom true then
        let t := t.modMash (fun m => { m with spine := m.spine.drop pops })
        let t := t.appendNode b.op opcode args b.tag b.mode after
        .ok (t.modCore (fun c => c.release.coarsen))
      else s.fault 11 Cause.nodeTableFull

/-! ### Output modes (R227 to R230) -/

/-- The output modes of a tile arithmetic instruction, read at append; none for a table index above 63. -/
def State.nodeMode (s : State) (m : TMode) : Option NodeMode :=
  match m with
  | .direct o f r => some { fmt := f, rnd := r, sat := o == .sat, chk := o == .checked, ftz := s.ftz }
  | .table b k => (s.fmtEntry b.val k).map entryMode

/-- A mode that stands where the table index is out of range; the append raises FORMAT. -/
def noMode : NodeMode := { fmt := .int8, rnd := .rne, sat := false, chk := false, ftz := false }

/-- The build of an arithmetic node whose operands pass `shapeOk` and `fmtOk`, of rows by cols (R151, R160, R230). -/
def build (m : Option NodeMode) (op : NodeOp) (rows cols : Nat) (orient : NodeMode → Bool) (shapeOk fmtOk : Bool) : Build :=
  match m with
  | none => { shapeBad := !shapeOk || !dimsOk rows cols, fmtBad := true, op := op,
              tag := { rows := rows, cols := cols, fmt := .int8, orient := false }, mode := noMode }
  | some m =>
    let t : Tag := { rows := rows, cols := cols, fmt := m.fmt, orient := orient m }
    { shapeBad := !shapeOk || !t.ok, fmtBad := !fmtOk || m.fmt.isScaled, op := op, tag := t, mode := m }

/-- Orientation 0. -/
def flat0 : NodeMode → Bool := fun _ => false

/-- Two extents broadcast together (R233). -/
def extentOk (a b : Nat) : Bool := a == b || a == 1 || b == 1

/-- A tag that stands for a missing operand; underflow is raised before it is read. -/
def noTag : Tag := { rows := 1, cols := 1, fmt := .int8, orient := false }

/-- The k-th operand's tag. -/
def tagAt (ts : List Tag) (k : Nat) : Tag := (ts[k]?).getD noTag

/-- A and B may enter a matrix product (R215, R234). -/
def productOk (a b : Tag) : Bool :=
  a.fmt.isInt == b.fmt.isInt && !(a.fmt.isBlock && a.orient) && (!b.fmt.isBlock || b.orient)

/-- The build of tmma (R234). -/
def buildMma (m : Option NodeMode) (dup : Bool) (ts : List Tag) : Build :=
  let a := tagAt ts 0
  let b := tagAt ts 1
  build m (.mma dup) a.rows b.cols flat0 (a.cols == b.rows) (productOk a b)

/-- The build of tmac (R235). -/
def buildMac (m : Option NodeMode) (dup : Bool) (ts : List Tag) : Build :=
  let c := tagAt ts 0
  let a := tagAt ts 1
  let b := tagAt ts 2
  build m (.mac dup) c.rows c.cols flat0 (a.cols == b.rows && c.rows == a.rows && c.cols == b.cols)
    (productOk a b && c.fmt.isInt == a.fmt.isInt)

/-- The build of an elementwise operation (R233, R237). -/
def buildEw (m : Option NodeMode) (o : EwOp) (dup : Bool) (ts : List Tag) : Build :=
  let a := tagAt ts 0
  let b := tagAt ts 1
  build m (.ew o dup) (max a.rows b.rows) (max a.cols b.cols) flat0 (extentOk a.rows b.rows && extentOk a.cols b.cols) true

/-- The build of a node of A's shape. -/
def buildAs (m : Option NodeMode) (op : NodeOp) (fmtOk : Fmt → Bool) (ts : List Tag) : Build :=
  let a := tagAt ts 0
  build m op a.rows a.cols flat0 true (fmtOk a.fmt)

/-- The build of tbia (R239). -/
def buildBia (m : Option NodeMode) (fn : Option FunCode) (ts : List Tag) : Build :=
  let a := tagAt ts 0
  let v := tagAt ts 1
  build m (.bia fn) a.rows a.cols flat0
    ((v.rows == 1 || v.cols == 1) && (v.rows == 1 || v.rows == a.rows) && (v.cols == 1 || v.cols == a.cols))
    (fn.isNone || (!a.fmt.isInt && !v.fmt.isInt))

/-- The build of tred (R244). -/
def buildRed (m : Option NodeMode) (o : RedOp) (cols : Bool) (ts : List Tag) : Build :=
  let a := tagAt ts 0
  if cols then build m (.red o cols) 1 a.cols flat0 true true else build m (.red o cols) a.rows 1 flat0 true true

/-- The build of ttrn (R246). -/
def buildTrn (m : Option NodeMode) (ts : List Tag) : Build :=
  let a := tagAt ts 0
  build m .trn a.cols a.rows (fun m => a.fmt.isBlock && m.fmt == a.fmt && !a.orient) true true

/-- The build of tslc from its shape register (R247). -/
def buildSlc (m : Option NodeMode) (xs : Word) (ts : List Tag) : Build :=
  let a := tagAt ts 0
  let r := xs.toNat % 65536
  let c := xs.toNat / 2 ^ 16 % 65536
  let h := xs.toNat / 2 ^ 32 % 65536
  let w := xs.toNat / 2 ^ 48
  let n := a.fmt.blockElems
  let whole := if a.orient then r % n == 0 && h % n == 0 else c % n == 0 && w % n == 0
  build m (.slc r c) h w flat0
    (dimsOk h w && decide (r + h ≤ a.rows) && decide (c + w ≤ a.cols) && (!a.fmt.isBlock || whole)) true

/-- The build of tcat (R248). -/
def buildCat (m : Option NodeMode) (cols : Bool) (ts : List Tag) : Build :=
  let a := tagAt ts 0
  let b := tagAt ts 1
  if cols then build m (.cat cols) a.rows (a.cols + b.cols) flat0 (a.rows == b.rows) true
  else build m (.cat cols) (a.rows + b.rows) a.cols flat0 (a.cols == b.cols) true

/-- Rows and columns of a shape register, and whether its other bits are zero (R168). -/
def shapeReg (w : Word) : Nat × Nat × Bool :=
  (w.toNat % 512, w.toNat / 2 ^ 16 % 512, decide (w.toNat / 2 ^ 9 % 2 ^ 7 = 0) && decide (w.toNat / 2 ^ 25 = 0))

/-- The build of tbcs (R249). -/
def buildBcs (m : Option NodeMode) (xs : Word) (ts : List Tag) : Build :=
  let a := tagAt ts 0
  let g := shapeReg xs
  build m .bcs g.1 g.2.1 flat0
    (g.2.2 && dimsOk g.1 g.2.1 && (a.rows == g.1 || a.rows == 1) && (a.cols == g.2.1 || a.cols == 1)) true

/-- The build of tmsk (R241). -/
def buildMsk (m : Option NodeMode) (fill : Option Word) (ts : List Tag) : Build :=
  let a := tagAt ts 0
  let k := tagAt ts 1
  build m (.msk fill) (max a.rows k.rows) (max a.cols k.cols) flat0 (extentOk a.rows k.rows && extentOk a.cols k.cols)
    (fill.isNone || !((m.map (fun m => m.fmt.isBlock)).getD false))

/-- The build of tchk (R243): A's tag. -/
def buildChk (ts : List Tag) : Build :=
  let a := tagAt ts 0
  let b := tagAt ts 1
  { shapeBad := !(a.rows == b.rows && a.cols == b.cols), fmtBad := !(a.fmt == b.fmt && a.orient == b.orient),
    op := .chk, tag := a, mode := { noMode with fmt := a.fmt } }

/-! ### Arithmetic instructions (R231) -/

/-- tmma (R234). -/
def effTmma (m : TMode) (s : State) : Eff := s.append 2 0x10 [] (buildMma (s.nodeMode m) false)
/-- tmma by itself. -/
def execTmma (m : TMode) (s : State) : Out := settle s (effTmma m s)

/-- tmma.d (R187, R234). -/
def effTmmaD (m : TMode) (s : State) : Eff := s.guarded (.tmmaD m) (s.append 2 0x10 [] (buildMma (s.nodeMode m) true))
/-- tmmaD by itself. -/
def execTmmaD (m : TMode) (s : State) : Out := settle s (effTmmaD m s)

/-- tmac (R235). -/
def effTmac (m : TMode) (s : State) : Eff := s.append 3 0x11 [] (buildMac (s.nodeMode m) false)
/-- tmac by itself. -/
def execTmac (m : TMode) (s : State) : Out := settle s (effTmac m s)

/-- tmac.d (R187, R235). -/
def effTmacD (m : TMode) (s : State) : Eff := s.guarded (.tmacD m) (s.append 3 0x11 [] (buildMac (s.nodeMode m) true))
/-- tmacD by itself. -/
def execTmacD (m : TMode) (s : State) : Out := settle s (effTmacD m s)

/-- tadd (R237). -/
def effTadd (m : TMode) (s : State) : Eff := s.append 2 0x12 [] (buildEw (s.nodeMode m) .add false)
/-- tadd by itself. -/
def execTadd (m : TMode) (s : State) : Out := settle s (effTadd m s)

/-- tadd.d (R187, R237). -/
def effTaddD (m : TMode) (s : State) : Eff :=
  s.guarded (.taddD m) (s.append 2 0x12 [] (buildEw (s.nodeMode m) .add true))
/-- taddD by itself. -/
def execTaddD (m : TMode) (s : State) : Out := settle s (effTaddD m s)

/-- tsub (R237). -/
def effTsub (m : TMode) (s : State) : Eff := s.append 2 0x13 [] (buildEw (s.nodeMode m) .sub false)
/-- tsub by itself. -/
def execTsub (m : TMode) (s : State) : Out := settle s (effTsub m s)

/-- tmul (R237). -/
def effTmul (m : TMode) (s : State) : Eff := s.append 2 0x14 [] (buildEw (s.nodeMode m) .mul false)
/-- tmul by itself. -/
def execTmul (m : TMode) (s : State) : Out := settle s (effTmul m s)

/-- tmax (R237). -/
def effTmax (m : TMode) (s : State) : Eff := s.append 2 0x15 [] (buildEw (s.nodeMode m) .max false)
/-- tmax by itself. -/
def execTmax (m : TMode) (s : State) : Out := settle s (effTmax m s)

/-- tmin (R237). -/
def effTmin (m : TMode) (s : State) : Eff := s.append 2 0x16 [] (buildEw (s.nodeMode m) .min false)
/-- tmin by itself. -/
def execTmin (m : TMode) (s : State) : Out := settle s (effTmin m s)

/-- tscl (R238). -/
def effTscl (m : TMode) (xs : XReg) (int : Bool) (s : State) : Eff :=
  s.append 1 0x17 [] (buildAs (s.nodeMode m) (.scl ((s.x xs).setWidth 32) int) (fun _ => true))
/-- tscl by itself. -/
def execTscl (m : TMode) (xs : XReg) (int : Bool) (s : State) : Out := settle s (effTscl m xs int s)

/-- tbia (R239). -/
def effTbia (m : TMode) (fn : Option FunCode) (s : State) : Eff := s.append 2 0x18 [] (buildBia (s.nodeMode m) fn)
/-- tbia by itself. -/
def execTbia (m : TMode) (fn : Option FunCode) (s : State) : Out := settle s (effTbia m fn s)

/-- tfun (R240). -/
def effTfun (m : TMode) (fn : FunCode) (s : State) : Eff :=
  s.append 1 0x19 [] (buildAs (s.nodeMode m) (.fn fn) (fun f => !f.isInt))
/-- tfun by itself. -/
def execTfun (m : TMode) (fn : FunCode) (s : State) : Out := settle s (effTfun m fn s)

/-- tred (R244). -/
def effTred (m : TMode) (op : RedOp) (cols : Bool) (s : State) : Eff :=
  s.append 1 0x1A [] (buildRed (s.nodeMode m) op cols)
/-- tred by itself. -/
def execTred (m : TMode) (op : RedOp) (cols : Bool) (s : State) : Out := settle s (effTred m op cols s)

/-- tsmx (R245). -/
def effTsmx (m : TMode) (s : State) : Eff := s.append 1 0x1B [] (buildAs (s.nodeMode m) .smx (fun f => !f.isInt))
/-- tsmx by itself. -/
def execTsmx (m : TMode) (s : State) : Out := settle s (effTsmx m s)

/-- ttrn (R246). -/
def effTtrn (m : TMode) (s : State) : Eff := s.append 1 0x1C [] (buildTrn (s.nodeMode m))
/-- ttrn by itself. -/
def execTtrn (m : TMode) (s : State) : Out := settle s (effTtrn m s)

/-- tcvt (R242). -/
def effTcvt (m : TMode) (s : State) : Eff := s.append 1 0x1D [] (buildAs (s.nodeMode m) .cvt (fun _ => true))
/-- tcvt by itself. -/
def execTcvt (m : TMode) (s : State) : Out := settle s (effTcvt m s)

/-- tslc (R247). -/
def effTslc (m : TMode) (xs : XReg) (s : State) : Eff := s.append 1 0x1E [] (buildSlc (s.nodeMode m) (s.x xs))
/-- tslc by itself. -/
def execTslc (m : TMode) (xs : XReg) (s : State) : Out := settle s (effTslc m xs s)

/-- tcat (R248). -/
def effTcat (m : TMode) (cols : Bool) (s : State) : Eff := s.append 2 0x1F [] (buildCat (s.nodeMode m) cols)
/-- tcat by itself. -/
def execTcat (m : TMode) (cols : Bool) (s : State) : Out := settle s (effTcat m cols s)

/-- tbcs (R249). -/
def effTbcs (m : TMode) (xs : XReg) (s : State) : Eff := s.append 1 0x20 [] (buildBcs (s.nodeMode m) (s.x xs))
/-- tbcs by itself. -/
def execTbcs (m : TMode) (xs : XReg) (s : State) : Out := settle s (effTbcs m xs s)

/-- tmsk (R241). -/
def effTmsk (m : TMode) (xv : Option XReg) (s : State) : Eff :=
  s.append 2 0x21 [] (buildMsk (s.nodeMode m) (xv.map (fun r => s.x r)))
/-- tmsk by itself. -/
def execTmsk (m : TMode) (xv : Option XReg) (s : State) : Out := settle s (effTmsk m xv s)

/-- tchk (R243). -/
def effTchk (s : State) : Eff := s.append 2 0x22 [] buildChk
/-- tchk by itself. -/
def execTchk (s : State) : Out := settle s (effTchk s)

/-! ### Stack instructions (R162) -/

/-- A stack instruction: underflow, overflow by `grow`, the new spine (R152, R160). -/
def State.stackOp (s : State) (need grow : Nat) (f : List Nat → List Nat) : Eff :=
  let n := s.core.mash.spine.length
  if n < need then s.fault 11 Cause.stackUnderflow
  else if 0 < grow ∧ s.core.sys.stk.limit.toNat < n + grow then s.fault 11 Cause.stackOverflow
  else .ok (s.modMash (fun m => { m with spine := f m.spine })).gc

/-- The entry at depth n. -/
def entryAt (sp : List Nat) (n : Nat) : Nat := (sp[n]?).getD 0

/-- The entry at depth n moved to the top. -/
def rotUp (n : Nat) (sp : List Nat) : List Nat := entryAt sp n :: sp.eraseIdx n

/-- The top entry moved to depth n. -/
def rotDown (n : Nat) (sp : List Nat) : List Nat := (sp.tail.take n) ++ sp.headD 0 :: sp.tail.drop n

/-- tdup (R162). -/
def effTdup (s : State) : Eff := s.stackOp 1 1 (fun sp => entryAt sp 0 :: sp)
/-- tdup by itself. -/
def execTdup (s : State) : Out := settle s (effTdup s)

/-- tdrp (R162): what nothing refers to any more is released. -/
def effTdrp (s : State) : Eff := s.stackOp 1 0 List.tail
/-- tdrp by itself. -/
def execTdrp (s : State) : Out := settle s (effTdrp s)

/-- tswp (R162). -/
def effTswp (s : State) : Eff := s.stackOp 2 0 (rotUp 1)
/-- tswp by itself. -/
def execTswp (s : State) : Out := settle s (effTswp s)

/-- tpk (R162). -/
def effTpk (n : Fin 64) (s : State) : Eff := s.stackOp (n.val + 1) 1 (fun sp => entryAt sp n.val :: sp)
/-- tpk by itself. -/
def execTpk (n : Fin 64) (s : State) : Out := settle s (effTpk n s)

/-- trot (R162). -/
def effTrot (n : Fin 64) (s : State) : Eff := s.stackOp (n.val + 1) 0 (rotUp n.val)
/-- trot by itself. -/
def execTrot (n : Fin 64) (s : State) : Out := settle s (effTrot n s)

/-- trtd (R162). -/
def effTrtd (n : Fin 64) (s : State) : Eff := s.stackOp (n.val + 1) 0 (rotDown n.val)
/-- trtd by itself. -/
def execTrtd (n : Fin 64) (s : State) : Out := settle s (effTrtd n s)

/-! ### Tile access blocks at append (R163 to R167) -/

/-- The TAB that a register names, read as before the bundle (R163), or the effect of what is wrong with it. The state that goes on has
seen the errors of its block (R67, R68, R130). -/
def State.readTab (s : State) (w : Word) (k : State → Tab → Eff) : Eff :=
  match spadBlock w with
  | .error c => s.fault 10 c
  | .ok off =>
    if s.core.inSpill off 64 then s.fault 10 Cause.protection
    else if !(s.storesMetBefore [(spadBase s.cur + off, 64)]).isEmpty then .stall .store
    else
      let r := s.controlBefore (spadBase s.cur + off) 64
      match parseTab r.2 with
      | none => r.1.fault 10 Cause.reservedField
      | some t => k r.1 t

/-- The format that a TAB's memory has when the slot issues (R165): none for an index above 63; for a tensor that of its
entry, if it has one (DEDUCED, log entry 53). -/
def State.memFmt (s : State) (t : Tab) : Option (Option Fmt) :=
  match s.tabFmt t with
  | none => none
  | some (some f) => some (some f)
  | some none =>
    some (((s.ctx? s.ctxNo).bind (fun c => lookupNat t.tid c.tensors)).bind (fun e => (parseTensor e).map (fun x => x.fmt)))

/-- The access of a TAB at a position (R164). -/
def State.tabAccess (s : State) (t : Tab) (xo : Word) (tr : Bool) (mf : Option Fmt) (nt : Bool) : TileAccess :=
  let p := s.tabPos t xo
  { place := s.tabPlace t, pitch := t.pitch, row := p.1, col := p.2, tr := tr,
    mfmt := if t.tid = 0xFFFF then mf else none, rnd := Rnd.ofNat t.rnd, sat := t.sat, chk := t.chk, ftz := t.ftz,
    noAlloc := nt }

/-- The build of tld (R166, R167). A memory format index above 63 leaves the format unknown (R160); whether the checks of SIZE and of
whole blocks on a tile format that an explicit code gives come first no rule says: here only ROWS and COLS are checked before FORMAT
(DESIGN CHOICE, log entry 121). -/
def buildLd (t : Tab) (a : TileAccess) (mem : Option (Option Fmt)) (tile : Option Fmt) : Build :=
  match mem, tile with
  | some mf, some f =>
    let block := (mf.map (fun f => f.isBlock)).getD false && f.isBlock
    let tag : Tag := { rows := t.rows, cols := t.cols, fmt := f, orient := a.tr && block }
    { shapeBad := !tag.ok,
      fmtBad := (match a.mfmt with
        | some m => badPair a m f
        | none => false),
      op := .load a, tag := tag, mode := { noMode with fmt := f } }
  | _, _ =>
    { shapeBad := !dimsOk t.rows t.cols, fmtBad := true, op := .load a, tag := noTag, mode := noMode }

/-- The store nodes after which a load of a range reads (R179). -/
def State.storesBefore (s : State) (a : TileAccess) (rows cols : Nat) : List Nat :=
  match a.camRange rows { r0 := 0, r1 := rows - 1, c0 := 0, c1 := cols - 1 } with
  | some r => s.storesMet [r]
  | none => []

/-- tld (R166, R167). -/
def effTld (xt xo : XReg) (f : TldFmt) (tr nt : Bool) (s : State) : Eff :=
  s.readTab (s.x xt) (fun s t =>
    let mem := s.memFmt t
    let tile := match f with
      | .code c => some c
      | .table k => (s.fmtEntry t.ftbase k).map (fun e => (entryMode e).fmt)
    let a := s.tabAccess t (s.x xo) (t.tr != tr) (mem.getD none) nt
    s.append 0 0x01 (s.storesBefore a t.rows t.cols) (fun _ => buildLd t a mem tile))
/-- tld by itself. -/
def execTld (xt xo : XReg) (f : TldFmt) (tr nt : Bool) (s : State) : Out := settle s (effTld xt xo f tr nt s)

/-- The build of a constant node (R168). -/
def buildConst (f : Fmt) (xs : Word) (e : Elem) (fmtOk : Bool) : Build :=
  let g := shapeReg xs
  let t : Tag := { rows := g.1, cols := g.2.1, fmt := f, orient := false }
  { shapeBad := !(g.2.2 && t.ok), fmtBad := !fmtOk, op := .const e, tag := t, mode := { noMode with fmt := f } }

/-- The bits that tfil writes: those of FP19 with [12:0] zero (R168, R195). -/
def fillBits (f : Fmt) (v : Word) : Nat :=
  cleanBits f (v.toNat % 2 ^ f.width)

/-- tzer (R168). -/
def effTzer (f : Fmt) (xs : XReg) (s : State) : Eff :=
  s.append 0 0x02 [] (fun _ => buildConst f (s.x xs) { bits := 0, aux := 0, mark := none } true)
/-- tzer by itself. -/
def execTzer (f : Fmt) (xs : XReg) (s : State) : Out := settle s (effTzer f xs s)

/-- tfil (R168). -/
def effTfil (f : Fmt) (xs xv : XReg) (s : State) : Eff :=
  s.append 0 0x03 [] (fun _ => buildConst f (s.x xs) { bits := fillBits f (s.x xv), aux := 0, mark := none }
    (!f.isBlock && !f.isScaled))
/-- tfil by itself. -/
def execTfil (f : Fmt) (xs xv : XReg) (s : State) : Out := settle s (effTfil f xs xv s)

/-! ### tst and tfrc (R188 to R192) -/

/-- A region covers whole blocks of n along rows or along columns (R190). -/
def Region.whole (r : Region) (n : Nat) (alongRows : Bool) : Bool :=
  if alongRows then r.r0 % n == 0 && (r.r1 + 1) % n == 0 else r.c0 % n == 0 && (r.c1 + 1) % n == 0

/-- The shape of a store (R189, R190): the region, when the TAB fits the tile and the region covers whole blocks. -/
def storeRegion (t : Tab) (tag : Tag) (mf : Option Fmt) (w : Word) : Option Region :=
  let dims := if t.tr then t.rows == tag.cols && t.cols == tag.rows else t.rows == tag.rows && t.cols == tag.cols
  match regionOf w tag.rows tag.cols with
  | none => none
  | some r =>
    let own := !tag.fmt.isBlock || r.whole tag.fmt.blockElems tag.orient
    let far := match mf with
      | some f => !f.isBlock || r.whole f.blockElems t.tr
      | none => true
    if dimsOk t.rows t.cols && dims && own && far then some r else none

/-- The own-scratchpad lanes that a store node will write, as the range CAM records them (R178). -/
def storeLanes (a : TileAccess) (rows : Nat) (r : Region) : List (Nat × Nat) := (a.camRange rows r).toList

/-- Append a store node and demand its region (R188, R191). -/
def State.appendStore (s : State) (src : Nat) (tag : Tag) (a : TileAccess) (r : Region) (flag : Option FlagNo) : State :=
  let k := s.srKey
  let o := s.originHere
  let h := s.core.sys.hnd
  let s := s.modMash (fun m => { m with
    stores := m.stores ++ [{ id := m.nextId, src := src, rows := tag.rows, cols := tag.cols, access := a, region := r,
                             srCtr := k.1, srKey := k.2, after := s.core.openFences, flag := flag, origin := o, done := 0,
                             sent := false, handler := h }],
    demands := m.demands ++ [{ id := m.nextId, node := src, region := r, kind := .tst, origin := o, flag := none,
                               handler := h, met := false }],
    nextId := m.nextId + 1 })
  s.modCore (fun c => c.release.coarsen)

/-- tst (R188 to R191): pending loads that it overlaps are read before the bundle passes (R177, R179). -/
def effTst (xt xr : XReg) (flag : Option FlagNo) (s : State) : Eff :=
  s.readTab (s.x xt) (fun s t =>
    let mem := s.memFmt t
    let m := s.core.mash
    if t.tid ≠ 0xFFFF ∧ t.l2 then s.fault 10 Cause.reservedField
    else if m.spine.length < 1 then s.fault 11 Cause.stackUnderflow
    else
      let src := m.spine.headD 0
      let tag := tagAt (m.tags [src]) 0
      let a := s.tabAccess t 0 t.tr (mem.getD none) false
      match storeRegion t tag (mem.getD none) (if xr = 0 then t.region else s.x xr) with
      | none => s.fault 11 Cause.shape
      | some r =>
        if mem.isNone || (match a.mfmt with
            | some mf => badPair a tag.fmt mf
            | none => false) then s.fault 11 Cause.format
        else
          let q := s.makeRoom false (held [src] 1) m.ids
          let u := q.1
          if q.2 then .stall .store
          else if (held [src] 1 u.core).hasRoom false then
            let lanes := storeLanes a tag.rows r
            let t := u.aliasForce lanes
            if t.core.issueFault.isNone && t.core.mash.stillPending (u.loadsMet lanes) then .stall .store
            else .ok ((t.modMash (fun m => { m with spine := m.spine.tail })).appendStore src tag a r flag)
          else s.fault 11 Cause.nodeTableFull)
/-- tst by itself. -/
def execTst (xt xr : XReg) (flag : Option FlagNo) (s : State) : Out := settle s (effTst xt xr flag s)

/-- tfrc (R192): the region is demanded; one that is already computed sets its flag at the next position, as
any completion sets it (R44), and a rollback sets it again when the node survives (R363). -/
def effTfrc (n : Fin 64) (xr : XReg) (flag : FlagNo) (s : State) : Eff :=
  let m := s.core.mash
  if m.spine.length < n.val + 1 then s.fault 11 Cause.stackUnderflow
  else
    let src := entryAt m.spine n.val
    let tag := tagAt (m.tags [src]) 0
    match regionOf (if xr = 0 then 0xFFFF else s.x xr) tag.rows tag.cols with
    | none => s.fault 11 Cause.shape
    | some r =>
      let now := m.computed src r
      let t := s.modMash (fun m => { m with
        demands := m.demands ++ [{ id := m.nextId, node := src, region := r, kind := .tfrc, origin := s.originHere,
                                   flag := if now then none else some flag, handler := s.core.sys.hnd, met := false }],
        nextId := m.nextId + 1 })
      .ok (if now then t.put (.done flag (decide (src < s.core.shadow.nextNode))) 1 false else t)
/-- tfrc by itself. -/
def execTfrc (n : Fin 64) (xr : XReg) (flag : FlagNo) (s : State) : Out := settle s (effTfrc n xr flag s)

end Sys2Proof.Machine
end

