-- ==== Sys2Proof/Machine/Vec.lean ====
section
/-! DEFINITION. The vec slot (R250 to R267). -/

namespace Sys2Proof.Machine

/-! ### Shared operations -/

/-- The registers of a run from r, as one number: register i at bits [1024 i + 1023 : 1024 i] (R251). -/
def State.run (s : State) (r : VReg) (b : Nat) : Nat :=
  (List.range b).foldl (fun acc i => acc + (s.v (Fin.ofNat 32 (r.val + i))).toNat <<< (1024 * i)) 0

/-- Elements of width w of a run of b registers (R251). -/
def elems (w b n : Nat) : List Nat := (List.range (1024 / w * b)).map (fun e => (n >>> (w * e)) % 2 ^ w)

/-- A run from the bits of its elements. -/
def packElems (w : Nat) : List Nat → Nat
  | [] => 0
  | x :: xs => x % 2 ^ w + (packElems w xs) <<< w

/-- The bits of a register that a lane mask governs (R251). -/
def laneMask (q : Word32) : VWord :=
  BitVec.ofNat 1024 ((List.range 32).foldl (fun m l => if q.getLsbD l then m + (2 ^ 32 - 1) <<< (32 * l) else m) 0)

/-- Element e of a run of elements of width w is active (R251). -/
def activeAt (q : Word32) (w e : Nat) : Bool := q.getLsbD (w * (e % (1024 / w)) / 32)

/-- Issue on the vector unit for b beats: SCHEDULE when it is busy, outside interlocked mode, where it waits (R52, R55). -/
def State.vecIssue (s : State) (b : Nat) (f : State → State) : Eff :=
  if s.core.busy.vec = 0 then .ok ((f s).modCore (fun c => { c with busy := { c.busy with vec := b } }))
  else if s.core.sys.modeBits.getLsbD 7 then .stall .flight
  else s.fault 9 Cause.schedule

/-- A run of results under a mask and Z: all land together, at the last beat plus the latency (R51, R251, R252). -/
def State.putRun (s : State) (d : VReg) (b lat : Nat) (v : Nat) (act : VWord) (z : Bool) : State :=
  (List.range b).foldl (fun s i =>
    s.put (.vm (Fin.ofNat 32 (d.val + i)) (BitVec.ofNat 1024 (v >>> (1024 * i)) &&& act)
      (if z then BitVec.allOnes 1024 else act)) (b - 1 + lat) false) s

/-- Write the elements of a result under the control fields (R251 to R253). -/
def State.vecOut (s : State) (c : VCtl) (d : VReg) (lat : Nat) (es : List Nat) : Eff :=
  s.vecIssue (c.beats.val + 1) (fun s =>
    s.putRun d (c.beats.val + 1) lat (packElems c.fmt.width es) (laneMask (s.q c.q)) c.z)

/-- The elements of the run of a register under the control fields. -/
def State.vecIn (s : State) (c : VCtl) (r : VReg) : List Nat :=
  elems c.fmt.width (c.beats.val + 1) (s.run r (c.beats.val + 1))

/-- The value of an element (R194, R195), with MODE.FTZ. -/
def State.vnum (s : State) (f : Fmt) (bits : Nat) : Num := decodeElem f s.ftz bits

/-- An exact result as an element (R253). -/
def State.vbits (s : State) (f : Fmt) (sat : Bool) (v : Num) : Nat :=
  (encodeElem f .rne sat s.ftz f.isInt SrKey.none v).bits

/-- An elementwise operation of two operands on exact values. -/
def State.vec2 (s : State) (c : VCtl) (d a b : VReg) (lat : Nat) (sat : Bool) (f : Num → Num → Num) : Eff :=
  s.vecOut c d lat (List.zipWith (fun x y => s.vbits c.fmt sat (f (s.vnum c.fmt x) (s.vnum c.fmt y)))
    (s.vecIn c a) (s.vecIn c b))

/-- An elementwise operation of three operands on exact values. -/
def State.vec3 (s : State) (c : VCtl) (d a b e : VReg) (f : Num → Num → Num → Num) : Eff :=
  s.vecOut c d 4 (List.zipWith (fun x (p : Nat × Nat) =>
    s.vbits c.fmt false (f (s.vnum c.fmt x) (s.vnum c.fmt p.1) (s.vnum c.fmt p.2)))
    (s.vecIn c a) (List.zip (s.vecIn c b) (s.vecIn c e)))

/-- An elementwise operation on the bits of two operands. -/
def State.vecBits (s : State) (c : VCtl) (d a b : VReg) (f : Nat → Nat → Nat) : Eff :=
  s.vecOut c d 2 (List.zipWith f (s.vecIn c a) (s.vecIn c b))

/-- The magnitude of a value. -/
def Num.magnitude : Num → Num
  | .nan => .nan
  | .inf _ => .inf false
  | .fin _ m e => .fin false m e

/-- A signed right shift of w bits. -/
def sraBits (w x n : Nat) : Nat :=
  if x / 2 ^ (w - 1) % 2 = 1 then (x >>> n) + (2 ^ n - 1) * 2 ^ (w - n) else x >>> n

/-- A comparison of two elements (R255). -/
def vcmpOf (c : VCmpCond) (a b : Num) : Bool :=
  match c with
  | .eq => a.eqv b
  | .ne => !a.eqv b
  | .lt => a.lt b
  | .le => a.lt b || a.eqv b
  | .gt => b.lt a
  | .ge => b.lt a || a.eqv b
  | .uo => a.isNan || b.isNan

/-- The terms of a reduction: an inactive element enters as +0 (R260, R261). -/
def State.vterms (s : State) (c : VCtl) (a : VReg) : List Num :=
  let q := s.q c.q
  (s.vecIn c a).zipIdx.map (fun p =>
    if activeAt q c.fmt.width p.2 then s.vnum c.fmt p.1 else Num.zero false)

/-- The modes of a vector sum: wrap, MODE.FTZ (R253). -/
def State.vacc (s : State) : AccMode := { sat := false, ftz := s.ftz }

/-- A reduced value as word 0 of vred's register (R260). -/
def State.vredOf (s : State) (c : VCtl) (a : VReg) (op : RedOp) : Nat :=
  let q := s.q c.q
  let act := ((s.vecIn c a).zipIdx.filter (fun p => activeAt q c.fmt.width p.2)).map (fun p => s.vnum c.fmt p.1)
  if c.fmt.isInt then
    match op with
    | .sum => intBits 32 (sumInt false 0 ((s.vterms c a).map Num.toInt)).1
    | .max => intBits 32 (act.tail.foldl Num.maxRule (act.headD (Num.zero false))).toInt
    | .min => intBits 32 (act.tail.foldl Num.minRule (act.headD (Num.zero false))).toInt
  else
    match op with
    | .sum => (sumFp s.vacc (Num.zero false) (s.vterms c a)).1.toFp32.toNat
    | .max => (act.tail.foldl Num.maxRule (act.headD .nan)).toFp32.toNat
    | .min => (act.tail.foldl Num.minRule (act.headD .nan)).toFp32.toNat

/-- The prefix sums of vscn (R261). -/
def State.vscnOf (s : State) (c : VCtl) (a : VReg) : List Nat :=
  let ts := s.vterms c a
  (List.range ts.length).map (fun e =>
    if c.fmt.isInt then intBits c.fmt.width (sumInt false 0 ((ts.take (e + 1)).map Num.toInt)).1
    else s.vbits c.fmt false (sumFp s.vacc (Num.zero false) (ts.take (e + 1))).1)

/-- One lane of vdot (R262): the products of the lane's elements as one block on top of acc0. -/
def State.vdotLane (s : State) (f : Fmt) (a b : List Nat) (acc0 : Nat) : Nat :=
  let ps := List.zipWith (fun x y => (s.vnum f x).mul (s.vnum f y)) a b
  if f.isInt then intBits 32 ((BitVec.ofNat 32 acc0).toInt + (ps.map Num.toInt).foldl (· + ·) 0)
  else (accStep s.vacc (decodeFp32 s.ftz (BitVec.ofNat 32 acc0)) (blockSum ps)).1.toFp32.toNat

/-- Counter and key of a stochastic vcvt for element e (R258). -/
def State.vcvtKey (s : State) (e : Nat) : SrKey :=
  let ctr := BitVec.ofNat 64 (e % 2 ^ 16 + (s.lc 0).toNat % 65536 * 2 ^ 16 + (s.lc 1).toNat % 65536 * 2 ^ 32 +
    (s.lc 2).toNat % 65536 * 2 ^ 48)
  let x7 : Word32 := match s.core.task with
    | some t => BitVec.ofNat 32 t.number
    | none => 0
  let a : Word32 := (s.core.pc >>> 6).setWidth 32
  let lo : Word32 := s.core.sys.rndSeed.setWidth 32 ^^^ a
  let hi : Word32 := (s.core.sys.rndSeed >>> 32).setWidth 32 ^^^ x7 ^^^ 0x4000_0000
  { ctr := ctr, key := hi ++ lo }

/-- The low n bits of a register. -/
def lowBits (n : Nat) : VWord := BitVec.ofNat 1024 (2 ^ (min n 1024) - 1)

/-- An element as vmvx writes it (R265). -/
def vmvxBits (f : Fmt) (bits : Nat) : Word := fcvtBits f bits

/-! ### The instructions -/

/-- vadd: a + b (R253, R254). -/
def effVadd (c : VCtl) (d a b : VReg) (sat : Bool) (s : State) : Eff :=
  s.vec2 c d a b 2 sat (fun x y => x.add y false)
/-- vadd by itself. -/
def execVadd (c : VCtl) (d a b : VReg) (sat : Bool) (s : State) : Out := settle s (effVadd c d a b sat s)

/-- vsub: a − b (R253, R254). -/
def effVsub (c : VCtl) (d a b : VReg) (sat : Bool) (s : State) : Eff :=
  s.vec2 c d a b 2 sat (fun x y => x.add y.negate false)
/-- vsub by itself. -/
def execVsub (c : VCtl) (d a b : VReg) (sat : Bool) (s : State) : Out := settle s (effVsub c d a b sat s)

/-- vmul: a × b (R253, R254). -/
def effVmul (c : VCtl) (d a b : VReg) (sat : Bool) (s : State) : Eff := s.vec2 c d a b 4 sat (fun x y => x.mul y)
/-- vmul by itself. -/
def execVmul (c : VCtl) (d a b : VReg) (sat : Bool) (s : State) : Out := settle s (effVmul c d a b sat s)

/-- vfma: a × b + c with one rounding (R254). -/
def effVfma (c : VCtl) (d a b e : VReg) (s : State) : Eff := s.vec3 c d a b e (fun x y z => (x.mul y).add z false)
/-- vfma by itself. -/
def execVfma (c : VCtl) (d a b e : VReg) (s : State) : Out := settle s (effVfma c d a b e s)

/-- vfms: a × b − c with one rounding (R254). -/
def effVfms (c : VCtl) (d a b e : VReg) (s : State) : Eff :=
  s.vec3 c d a b e (fun x y z => (x.mul y).add z.negate false)
/-- vfms by itself. -/
def execVfms (c : VCtl) (d a b e : VReg) (s : State) : Out := settle s (effVfms c d a b e s)

/-- vmin (R213, R254). -/
def effVmin (c : VCtl) (d a b : VReg) (s : State) : Eff := s.vec2 c d a b 2 false Num.minRule
/-- vmin by itself. -/
def execVmin (c : VCtl) (d a b : VReg) (s : State) : Out := settle s (effVmin c d a b s)

/-- vmax (R213, R254). -/
def effVmax (c : VCtl) (d a b : VReg) (s : State) : Eff := s.vec2 c d a b 2 false Num.maxRule
/-- vmax by itself. -/
def execVmax (c : VCtl) (d a b : VReg) (s : State) : Out := settle s (effVmax c d a b s)

/-- vabs (R254). -/
def effVabs (c : VCtl) (d a : VReg) (sat : Bool) (s : State) : Eff :=
  s.vecOut c d 2 ((s.vecIn c a).map (fun x => s.vbits c.fmt sat (s.vnum c.fmt x).magnitude))
/-- vabs by itself. -/
def execVabs (c : VCtl) (d a : VReg) (sat : Bool) (s : State) : Out := settle s (effVabs c d a sat s)

/-- vneg (R254). -/
def effVneg (c : VCtl) (d a : VReg) (sat : Bool) (s : State) : Eff :=
  s.vecOut c d 2 ((s.vecIn c a).map (fun x => s.vbits c.fmt sat (s.vnum c.fmt x).negate))
/-- vneg by itself. -/
def execVneg (c : VCtl) (d a : VReg) (sat : Bool) (s : State) : Out := settle s (effVneg c d a sat s)

/-- vand (R254). -/
def effVand (c : VCtl) (d a b : VReg) (s : State) : Eff := s.vecBits c d a b (fun x y => x &&& y)
/-- vand by itself. -/
def execVand (c : VCtl) (d a b : VReg) (s : State) : Out := settle s (effVand c d a b s)

/-- vor (R254). -/
def effVor (c : VCtl) (d a b : VReg) (s : State) : Eff := s.vecBits c d a b (fun x y => x ||| y)
/-- vor by itself. -/
def execVor (c : VCtl) (d a b : VReg) (s : State) : Out := settle s (effVor c d a b s)

/-- vxor (R254). -/
def effVxor (c : VCtl) (d a b : VReg) (s : State) : Eff := s.vecBits c d a b (fun x y => x ^^^ y)
/-- vxor by itself. -/
def execVxor (c : VCtl) (d a b : VReg) (s : State) : Out := settle s (effVxor c d a b s)

/-- vshl (R254). -/
def effVshl (c : VCtl) (d a b : VReg) (s : State) : Eff :=
  s.vecBits c d a b (fun x y => (x <<< (y % c.fmt.width)) % 2 ^ c.fmt.width)
/-- vshl by itself. -/
def execVshl (c : VCtl) (d a b : VReg) (s : State) : Out := settle s (effVshl c d a b s)

/-- vshr (R254). -/
def effVshr (c : VCtl) (d a b : VReg) (s : State) : Eff := s.vecBits c d a b (fun x y => x >>> (y % c.fmt.width))
/-- vshr by itself. -/
def execVshr (c : VCtl) (d a b : VReg) (s : State) : Out := settle s (effVshr c d a b s)

/-- vsra: copies of the element's top bit in, UINT8 included (R254, DEDUCED, log entry 21). -/
def effVsra (c : VCtl) (d a b : VReg) (s : State) : Eff :=
  s.vecBits c d a b (fun x y => sraBits c.fmt.width x (y % c.fmt.width))
/-- vsra by itself. -/
def execVsra (c : VCtl) (d a b : VReg) (s : State) : Out := settle s (effVsra c d a b s)

/-- vcmp (R255). -/
def effVcmp (q : QReg) (z : Bool) (fmt : Fmt) (d : QReg) (a b : VReg) (cond : VCmpCond) (s : State) : Eff :=
  let n := 32 / fmt.width
  let hold (l : Nat) : Bool := (List.range n).all (fun j =>
    vcmpOf cond (s.vnum fmt (((s.v a).toNat >>> (32 * l + fmt.width * j)) % 2 ^ fmt.width))
      (s.vnum fmt (((s.v b).toNat >>> (32 * l + fmt.width * j)) % 2 ^ fmt.width)))
  let r : Word32 := BitVec.ofNat 32 ((List.range 32).foldl (fun m l => if hold l then m + 2 ^ l else m) 0)
  s.vecIssue 1 (fun s => s.put (.q d (r &&& s.q q) (if z then 0xFFFF_FFFF else s.q q)) 2 false)
/-- vcmp by itself. -/
def execVcmp (q : QReg) (z : Bool) (fmt : Fmt) (d : QReg) (a b : VReg) (cond : VCmpCond) (s : State) : Out := settle s (effVcmp q z fmt d a b cond s)

/-- vsel (R256). -/
def effVsel (c : VCtl) (d a b : VReg) (qs : QReg) (s : State) : Eff :=
  s.vecOut c d 2 ((List.zip (s.vecIn c a) (s.vecIn c b)).zipIdx.map (fun p =>
    if activeAt (s.q qs) c.fmt.width p.2 then p.1.1 else p.1.2))
/-- vsel by itself. -/
def execVsel (c : VCtl) (d a b : VReg) (qs : QReg) (s : State) : Out := settle s (effVsel c d a b qs s)

/-- vcvt (R257, R258). -/
def effVcvt (c : VCtl) (d a : VReg) (t : Fmt) (r : Rnd) (sat : Bool) (s : State) : Eff :=
  let b := c.beats.val + 1
  let n := b * 1024 / max c.fmt.width t.width
  let src := (elems c.fmt.width (vcvtRun c.beats c.fmt.width t.width)
    (s.run a (vcvtRun c.beats c.fmt.width t.width))).take n
  let out := src.zipIdx.map (fun p =>
    if c.fmt = t then p.1
    else (encodeElem t r sat s.ftz c.fmt.isInt (s.vcvtKey p.2) (s.vnum c.fmt p.1)).bits)
  let v := packElems t.width out
  s.vecIssue b (fun s =>
    (List.range (vcvtRun c.beats t.width c.fmt.width)).foldl (fun s i =>
      let act := laneMask (s.q c.q) &&& lowBits (n * t.width - 1024 * i)
      s.put (.vm (Fin.ofNat 32 (d.val + i)) (BitVec.ofNat 1024 (v >>> (1024 * i)) &&& act)
        (if c.z then BitVec.allOnes 1024 else act)) (b - 1 + 3) false) s)
/-- vcvt by itself. -/
def execVcvt (c : VCtl) (d a : VReg) (t : Fmt) (r : Rnd) (sat : Bool) (s : State) : Out := settle s (effVcvt c d a t r sat s)

/-- vfun (R259). -/
def effVfun (c : VCtl) (d a : VReg) (fn : FunCode) (s : State) : Eff :=
  s.vecOut c d 8 ((s.vecIn c a).map (fun x => s.vbits c.fmt false (applyFun fn s.ftz (s.vnum c.fmt x)).1))
/-- vfun by itself. -/
def execVfun (c : VCtl) (d a : VReg) (fn : FunCode) (s : State) : Out := settle s (effVfun c d a fn s)

/-- vred (R260): word 0, whatever q and Z say. -/
def effVred (c : VCtl) (d a : VReg) (op : RedOp) (s : State) : Eff :=
  let r := s.vredOf c a op
  s.vecIssue (c.beats.val + 1) (fun s => s.put (.v d (BitVec.ofNat 1024 r)) (c.beats.val + 6) false)
/-- vred by itself. -/
def execVred (c : VCtl) (d a : VReg) (op : RedOp) (s : State) : Out := settle s (effVred c d a op s)

/-- vscn (R261). -/
def effVscn (c : VCtl) (d a : VReg) (s : State) : Eff := s.vecOut c d 6 (s.vscnOf c a)
/-- vscn by itself. -/
def execVscn (c : VCtl) (d a : VReg) (s : State) : Out := settle s (effVscn c d a s)

/-- vperm (R263). -/
def effVperm (c : VCtl) (d a b : VReg) (s : State) : Eff :=
  let src := s.vecIn c a
  s.vecOut c d 3 ((s.vecIn c b).map (fun i => (src[i % src.length]?).getD 0))
/-- vperm by itself. -/
def execVperm (c : VCtl) (d a b : VReg) (s : State) : Out := settle s (effVperm c d a b s)

/-- vshf (R264). -/
def effVshf (c : VCtl) (d a b : VReg) (m : ShfMode) (s : State) : Eff :=
  let x := s.vecIn c a
  let y := s.vecIn c b
  let n := x.length
  let pick (i : Nat) : Nat := match m with
    | .zlo => if i % 2 = 0 then (x[i / 2]?).getD 0 else (y[i / 2]?).getD 0
    | .zhi => if i % 2 = 0 then (x[n / 2 + i / 2]?).getD 0 else (y[n / 2 + i / 2]?).getD 0
    | .uev => if 2 * i < n then (x[2 * i]?).getD 0 else (y[2 * i - n]?).getD 0
    | .uod => if 2 * i + 1 < n then (x[2 * i + 1]?).getD 0 else (y[2 * i + 1 - n]?).getD 0
    | .rev => (x[n - 1 - i]?).getD 0
  s.vecOut c d 3 ((List.range n).map pick)
/-- vshf by itself. -/
def execVshf (c : VCtl) (d a b : VReg) (m : ShfMode) (s : State) : Out := settle s (effVshf c d a b m s)

/-- vbcs (R265). -/
def effVbcs (c : VCtl) (d : VReg) (src : XReg) (s : State) : Eff :=
  s.vecOut c d 2 (List.replicate (1024 / c.fmt.width * (c.beats.val + 1)) ((s.x src).toNat % 2 ^ c.fmt.width))
/-- vbcs by itself. -/
def execVbcs (c : VCtl) (d : VReg) (src : XReg) (s : State) : Out := settle s (effVbcs c d src s)

/-- vmvx (R265). -/
def effVmvx (fmt : Fmt) (d : XReg) (b : VReg) (i : Fin 512) (s : State) : Eff :=
  let v := vmvxBits fmt (((s.v b).toNat >>> (fmt.width * i.val)) % 2 ^ fmt.width)
  s.vecIssue 1 (fun s => s.putX d v 3 false)
/-- vmvx by itself. -/
def execVmvx (fmt : Fmt) (d : XReg) (b : VReg) (i : Fin 512) (s : State) : Out := settle s (effVmvx fmt d b i s)

/-- vins (R265): the other elements are not written. -/
def effVins (fmt : Fmt) (d : VReg) (src : XReg) (i : Fin 512) (s : State) : Eff :=
  let v : VWord := BitVec.ofNat 1024 (((s.x src).toNat % 2 ^ fmt.width) <<< (fmt.width * i.val))
  let m : VWord := BitVec.ofNat 1024 ((2 ^ fmt.width - 1) <<< (fmt.width * i.val))
  s.vecIssue 1 (fun s => s.put (.vm d v m) 2 false)
/-- vins by itself. -/
def execVins (fmt : Fmt) (d : VReg) (src : XReg) (i : Fin 512) (s : State) : Out := settle s (effVins fmt d src i s)

/-- The draw of vrng (R226, R267). -/
def drawVrng (c : VCtl) (d a : VReg) (n : RngRounds) (hi : Bool) (s : State) : Eff :=
  let v := (s.v a).toNat
  let base : Word := BitVec.ofNat 64 v
  let key : Word := BitVec.ofNat 64 (v >>> 64)
  let rounds := match n with
    | .n4 => 4
    | .n8 => 8
    | .n12 => 12
  s.vecOut c d 6 ((List.range (32 * (c.beats.val + 1))).map (fun l =>
    let y := (rngc (base + BitVec.ofNat 64 l) key rounds).toNat
    if c.fmt = .fp32 then s.vbits .fp32 false (.fin false (y / 2 ^ 8 % 2 ^ 24) (-24))
    else if hi then y / 2 ^ 32 else y % 2 ^ 32))
/-- vrng (R226, R267), behind the feature mask (R399). -/
def effVrng (c : VCtl) (d a : VReg) (n : RngRounds) (hi : Bool) (s : State) : Eff :=
  s.guarded (.vrng c d a n hi) (drawVrng c d a n hi s)
/-- vrng by itself. -/
def execVrng (c : VCtl) (d a : VReg) (n : RngRounds) (hi : Bool) (s : State) : Out := settle s (effVrng c d a n hi s)

/-- viota (R266). -/
def effViota (c : VCtl) (d : VReg) (s : State) : Eff :=
  s.vecOut c d 2 ((List.range (1024 / c.fmt.width * (c.beats.val + 1))).map (fun (e : Nat) =>
    s.vbits c.fmt false (Num.ofInt e)))
/-- viota by itself. -/
def execViota (c : VCtl) (d : VReg) (s : State) : Out := settle s (effViota c d s)

/-- vdot (R262). -/
def effVdot (c : VCtl) (d a b e : VReg) (s : State) : Eff :=
  let b' := c.beats.val + 1
  let k := 32 / c.fmt.width
  let x := s.vecIn c a
  let y := s.vecIn c b
  let z := elems 32 b' (s.run e b')
  let r := (List.range (32 * b')).map (fun l =>
    s.vdotLane c.fmt ((x.drop (k * l)).take k) ((y.drop (k * l)).take k) ((z[l]?).getD 0))
  s.vecIssue b' (fun s => s.putRun d b' 4 (packElems 32 r) (laneMask (s.q c.q)) c.z)
/-- vdot by itself. -/
def execVdot (c : VCtl) (d a b e : VReg) (s : State) : Out := settle s (effVdot c d a b e s)

/-- vmov: the bits of a (R254). -/
def effVmov (c : VCtl) (d a : VReg) (s : State) : Eff := s.vecOut c d 2 (s.vecIn c a)
/-- vmov by itself. -/
def execVmov (c : VCtl) (d a : VReg) (s : State) : Out := settle s (effVmov c d a s)

/-- vlit (R266). -/
def effVlit (c : VCtl) (d : VReg) (_k : Fin 4) (v : BitVec 32) (s : State) : Eff :=
  s.vecOut c d 2 (List.replicate (1024 / c.fmt.width * (c.beats.val + 1)) (v.toNat % 2 ^ c.fmt.width))
/-- vlit by itself. -/
def execVlit (c : VCtl) (d : VReg) (_k : Fin 4) (v : BitVec 32) (s : State) : Out := settle s (effVlit c d _k v s)

end Sys2Proof.Machine
end

