-- ==== Sys2Proof/Machine/Slot.lean ====
section
/-! DEFINITION. The effect of an instruction as a slot of a bundle: for each slot instruction the effect that its own
meaning settles. The events of the package stand in no slot. -/

namespace Sys2Proof.Machine

/-- The effect of an instruction at its issue in a slot. -/
def slotEff (i : Instr) (s : State) : Eff :=
  match i with
  | .nop => effNop s
  | .add a0 a1 a2 => effAdd a0 a1 a2 s
  | .addImm a0 a1 a2 => effAddImm a0 a1 a2 s
  | .addLit a0 a1 a2 => effAddLit a0 a1 a2 s
  | .sub a0 a1 a2 => effSub a0 a1 a2 s
  | .subImm a0 a1 a2 => effSubImm a0 a1 a2 s
  | .subLit a0 a1 a2 => effSubLit a0 a1 a2 s
  | .mul a0 a1 a2 => effMul a0 a1 a2 s
  | .mulImm a0 a1 a2 => effMulImm a0 a1 a2 s
  | .mulLit a0 a1 a2 => effMulLit a0 a1 a2 s
  | .mulh a0 a1 a2 => effMulh a0 a1 a2 s
  | .mulhImm a0 a1 a2 => effMulhImm a0 a1 a2 s
  | .mulhLit a0 a1 a2 => effMulhLit a0 a1 a2 s
  | .mulhu a0 a1 a2 => effMulhu a0 a1 a2 s
  | .mulhuImm a0 a1 a2 => effMulhuImm a0 a1 a2 s
  | .mulhuLit a0 a1 a2 => effMulhuLit a0 a1 a2 s
  | .div a0 a1 a2 => effDiv a0 a1 a2 s
  | .divImm a0 a1 a2 => effDivImm a0 a1 a2 s
  | .divLit a0 a1 a2 => effDivLit a0 a1 a2 s
  | .divu a0 a1 a2 => effDivu a0 a1 a2 s
  | .divuImm a0 a1 a2 => effDivuImm a0 a1 a2 s
  | .divuLit a0 a1 a2 => effDivuLit a0 a1 a2 s
  | .rem a0 a1 a2 => effRem a0 a1 a2 s
  | .remImm a0 a1 a2 => effRemImm a0 a1 a2 s
  | .remLit a0 a1 a2 => effRemLit a0 a1 a2 s
  | .remu a0 a1 a2 => effRemu a0 a1 a2 s
  | .remuImm a0 a1 a2 => effRemuImm a0 a1 a2 s
  | .remuLit a0 a1 a2 => effRemuLit a0 a1 a2 s
  | .and a0 a1 a2 => effAnd a0 a1 a2 s
  | .andImm a0 a1 a2 => effAndImm a0 a1 a2 s
  | .andLit a0 a1 a2 => effAndLit a0 a1 a2 s
  | .or a0 a1 a2 => effOr a0 a1 a2 s
  | .orImm a0 a1 a2 => effOrImm a0 a1 a2 s
  | .orLit a0 a1 a2 => effOrLit a0 a1 a2 s
  | .xor a0 a1 a2 => effXor a0 a1 a2 s
  | .xorImm a0 a1 a2 => effXorImm a0 a1 a2 s
  | .xorLit a0 a1 a2 => effXorLit a0 a1 a2 s
  | .andn a0 a1 a2 => effAndn a0 a1 a2 s
  | .andnImm a0 a1 a2 => effAndnImm a0 a1 a2 s
  | .andnLit a0 a1 a2 => effAndnLit a0 a1 a2 s
  | .shl a0 a1 a2 => effShl a0 a1 a2 s
  | .shlImm a0 a1 a2 => effShlImm a0 a1 a2 s
  | .shlLit a0 a1 a2 => effShlLit a0 a1 a2 s
  | .shr a0 a1 a2 => effShr a0 a1 a2 s
  | .shrImm a0 a1 a2 => effShrImm a0 a1 a2 s
  | .shrLit a0 a1 a2 => effShrLit a0 a1 a2 s
  | .sra a0 a1 a2 => effSra a0 a1 a2 s
  | .sraImm a0 a1 a2 => effSraImm a0 a1 a2 s
  | .sraLit a0 a1 a2 => effSraLit a0 a1 a2 s
  | .rotl a0 a1 a2 => effRotl a0 a1 a2 s
  | .rotlImm a0 a1 a2 => effRotlImm a0 a1 a2 s
  | .rotlLit a0 a1 a2 => effRotlLit a0 a1 a2 s
  | .min a0 a1 a2 => effMin a0 a1 a2 s
  | .minImm a0 a1 a2 => effMinImm a0 a1 a2 s
  | .minLit a0 a1 a2 => effMinLit a0 a1 a2 s
  | .max a0 a1 a2 => effMax a0 a1 a2 s
  | .maxImm a0 a1 a2 => effMaxImm a0 a1 a2 s
  | .maxLit a0 a1 a2 => effMaxLit a0 a1 a2 s
  | .minu a0 a1 a2 => effMinu a0 a1 a2 s
  | .minuImm a0 a1 a2 => effMinuImm a0 a1 a2 s
  | .minuLit a0 a1 a2 => effMinuLit a0 a1 a2 s
  | .maxu a0 a1 a2 => effMaxu a0 a1 a2 s
  | .maxuImm a0 a1 a2 => effMaxuImm a0 a1 a2 s
  | .maxuLit a0 a1 a2 => effMaxuLit a0 a1 a2 s
  | .sel a0 a1 a2 a3 => effSel a0 a1 a2 a3 s
  | .mov a0 a1 => effMov a0 a1 s
  | .movImm a0 a1 => effMovImm a0 a1 s
  | .movLit a0 a1 => effMovLit a0 a1 s
  | .ext a0 a1 a2 a3 => effExt a0 a1 a2 a3 s
  | .bitClz a0 a1 => effBitClz a0 a1 s
  | .bitCtz a0 a1 => effBitCtz a0 a1 s
  | .bitPopc a0 a1 => effBitPopc a0 a1 s
  | .bitBrev a0 a1 => effBitBrev a0 a1 s
  | .cmp a0 a1 a2 a3 => effCmp a0 a1 a2 a3 s
  | .plog a0 a1 a2 a3 => effPlog a0 a1 a2 a3 s
  | .faddS a0 a1 a2 => effFaddS a0 a1 a2 s
  | .faddSLit a0 a1 a2 a3 => effFaddSLit a0 a1 a2 a3 s
  | .fsubS a0 a1 a2 => effFsubS a0 a1 a2 s
  | .fsubSLit a0 a1 a2 a3 => effFsubSLit a0 a1 a2 a3 s
  | .fmulS a0 a1 a2 => effFmulS a0 a1 a2 s
  | .fmulSLit a0 a1 a2 a3 => effFmulSLit a0 a1 a2 a3 s
  | .ffmaS a0 a1 a2 => effFfmaS a0 a1 a2 s
  | .ffmaSLit a0 a1 a2 a3 => effFfmaSLit a0 a1 a2 a3 s
  | .fminS a0 a1 a2 => effFminS a0 a1 a2 s
  | .fminSLit a0 a1 a2 a3 => effFminSLit a0 a1 a2 a3 s
  | .fmaxS a0 a1 a2 => effFmaxS a0 a1 a2 s
  | .fmaxSLit a0 a1 a2 a3 => effFmaxSLit a0 a1 a2 a3 s
  | .fcmp a0 a1 a2 a3 => effFcmp a0 a1 a2 a3 s
  | .fcvtTo a0 a1 a2 a3 => effFcvtTo a0 a1 a2 a3 s
  | .fcvtFrom a0 a1 a2 a3 => effFcvtFrom a0 a1 a2 a3 s
  | .mfs a0 a1 => effMfs a0 a1 s
  | .mts a0 a1 => effMts a0 a1 s
  | .rsvWrite a0 a1 => effRsvWrite a0 a1 s
  | .injDropreplyArm a0 => effInjDropreplyArm a0 s
  | .cmpt a0 a1 => effCmpt a0 a1 s
  | .crd a0 a1 => effCrd a0 a1 s
  | .cwr a0 a1 a2 a3 => effCwr a0 a1 a2 a3 s
  | .cwrImm a0 a1 a2 a3 => effCwrImm a0 a1 a2 a3 s
  | .lcr a0 a1 => effLcr a0 a1 s
  | .ldB a0 a1 a2 => effLdB a0 a1 a2 s
  | .ldBu a0 a1 a2 => effLdBu a0 a1 a2 s
  | .ldH a0 a1 a2 => effLdH a0 a1 a2 s
  | .ldHu a0 a1 a2 => effLdHu a0 a1 a2 s
  | .ldW a0 a1 a2 => effLdW a0 a1 a2 s
  | .ldWu a0 a1 a2 => effLdWu a0 a1 a2 s
  | .ldD a0 a1 a2 => effLdD a0 a1 a2 s
  | .stB a0 a1 a2 => effStB a0 a1 a2 s
  | .stH a0 a1 a2 => effStH a0 a1 a2 s
  | .stW a0 a1 a2 => effStW a0 a1 a2 s
  | .stD a0 a1 a2 => effStD a0 a1 a2 s
  | .vld a0 a1 a2 => effVld a0 a1 a2 s
  | .vst a0 a1 a2 => effVst a0 a1 a2 s
  | .vlds a0 a1 a2 a3 => effVlds a0 a1 a2 a3 s
  | .vsts a0 a1 a2 a3 => effVsts a0 a1 a2 a3 s
  | .vgth a0 a1 a2 => effVgth a0 a1 a2 s
  | .vsct a0 a1 a2 => effVsct a0 a1 a2 s
  | .vadd a0 a1 a2 a3 a4 => effVadd a0 a1 a2 a3 a4 s
  | .vsub a0 a1 a2 a3 a4 => effVsub a0 a1 a2 a3 a4 s
  | .vmul a0 a1 a2 a3 a4 => effVmul a0 a1 a2 a3 a4 s
  | .vfma a0 a1 a2 a3 a4 => effVfma a0 a1 a2 a3 a4 s
  | .vfms a0 a1 a2 a3 a4 => effVfms a0 a1 a2 a3 a4 s
  | .vmin a0 a1 a2 a3 => effVmin a0 a1 a2 a3 s
  | .vmax a0 a1 a2 a3 => effVmax a0 a1 a2 a3 s
  | .vabs a0 a1 a2 a3 => effVabs a0 a1 a2 a3 s
  | .vneg a0 a1 a2 a3 => effVneg a0 a1 a2 a3 s
  | .vand a0 a1 a2 a3 => effVand a0 a1 a2 a3 s
  | .vor a0 a1 a2 a3 => effVor a0 a1 a2 a3 s
  | .vxor a0 a1 a2 a3 => effVxor a0 a1 a2 a3 s
  | .vshl a0 a1 a2 a3 => effVshl a0 a1 a2 a3 s
  | .vshr a0 a1 a2 a3 => effVshr a0 a1 a2 a3 s
  | .vsra a0 a1 a2 a3 => effVsra a0 a1 a2 a3 s
  | .vcmp a0 a1 a2 a3 a4 a5 a6 => effVcmp a0 a1 a2 a3 a4 a5 a6 s
  | .vsel a0 a1 a2 a3 a4 => effVsel a0 a1 a2 a3 a4 s
  | .vcvt a0 a1 a2 a3 a4 a5 => effVcvt a0 a1 a2 a3 a4 a5 s
  | .vfun a0 a1 a2 a3 => effVfun a0 a1 a2 a3 s
  | .vred a0 a1 a2 a3 => effVred a0 a1 a2 a3 s
  | .vscn a0 a1 a2 => effVscn a0 a1 a2 s
  | .vperm a0 a1 a2 a3 => effVperm a0 a1 a2 a3 s
  | .vshf a0 a1 a2 a3 a4 => effVshf a0 a1 a2 a3 a4 s
  | .vbcs a0 a1 a2 => effVbcs a0 a1 a2 s
  | .vmvx a0 a1 a2 a3 => effVmvx a0 a1 a2 a3 s
  | .vins a0 a1 a2 a3 => effVins a0 a1 a2 a3 s
  | .vrng a0 a1 a2 a3 a4 => effVrng a0 a1 a2 a3 a4 s
  | .viota a0 a1 => effViota a0 a1 s
  | .vdot a0 a1 a2 a3 a4 => effVdot a0 a1 a2 a3 a4 s
  | .vmov a0 a1 a2 => effVmov a0 a1 a2 s
  | .vlit a0 a1 a2 a3 => effVlit a0 a1 a2 a3 s
  | .tld a0 a1 a2 a3 a4 => effTld a0 a1 a2 a3 a4 s
  | .tzer a0 a1 => effTzer a0 a1 s
  | .tfil a0 a1 a2 => effTfil a0 a1 a2 s
  | .tdup => effTdup s
  | .tdrp => effTdrp s
  | .tswp => effTswp s
  | .tpk a0 => effTpk a0 s
  | .trot a0 => effTrot a0 s
  | .trtd a0 => effTrtd a0 s
  | .tmma a0 => effTmma a0 s
  | .tmmaD a0 => effTmmaD a0 s
  | .tmac a0 => effTmac a0 s
  | .tmacD a0 => effTmacD a0 s
  | .tadd a0 => effTadd a0 s
  | .taddD a0 => effTaddD a0 s
  | .tsub a0 => effTsub a0 s
  | .tmul a0 => effTmul a0 s
  | .tmax a0 => effTmax a0 s
  | .tmin a0 => effTmin a0 s
  | .tscl a0 a1 a2 => effTscl a0 a1 a2 s
  | .tbia a0 a1 => effTbia a0 a1 s
  | .tfun a0 a1 => effTfun a0 a1 s
  | .tred a0 a1 a2 => effTred a0 a1 a2 s
  | .tsmx a0 => effTsmx a0 s
  | .ttrn a0 => effTtrn a0 s
  | .tcvt a0 => effTcvt a0 s
  | .tslc a0 a1 => effTslc a0 a1 s
  | .tcat a0 a1 => effTcat a0 a1 s
  | .tbcs a0 a1 => effTbcs a0 a1 s
  | .tmsk a0 a1 => effTmsk a0 a1 s
  | .tchk => effTchk s
  | .tst a0 a1 a2 => effTst a0 a1 a2 s
  | .tfrc a0 a1 a2 => effTfrc a0 a1 a2 s
  | .scpy a0 a1 a2 a3 => effScpy a0 a1 a2 a3 s
  | .sacc a0 a1 a2 a3 => effSacc a0 a1 a2 a3 s
  | .satmFadd a0 a1 a2 => effSatmFadd a0 a1 a2 s
  | .satmFmin a0 a1 a2 => effSatmFmin a0 a1 a2 s
  | .satmFmax a0 a1 a2 => effSatmFmax a0 a1 a2 s
  | .satmSwap a0 a1 a2 => effSatmSwap a0 a1 a2 s
  | .satmCas a0 a1 a2 => effSatmCas a0 a1 a2 s
  | .satmIadd a0 a1 a2 => effSatmIadd a0 a1 a2 s
  | .satmAnd a0 a1 a2 => effSatmAnd a0 a1 a2 s
  | .satmOr a0 a1 a2 => effSatmOr a0 a1 a2 s
  | .satmXor a0 a1 a2 => effSatmXor a0 a1 a2 s
  | .ssig a0 a1 a2 a3 a4 => effSsig a0 a1 a2 a3 a4 s
  | .ssigRel a0 a1 a2 a3 a4 a5 => effSsigRel a0 a1 a2 a3 a4 a5 s
  | .sgth a0 a1 a2 a3 a4 => effSgth a0 a1 a2 a3 a4 s
  | .sbar a0 a1 a2 => effSbar a0 a1 a2 s
  | .sdrn a0 => effSdrn a0 s
  | .fenceAcq a0 a1 => effFenceAcq a0 a1 s
  | .fenceRel a0 a1 => effFenceRel a0 a1 s
  | .fenceSc a0 a1 => effFenceSc a0 a1 s
  | .l2wb a0 a1 => effL2wb a0 a1 s
  | .l2inv a0 a1 => effL2inv a0 a1 s
  | .l2pf a0 a1 a2 => effL2pf a0 a1 a2 s
  | .sxfr a0 a1 a2 => effSxfr a0 a1 a2 s
  | .br a0 => effBr a0 s
  | .call a0 => effCall a0 s
  | .ret => effRet s
  | .jmpr a0 => effJmpr a0 s
  | .loop a0 a1 => effLoop a0 a1 s
  | .loopr a0 a1 => effLoopr a0 a1 s
  | .lbrk => effLbrk s
  | .ckpt => effCkpt s
  | .rdv a0 => effRdv a0 s
  | .slack a0 => effSlack a0 s
  | .sstep a0 a1 => effSstep a0 a1 s
  | .exit a0 a1 a2 a3 => effExit a0 a1 a2 a3 s
  | .halt => effHalt s
  | .launch a0 a1 => effLaunch a0 a1 s
  | .launchGraph a0 a1 => effLaunchGraph a0 a1 s
  | .fset a0 => effFset a0 s
  | .fclr a0 => effFclr a0 s
  | .cset a0 a1 => effCset a0 a1 s
  | .brk a0 => effBrk a0 s
  | .trap a0 => effTrap a0 s
  | .rte => effRte s
  | .xbnd a0 => effXbnd a0 s
  | .icinv a0 a1 a2 a3 => effIcinv a0 a1 a2 a3 s
  | .tlbiAll a0 a1 => effTlbiAll a0 a1 s
  | .tlbiTensor a0 a1 a2 a3 => effTlbiTensor a0 a1 a2 a3 s
  | .tlbiRange a0 a1 a2 a3 => effTlbiRange a0 a1 a2 a3 s
  | .mode a0 a1 => effMode a0 a1 s
  | .yield => effYield s
  | _ => .ok s

end Sys2Proof.Machine
end

