-- ==== Sys2Proof/Machine/Bundle.lean ====
section
/-! DEFINITION. The sequencer (spec/03 R39 to R55): fetch, SYNC, the checks of R46, groups and chaining, the issue of a
bundle, positions, and the interlocked mode. -/

namespace Sys2Proof.Machine

/-! ### Fetch (R39, R289, R375) -/

/-- How a fetch ends. -/
inductive Fetched where
  | word (w : Nat)
  | fault (cause : BitVec 6)
  | stall (w : Stall)
  deriving DecidableEq, Repr

/-- The focused core reads the bundle of an address at its home slice: an icinv that reached it has named the bundle, and no stale one
may issue (R289, R394; DEDUCED, log entry 114). -/
def State.codeAtHome (s : State) (pc : Nat) : Bool :=
  s.l2.afresh.any (fun a => a.core.all (fun c => c == s.cur) && a.die.all (fun d => d == s.core.die) &&
    decide (a.lo ≤ pc) && decide (pc < a.hi))

/-- The bundle at the pc as memory holds it; of a block with an error or poison, what hardware sees of it (R68). -/
def State.fetchFresh (s : State) : State × Fetched :=
  let pc := s.core.pc.toNat
  match s.ctx? s.ctxNo with
  | none => (s, .fault Cause.address)
  | some c =>
    if c.controlExtent < pc + 64 then (s, .fault Cause.address)
    else
      let r := s.controlAt s.ctxNo pc false
      match r.2 with
      | .ok bit _ _ =>
        let q := r.1.readMain s.core.die (bit / 8) 64 { Fetch.plain with home := s.codeAtHome pc }
        if q.2.2.isSome then (q.1.bump, .word (leNat (q.1.seen (bit / 8) 64))) else (q.1, .word (leNat q.2.1))
      | .fault k _ => (r.1, .fault k)
      | .page tile => (r.1, .stall (.page 0 tile))
      | .stage2 g tile => (r.1, .stall (.stage2 g 0 tile false))
      | .moving _ => (r.1, .stall .moving)

/-- The copy of the loop buffer or the instruction cache. -/
def Core.cached (c : Core) (pc : Nat) : Option (BitVec 512) := (lookupNat pc c.loopBuf).or (lookupNat pc c.icache)

/-- An address lies in the body of the innermost active loop, which has 64 bundles at most (R281). -/
def Core.inLoop (c : Core) (pc : Nat) : Bool :=
  match c.loops.head? with
  | some e => decide (e.first.toNat ≤ pc) && decide (pc ≤ e.last.toNat)
  | none => false

/-- Keep a fetched bundle (R8): the instruction cache holds 4,096, and which one makes room is open (`Config.codeVictim`)
(DESIGN CHOICE, log entry 66); the loop buffer holds those of the innermost loop's body. -/
def Core.keepCode (c : Core) (tick pc w : Nat) : Core :=
  let b := BitVec.ofNat 512 w
  let room := if (lookupNat pc c.icache).isNone && decide (4096 ≤ c.icache.length) then
      c.icache.eraseIdx (Config.codeVictim tick % 4096) else c.icache
  { c with icache := insertNat pc b room,
           loopBuf := (if c.inLoop pc then insertNat pc b c.loopBuf else c.loopBuf).filter (fun e => c.inLoop e.1) }

/-- The bundle about to issue: the one that xbnd brought, a copy of the instruction cache, or memory. Where a copy and
memory differ, which one issues is open (`Config.staleCode`) (DESIGN CHOICE, log entry 15). -/
def State.fetch (s : State) : State × Fetched :=
  match s.core.emul with
  | some b => (s, .word b.toNat)
  | none =>
    let pc := s.core.pc.toNat
    let f := s.fetchFresh
    let keep (s : State) (w : Nat) : State := s.modCore (fun c => c.keepCode s.tick pc w)
    match s.core.cached pc with
    | none =>
      match f.2 with
      | .word w => (keep f.1 w, f.2)
      | _ => f
    | some b =>
      if f.2 = .word b.toNat then f
      else if Config.staleCode s.tick then (s.bump, .word b.toNat)
      else
        match f.2 with
        | .word w => (keep f.1.bump w, f.2)
        | x => (f.1.bump, x)

/-! ### SYNC (R45) -/

/-- The flags that a bundle names. -/
def syncFlags (w : Nat) : List FlagNo := (List.finRange 32).filter (fun k => w / 2 ^ (16 + k.val) % 2 == 1)

/-- Every flag that the bundle names is set. -/
def Regs.synced (r : Regs) (w : Nat) : Bool := (syncFlags w).all (fun k => r.f[k])

/-- The bundle passes its SYNC: with W the named flags are cleared, but those that a threshold set at this position (R277) or a completion
in this cycle (R44) (DEDUCED, log entry 25). -/
def State.passSync (s : State) (w : Nat) : State :=
  if w % 2 = 1 then
    s.modCore (fun c => { c with regs := { c.regs with
      f := ((syncFlags w).filter (fun k => !(c.fresh ++ c.done).contains k)).foldl
        (fun (v : Vector Bool 32) (k : FlagNo) => v.set k false) c.regs.f } })
  else s

/-! ### Interlocks (R55) -/

/-- The registers that a result in flight writes. -/
def Landing.writes : Landing → List Res
  | .x r _ => [.x r]
  | .hx r _ => [.x (Fin.ofNat 64 (r.val + 48))]
  | .p r _ => [.p r]
  | .v r _ | .vm r _ _ => [.v r.val]
  | .q r _ _ => [.q r]
  | .flag k _ | .done k _ => [.f k]
  | .ctr k _ | .inc k _ => [.c k]
  | .cset k _ => [.c k, .t k, .f (Fin.ofNat 32 (16 + k.val))]
  | .sys r _ => [r.res]
  | .slack _ => [.sys .slack]

/-- A register of a list has a write in flight. -/
def Core.awaits (c : Core) (rs : List Res) : Bool := c.flight.any (fun e => e.what.writes.any (fun r => rs.contains r))

/-- A system register, or what cset sets, has a write in flight: what a bundle reads of MODE, FMT, SLACK or a threshold
without naming it. -/
def Core.awaitsSys (c : Core) : Bool := c.flight.any (fun e => match e.what with
  | .sys _ _ | .slack _ | .cset _ _ => true
  | _ => false)

/-- Interlocked mode is on (R291). -/
def Core.interlocked (c : Core) : Bool := c.sys.modeBits.getLsbD 7

/-- The guard of a slot (R47). -/
def State.guard (s : State) (i : SlotInstr) : Bool := s.p i.pred != i.neg

/-- A slot needs a unit that is busy: the vec slot, or the divider of its alu (R52). -/
def State.unitBusy (s : State) (i : SlotInstr) : Bool :=
  match i.op with
  | .nop => false
  | .div _ _ _ | .divImm _ _ _ | .divLit _ _ _ | .divu _ _ _ | .divuImm _ _ _ | .divuLit _ _ _ | .rem _ _ _
  | .remImm _ _ _ | .remLit _ _ _ | .remu _ _ _ | .remuImm _ _ _ | .remuLit _ _ _ =>
    s.guard i && decide (0 < if i.slot = 0 then s.core.busy.div0 else s.core.busy.div1)
  | _ => decide (i.slot = 3) && decide (0 < s.core.busy.vec)

/-- Results that the slots of a list read land first: the stall advances results and units by a position a cycle, and a
remote load's data arrives; it ends at a load whose data bears a mark and would land (R366). -/
def State.settleReads (s : State) (rs : List Res) : Nat → State × Option LoadMark
  | 0 => (s, none)
  | n + 1 =>
    if !s.core.awaits rs then (s, none)
    else if s.core.flight.any InFlight.blocks then s.arriveLoads.settleReads rs n
    else
      match s.poisonDue with
      | some m => (s, some m)
      | none => s.passPosition.settleReads rs n

/-! ### The bundle (R41 to R47) -/

/-- The group of a slot: the stops before it (R41). -/
def bundleGroup (b : Bundle) (k : Fin 8) : Nat := ((List.range k.val).filter (fun n => b.stops.getLsbD n)).length

/-- The slots of a bundle by groups, in order. -/
def bundleGroups (b : Bundle) : List (List SlotInstr) :=
  ((List.range 8).map (fun g => b.slots.filter (fun i => bundleGroup b i.slot == g))).filter (fun g => !g.isEmpty)

/-- Two slots of a group conflict (R42). -/
def clashes : List SlotInstr → Bool
  | [] => false
  | i :: rest => rest.any (fun j => i.clash j) || clashes rest

/-- Whether a slot's instruction may raise SCHEDULE or stand behind a guard: a slot whose guard is false has no effect. -/
def State.runSlot (s : State) (i : SlotInstr) : Eff :=
  let s := s.modCore (fun c => { c with issue := { c.issue with slot := i.slot.val } })
  if s.guard i then slotEff i.op s else .ok s

/-- What the slots of a bundle have come to: the state, whether the bundle began in interlocked mode, which decides for it whole (R55),
the faults, the first stall, and whether the slots after it could read what the waiting one has not done, so that they are tried with
it again. -/
structure Run where
  s : State
  ilk : Bool
  raises : List Raise
  stall : Option Stall
  stop : Bool
  deriving DecidableEq, Repr

/-- The slots after a slot that stalls see nothing of it: it waits for a place of the gate or the engine. -/
def Stall.alone : Stall → Bool
  | .gate | .engine => true
  | _ => false

/-- Run one slot more. -/
def Run.slot (r : Run) (i : SlotInstr) : Run :=
  if r.stop then r
  else
    match r.s.runSlot i with
    | .ok t => { r with s := t }
    | .raise e => { r with raises := r.raises ++ [e] }
    | .stall w => { r with stall := r.stall.or (some w), stop := !w.alone }

/-- In interlocked mode what a group reads of earlier groups lands first (R55), and then nothing is chained any more; a load's data
that a fence keeps holds the bundle, and data with a mark rolls it back (R366). -/
def Run.settle (r : Run) (rs : List Res) : Run :=
  if !r.ilk || r.stop || !r.s.core.awaits rs then r
  else
    let t := r.s.settleReads rs 600
    match t.2 with
    | some m => { r with s := t.1, stop := true, raises := r.raises ++
        [{ step := 13, slot := 2, cause := if m.ue then Cause.eccUncorrectable else Cause.poison,
           info := recoveryInfo m.pc 2, rollback := true }] }
    | none => if t.1.core.awaits rs then { r with stall := r.stall.or (some .fence), stop := true }
      else { r with s := t.1.modCore (fun c => { c with issue := { c.issue with chain := [] } }) }

/-- Run one group. -/
def Run.group (r : Run) (g : List SlotInstr) : Run := g.foldl Run.slot (r.settle (g.map SlotInstr.reads).flatten)

/-- The fault that is raised: the first by step, then by slot (R46). -/
def firstRaise (rs : List Raise) : Option Raise :=
  rs.foldl (fun (acc : Option Raise) r =>
    match acc with
    | none => some r
    | some a => if r.step < a.step ∨ (r.step = a.step ∧ r.slot < a.slot) then some r else some a) none

/-- A fault of the bundle as a whole, with bit 3 of FAULT.INFO. -/
def wholeRaise (step : Nat) (cause : BitVec 6) : Raise :=
  { step := step, slot := 8, cause := cause, info := 8, rollback := false }

/-- Steps 6 to 8 of R46. -/
def State.staticRaise (s : State) (b : Bundle) : Option Raise :=
  let hits := b.slots.filterMap (fun i => (s.static67 i.op).map (fun x =>
    ({ step := x.1, slot := i.slot.val, cause := x.2, info := BitVec.ofNat 64 i.slot.val, rollback := false } : Raise)))
  (firstRaise hits).or (if (bundleGroups b).any clashes then some (wholeRaise 8 Cause.illegalBundle) else none)

/-- The core after a bundle has issued: where the sequencer goes, and how many positions pass before it (R39, R49, R53,
R282); values move with the entries that its tile slots have moved (R156). -/
def Core.afterBundle (c : Core) (pc : CodeAddr) : Core :=
  let c := c.moveValues
  match c.issue.taken with
  | some t => { c with pc := t, due := 3, emul := none, issue := Issue.none }
  | none =>
    let r := loopEnd pc (pc + 64) c.loops
    { c with pc := r.2, loops := r.1, due := 1, emul := none, issue := Issue.none }

/-- What comes of a bundle that is about to issue. -/
inductive Trial where
  /-- It issues: the state after it. -/
  | issued (s : State)
  /-- Its SYNC holds it. -/
  | held
  /-- A fault is raised: the state on which it is taken. -/
  | raised (s : State) (r : Raise)
  | stalled (s : State) (w : Stall)
  deriving DecidableEq, Repr

/-- What reads of slots have found out about blocks of scratchpads stands, though their bundle does not issue: a corrected or an
uncorrectable block was written back or marked (R67, R68, R365). -/
def State.learn (s t : State) : State :=
  ((s.marks.filter (fun m => decide (2 ^ 34 ≤ m.1) && lookupNat m.1 t.marks != some m.2)).map Prod.fst).foldl
    (fun u b => (u.touchBlocks s.ctxNo true [b]).1) s

/-- What stands before the bundle about to issue. -/
def State.before (s : State) : Before :=
  { mem := s.mem, marks := s.marks, gate := s.core.gate, node := s.core.mash.nextId, coarse := s.core.mash.coarse }

/-- The slots of a bundle run, and what decides among them: the first fault, a stall, the size of the late-write buffer
(R371). -/
def State.runBundle (s : State) (b : Bundle) : Trial :=
  let s1 := s.modCore (fun c => { c with issue := { Issue.none with before := some s.before } })
  let r := (bundleGroups b).foldl Run.group { s := s1, ilk := s.core.interlocked, raises := [], stall := none, stop := false }
  match firstRaise r.raises with
  | some e => .raised (if e.rollback then s.learn r.s else s) e
  | none =>
    match r.stall with
    | some w => .stalled s w
    | none =>
      if decide (64 < r.s.core.flight.length) && !s.core.flight.isEmpty then .stalled s .full
      else .issued (r.s.modCore (fun c => c.afterBundle s.core.pc))

/-- The bundle of a word that is about to issue. One that waits has not passed its SYNC. In interlocked mode it waits for the
writes in flight of what it reads or writes, and of system registers, so that it runs as if every earlier bundle had
completed (R55; DEDUCED, log entry 67); within a bundle R44 decides between two writes. A result keeps the slack window of the
mode in which it issued; whether a reader of it waits follows the mode of the reader (DEDUCED, log entry 91). -/
def State.tryWord (s : State) (w : Nat) : Trial :=
  if !s.core.regs.synced w then .held
  else
    match decodeBundle w with
    | .error d => .raised s
        { step := d.step, slot := (d.slot.map (fun k => k.val)).getD 8, cause := d.cause, info := d.info, rollback := false }
    | .ok b =>
      match s.staticRaise b with
      | some r => .raised s r
      | none =>
        if s.core.interlocked &&
            (s.core.awaits ((b.slots.map (fun i => i.uses.1 ++ i.uses.2)).flatten ++ (syncFlags w).map (fun k => .f k)) ||
              s.core.awaitsSys || b.slots.any s.unitBusy) then .stalled s .flight
        else
          match (s.passSync w).runBundle b with
          | .stalled _ k => .stalled s k
          | .raised t r => .raised (s.learn t) r
          | t => t

/-- The trial of the bundle at the pc. -/
def State.tryBundle (s : State) : Trial :=
  let f := s.fetch
  match f.2 with
  | .word w => f.1.tryWord w
  | .fault k => .raised s (wholeRaise 0 k)
  | .stall w => .stalled f.1 w

/-- A trap has been taken and waits for a remote load's data (R370 step 1). -/
def Core.entering (c : Core) : Bool :=
  match c.hold with
  | .entering _ _ _ _ _ => true
  | _ => false

/-- The core is at a bundle boundary: it runs, no position stands between it and its next bundle, and no trap is being
entered. -/
def Core.atBoundary (c : Core) : Bool := c.run == .running && c.due == 0 && !c.entering

/-- What comes of the bundle at the pc. -/
def State.issueBundle (s : State) : State :=
  match s.tryBundle with
  | .issued t => t
  | .held => s
  | .raised t r => t.takeRaise r
  | .stalled t w => t.takeStall w

/-- BUNDLE_ISSUE (R46): at a boundary without a hold the bundle issues, or raises its first fault, or waits. -/
def execBundleIssue (s : State) : Out :=
  .next (if s.core.atBoundary && decide (s.core.hold = .none) then s.issueBundle else s)

/-- SYNC_PASS (R45): a bundle that is held on its flags passes once all are set, and issues. -/
def execSyncPass (s : State) : Out :=
  .next (if s.core.atBoundary && decide (s.core.hold = .none) then
      match s.fetch.2 with
      | .word w => if s.core.regs.synced w then s.issueBundle else s
      | _ => s
    else s)

/-- The bundle at the pc issues in this cycle. -/
def State.issuesNow (s : State) : Bool :=
  decide (s.core.hold = .none) && (match s.tryBundle with
    | .issued _ => true
    | _ => false)

/-- At a boundary whose bundle does not issue in this cycle a flag that a completion has just set is one that a later W clears
(R44, R45). -/
def State.settleDone (s : State) : State :=
  if s.core.due = 0 && !s.core.done.isEmpty && !s.issuesNow then s.nextCycle else s

/-- One position passes, where it may; the count of positions before the next bundle falls. -/
def State.landStep (s : State) : State :=
  if s.core.flight.any InFlight.blocks then s.advance
  else
    match s.poisonDue with
    | some _ => s.advance
    | none => (s.advance.modCore (fun c => { c with due := c.due - 1 })).settleDone

/-- RESULT_LAND (R49): one position passes, and what is due lands. -/
def execResultLand (s : State) : Out := .next s.landStep

/-- The positions before the next bundle pass. -/
def State.toBoundary (s : State) : Nat → State
  | 0 => s
  | n + 1 => if s.core.due = 0 then s else s.landStep.toBoundary n

end Sys2Proof.Machine
end

