-- ==== Sys2Proof/Machine/CoreEv.lean ====
section
/-! DEFINITION. The events of a core (spec/06 R140, spec/08 R173 to R192, spec/18 R361 to R373): accesses that arrive, evaluation,
store nodes, commands, faults and traps at a bundle boundary, invalidations. -/

namespace Sys2Proof.Machine

/-! ### Cluster-remote accesses (R54, R140) -/

/-- REMOTE_LOAD_ARRIVE (R54, R140): the load's data is read at its targets, after the core's earlier stores to its bytes. -/
def execRemoteLoadArrive (id : Nat) (s : State) : Out :=
  .next (s.performReady (s.core.remote.filter (fun a => !a.store && a.id == id)))

/-- REMOTE_STORE_ARRIVE (R140): the store performs at its target. -/
def execRemoteStoreArrive (id : Nat) (s : State) : Out :=
  .next (s.performReady (s.core.remote.filter (fun a => a.store && a.id == id)))

/-- The acknowledgement of a store that has performed returns to its issuer (R140). -/
def State.ackStore (s : State) (id : Nat) : State :=
  s.modCore (fun c => { c with remote := c.remote.filter (fun a => !(a.store && a.performed && a.id == id)) })

/-- REMOTE_STORE_ACK (R140). -/
def execRemoteStoreAck (id : Nat) (s : State) : Out := .next (s.ackStore id)

/-! ### The Mash (R157, R173, R176, R191, R192) -/

/-- The first demand on which evaluation moves the core on is evaluated as far as it goes, while no fault of an earlier one of its class,
the program's or the handler's, waits (R184, R372). -/
def State.runDemands (s : State) : List Demand → State
  | [] => s
  | d :: rest =>
    if s.core.mash.flagDue d || (s.core.faultOf d.handler).isSome then s.runDemands rest
    else
      let t := s.runDemand d
      if t.core = s.core then s.runDemands rest else t

/-- DEMAND_EVALUATION (R173). -/
def execDemandEvaluation (s : State) : Out := .next (s.runDemands s.core.mash.demands)

/-- EVAL_AHEAD_OF_DEMAND (R176): an element of a node is evaluated; faults are discarded. -/
def execEvalAheadOfDemand (node row col : Nat) (s : State) : Out :=
  .next (match s.core.mash.node? node with
    | some n => if row < n.tag.rows ∧ col < n.tag.cols then (s.demand true node [row] [col] s.depth).1.gc else s
    | none => s)

/-- STORE_NODE_PERFORM (R191): up to n sectors of a store node are written, or the acknowledgement of a cluster-remote
scratchpad completes it. -/
def State.storeStep (s : State) (n : StoreNode) (k : Nat) : State :=
  if n.sent then s.storeDone n
  else if s.storeReady n then s.storePerform n k
  else s

/-- STORE_NODE_PERFORM (R191). -/
def execStoreNodePerform (node n : Nat) (s : State) : Out :=
  .next (match s.core.mash.stores.find? (fun o => o.id == node) with
    | some o => s.storeStep o n
    | none => s)

/-- The flag of a tfrc whose region is computed is set, no earlier than the position after issue (R192); a rollback sets it again when
its node survives (R363). -/
def State.finishForce (s : State) (d : Demand) : State :=
  if s.core.due = 0 && s.core.mash.flagDue d then
    ((s.modMash (fun m => { m with demands := m.demands.filter (fun e => e.id != d.id) })).raiseFlag? d.flag
      (decide (d.node < s.core.shadow.nextNode))).gc
  else s

/-- TFRC_COMPLETE (R192). -/
def execTfrcComplete (id : Nat) (s : State) : Out :=
  .next (match s.core.mash.demands.find? (fun d => d.id == id) with
    | some d => s.finishForce d
    | none => s)

/-- VALUE_MOVEMENT (R155 to R157). -/
def execValueMovement (s : State) : Out := .next (s.modCore Core.moveValues)

/-! ### Faults at a boundary (R184, R365, R367, R373) -/

/-- The evaluation fault that the core takes at its next boundary: in handler mode only that of the handler's own demand (R372). -/
def Core.faultNow (c : Core) : Option EvalFault := if c.sys.hnd then c.hndFault else c.evalFault.or c.hndFault

/-- There is one. -/
def Core.evalDue (c : Core) : Bool := c.faultNow.isSome

/-- Write the registers of R184. -/
def State.writeEvalRegs (s : State) (f : EvalFault) : State :=
  s.modCore (fun c => { c with sys := { c.sys with fOrigin := f.origin, fDemand := f.demand, fNode := f.node, fSeg := f.seg } })

/-- What a page fault of an evaluation writes if it is delivered. -/
def EvalFault.regs (f : EvalFault) (tid tile : Nat) : PageRegs :=
  { info := xlatInfo tid tile, origin := some f.origin, eval := some (f.demand, f.node, f.seg) }

/-- An evaluation fault is taken at a bundle boundary: a page fault rolls back and waits (R367), a recovery fault follows
R365, any other rolls back and traps (R184). In handler mode a fault of the handler's own demand stops the core, and one of
the program's waits for rte (R372). -/
def State.takeEvalFault (s : State) (f : EvalFault) : State :=
  if s.core.sys.hnd && !f.handler then s
  else
    match f.what with
    | .page tid tile => (s.pageRollback (.page tid tile (f.regs tid tile))).report (.pageFault s.ctxNo tid tile)
    | .stage2 g tid tile w => (s.pageRollback (.stage2 g tid tile w (f.regs tid tile))).report (.stage2Fault s.ctxNo g)
    | .cause k info =>
      if s.core.sys.hnd then (s.modCore (fun c => { c with hndFault := none })).stopCore k
      else if isRecovery k then (s.writeEvalRegs f).recoveryFault k info
      else (s.writeEvalRegs f).rollbackTrap k info

/-- EVALUATION_FAULT (R184). -/
def execEvaluationFault (s : State) : Out :=
  .next (if s.core.atBoundary then
      match s.core.faultNow with
      | some f => s.takeEvalFault f
      | none => s
    else s)

/-- COPY_COMMAND_COMPLETE (R95): up to n steps of the command, or fence, of a number; it completes when all are done. -/
def execCopyCommandComplete (id n : Nat) (s : State) : Out := .next (s.cmdStep id n)

/-- COPY_COMMAND_FAULT (R104). -/
def execCopyCommandFault (id : Nat) (s : State) : Out :=
  .next (if s.core.atBoundary then
      match s.core.eng.cmd? id with
      | some c => s.takeCmdFault c
      | none => s
    else s)

/-- SIGNAL_INCREMENT (R114): the increment of an ssig command is applied. -/
def execSignalIncrement (id : Nat) (s : State) : Out :=
  .next (match s.core.eng.cmd? id with
    | some c => (match c.op with
      | .ssig _ _ _ _ _ => s.cmdStep id 1
      | _ => s)
    | none => s)

/-- A command whose fault the core takes at a boundary: an uncommitted one, or a committed one with a cause (R104). In
handler mode a page fault of the program's, and a fault of a committed command of the program, wait for rte (R372). -/
def Core.faultedCmd (c : Core) : Option Cmd :=
  c.eng.cmds.find? (fun k => match k.fault with
    | none => false
    | some (.cause _ _) => !c.sys.hnd || k.handler || !k.committed
    | some _ => !k.committed && !c.sys.hnd)

/-- PAGE_FAULT (R81): the page fault that the core has met rolls it back. -/
def State.takePageFault (s : State) : State :=
  match s.core.faultNow with
  | some f => (match f.what with
    | .cause _ _ => s
    | _ => s.takeEvalFault f)
  | none =>
    match s.core.faultedCmd with
    | some c => (match c.fault with
      | some (.cause _ _) => s
      | _ => s.takeCmdFault c)
    | none =>
      if s.core.hold ≠ .none then s
      else
        match s.tryBundle with
        | .stalled t (.page tid tile) => t.takeStall (.page tid tile)
        | .stalled t (.stage2 g tid tile w) => t.takeStall (.stage2 g tid tile w)
        | _ => s

/-- PAGE_FAULT (R81). -/
def execPageFault (s : State) : Out := .next (if s.core.atBoundary then s.takePageFault else s)

/-- IMPLICIT_CHECKPOINT (R361): the bundle about to issue finds the gate full. -/
def execImplicitCheckpoint (s : State) : Out :=
  .next (if s.core.atBoundary && decide (s.core.hold = .none) then
      match s.tryBundle with
      | .stalled t .gate => t.takeStall .gate
      | _ => s
    else s)

/-- The fetch of the bundle about to issue meets a page fault or a second-stage fault. -/
def State.fetchFaults (s : State) : Bool :=
  decide (s.core.hold = .none) && (match s.tryBundle with
    | .stalled _ (.page _ _) | .stalled _ (.stage2 _ _ _ _) => true
    | _ => false)

/-- The bundle about to issue raises a precise fault. -/
def State.bundleFaults (s : State) : Bool :=
  decide (s.core.hold = .none) && (match s.tryBundle with
    | .raised _ _ => true
    | _ => false)

/-- The bundle about to issue rolls the core back: a cmpt of it finds a difference, or a load whose data it waits for bears a mark
(R276, R366). -/
def State.bundleRolls (s : State) : Bool :=
  decide (s.core.hold = .none) && (match s.tryBundle with
    | .raised _ r => r.rollback
    | _ => false)

/-- An event of the first rank of R373 is pending: a rollback, or a page fault. -/
def State.rollbackDue (s : State) : Bool := s.core.evalDue || s.core.faultedCmd.isSome || s.fetchFaults || s.bundleRolls

/-- The causes that only the kernel delivers (class K of R369). -/
def isKernelCause (cause : BitVec 6) : Bool := cause == Cause.watchdog || cause == Cause.fabricLoss

/-- The oldest trap that the kernel has delivered is entered. -/
def State.takeKernel (s : State) : State :=
  match s.core.kTraps with
  | [] => s
  | t :: rest => (s.modCore (fun c => { c with kTraps := rest })).takeTrap t.1 t.2 s.core.pc

/-- A core that runs or is switched out has a trap of the kernel pending. -/
def Core.postTrap (c : Core) (cause : BitVec 6) (info : Word) : Core := { c with kTraps := c.kTraps ++ [(cause, info)] }

/-- A trap that the kernel delivers (class K of R369): it is pending, and taken at the next bundle boundary unless an event
of the first rank comes before it (R373). -/
def State.deliverTrap (s : State) (cause : BitVec 6) (info : Word) : State :=
  if s.core.run ≠ .running ∨ isKernelCause cause = false then s
  else
    let t := (s.modCore (fun c => c.postTrap cause info)).toBoundary 16
    if t.core.atBoundary && !t.rollbackDue then t.takeKernel else t

/-- TRAP_ENTRY (R370). -/
def execTrapEntry (cause : BitVec 6) (info : Word) (s : State) : Out := .next (s.deliverTrap cause info)

/-- The oldest late-class trap is taken (R369): without rollback, TRAP.PC at the next bundle. -/
def State.takeLate (s : State) : State :=
  match s.core.lateTraps with
  | [] => s
  | t :: rest =>
    if s.core.sys.hnd then s
    else
      (s.modCore (fun c => { c with
        lateTraps := rest,
        sys := match t.origin with
          | some o => { c.sys with fOrigin := o }
          | none => c.sys })).takeTrap t.cause t.info s.core.pc

/-- An event of the first two ranks of R373 is pending. -/
def State.beforeLate (s : State) : Bool := s.rollbackDue || !s.core.kTraps.isEmpty || s.bundleFaults

/-- An event that comes before pre-emption is pending (R373). In handler mode a late trap waits for rte (R372), and in a hold for its
end. -/
def State.beforePreempt (s : State) : Bool := s.beforeLate || (decide (s.core.hold = .none) && !s.core.lateTraps.isEmpty && !s.core.sys.hnd)

/-- LATE_TRAP (R369), where no event of an earlier rank of R373 is pending. -/
def execLateTrap (s : State) : Out := .next (if s.core.atBoundary && !s.beforeLate then s.takeLate else s)

/-! ### Resolution (R78, R81, R367, R372) -/

/-- Write the registers that a delivered page fault names. -/
def State.writePageRegs (s : State) (w : PageRegs) : State :=
  s.modCore (fun c => { c with sys :=
    { c.sys with fOrigin := w.origin.getD c.sys.fOrigin,
                 fDemand := (w.eval.map (fun e => e.1)).getD c.sys.fDemand,
                 fNode := (w.eval.map (fun e => e.2.1)).getD c.sys.fNode,
                 fSeg := (w.eval.map (fun e => e.2.2)).getD c.sys.fSeg } })

/-- The wait for the kernel or the hypervisor is over: the hold stands again in which the core was behind its checkpoint (R147). -/
def Core.resumeHold (c : Core) : Core := { c with hold := c.parked, parked := .none }

/-- A rolled-back page fault that is not resolved is delivered (R81, R367); what a command of the context met too becomes
a fault with that cause (R104). -/
def State.deliverPage (s : State) (w : PageRegs) (cause : BitVec 6) : State :=
  ((s.writePageRegs w).modCore Core.resumeHold).takeTrap cause w.info s.core.pc

/-- The kernel writes the entry of a tile of a context at home (R71, R78); a context without the tensor has none. -/
def State.writeTile (s : State) (ctx tid tile : Nat) (e : Word) : State :=
  match (s.ctx? ctx).bind (fun c => ((lookupNat tid c.tensors).bind parseTensor).map (fun t => (c, t))) with
  | none => s
  | some (c, t) =>
    match (stage2 s c.stage2 (t.ttbase + tile * 8)).1 with
    | .ok a _ => s.homeCells (cellsAt a (leBytes 8 e.toNat))
    | _ => s

/-- One update of the replicated tables is applied (R82). -/
def State.applyUpdate (s : State) (u : TableUpdate) : State :=
  match u with
  | .tensor ctx tid e => s.modCtx ctx (fun c => { c with tensors := insertNat tid e c.tensors })
  | .tile ctx tid tile e => s.writeTile ctx tid tile e

/-- The kernel changes an entry (R82): under the next number of the pod-wide sequence, to every package. -/
def State.multicast (s : State) (u : TableUpdate) : State :=
  let n := s.malt.updateSeq + 1
  ((s.applyUpdate u).modMalt (fun m => { m with updateSeq := n })).send (.update n u)

/-- The entry of a tile changes in every replica, and its translations are invalidated at pod scope at once (DESIGN CHOICE, log
entry 83). -/
def State.changeTile (s : State) (ctx tid tile e : Nat) : State :=
  (s.multicast (.tile ctx tid tile (BitVec.ofNat 64 e))).dropEntries ctx (.range tid tile 1)

/-- The host-physical address of a frame of a context. -/
def State.frameAt (s : State) (ctx frame : Nat) : Option Nat :=
  match s.ctx? ctx with
  | none => none
  | some c =>
    match (stage2 s c.stage2 (frame * 65536)).1 with
    | .ok a _ => some a
    | _ => none

/-- Whole blocks written at home by the Maltings, clean (R68). -/
def State.homeBlocks (s : State) (a : Nat) (bs : List (Nat × BitVec 512)) : State :=
  bs.foldl (fun s b => (s.homeCells (cellsAt (a + 64 * b.1) (leBytes 64 b.2.toNat))).setMark (a / 64 + b.1) none) s

/-- The kernel pages a frame in (R81, R401): its data, then the entry, the replicas and the invalidation. -/
def State.pageIn (s : State) (ctx tid tile : Nat) (e : Word) (data : List (Nat × BitVec 512)) : State :=
  (match s.frameAt ctx (e.toNat / 2 ^ 16 % 2 ^ 32) with
    | some a => s.homeBlocks a (data.filter (fun b => decide (b.1 < 1024)))
    | none => s).changeTile ctx tid tile e.toNat

/-- Commands of a core that wait on a fault of translation go on, or take a cause in its place (R104). -/
def Core.settleCmds (c : Core) (p : EngFault → Bool) (cause : Option (BitVec 6)) : Core :=
  { c with eng := { c.eng with cmds := c.eng.cmds.map (fun k => match k.fault with
      | some f =>
        if p f then
          { k with fault := match cause, f with
              | some u, .page tid tile => some (.cause u (xlatInfo tid tile))
              | some u, .stage2 _ tid tile _ => some (.cause u (xlatInfo tid tile))
              | _, _ => none }
        else k
      | none => k) } }

/-- An unresolved fault of a satm goes into its record (R104, R112). -/
def State.failAtoms (s : State) (p : EngFault → Bool) (cause : BitVec 6) : State :=
  s.core.eng.cmds.foldl (fun s c => match c.op, c.fault with
    | .satm _ b, some f => if p f then s.recordAtom { c with fault := none } b (cause.setWidth 64) 4 0 else s
    | _, _ => s) s

/-- An unresolved fault of translation becomes a fault with its cause for each command that met it (R104). -/
def State.failCmds (s : State) (p : EngFault → Bool) (cause : BitVec 6) : State :=
  (s.failAtoms p cause).modCore (fun c => c.settleCmds p (some cause))

/-- A page fault. -/
def EngFault.isPage : EngFault → Bool
  | .page _ _ => true
  | _ => false

/-- A second-stage fault. -/
def EngFault.isStage2 : EngFault → Bool
  | .stage2 _ _ _ _ => true
  | _ => false

/-- A second-stage fault at a guest-physical address. -/
def EngFault.atGpa (g : Nat) : EngFault → Bool
  | .stage2 h _ _ _ => h == g
  | _ => false

/-- The tile that the focused core waits for. -/
def Core.pageWait (c : Core) : Option (Nat × Nat) :=
  match c.hold with
  | .page tid tile _ => some (tid, tile)
  | _ => (c.eng.cmds.filterMap (fun k => match k.fault with
      | some (.page tid tile) => some (tid, tile)
      | _ => none)).head?

/-- The cause that the hypervisor delivers where a second-stage fault is not resolved (R78); of a page fault it is TRANSLATION
always (R81). -/
def deniedCause (r : Resolution) : BitVec 6 :=
  match r with
  | .protection => Cause.protection
  | _ => Cause.translation

/-- The page fault for which a port or the host waits is resolved, or its cause answers the request (R81, R124). -/
def State.resolvePort (s : State) (r : Resolution) : State :=
  match s.portFault EngFault.isPage with
  | some (ctx, .page tid tile) =>
    match r with
    | .resolved e data => (s.pageIn ctx tid tile e data).retryPorts
    | _ => s.denyPorts ctx (.page tid tile) Cause.translation tile
  | _ => s

/-- PAGE_FAULT_RESOLVED (R81, R104): the kernel has paged the frame in, and what waits goes on; or it delivers the fault. It
does so for the focused core, or where that waits for no page, for a port or the host. -/
def execPageFaultResolved (r : Resolution) (s : State) : Out :=
  .next (match s.core.pageWait with
    | none => s.resolvePort r
    | some (tid, tile) =>
      match r with
      | .resolved e data =>
        ((s.pageIn s.ctxNo tid tile e data).modCore (fun c =>
          let k := c.settleCmds EngFault.isPage none
          match c.hold with
          | .page _ _ _ => k.resumeHold
          | _ => k)).retryPorts
      | _ =>
        let s := s.failCmds (fun f => decide (f = .page tid tile)) Cause.translation
        match s.core.hold with
        | .page _ _ w => s.deliverPage w Cause.translation
        | _ => s)

/-- The hypervisor writes the entry that a guest-physical address meets (R78): of level 2, or of level 1 where that one is
not valid. -/
def State.writeGranule (s : State) (ctx gpa : Nat) (e : Word) : State :=
  match (s.ctx? ctx).bind (fun c => c.stage2) with
  | none => s
  | some r =>
    let a1 := r + gpa / 2 ^ 34 % 2 ^ 14 * 8
    let e1 := s.read8 a1
    let a := if e1 / 2 ^ 63 = 0 ∨ e1 % 2 ^ 16 ≠ 0 ∨ e1 / 2 ^ 48 % 2 ^ 15 ≠ 0 then a1
      else e1 / 2 ^ 16 % 2 ^ 32 * 2 ^ 16 + gpa / 2 ^ 21 % 2 ^ 13 * 8
    s.homeCells (cellsAt a (leBytes 8 e.toNat))

/-- The guest-physical address that the focused core waits for. -/
def Core.stageWait (c : Core) : Option Nat :=
  match c.hold with
  | .stage2 g _ _ _ _ => some g
  | _ => (c.eng.cmds.filterMap (fun k => match k.fault with
      | some (.stage2 g _ _ _) => some g
      | _ => none)).head?

/-- The hypervisor maps a granule of a context and invalidates second-stage results. -/
def State.mapGranule (s : State) (ctx gpa : Nat) (e : Word) : State :=
  (s.writeGranule ctx gpa e).dropEntries ctx .secondStage

/-- The second-stage fault for which a port or the host waits is resolved, or its cause answers the request (R78). -/
def State.resolveStage (s : State) (r : Resolution) : State :=
  match s.portFault EngFault.isStage2 with
  | some (ctx, .stage2 g tid tile w) =>
    match r with
    | .resolved e _ => (s.mapGranule ctx g e).retryPorts
    | _ => s.denyPorts ctx (.stage2 g tid tile w) (deniedCause r) tile
  | _ => s

/-- SECOND_STAGE_FAULT (R78): the hypervisor maps the granule and the second-stage results are invalidated, or it delivers
TRANSLATION or PROTECTION, of a command always TRANSLATION (R104); for the focused core, or where that waits for none, for a port or
the host. -/
def execSecondStageFault (r : Resolution) (s : State) : Out :=
  .next (match s.core.stageWait with
    | none => s.resolveStage r
    | some g =>
      match r with
      | .resolved e _ =>
        ((s.mapGranule s.ctxNo g e).modCore (fun c =>
          let k := c.settleCmds EngFault.isStage2 none
          match c.hold with
          | .stage2 _ _ _ _ _ => k.resumeHold
          | _ => k)).retryPorts
      | _ =>
        let s := s.failCmds (EngFault.atGpa g) Cause.translation
        match s.core.hold with
        | .stage2 _ _ _ _ w => s.deliverPage w (deniedCause r)
        | _ => s)

/-- FEATURE_MASKED_HYPERVISOR_RESUME (R372): the hypervisor resumes the core at its bundle, or has the trap delivered. -/
def execFeatureMaskedHypervisorResume (deliver : Bool) (s : State) : Out :=
  .next (match s.core.hold with
    | .hypervisor info =>
      let t := s.modCore (fun c => { c with hold := .none })
      if deliver then t.takeTrap Cause.featureMasked info t.core.pc else t
    | _ => s)

/-! ### Invalidations (R80, R289) -/

/-- A core lies in the scope of an invalidation by the focused core. -/
def State.inScope (s : State) (sc : Scope) (n : Nat) (die : Bool) : Bool :=
  match sc with
  | .core => decide (n = s.cur)
  | .cluster => die == s.core.die
  | .package | .pod => true

/-- Copies of the bundles of an address range are dropped. -/
def Core.dropCode (c : Core) (lo hi : Nat) : Core :=
  let keep (e : Nat × BitVec 512) : Bool := !(decide (lo ≤ e.1) && decide (e.1 < hi))
  { c with icache := c.icache.filter keep, loopBuf := c.loopBuf.filter keep }

/-- What an icinv of the focused core makes its cores read at home. -/
def State.afreshIn (s : State) (sc : Scope) (lo hi : Nat) : Afresh :=
  { core := if sc = .core then some s.cur else none, die := if sc = .cluster then some s.core.die else none, lo := lo, hi := hi }

/-- Every core in scope drops its copies, those that a switched-out step would bring back among them, and fetches these bundles from
their home slices from now on (R289). -/
def State.dropCodeIn (s : State) (sc : Scope) (lo hi : Nat) : State :=
  { s with l2 := { s.l2 with afresh := (s.afreshIn sc lo hi :: s.l2.afresh).dedup },
           core := if s.inScope sc s.cur s.core.die then s.core.dropCode lo hi else s.core,
           others := s.others.map (fun o => (o.1, if s.inScope sc o.1 o.2.die then o.2.dropCode lo hi else o.2)),
           ctxs := s.ctxs.map (fun c => { c with saved := c.saved.map (fun e =>
             (e.1, if s.inScope sc (e.1 % 128) e.2.die then e.2.dropCode lo hi else e.2)) }) }

/-- INVALIDATION_COMPLETE (R80, R289): every cache in scope has dropped what matches, of the issuer's context, and the flag is
set. -/
def State.completeInval (s : State) (i : Inval) : State :=
  let t := match i.code with
    | some (lo, hi) => s.dropCodeIn i.scope lo hi
    | none => s.dropEntries i.ctx i.kind
  (t.modCore (fun c => { c with eng := { c.eng with invals := c.eng.invals.filter (fun o => o.id != i.id) } })).raiseFlag?
    i.flag i.committed

/-- INVALIDATION_COMPLETE (R80, R289). -/
def execInvalidationComplete (id : Nat) (s : State) : Out :=
  .next (match s.core.eng.invals.find? (fun i => i.id == id) with
    | some i => s.completeInval i
    | none => s)

end Sys2Proof.Machine
end

