-- ==== Sys2Proof/Machine/Save.lean ====
section
/-! DEFINITION. The save area (spec/18 R376 to R378): its header and its regions, as a core that is switched out writes them and
as a restore reloads them. -/

namespace Sys2Proof.Machine

/-! ### Regions (R377) -/

/-- Words as they stand in the save area. -/
def wordBytes (ws : List Word) : List Byte := (ws.map (fun w => leBytes 8 w.toNat)).flatten

/-- Bits, the first the lowest. -/
def bitsWord (bs : List Bool) : Word := BitVec.ofNat 64 (bs.foldr (fun b n => b.toNat + 2 * n) 0)

/-- Registers of 32 bits, two in a word, the lower number in the lower half (DEDUCED, log entry 85). -/
def pairWords (rs : List Word32) : List Word :=
  (List.range (rs.length / 2)).map (fun k => (rs.getD (2 * k + 1) 0).setWidth 64 <<< 32 ||| (rs.getD (2 * k) 0).setWidth 64)

/-- An entry of the loop stack. -/
def LoopEntry.words (e : LoopEntry) : List Word :=
  [e.first.setWidth 64, e.last.setWidth 64, e.count.setWidth 64, e.index.setWidth 64]

/-- TRAP and FAULT registers, in the order of R292. -/
def SysRegs.trapWords (y : SysRegs) : List Word :=
  [y.fCause.setWidth 64, y.fOrigin, y.fDemand, y.fNode, y.fSeg, y.fInfo, y.trapVec.setWidth 64, y.trapPc.setWidth 64]

/-- The scalars, the small registers and the vectors; p0 is true and q0 all ones (R47, R251). -/
def Core.saveRegs (c : Core) : List Byte :=
  wordBytes (c.regs.x.toList ++ c.regs.hx.toList ++ [bitsWord (c.regs.p.set 0 true).toList, bitsWord c.regs.f.toList] ++
    pairWords (c.regs.q.set 0 0xFFFF_FFFF).toList ++ pairWords c.regs.c.toList ++ pairWords c.regs.t.toList ++
    [(if c.sys.hnd then 0x100 else 0) ||| c.sys.modeBits.setWidth 64, c.sys.slack.setWidth 64]) ++
  (c.regs.v.toList.map (fun v => leBytes 128 v.toNat)).flatten

/-- The loop stack, innermost entry first, and the context registers. -/
def Core.saveCtx (c : Core) (inj : Word) : List Byte :=
  wordBytes ((c.loops.map LoopEntry.words).flatten ++ List.replicate (24 - 4 * c.loops.length) 0 ++
    c.sys.fmt.toList ++ [c.sys.rndSeed] ++ c.sys.rsv.toList ++ [c.sys.nextOwner.setWidth 64, inj] ++ c.sys.trapWords ++
    List.replicate 5 0)

/-- Bytes of the documented regions before the late writes. -/
def saveLen : Nat := 5952

/-- Where the spines begin (R377). -/
def spineOff : Nat := saveLen + 9280 + 14336 + 43008

/-- Where the head slots begin. -/
def headOff : Nat := spineOff + 16384 + 65536

/-! ### The spines and the head slots (R377, R202) -/

/-- A spine in its 1,024 words, the top of the stack first: the handle of each entry is the number of its node (DESIGN CHOICE, log
entry 86). -/
def spineBytes (sp : List Nat) : List Byte :=
  wordBytes (((sp.map (fun n => BitVec.ofNat 64 n)) ++ List.replicate (1024 - sp.length) 0).take 1024)

/-- The bits of element k of a block with what it stands under, as they lie in the block (R198 to R200). -/
def inBlock (f : Fmt) (k : Nat) (e : Elem) : Nat :=
  match seMag f with
  | some m => e.aux % 256 ||| (e.aux / 256 % 2) <<< (8 + k / 2) ||| e.bits <<< (16 + (m + 1) * k)
  | none =>
    if f = .int4g then e.aux % 65536 ||| e.bits <<< (16 + 4 * k) else e.aux % 256 ||| e.bits <<< (8 + f.width * k)

/-- The bit at which an element of a tile lies, or its block, with its place in the block (R202). -/
def Tag.spot (t : Tag) (idx : Nat) : Nat × Nat :=
  let i := idx / t.cols
  let j := idx % t.cols
  let n := t.fmt.blockElems
  if t.fmt.isBlock then
    if t.orient then ((j * (t.rows / n) + i / n) * t.fmt.blockBytes * 8, i % n)
    else ((i * (t.cols / n) + j / n) * t.fmt.blockBytes * 8, j % n)
  else (idx * t.fmt.width, 0)

/-- The bit at which the scale of an element of a scaled format lies (R201, R202). -/
def Tag.scaleSpot (t : Tag) (idx : Nat) : Nat :=
  8 * t.rows * t.cols + (if t.fmt = .int8r then 32 * (idx / t.cols) else 0)

/-- A value as it lies in its slot (R202); elements that are not computed are zero there. -/
def TileNode.slotBits (n : TileNode) : Nat :=
  n.vals.foldl (fun v e =>
    let p := n.tag.spot e.1
    if n.tag.fmt.isBlock then v ||| inBlock n.tag.fmt p.2 e.2 <<< p.1
    else if n.tag.fmt.isScaled then v ||| e.2.bits <<< p.1 ||| e.2.aux <<< n.tag.scaleSpot e.1
    else v ||| e.2.bits <<< p.1) 0

/-- An element as a slot holds it; its poison mark stands. -/
def TileNode.fromSlot (n : TileNode) (v : Nat) (e : Nat × Elem) : Nat × Elem :=
  let p := n.tag.spot e.1
  (e.1,
    if n.tag.fmt.isBlock then
      let b := blockElem n.tag.fmt ((v >>> p.1) % 2 ^ (8 * n.tag.fmt.blockBytes)) p.2
      { e.2 with bits := b.1, aux := b.2 }
    else if n.tag.fmt.isScaled then { e.2 with bits := (v >>> p.1) % 256, aux := (v >>> n.tag.scaleSpot e.1) % 2 ^ 32 }
    else { e.2 with bits := (v >>> p.1) % 2 ^ n.tag.fmt.width })

/-- The values in the head, by their slots: the lowest slots in the order of their nodes (DESIGN CHOICE, log entry 86). -/
def Core.heads (c : Core) : List TileNode := c.mash.nodes.filter (fun n => n.loc == .head)

/-- The header. The occupied head slots are taken to be the lowest (DESIGN CHOICE, log entry 86). -/
def Core.saveHeader (c : Core) (yield : Bool) : List Byte :=
  let heads := c.heads.length
  leBytes 4 1 ++ leBytes 4 (c.sys.hnd.toNat + 2 * yield.toNat) ++ leBytes 8 c.pc.toNat ++ leBytes 4 (2 ^ heads - 1) ++
    leBytes 2 c.mash.spine.length ++ leBytes 2 (c.late.length + c.flight.length) ++ leBytes 4 c.seg.toNat ++
    leBytes 4 c.retry.toNat ++ leBytes 32 0

/-- Bytes of a region whose contents R377 leaves to the save-format version: free values. -/
def opaqueCells (tick base lo n : Nat) : List Host.Cell :=
  (List.range n).map (fun i => (base + lo + i, Config.saveByte tick (lo + i)))

/-- The bytes that a core writes to its save area: a save by yield leaves out the shadow and the store gate (R376). The late writes,
the shadow, the store gate and the node table are opaque (DESIGN CHOICE, log entry 86). -/
def Core.saveCells (c : Core) (inj : Word) (tick base : Nat) (yield : Bool) : List Host.Cell :=
  cellsAt base (c.saveHeader yield ++ c.saveRegs ++ c.saveCtx inj) ++ opaqueCells tick base saveLen 9280 ++
    (if yield then [] else opaqueCells tick base (saveLen + 9280) (14336 + 43008)) ++
    cellsAt (base + spineOff) (spineBytes c.mash.spine ++ spineBytes c.shadow.spine) ++
    opaqueCells tick base (spineOff + 16384) 65536 ++
    cellsAt (base + headOff) ((c.heads.map (fun n => leBytes 16384 n.slotBits)).flatten)

/-! ### Restore (R378) -/

/-- Word k of the save area. -/
def saveWord (bs : List Byte) (k : Nat) : Word := BitVec.ofNat 64 (field bs (8 * k) 8)

/-- Register k of a run of 32-bit registers from word w on. -/
def saveHalf (bs : List Byte) (w k : Nat) : Word32 := BitVec.ofNat 32 (field bs (8 * w + 4 * k) 4)

/-- The loop stack as it was written, as deep as it was. -/
def reloadLoops (bs : List Byte) (depth : Nat) : List LoopEntry :=
  (List.range depth).map (fun k =>
    { first := (saveWord bs (624 + 4 * k)).setWidth 48, last := (saveWord bs (625 + 4 * k)).setWidth 48,
      count := (saveWord bs (626 + 4 * k)).setWidth 32, index := (saveWord bs (627 + 4 * k)).setWidth 32 })

/-- The program's registers from the save area; what x0 and p0 hold is not read. -/
def reloadRegs (bs : List Byte) : Regs :=
  { x := Vector.ofFn (fun k => if k = 0 then 0 else saveWord bs (8 + k.val)),
    hx := Vector.ofFn (fun k => saveWord bs (72 + k.val)),
    p := (Vector.ofFn (fun k => (saveWord bs 88).getLsbD k.val)).set 0 false,
    f := Vector.ofFn (fun k => (saveWord bs 89).getLsbD k.val),
    q := Vector.ofFn (fun k => saveHalf bs 90 k.val),
    c := Vector.ofFn (fun k => saveHalf bs 94 k.val),
    t := Vector.ofFn (fun k => saveHalf bs 102 k.val),
    v := Vector.ofFn (fun k => BitVec.ofNat 1024 (field bs (896 + 128 * k.val) 128)) }

/-- The system registers from the save area, reserved bits as a write of each register leaves them (R291, R294); what it does not hold
stays. -/
def SysRegs.reload (y : SysRegs) (bs : List Byte) : SysRegs :=
  { y with
    hnd := field bs 4 4 % 2 == 1,
    modeBits := normMode ((saveWord bs 110).setWidth 8), slack := (saveWord bs 111).setWidth 8,
    fmt := Vector.ofFn (fun k => saveWord bs (648 + k.val)), rndSeed := saveWord bs 712,
    rsv := Vector.ofFn (fun k => saveWord bs (713 + k.val)), nextOwner := (saveWord bs 729).setWidth 16,
    fCause := (saveWord bs 731).setWidth 6, fOrigin := saveWord bs 732, fDemand := saveWord bs 733, fNode := saveWord bs 734,
    fSeg := saveWord bs 735, fInfo := saveWord bs 736, trapVec := (saveWord bs 737).setWidth 48 &&& 0xFFFF_FFFF_F000,
    trapPc := (saveWord bs 738).setWidth 48 &&& 0xFFFF_FFFF_FFC0 }

/-- A spine of so many entries from the save area. -/
def reloadSpine (m : Memory) (a depth : Nat) : List Nat := (List.range depth).map (fun k => leNat (m.readN (a + 8 * k) 8))

/-- The computed elements of the values in the head from their slots. -/
def Core.reloadHeads (c : Core) (m : Memory) (base : Nat) : Core :=
  let ids := c.heads.map (fun n => n.id)
  { c with mash := { c.mash with nodes := c.mash.nodes.map (fun n =>
      if n.loc = .head then
        let v := leNat (m.readN (base + headOff + 16384 * ids.idxOf n.id) (tileSize n.tag.fmt n.tag.rows n.tag.cols n.tag.orient))
        { n with vals := n.vals.map (n.fromSlot v) }
      else n) } }

/-- The core with every region reloaded whose contents R377 gives (log entry 86). After a save by yield the shadow is the live
state. -/
def Core.reload (c : Core) (m : Memory) (base : Nat) : Core :=
  let bs := m.readN base saveLen
  let c := c.reloadHeads m base
  let sp := reloadSpine m (base + spineOff) (field bs 0x14 2)
  let c := { c with mash := { c.mash with spine := sp },
                    shadow := { c.shadow with spine := reloadSpine m (base + spineOff + 8192) c.shadow.spine.length } }
  let k := { c with regs := reloadRegs bs, sys := c.sys.reload bs, loops := reloadLoops bs c.loops.length,
                    pc := BitVec.ofNat 48 (field bs 8 8) &&& 0xFFFF_FFFF_FFC0, seg := BitVec.ofNat 32 (field bs 0x18 4),
                    retry := field bs 0x1C 4 % 2 == 1 }
  if field bs 4 4 / 2 % 2 = 1 then { k with gate := [], gateCmds := [], shadow := k.snapshot } else k

end Sys2Proof.Machine
end

