-- ==== Sys2Proof/Machine/Launch.lean ====
section
/-! DEFINITION. The launch hardware (spec/16 R329 to R354; spec/06 R142 to R148): blocks and their checks, steps, dispatch,
barriers and rendezvous, pre-emption, completion, graphs, replay, the watchdog. -/

namespace Sys2Proof.Machine

/-! ### The control tensor as the launch hardware reads and writes it (R70, R331, R346) -/

/-- What a read of the control tensor gives: bytes, nothing (outside it), or a frame that must be waited for. -/
inductive CtlGot (α : Type) where
  | got (a : α)
  | bad
  | wait
  deriving DecidableEq, Repr

/-- Report to the kernel what it has not been told already. -/
def State.reportNew (s : State) (r : Report) : State := if s.malt.reports.contains r then s else s.report r

/-- A run of bytes cut at multiples of 64. -/
def pieces (addr n : Nat) : List (Nat × Nat) :=
  (List.range ((addr + n + 63) / 64 - addr / 64)).map (fun k =>
    let lo := max addr ((addr / 64 + k) * 64)
    (lo, min (addr + n) ((addr / 64 + k + 1) * 64) - lo))

/-- n bytes of a context's control tensor, read at home; an error that is met is counted (R67, R68). -/
def State.readCtl (s : State) (ctx addr n : Nat) : State × CtlGot (List Byte) :=
  match s.ctx? ctx with
  | none => (s, .bad)
  | some c =>
    if c.controlExtent < addr + n then (s, .bad)
    else (pieces addr n).foldl (fun (acc : State × CtlGot (List Byte)) p =>
      match acc.2 with
      | .got bs =>
        let r := acc.1.controlAt ctx p.1 false
        match r.2 with
        | .ok bit _ _ =>
          let t := r.1.touchBlocks ctx false (blocksOf (bit / 8) p.2)
          (if t.2.isSome then t.1.bump else t.1, .got (bs ++ t.1.seen (bit / 8) p.2))
        | .page tile => (r.1.reportNew (.pageFault ctx 0 tile), .wait)
        | .stage2 g _ => (r.1.reportNew (.stage2Fault ctx g), .wait)
        | .moving _ => (r.1, .wait)
        | .fault _ _ => (r.1, .bad)
      | _ => acc) (s, .got [])

/-- Bytes written to a context's control tensor at home; what its tables do not place is dropped
(DESIGN CHOICE, log entry 28). -/
def State.writeCtl (s : State) (ctx addr : Nat) (bs : List Byte) : State :=
  (pieces addr bs.length).foldl (fun s p =>
    let r := s.controlAt ctx p.1 true
    match r.2 with
    | .ok bit _ _ => r.1.writeMain none Fetch.plain (cellsAt (bit / 8) ((bs.drop (p.1 - addr)).take p.2))
    | _ => r.1) s

/-! ### Launch and parameter blocks (R331 to R333, R154) -/

/-- The fields of a launch block. -/
def parseLb (addr : Nat) (b : List Byte) : LaunchBlock :=
  { addr := addr, entry := BitVec.ofNat 64 (field b 0 8), opb := BitVec.ofNat 64 (field b 8 8), first := field b 0x10 2,
    gang := field b 0x12 2, place := field b 0x14 1, prio := field b 0x15 1, hw := field b 0x16 1, flags := field b 0x17 1,
    limit := field b 0x18 2, spill := field b 0x1C 4, spSlots := field b 0x20 2, l2Slots := field b 0x22 2,
    l2Slice := field b 0x24 1, domain := field b 0x25 1, rvGroup := field b 0x26 1, ctx := field b 0x28 2 }

/-- The fields of an operator parameter block. -/
def parseOpb (b : List Byte) : ParamBlock :=
  { ndims := field b 0 1, pdim := field b 1 1, bounds := (List.range 6).map (fun k => field b (8 + 4 * k) 4),
    params := (List.range 8).map (fun k => BitVec.ofNat 64 (field b (0x20 + 8 * k) 8)) }

/-- Reserved fields and values (code 2). -/
def blockReserved (plain : Bool) (l o : List Byte) : Bool :=
  field l 0x1A 2 != 0 || field l 0x27 1 != 0 || field l 0x2A 6 != 0 || decide (1 < field l 0x14 1) ||
    decide (7 < field l 0x15 1) || decide (15 < field l 0x25 1) || decide (3 < field l 0x17 1) || field o 2 6 != 0 ||
    (plain && field l 0x17 1 / 2 == 1)

/-- The stack fields (R154, code 3). -/
def State.stackOk (s : State) (b : LaunchBlock) : Bool :=
  let win := ((s.ctx? b.ctx).bind (fun c => c.windows.find? (fun w => w.1 == b.l2Slice))).map (fun w => w.2.2)
  [8, 16, 24, 32].contains b.hw && decide (1 ≤ b.limit) && decide (b.limit ≤ 1024) &&
    decide (b.limit ≤ b.hw + b.spSlots + b.l2Slots) && decide (b.spSlots ≤ 128) && b.spill % 16384 == 0 &&
    decide (b.spill + b.spSlots * 16384 ≤ 2 ^ 22) &&
    (b.l2Slots == 0 || (decide (b.l2Slice < 48) && decide (b.l2Slots * 16384 ≤ win.getD 0)))

/-- Active bounds. -/
def ParamBlock.active (p : ParamBlock) : List Nat := p.bounds.take p.ndims

/-- Steps of a task. -/
def ParamBlock.total (p : ParamBlock) : Nat := p.active.foldl (· * ·) 1

/-- The extent of the placement dimension. -/
def ParamBlock.extent (p : ParamBlock) : Nat := (p.bounds[p.pdim]?).getD 0

/-- The step nest against its gang (code 6). -/
def ParamBlock.ok (p : ParamBlock) (gang : Nat) : Bool :=
  decide (1 ≤ p.ndims) && decide (p.ndims ≤ 6) && decide (p.pdim < p.ndims) && !p.active.contains 0 &&
    decide (p.total ≤ 2 ^ 32) && decide (gang ≤ p.extent)

/-- A core serves the function of a context (R399): a core that the hypervisor has given to a virtual function serves that one
and the PF, and a virtual function is served by its cores only (DEDUCED, log entry 84). -/
def Maltings.serves (m : Maltings) (core : Nat) (vf : Option Nat) : Bool :=
  match vf.filter (fun f => f != 0) with
  | none => true
  | some f => ((lookupNat core m.coreFn).map (fun g => g.val)) == some f

/-- The gang lies on cores in service (code 4, R408). -/
def State.gangOk (s : State) (b : LaunchBlock) : Bool :=
  b.gang != 0 && (List.range b.gang).all (fun g => s.malt.coreMap.any (fun m => m.1 == b.first + g))

/-- The refusal code of a pair of blocks, codes 2 to 8 (R333); 0 when they pass. The kernel's port has no context
restriction and may use class 0 (R330). -/
def State.blockCode (s : State) (ctx : Nat) (plain kernel : Bool) (l o : List Byte) (b : LaunchBlock) (p : ParamBlock) : Nat :=
  if blockReserved plain l o then 2
  else if !s.stackOk b then 3
  else if !s.gangOk b then 4
  else if (if kernel then (s.ctx? b.ctx).isNone else b.ctx != ctx) then 5
  else if !p.ok b.gang then 6
  else if (b.prio == 0 && !kernel) || decide (((s.ctx? b.ctx).map (fun c => c.ceiling)).getD 0 < b.prio) then 7
  else if b.entry.toNat % 64 ≠ 0 ∨ 2 ^ 48 ≤ b.entry.toNat then 8
  else 0

/-- A launch block and its parameter block, checked by codes 1 to 8. -/
def State.loadBlocks (s : State) (ctx addr : Nat) (plain kernel : Bool) :
    State × CtlGot (Except Nat (LaunchBlock × ParamBlock)) :=
  if addr % 64 ≠ 0 then (s, .got (.error 1))
  else
    let r := s.readCtl ctx addr 128
    match r.2 with
    | .bad => (r.1, .got (.error 1))
    | .wait => (r.1, .wait)
    | .got l =>
      let b := parseLb addr l
      if b.opb.toNat % 64 ≠ 0 then (r.1, .got (.error 1))
      else
        let q := r.1.readCtl ctx b.opb.toNat 96
        match q.2 with
        | .bad => (q.1, .got (.error 1))
        | .wait => (q.1, .wait)
        | .got o =>
          let p := parseOpb o
          match q.1.blockCode ctx plain kernel l o b p with
          | 0 => (q.1, .got (.ok (b, p)))
          | k => (q.1, .got (.error k))

/-! ### Steps (R334 to R336) -/

/-- The index tuple of a linear step number, dimension 0 outermost. -/
def unrank : List Nat → Nat → List Nat
  | [], _ => []
  | b :: bs, n => n / bs.foldl (· * ·) 1 % b :: unrank bs n

/-- The gang index that owns placement index p of P among G (R335). -/
def ownsPlace (place P G g p : Nat) : Bool :=
  if place = 1 then p % G == g else decide (g * P / G ≤ p) && decide (p < (g + 1) * P / G)

/-- Steps inside one value of the placement dimension. -/
def ParamBlock.inner (p : ParamBlock) : Nat := (p.active.drop (p.pdim + 1)).foldl (· * ·) 1

/-- The first step at or after m that gang index g runs; the number of steps when there is none. -/
def nextStep (b : LaunchBlock) (p : ParamBlock) (g m : Nat) : Nat :=
  let P := p.extent
  let i := m / p.inner % P
  let row := m / p.inner / P
  let lo := if b.place = 1 then g else g * P / b.gang
  let n :=
    if ownsPlace b.place P b.gang g i then m
    else
      let j := if b.place = 1 then i + (g + b.gang - i % b.gang) % b.gang else if i < lo then lo else P
      if j < P then (row * P + j) * p.inner else ((row + 1) * P + lo) * p.inner
  min n p.total

/-! ### The command stream (R330, R341) -/

/-- A task enters the queue, or its record where the queue is full (R345). -/
def State.enqueue (s : State) (b : LaunchBlock) (p : ParamBlock) (graph : Option (Nat × Nat)) : State :=
  s.modLaunch (fun l =>
    let t : Task :=
      { id := l.nextTask, lb := b, pb := p, cores := (List.range b.gang).map (fun g => b.first + g),
        enqueued := s.podTime.toNat, aged := false, graph := graph,
        next := (List.range b.gang).map (fun g => nextStep b p g 0), ended := [], succ := [], failed := false,
        preempted := false, replays := [] }
    if l.queue.length < 768 then { l with queue := l.queue ++ [t], nextTask := l.nextTask + 1 }
    else { l with waiting := l.waiting ++ [t], nextTask := l.nextTask + 1 })

/-- Waiting tasks enter the queue as far as there is room. -/
def State.settleWaiting (s : State) : State :=
  s.modLaunch (fun l =>
    let n := 768 - l.queue.length
    { l with queue := l.queue ++ (l.waiting.take n).map (fun t => { t with enqueued := s.podTime.toNat }),
             waiting := l.waiting.drop n })

/-! ### Graph tables (R346 to R349) -/

/-- The reserved bits of a graph header and its node count. -/
def headerOk (h : List Byte) : Bool :=
  decide (1 ≤ field h 0 2) && decide (field h 0 2 ≤ 4096) && field h 5 3 == 0 && field h 12 20 == 0 &&
    (BitVec.ofNat 32 (field h 8 4) &&& 0x7FFF_F080) == 0

/-- The fields of a node entry obey R346 and R347. -/
def nodeOk (n : Nat) (e : List Byte) : Bool :=
  decide (field e 10 1 ≤ 8) && field e 11 1 == 0 &&
    (List.range 8).all (fun i => if i < field e 10 1 then decide (field e (16 + 2 * i) 2 < n) else field e (16 + 2 * i) 2 == 0)

/-- The nodes of a table of n from node k on; an error names the node that breaks it. -/
def State.readNodes (s : State) (ctx addr n : Nat) (kernel : Bool) :
    List Nat → State × CtlGot (Except Nat (List GraphNode))
  | [] => (s, .got (.ok []))
  | k :: ks =>
    let r := s.readCtl ctx (addr + 32 + 32 * k) 32
    match r.2 with
    | .bad => (r.1, .got (.error k))
    | .wait => (r.1, .wait)
    | .got e =>
      if !nodeOk n e then (r.1, .got (.error k))
      else
        let q := r.1.loadBlocks ctx (field e 0 8) false kernel
        match q.2 with
        | .bad => (q.1, .got (.error k))
        | .wait => (q.1, .wait)
        | .got (.error _) => (q.1, .got (.error k))
        | .got (.ok (b, p)) =>
          if b.flags / 2 ≠ 1 then (q.1, .got (.error k))
          else
            let z := q.1.readNodes ctx addr n kernel ks
            match z.2 with
            | .got (.ok ns) =>
              (z.1, .got (.ok ({ lb := b, pb := p, preds := field e 8 2,
                                 succ := (List.range (field e 10 1)).map (fun i => field e (16 + 2 * i) 2),
                                 ctr := field e 12 4, fired := field e 8 2 == 0 } :: ns)))
            | x => (z.1, x)

/-- A graph instance begins (R347): GEN, STATUS, the counters of a first generation, the ready nodes. -/
def State.beginGraph (s : State) (ctx addr : Nat) (h : List Byte) (ns : List GraphNode) : State :=
  let gen := if (field h 2 2 + 1) % 65536 = 0 then 1 else (field h 2 2 + 1) % 65536
  let s := s.writeCtl ctx (addr + 2) (leBytes 3 gen)
  let s := if gen = 1 then
      (List.range ns.length).foldl (fun s k => s.writeCtl ctx (addr + 44 + 32 * k) [0, 0, 0, 0]) s
    else s
  let ns := if gen = 1 then ns.map (fun n => { n with ctr := 0 }) else ns
  let id := s.launch.nextGraph
  let s := s.modLaunch (fun l =>
    { l with graphs := l.graphs ++ [{ id := id, ctx := ctx, addr := addr, gen := gen, nodes := ns, failed := false,
                                      done := field h 8 4 }],
             nextGraph := id + 1 })
  ns.zipIdx.foldl (fun s p => if p.1.preds = 0 then s.enqueue p.1.lb p.1.pb (some (id, p.2)) else s) s

/-- A graph's tasks are queued, resident or waiting. -/
def Launch.graphLive (l : Launch) (id : Nat) : Bool :=
  let of (t : Task) : Bool := match t.graph with
    | some (g, _) => g == id
    | none => false
  l.queue.any of || l.resident.any of || l.waiting.any of

/-- Instances without live nodes end: STATUS and the DONE increment (R349). -/
def State.endGraphs (s : State) : State :=
  s.launch.graphs.foldl (fun s g =>
    if s.launch.graphLive g.id then s
    else
      let s := s.modLaunch (fun l => { l with graphs := l.graphs.filter (fun x => x.id != g.id) })
      let s := s.writeCtl g.ctx (g.addr + 4) [if g.failed then 2 else 1]
      if g.done / 2 ^ 31 = 1 then (s.takeSignal g.ctx (g.done % 128) (Fin.ofNat 16 (g.done / 256)) 1 true).1 else s) s

/-- A graph launch: refusal code and node, or acceptance as code 0 (R333, R347) (DEDUCED, log entry 27). -/
def State.submitGraph (s : State) (ctx addr : Nat) (kernel : Bool) : State × CtlGot (Nat × Nat) :=
  if addr % 64 ≠ 0 then (s, .got (1, 0))
  else
    let r := s.readCtl ctx addr 32
    match r.2 with
    | .bad => (r.1, .got (1, 0))
    | .wait => (r.1, .wait)
    | .got h =>
      let n := field h 0 2
      if ((s.ctx? ctx).map (fun c => c.controlExtent)).getD 0 < addr + 32 + 32 * n then (r.1, .got (1, 0))
      else if !headerOk h || r.1.launch.graphs.any (fun g => g.ctx == ctx && g.addr == addr) then (r.1, .got (9, 0))
      else
        let q := r.1.readNodes ctx addr n kernel (List.range n)
        match q.2 with
        | .wait => (q.1, .wait)
        | .bad => (q.1, .got (9, 0))
        | .got (.error k) => (q.1, .got (9, k))
        | .got (.ok ns) =>
          if 768 ≤ q.1.launch.queue.length ∨ 16 ≤ q.1.launch.graphs.length then (q.1, .got (10, 0))
          else ((q.1.beginGraph ctx addr h ns).endGraphs, .got (0, 0))

/-- A launch of either kind (R286, R333). -/
def State.submit (s : State) (ctx addr : Nat) (graph kernel : Bool) : State × CtlGot (Nat × Nat) :=
  if graph then s.submitGraph ctx addr kernel
  else
    let r := s.loadBlocks ctx addr true kernel
    match r.2 with
    | .got (.ok (b, p)) =>
      if 768 ≤ r.1.launch.queue.length then (r.1, .got (10, 0)) else (r.1.enqueue b p none, .got (0, 0))
    | .got (.error k) => (r.1, .got (k, 0))
    | .bad => (r.1, .got (1, 0))
    | .wait => (r.1, .wait)

/-- An arrival at a node of an instance (R348). -/
def State.arriveNode (s : State) (gid k : Nat) : State :=
  match s.launch.graphs.find? (fun g => g.id == gid) with
  | none => s
  | some g =>
    match g.nodes[k]? with
    | none => s
    | some n =>
      let a := ((if n.ctr / 65536 = g.gen then n.ctr % 65536 else 0) + 1) % 65536
      let ready := a == n.preds && !n.fired
      let n' := { n with ctr := g.gen * 65536 + a, fired := n.fired || ready }
      let s := s.modLaunch (fun l =>
        { l with graphs := l.graphs.map (fun x => if x.id = gid then { x with nodes := x.nodes.set k n' } else x) })
      let s := s.writeCtl g.ctx (g.addr + 44 + 32 * k) (leBytes 4 n'.ctr)
      if ready then s.enqueue n.lb n.pb (some (gid, k))
      else if n.fired then s.report (.extraArrival gid k)
      else s

/-! ### The start and the end of a step (R336, R337) -/

/-- Registers at the first bundle of a step (R337). The table of R327 leaves x1 = 0 on the core of step 1, where R337 gives it i0 = 1
and the listing of that run never writes it: R337 is followed (DEDUCED, log entry 124). -/
def stepRegs (t : Task) (g n : Nat) (hx : Vector Word 16) : Regs :=
  let idx := unrank t.pb.active n
  { Regs.reset with
    hx := hx,
    x := Vector.ofFn (fun (k : Fin 64) =>
      if k.val = 0 then 0
      else if k.val ≤ 6 then BitVec.ofNat 64 ((idx[k.val - 1]?).getD 0)
      else if k.val = 7 then BitVec.ofNat 64 n
      else if k.val = 8 then t.lb.opb
      else if k.val = 9 then BitVec.ofNat 64 g
      else if k.val = 10 then BitVec.ofNat 64 t.lb.gang
      else if k.val ≤ 18 then (t.pb.params[k.val - 11]?).getD 0
      else 0) }

/-- The stack registers that a launch block gives (R153). -/
def LaunchBlock.stk (b : LaunchBlock) : StkRegs :=
  { limit := BitVec.ofNat 11 b.limit, win := BitVec.ofNat 6 b.hw, spillSlots := BitVec.ofNat 16 b.spSlots,
    spillBase := BitVec.ofNat 32 b.spill, l2Slice := BitVec.ofNat 8 b.l2Slice, l2Slots := BitVec.ofNat 16 b.l2Slots }

/-- What a context holds of a core before its first step there (R220, R129, R370). -/
def Ctx.freshKept (c : Ctx) : Kept :=
  { sys := { SysRegs.reset with ctxId := BitVec.ofNat 16 c.id, trapVec := c.trapVec }, hx := Vector.replicate 16 0 }

/-- What a context keeps of a core. -/
def State.keptOf (s : State) (ctx core : Nat) : Kept :=
  match s.ctx? ctx with
  | some c => (lookupNat core c.kept).getD c.freshKept
  | none => { sys := { SysRegs.reset with ctxId := BitVec.ofNat 16 ctx }, hx := Vector.replicate 16 0 }

/-- A core between steps: its place, its registers as the step left them (R381, R383), its instruction cache and the commands
that still run in its engine, whose flags are no longer wanted. -/
def Core.vacant (c : Core) : Core :=
  { Core.reset c.logical with
    die := c.die, pos := c.pos, regs := c.regs, sys := c.sys, icache := c.icache, nextAcc := c.nextAcc,
    remote := c.remote.filter (fun a => a.store),
    mash := { Mash.empty with nextId := c.mash.nextId },
    eng := { c.eng with
      cmds := c.eng.cmds.map (fun k => { k with discard := true, committed := true }),
      invals := c.eng.invals.map (fun i => { i with flag := none }),
      fences := c.eng.fences.map (fun f => { f with flag := none }), sxfrs := [] } }

/-- Step n of a task begins on a core as gang index g (R337, R354). -/
def State.startStep (s : State) (core : Nat) (t : Task) (g n : Nat) : State :=
  let k := s.keptOf t.lb.ctx core
  let c := (s.getCore core).vacant
  let c := { c with
    regs := stepRegs t g n k.hx,
    sys := { k.sys with modeBits := 0, hnd := false, slack := 0, stk := t.lb.stk, dbgRoute := c.sys.dbgRoute,
                        horizon := c.sys.horizon },
    pc := t.lb.entry.setWidth 48, run := .running,
    task := some { task := t.id, number := n, gangIdx := g, passed := 0, serialCount := [] } }
  (s.setCore core { c with shadow := c.snapshot }).modTask t.id (fun t =>
    { t with next := t.next.set g (nextStep t.lb t.pb g (n + 1)) })

/-- What stays of a core's step for its context (R337). -/
def State.keepCore (s : State) (core : Nat) : State :=
  let c := s.getCore core
  s.modCtx c.sys.ctxId.toNat (fun x => { x with kept := insertNat core { sys := c.sys, hx := c.regs.hx } x.kept })

/-- A task of the launch hardware by its number. -/
def State.task? (s : State) (id : Nat) : Option Task := s.launch.resident.find? (fun t => t.id == id)

/-- A core has been switched out by a pre-emption that is under way, or has left its task between two steps for it (R342); one that
awaits its restore after a dispatch has not. -/
def Core.out (c : Core) : Bool := c.run == .switchedOut && c.preempt.isSome

/-- The task's gang has left every core that it has not ended: it goes to the head of its class's queue (R342, R344). -/
def State.settleGang (s : State) (id : Nat) : State :=
  match s.task? id with
  | none => s
  | some t =>
    let out := (List.range t.lb.gang).all (fun g => t.ended.contains g ||
      (match t.cores[g]? with
        | some c => (s.getCore c).out
        | none => true))
    if out && decide (t.ended.length < t.lb.gang) then
      let s := t.cores.foldl (fun s c =>
        if (s.getCore c).run = .switchedOut then s.setCore c (s.getCore c).vacant else s) s
      s.modLaunch (fun l =>
        { l with resident := l.resident.filter (fun x => x.id != id),
                 queue := l.queue.takeWhile (fun x => x.lb.prio != t.lb.prio) ++
                   { t with preempted := true, enqueued := s.podTime.toNat, aged := false } :: l.queue.dropWhile (fun x => x.lb.prio != t.lb.prio) })
    else s

/-- A core's last step of its task has ended (R340). -/
def State.endCore (s : State) (core : Nat) (id g : Nat) : State :=
  (((s.setCore core (s.getCore core).vacant).modTask id (fun t =>
    { t with ended := if t.ended.contains g then t.ended else g :: t.ended })).settleGang id).advanceAcks
      (s.getCore core).sys.ctxId.toNat

/-- The focused core's step ends with the successors it names (R285 step 5, R336, R342). -/
def State.stepEnd (s : State) (succ : List Word) : State :=
  match s.core.task with
  | none => s.setCore s.cur s.core.vacant
  | some st =>
    let s := (s.keepCore s.cur).modTask st.task (fun t =>
      { t with succ := t.succ ++ succ.zipIdx.map (fun p => (st.number, p.2, p.1)) })
    match s.task? st.task with
    | none => s.setCore s.cur s.core.vacant
    | some t =>
      let n := (t.next[st.gangIdx]?).getD t.pb.total
      if t.pb.total ≤ n then s.endCore s.cur st.task st.gangIdx
      else if s.core.preempt.isSome then
        ((s.setCore s.cur { s.core.vacant with run := .switchedOut, task := some st, preempt := s.core.preempt }).settleGang
          st.task).advanceAcks s.ctxNo
      else (s.startStep s.cur t st.gangIdx n).advanceAcks s.ctxNo

/-! ### Switching out and back (R342, R376 to R378) -/

/-- The focused core's state goes to the save area that the kernel has named for it (R376, R377). -/
def State.writeSave (s : State) (yield : Bool) : State :=
  match (s.ctx? s.ctxNo).bind (fun x => (lookupNat s.cur x.saves).map (fun a => (a, x.inj))) with
  | some (a, inj) => s.bump.homeCells (s.core.saveCells inj s.tick a yield)
  | none => s

/-- What the context keeps of a core that is switched out, beside the bytes of its save area. A save by yield has no gate, and
its shadow is the live state (R376). -/
def Core.kept (c : Core) (yield : Bool) : Core :=
  let c := { c with preempt := none, done := [] }
  if yield then { c with gate := [], gateCmds := [], shadow := c.snapshot } else c

/-- The focused core is switched out with its state saved. -/
def State.switchOut (s : State) (yield : Bool) : State :=
  match s.core.task with
  | none => s
  | some st =>
    let c := s.core
    let s := (s.writeSave yield).modCtx s.ctxNo (fun x => { x with saved := insertNat (savedKey st.task s.cur) (c.kept yield) x.saved })
    (s.setCore s.cur { c.vacant with run := .switchedOut, task := c.task, preempt := c.preempt, remote := [],
                                     eng := { Engine.empty with nextId := c.eng.nextId } }).settleGang st.task

/-- A command need not complete before its core is switched out: a remote operation, whose answer the context awaits (R127), or one that
has stopped on a fault, which the core takes when it is back. One that is suspended on a page fault or a second-stage fault completes
once that is resolved (R104, R311). -/
def Cmd.saves (k : Cmd) : Bool :=
  (match k.fault with
    | some (.cause _ _) => true
    | _ => false) ||
  (match k.wait with
    | .op _ _ | .held _ => true
    | _ => false)

/-- Nothing of the focused core is under way that would not stand still in a save area: commands on the own package and
packets run to completion (R311, R376), accesses perform, invalidations complete. -/
def Core.savable (c : Core) : Bool :=
  c.remote.isEmpty && c.eng.invals.isEmpty && !(c.flight.any InFlight.blocks) && c.eng.cmds.all Cmd.saves

/-- PREEMPT_HORIZON (R342): at a bundle boundary after the horizon, where no event of an earlier rank of R373 is pending. -/
def execPreemptHorizon (s : State) : Out :=
  .next (match s.core.preempt with
    | some at_ =>
      if decide (at_ ≤ s.podTime.toNat) && s.core.atBoundary && !s.beforePreempt then
        let t := s.arriveLoads
        if t.core.savable then t.switchOut false else t
      else s
    | none => s)

/-- A saved core with its save area reloaded (R378). -/
def State.reloadSave (s : State) (x : Ctx) (k : Core) : Core :=
  match lookupNat s.cur x.saves with
  | some a => k.reload s.mem a
  | none => k

/-- INJ.DROPREPLY as the save area of a core holds it (R377, R378; DESIGN CHOICE, log entry 86). -/
def State.reloadInj (s : State) (x : Ctx) : Word :=
  match lookupNat s.cur x.saves with
  | some a => BitVec.ofNat 64 (leNat (s.mem.readN (a + 730 * 8) 8)) &&& 0x8000_FF00_00FF_FFFF
  | none => x.inj

/-- A value goes to register xd of the program, as at the checkpoint that has just been taken (R145, R286). -/
def Core.writeBoth (c : Core) (d : XReg) (v : Word) : Core :=
  if d = 0 then c
  else { c with regs := { c.regs with x := c.regs.x.set d v }, shadow := { c.shadow with x := c.shadow.x.set d v } }

/-- CONTEXT_RESTORE (R378, R127, R147): the saved core is reloaded, with the increments, flags and generations that came for it. -/
def execContextRestore (s : State) : Out :=
  .next (match s.core.run, s.core.task with
    | .switchedOut, some st =>
      if s.core.preempt.isSome then s
      else
        let key := savedKey st.task s.cur
        match s.ctxs.find? (fun c => (lookupNat key c.saved).isSome) with
        | none => s
        | some c =>
          match lookupNat key c.saved with
          | none => s
          | some k =>
            let k := s.reloadSave c k
            let t := s.setCore s.cur { k with
              sys := { k.sys with dbgRoute := s.core.sys.dbgRoute, horizon := s.core.sys.horizon }
              icache := s.core.icache, die := s.core.die, pos := s.core.pos, logical := s.core.logical, run := .running,
              preempt := none, nextAcc := s.core.nextAcc, eng := { k.eng with nextId := s.core.eng.nextId } }
            let t := t.modCtx c.id (fun x => { x with
              saved := eraseNat key x.saved, savedIncs := x.savedIncs.filter (fun i => i.1 != key),
              savedFlags := x.savedFlags.filter (fun i => i.1 != key), savedGens := x.savedGens.filter (fun i => i.1 != key),
              inj := s.reloadInj c })
            let t := (c.savedGens.filter (fun i => i.1 == key)).foldl (fun t g => t.modCore (fun k => k.writeBoth g.2.1 g.2.2)) t
            let t := (c.savedIncs.filter (fun i => i.1 == key)).foldl (fun t i => t.increment t.cur i.2.1 i.2.2 true) t
            (c.savedFlags.filter (fun i => i.1 == key)).foldl (fun t i => t.raiseFlag i.2 true) t
    | _, _ => s)

/-! ### Dispatch (R338 to R344) -/

/-- Core c runs unended resident work. -/
def Launch.busyCore (l : Launch) (c : Nat) : Bool :=
  l.resident.any (fun t => (List.range t.lb.gang).any (fun g => t.cores[g]? == some c && !t.ended.contains g))

/-- The cores that a task still needs. -/
def Task.needs (t : Task) : List Nat :=
  (t.cores.zipIdx.filter (fun p => !t.ended.contains p.2)).map (fun p => p.1)

/-- The domain of a task is free, or is the task's own from before a pre-emption. -/
def Launch.domainFree (l : Launch) (t : Task) : Bool :=
  match lookupNat t.lb.domain l.domains with
  | some d => d.task == t.id
  | none => true

/-- A task's cores are free, in service and serve its context's function, and its domain is free (DEDUCED, log entry 26). -/
def State.dispatchable (s : State) (t : Task) : Bool :=
  t.needs.all (fun c => !s.launch.busyCore c && s.malt.coreMap.any (fun m => m.1 == c) &&
    s.malt.serves c ((s.ctx? t.lb.ctx).bind (fun x => x.vf))) && s.launch.domainFree t

/-- The class under which a task is picked (R341). -/
def Task.pickClass (t : Task) : Nat := if t.aged && decide (1 ≤ t.lb.prio) && decide (t.lb.prio ≤ 6) then 6 else t.lb.prio

/-- Two lists share an element. -/
def shares (a b : List Nat) : Bool := a.any (fun x => b.contains x)

/-- The first class-7 task that may be dispatched: no earlier one needs any of its cores. -/
def State.pick7 (s : State) : List Task → List Nat → Option Task
  | [], _ => none
  | t :: ts, taken =>
    if t.lb.prio ≠ 7 then s.pick7 ts taken
    else if s.dispatchable t && !shares t.needs taken then some t
    else s.pick7 ts (taken ++ t.needs)

/-- Cores that queued tasks satisfying a test need. -/
def Launch.needed (l : Launch) (f : Task → Bool) : List Nat := ((l.queue.filter f).map Task.needs).flatten

/-- The first dispatchable task of classes 1 to 6 in a class. -/
def State.pickIn (s : State) (k : Nat) : Option Task :=
  let kept := s.launch.needed (fun t => t.lb.prio == 7)
  s.launch.queue.find? (fun t => t.pickClass == k && t.lb.prio != 7 && t.lb.prio != 0 && s.dispatchable t && !shares t.needs kept)

/-- Weighted round robin: the class with the most credit, the higher of equals; each class with a dispatchable task gains its
weight and the picked one loses their sum (R341) (DEDUCED, log entry 26). -/
def State.pickClass (s : State) (ks : List (Fin 8)) : Option (Fin 8 × Vector Int 8) :=
  let best := ks.foldl (fun (acc : Option (Fin 8)) k =>
    match acc with
    | none => some k
    | some a => if s.launch.credits[a] ≤ s.launch.credits[k] then some k else some a) none
  best.map (fun b =>
    let up := ks.foldl (fun (v : Vector Int 8) (k : Fin 8) => v.set k (v[k] + s.launch.weights[k])) s.launch.credits
    (b, up.set b (up[b] - ks.foldl (fun (n : Int) (k : Fin 8) => n + s.launch.weights[k]) 0)))

/-- The class-0 task that may be dispatched: on cores that no queued task of another class needs. -/
def State.pick0 (s : State) : Option Task :=
  let other := s.launch.needed (fun t => t.lb.prio != 0)
  s.launch.queue.find? (fun t => t.lb.prio == 0 && s.dispatchable t && !shares t.needs other)

/-- The next task to dispatch, with the credits after the pick. -/
def State.pickTask (s : State) : Option (Task × Vector Int 8) :=
  match s.pick7 s.launch.queue [] with
  | some t => some (t, s.launch.credits)
  | none =>
    match s.pickClass (([1, 2, 3, 4, 5, 6] : List (Fin 8)).filter (fun k => (s.pickIn k.val).isSome)) with
    | some (k, cr) => (s.pickIn k.val).map (fun t => (t, cr))
    | none => s.pick0.map (fun t => (t, s.launch.credits))

/-- The gang starts, or resumes, on every core at once (R338, R344). -/
def State.dispatch (s : State) (t : Task) (credits : Vector Int 8) : State :=
  let s := s.modLaunch (fun l =>
    { l with queue := l.queue.filter (fun x => x.id != t.id), resident := l.resident ++ [{ t with preempted := false }],
             credits := credits, moved := s.podTime.toNat,
             domains := if (lookupNat t.lb.domain l.domains).isSome then l.domains
               else insertNat t.lb.domain { task := t.id, gen := 0, arrived := [] } l.domains })
  let s := t.cores.zipIdx.foldl (fun s p =>
    let g := p.2
    if t.ended.contains g then s
    else
      match (s.ctx? t.lb.ctx).bind (fun c => lookupNat (savedKey t.id p.1) c.saved) with
      | some k => s.setCore p.1 { (s.getCore p.1).vacant with run := .switchedOut, task := k.task }
      | none => s.startStep p.1 t g ((t.next[g]?).getD 0)) s
  s.settleWaiting

/-- TASK_DISPATCH (R338, R341). -/
def execTaskDispatch (s : State) : Out :=
  .next (match s.pickTask with
    | some (t, cr) => s.dispatch t cr
    | none => s)

/-- TASK_AGING (R341): queued for more than 1 ms. -/
def State.age (s : State) (id : Nat) : State :=
  s.modLaunch (fun l => { l with queue := l.queue.map (fun t =>
    if decide (t.id = id) && decide (t.enqueued + 1000000 < s.podTime.toNat) then { t with aged := true } else t) })

/-- TASK_AGING (R341). -/
def execTaskAging (task : Nat) (s : State) : Out := .next (s.age task)

/-- Class a pre-empts class b (R341). -/
def preempts (a b : Nat) : Bool := (a == 7 && decide (b < 7)) || (b == 0 && decide (0 < a))

/-- The resident tasks that a queued task pre-empts: those on whose cores it waits. -/
def Launch.victims (l : Launch) (t : Task) : List Task :=
  l.resident.filter (fun r => preempts t.lb.prio r.lb.prio && shares t.needs r.needs)

/-- The whole gang of a task is marked (R342): the horizon counts from now. -/
def State.markGang (s : State) (r : Task) : State :=
  r.needs.foldl (fun s c => s.modCoreAt c (fun k =>
    match k.preempt with
    | some _ => k
    | none => { k with preempt := some (s.podTime.toNat + min k.sys.horizon.toNat 10000) })) s

/-- PREEMPTION_MARK (R342): a task at the head of its need marks every gang whose cores it needs. -/
def State.markFor (s : State) (t : Task) : State := (s.launch.victims t).foldl State.markGang s

/-- PREEMPTION_MARK (R342). -/
def execPreemptionMark (task : Nat) (s : State) : Out :=
  .next (match s.launch.queue.find? (fun t => t.id == task) with
    | some t => s.markFor t
    | none => s)

/-! ### Barriers and rendezvous (R142 to R148) -/

/-- Apply f to the state of a task's core, live or saved. -/
def State.modStepCore (s : State) (t : Task) (core : Nat) (f : Core → Core) : State :=
  let key := savedKey t.id core
  match (s.ctx? t.lb.ctx).bind (fun c => lookupNat key c.saved) with
  | some k => s.modCtx t.lb.ctx (fun c => { c with saved := insertNat key (f k) c.saved })
  | none => s.modCoreAt core f

/-- The state of a task's core, live or saved. -/
def State.stepCore (s : State) (t : Task) (core : Nat) : Core :=
  ((s.ctx? t.lb.ctx).bind (fun c => lookupNat (savedKey t.id core) c.saved)).getD (s.getCore core)

/-- The barrier in which a hold stands, with its register, and the hold once it is past; a trap that waits for a load's data keeps the
hold behind it (R370). -/
def Hold.passes : Hold → Option (XReg × Hold)
  | .barrier d _ => some (d, .none)
  | .entering c i p h b => h.passes.map (fun r => (r.1, .entering c i p r.2 b))
  | _ => Option.none

/-- The barrier at which a core waits, also behind a handler, with the core once it is past. -/
def Core.passes (c : Core) : Option (XReg × Core) :=
  match c.hold.passes, c.parked.passes with
  | some (d, h), _ => some (d, { c with hold := h })
  | none, some (d, h) => some (d, { c with parked := h })
  | none, none => none

/-- A participant that waits at the barrier resumes with the new generation (R145). -/
def Core.passBarrier (c : Core) (gen : Word32) : Core :=
  match c.passes with
  | some (d, k) => { k.writeBoth d (gen.setWidth 64) with task := c.task.map (fun t => { t with passed := t.passed + 1 }) }
  | none => c

/-- The core of a task, live or saved, passes the barrier; for a saved one the generation also waits for its restore, which reloads
the registers (R147, R378). -/
def State.passStep (s : State) (t : Task) (core : Nat) (gen : Word32) : State :=
  let key := savedKey t.id core
  match (s.ctx? t.lb.ctx).bind (fun c => lookupNat key c.saved) with
  | some k => s.modCtx t.lb.ctx (fun c => { c with
      saved := insertNat key (k.passBarrier gen) c.saved,
      savedGens := c.savedGens ++ (k.passes.map (fun p => (key, p.1, gen.setWidth 64))).toList })
  | none => s.modCoreAt core (fun k => k.passBarrier gen)

/-- Every participant of a domain has arrived (R145, R340). -/
def Domain.complete (d : Domain) (t : Task) : Bool :=
  !d.arrived.isEmpty && t.needs.all (fun c => d.arrived.contains c)

/-- The gang of a task lies on both dies (R142). -/
def State.bothDies (s : State) (t : Task) : Bool :=
  t.cores.any (fun c => (s.getCore c).die) && t.cores.any (fun c => !(s.getCore c).die)

/-- The barrier of a domain opens (R145): the generation rises, each participant acquires at the domain's scope and resumes;
a replay-safe task records the completion for each step (R351). -/
def State.openBarrier (s : State) (dom : Nat) (d : Domain) (t : Task) : State :=
  let gen := d.gen + 1
  let s := s.modLaunch (fun l => { l with domains := insertNat dom { d with gen := gen, arrived := [] } l.domains })
  let s := if s.bothDies t then (s.applyInbox false).applyInbox true else s
  d.arrived.foldl (fun s c =>
    let s := if t.replaySafe then
        match (s.stepCore t c).task with
        | some st => s.modTask t.id (fun t =>
            let r := t.replayRec st.number
            t.putReplay st.number (r.1 ++ [gen], r.2))
        | none => s
      else s
    s.passStep t c gen) s

/-- STEP_BARRIER (R145). -/
def execStepBarrier (dom : Fin 16) (s : State) : Out :=
  .next (match lookupNat dom.val s.launch.domains with
    | none => s
    | some d =>
      match s.task? d.task with
      | some t => if d.complete t then s.openBarrier dom.val d t else s
      | none => s)

/-- The rendezvous in which a hold stands, with its tag, and the hold once it is over. -/
def Hold.meets : Hold → Option (BitVec 8 × Hold)
  | .rdv n => some (n, .none)
  | .entering c i p h b => h.meets.map (fun r => (r.1, .entering c i p r.2 b))
  | _ => Option.none

/-- The tag with which a core waits at a rendezvous, also behind a handler. -/
def Core.rdvTag (c : Core) : Option (BitVec 8) := (c.hold.meets.or c.parked.meets).map (fun r => r.1)

/-- A member leaves the rendezvous, with the trap of unequal tags (R148). -/
def Core.leaveRdv (c : Core) (info : Option Word) : Core :=
  let c := match c.hold.meets, c.parked.meets with
    | some r, _ => { c with hold := r.2 }
    | none, some r => { c with parked := r.2 }
    | none, none => c
  match info with
  | some i => { c with lateTraps := c.lateTraps ++ [{ cause := Cause.software, info := i, origin := none }] }
  | none => c

/-- The members of a task's rendezvous group on a die that have not ended, in the order of their numbers (R148, R340). -/
def State.members (s : State) (t : Task) (die : Bool) : List Nat :=
  (t.needs.filter (fun c => (s.getCore c).die == die)).insertionSort (· ≤ ·)

/-- The rendezvous of a group is over when every member has issued rdv (R148). The tag that a mismatch shows is that of the
lowest member which has not ended its steps (DEDUCED, log entry 93). -/
def State.releaseRdv (s : State) (t : Task) (die : Bool) : State :=
  let ms := s.members t die
  let tags := ms.map (fun c => (s.stepCore t c).rdvTag)
  if tags.isEmpty || tags.any (fun x => x.isNone) then s
  else
    let low := ((tags.headD none).getD 0)
    let bad := tags.any (fun x => x != some low)
    ms.foldl (fun s c =>
      let own := ((s.stepCore t c).rdvTag).getD 0
      s.modStepCore t c (fun k => k.leaveRdv
        (if bad then some ((own.setWidth 64) ||| ((low.setWidth 64) <<< 8)) else none))) s

/-- RENDEZVOUS_RELEASE (R148). -/
def execRendezvousRelease (task : Nat) (die : Bool) (s : State) : Out :=
  .next (match s.task? task with
    | some t => if t.lb.rvGroup = 0 then s else s.releaseRdv t die
    | none => s)

/-! ### Completion (R345) -/

/-- The successor set: addresses by the first step that names them, then by field; each once. -/
def Task.successors (t : Task) : List Nat :=
  ((t.succ.insertionSort (fun a b => a.1 < b.1 ∨ (a.1 = b.1 ∧ a.2.1 ≤ b.2.1))).map
    (fun a => a.2.2.toNat)).eraseDups

/-- The nodes of a graph instance whose launch block lies at an address. -/
def GraphRun.nodesAt (g : GraphRun) (addr : Nat) : List Nat :=
  (g.nodes.zipIdx.filter (fun p => p.1.lb.addr == addr)).map (fun p => p.2)

/-- The run of a task and its node. -/
def State.runOf (s : State) (t : Task) : Option (GraphRun × Nat) :=
  t.graph.bind (fun p => (s.launch.graphs.find? (fun g => g.id == p.1)).map (fun g => (g, p.2)))

/-- The blocks of the successors that are no nodes, read before anything else happens. -/
def State.readSuccessors (s : State) (ctx : Nat) (run : Option GraphRun) :
    List Nat → State × CtlGot (List (Nat × Except Nat (LaunchBlock × ParamBlock)))
  | [] => (s, .got [])
  | a :: as =>
    if (match run with
        | some g => !(g.nodesAt a).isEmpty
        | none => false) then s.readSuccessors ctx run as
    else
      let r := s.loadBlocks ctx a true false
      match r.2 with
      | .got x =>
        let q := r.1.readSuccessors ctx run as
        match q.2 with
        | .got xs => (q.1, .got ((a, x) :: xs))
        | w => (q.1, w)
      | .bad => (r.1, .bad)
      | .wait => (r.1, .wait)

/-- Steps 3 to 5 of R345 for a task that has not failed. -/
def State.passOn (s : State) (t : Task) (run : Option (GraphRun × Nat)) (as : List Nat)
    (xs : List (Nat × Except Nat (LaunchBlock × ParamBlock))) : State :=
  let s := as.foldl (fun s a =>
    match run with
    | some (g, _) => (g.nodesAt a).foldl (fun s k => s.arriveNode g.id k) s
    | none => s) s
  let s := xs.foldl (fun s x =>
    match x.2 with
    | .ok (b, p) => s.enqueue b p none
    | .error k => s.report (.refusedSuccessor t.id (BitVec.ofNat 64 x.1) k)) s
  match run with
  | some (g, k) => (((g.nodes[k]?).map (fun n => n.succ)).getD []).foldl (fun s j => s.arriveNode g.id j) s
  | none => s

/-- A task leaves the package. -/
def State.retireTask (s : State) (id : Nat) : State :=
  s.modLaunch (fun l => { l with resident := l.resident.filter (fun x => x.id != id) })

/-- Completion (R345, R352). A successor whose frame is not present is waited for. -/
def State.completeTask (s : State) (t : Task) : State :=
  let s := s.modLaunch (fun l => { l with domains := l.domains.filter (fun d => d.2.task != t.id) })
  let run := s.runOf t
  if t.failed then
    ((((s.modLaunch (fun l => { l with graphs := l.graphs.map (fun g =>
        if some g.id = t.graph.map (fun p => p.1) then { g with failed := true } else g) })).retireTask t.id).report
      (.taskFailed t.id)).settleWaiting).endGraphs
  else
    let all := t.successors
    let as := all.take 256
    let r := s.readSuccessors t.lb.ctx (run.map (fun p => p.1)) as
    match r.2 with
    | .got xs =>
      let u := if 256 < all.length then r.1.report (.tooManySuccessors t.id) else r.1
      (((u.passOn t run as xs).retireTask t.id).settleWaiting).endGraphs
    | _ => r.1

/-- Every gang core of a task has ended its last step. -/
def Task.done (t : Task) : Bool := (List.range t.lb.gang).all (fun g => t.ended.contains g)

/-- TASK_COMPLETION (R345). -/
def execTaskCompletion (task : Nat) (s : State) : Out :=
  .next (match s.task? task with
    | some t => if t.done then s.completeTask t else s
    | none => s)

/-! ### Replay and the watchdog (R350 to R353) -/

/-- The kernel has dealt with a core's suspicion. -/
def State.clearSuspect (s : State) (core : Nat) : State :=
  s.modMalt (fun m => { m with reports := m.reports.filter (fun r => r != .suspect core) })

/-- A core is in service. -/
def State.inService (s : State) (core : Nat) : Bool := s.malt.coreMap.any (fun m => m.1 == core)

/-- The number of the step that a pre-empted task has on a core, or begins there next, as gang index g. -/
def State.savedStep (s : State) (t : Task) (core g : Nat) : Nat :=
  ((((s.ctx? t.lb.ctx).bind (fun c => lookupNat (savedKey t.id core) c.saved)).bind (fun k => k.task)).map (fun st => st.number)).getD
    ((t.next[g]?).getD 0)

/-- What a context has saved for a task's core is dropped. -/
def State.dropSaved (s : State) (t : Task) (core : Nat) : State :=
  let key := savedKey t.id core
  s.modCtx t.lb.ctx (fun c => { c with
    saved := eraseNat key c.saved, savedIncs := c.savedIncs.filter (fun i => i.1 != key),
    savedFlags := c.savedFlags.filter (fun i => i.1 != key), savedGens := c.savedGens.filter (fun i => i.1 != key) })

/-- What a context keeps of a task's core when its step is given up (R337): of the saved core, if there is one, whose save is
dropped. -/
def State.leaveStep (s : State) (t : Task) (core : Nat) : State :=
  let s := match (s.ctx? t.lb.ctx).bind (fun c => lookupNat (savedKey t.id core) c.saved) with
    | some k => s.modCtx t.lb.ctx (fun x => { x with kept := insertNat core { sys := k.sys, hx := k.regs.hx } x.kept })
    | none => s.keepCore core
  (s.dropSaved t core).modLaunch (fun l => { l with domains := l.domains.map (fun d =>
    if d.2.task = t.id then (d.1, { d.2 with arrived := d.2.arrived.filter (fun c => c != core) }) else d) })

/-- The step of a core has failed: its task fails, and the core begins no further step of it (R352). -/
def State.failStep (s : State) (core : Nat) (t : Task) (st : StepRec) : State :=
  ((s.leaveStep t core).modTask st.task (fun t => { t with failed := true })).endCore core st.task st.gangIdx

/-- The step of a pre-empted task whose core has left service (R350): its task fails, or the step begins anew on the core that the
kernel names, when the gang is dispatched again. -/
def State.replaySaved (s : State) (core : Nat) (act : ReplayAct) : State :=
  match s.launch.queue.find? (fun t => t.preempted && t.needs.contains core) with
  | none => s
  | some t =>
    match t.cores.zipIdx.find? (fun p => p.1 == core) with
    | none => s
    | some (_, g) =>
      let fail := ((s.clearSuspect core).leaveStep t core).modTask t.id (fun t => { t with failed := true, ended := g :: t.ended })
      if s.inService core then s
      else if !t.replaySafe then fail
      else
        match act with
        | .failTask => fail
        | .replay => s
        | .replayOn other =>
          if s.malt.serves other ((s.ctx? t.lb.ctx).bind (fun x => x.vf)) ∧ (s.getCore other).die = (s.getCore core).die ∧
              !s.launch.busyCore other ∧ s.inService other ∧ !t.cores.contains other then
            ((s.clearSuspect core).leaveStep t core).modTask t.id (fun u =>
              { u with cores := u.cores.set g other, next := u.next.set g (s.savedStep t core g) })
          else s

/-- STEP_REPLAY (R350): what the kernel does with a failed step, whose core has stopped, is suspect or has left service. A replay
stays on the core while that is in service. A core that awaits its restore has the step that is saved. -/
def State.replayStep (s : State) (core : Nat) (act : ReplayAct) : State :=
  match (s.getCore core).task with
  | none => s.replaySaved core act
  | some st =>
    match s.task? st.task with
    | none => s
    | some t =>
      if (s.getCore core).run ≠ .stopped ∧ (s.getCore core).run ≠ .outOfService ∧ !s.malt.reports.contains (.suspect core) then s
      else if !t.replaySafe then (s.clearSuspect core).failStep core t st
      else
        match act with
        | .failTask => (s.clearSuspect core).failStep core t st
        | .replay =>
          if s.inService core then ((s.clearSuspect core).leaveStep t core).startStep core t st.gangIdx st.number else s
        | .replayOn other =>
          if !s.inService core ∧ s.malt.serves other ((s.ctx? t.lb.ctx).bind (fun x => x.vf)) ∧ (s.getCore other).die = (s.getCore core).die ∧ !s.launch.busyCore other ∧ s.inService other then
            let s := ((s.clearSuspect core).leaveStep t core).modTask t.id (fun t => { t with cores := t.cores.set st.gangIdx other })
            let s := s.setCore core { (s.getCore core).vacant with
              run := if (s.getCore core).run = .outOfService then .outOfService else .idle }
            s.startStep other t st.gangIdx st.number
          else s

/-- STEP_REPLAY (R350). -/
def execStepReplay (core : Nat) (act : ReplayAct) (s : State) : Out := .next (s.replayStep core act)

/-- A core holds still: in a SYNC wait, sstep, rdv or launch, with nothing of it under way (R353). -/
def State.still (s : State) (core : Nat) : Bool :=
  let t := s.focus core
  let k := t.core
  k.run == .running && k.eng.cmds.all (fun c => c.fault.isSome) && k.mash.demands.isEmpty && k.mash.stores.isEmpty &&
    !(t.ctxs.any (fun c => c.owners.any (fun o => o.ops.any (fun x => x.core == core && !x.completed && decide (0 < x.tries))))) &&
    (match k.hold with
      | .exchange _ _ | .barrier _ _ | .rdv _ | .launch _ _ _ => true
      | .none => k.due == 0 && (match t.tryBundle with
          | .held => true
          | _ => false)
      | _ => false)

/-- Before pod time passes: the cores of resident tasks that hold still keep the time since when they do, or take the present
one (R353). -/
def State.noteQuiet (s : State) : State :=
  let still := (s.launch.resident.map Task.needs).flatten.filter s.still
  s.modLaunch (fun l => { l with quiet := still.map (fun c => (c, (lookupNat c l.quiet).getD s.podTime.toNat)) })

/-- The focused core moves. -/
def State.unquiet (s : State) : State := s.modLaunch (fun l => { l with quiet := l.quiet.filter (fun q => q.1 != s.cur) })

/-- The watchdog interval has passed since a pod time. -/
def State.wdogPassed (s : State) (since : Nat) : Bool := decide (since + s.launch.wdogNs ≤ s.podTime.toNat)

/-- The condition of the watchdog (R353): every core of every resident task has held still for the whole interval, and so long
no task has been dispatched (DESIGN CHOICE, log entry 37). -/
def State.allStill (s : State) : Bool :=
  !s.launch.resident.isEmpty && s.wdogPassed s.launch.moved && s.launch.resident.all (fun t => t.needs.all (fun c =>
    s.still c && ((lookupNat c s.launch.quiet).map s.wdogPassed).getD false))

/-- The kernel kills a task: its cores stop, and it fails (R352, R353). -/
def State.killTask (s : State) (id : Nat) : State :=
  match s.task? id with
  | none => s
  | some t =>
    t.cores.zipIdx.foldl (fun s p => if t.ended.contains p.2 then s else (s.keepCore p.1).endCore p.1 id p.2)
      (s.modTask id (fun t => { t with failed := true }))

/-- WATCHDOG (R353): the kernel is told, and kills a task or delivers the cause to a held core. -/
def execWatchdog (act : WatchdogAct) (s : State) : Out :=
  .next (if !s.allStill then s
    else
      let s := s.reportNew .watchdog
      match act with
      | .kill id => s.killTask id
      | .deliver core => s.bump.onCore core (fun u => u.deliverTrap Cause.watchdog (Config.watchdogInfo s.tick))
      | .none => s)

/-! ### The kernel's command port (R330) -/

/-- The results of a list, or none when one is missing. -/
def allOf {α β : Type} (f : α → Option β) : List α → Option (List β)
  | [] => some []
  | a :: as =>
    match f a with
    | none => none
    | some b => (allOf f as).map (fun bs => b :: bs)

/-- The results of a list: the first that is bad or must wait decides. -/
def gotAll {α β : Type} (f : α → CtlGot β) : List α → CtlGot (List β)
  | [] => .got []
  | a :: as =>
    match f a, gotAll f as with
    | .got b, .got bs => .got (b :: bs)
    | .got _, w => w
    | .bad, _ => .bad
    | .wait, .bad => .bad
    | .wait, _ => .wait

/-- The cells of n bytes of a context's control tensor: bad where its tables do not place them; a frame that is absent or moves is
waited for (R81, R83). -/
def State.controlCells (s : State) (ctx addr : Nat) (bs : List Byte) : CtlGot (List Host.Cell) :=
  match s.ctx? ctx with
  | none => .bad
  | some c =>
    if c.controlExtent < addr + bs.length then .bad
    else
      match gotAll (fun (p : Nat × Nat) =>
        match (s.controlAt ctx p.1 true).2 with
        | .ok bit _ _ => .got (cellsAt (bit / 8) ((bs.drop (p.1 - addr)).take p.2))
        | .fault _ _ => .bad
        | _ => .wait) (pieces addr bs.length) with
      | .got cs => .got cs.flatten
      | .bad => .bad
      | .wait => .wait

/-- The cells of a section's bytes at its place (R393); in a tensor they are the packed units of its format from an element on, bits
of other elements stay (R72, R193). A section of R26 need not fill its last byte: what is no whole unit is dropped (DEDUCED, log
entry 110). Zero units that start behind the last byte's first bit, with nothing but zeros behind them, may be elements or
fill; outside the tensor they are fill, inside it the free value Config.tailFill says which they are (log entry 110). -/
def State.placeCells (s : State) (ctx : Nat) (p : Placement) (bs : List Byte) : CtlGot (List Host.Cell) :=
  match p.target with
  | .control => s.controlCells ctx p.base bs
  | .spad core off =>
    if core < 96 ∧ off + bs.length ≤ 2 ^ 22 then .got (cellsAt (spadBase core + off) bs) else .bad
  | .tensor tid e =>
    match ((s.ctx? ctx).bind (fun c => lookupNat tid c.tensors)).bind parseTensor with
    | none => .bad
    | some t =>
      let n := unitBits t.fmt
      let write (k : Nat) : CtlGot (List BitWrite) :=
        let inTail := decide (bs.length * 8 < k * n + 8 ∧ ofLe bs >>> (k * n) = 0)
        if inTail && Config.tailFill ctx tid (e + k * t.fmt.blockElems) then .got []
        else
          match (s.tensorPlace ctx tid ((e + k * t.fmt.blockElems : Nat) : Int) none true true).2 with
          | .ok (x, _) => .got [{ bit := x.bit, width := n, v := (ofLe bs >>> (k * n)) % 2 ^ n, mark := false, fetch := Fetch.plain }]
          | .fault (.cause _ _) => if inTail then .got [] else .bad
          | _ => .wait
      match gotAll write (List.range (bs.length * 8 / n)) with
      | .got wss =>
        let ws := wss.flatten
        .got (((ws.map (fun w => (List.range ((w.bit % 8 + n + 7) / 8)).map (fun i => w.bit / 8 + i))).flatten.dedup).map
          (fun a => (a, byteAfter ws a (s.mem.read a))))
      | .bad => .bad
      | .wait => .wait

/-- A section's bytes are written, to main memory at home or to a scratchpad; none while a frame is waited for (R81, R83). -/
def State.storeData (s : State) (ctx : Nat) (p : Placement) (bs : List Byte) : Option State :=
  match s.placeCells ctx p bs, p.target with
  | .got cs, .spad _ _ => some (s.writeCells cs)
  | .got cs, _ => some (s.homeCells cs)
  | .bad, _ => some s
  | .wait, _ => none

/-- One piece of a load is done; none while its frame is waited for. -/
def State.doPiece (s : State) : LoadPiece → Option State
  | .code ctx addr b => s.storeData ctx { sect := 0, base := addr, target := .control } (leBytes 64 b.toNat)
  | .data ctx p bs => s.storeData ctx p bs
  | .inval lo hi => some (s.dropCodeIn .package lo hi)

/-- A piece is done now, or joins those that wait. -/
def State.putPiece (s : State) (p : LoadPiece) : State :=
  (s.doPiece p).getD (s.modMalt (fun m => { m with loads := m.loads ++ [p] }))

/-- One whole bundle is written (R379). -/
def State.writeBundle (s : State) (ctx addr : Nat) (bundle : BitVec 512) : State := s.putPiece (.code ctx addr bundle)

/-- The next piece of a load (R394): a bundle, a section, or the invalidation of a written range; the pieces behind one that waits
for its frame wait with it (R81, R83). -/
def State.loadStep (s : State) : State :=
  match s.malt.loads with
  | [] => s
  | p :: rest =>
    match s.doPiece p with
    | some t => t.modMalt (fun m => { m with loads := rest })
    | none => s

/-- KERNEL_COMMAND_PORT_LAUNCH (R330): the checks of R333 without the restriction of a context. -/
def execKernelCommandPortLaunch (ctx : Nat) (addr : Word) (graph : Bool) (s : State) : Out :=
  let r := s.submit ctx addr.toNat graph true
  .next (match r.2 with
    | .got (0, _) => r.1
    | .got (k, _) => r.1.report (.refusedLaunch ctx addr k)
    | _ => r.1)

/-! ### The launch hardware's own work -/

/-- A queued task that waits only for work that it pre-empts and that is not marked yet. -/
def State.toMark (s : State) : Option Task :=
  s.launch.queue.find? (fun t => (s.launch.victims t).any (fun r => r.needs.any (fun c => (s.getCore c).preempt.isNone)))

/-- A queued task that has aged and is not marked so. -/
def State.toAge (s : State) : Option Task :=
  s.launch.queue.find? (fun t => !t.aged && decide (t.enqueued + 1000000 < s.podTime.toNat))

/-- What the launch hardware does when it has something to do: a completion, an aging, a mark for pre-emption, a dispatch. -/
def State.launchWork (s : State) : State :=
  match s.launch.resident.find? Task.done with
  | some t => s.completeTask t
  | none =>
    match s.toAge with
    | some t => s.age t.id
    | none =>
      match s.toMark with
      | some t => s.markFor t
      | none =>
        match s.pickTask with
        | some (t, cr) => s.dispatch t cr
        | none => s

end Sys2Proof.Machine
end

