-- ==== Sys2Proof/Machine/Hold.lean ====
section
/-! DEFINITION. What a core does at a boundary: the work that goes on beside it, the holds and how they end (spec/18 R360, R361,
R374; spec/06 R144; spec/11 R285 to R287; spec/05 R94, R116, R117; spec/08 R179), and the order of events (R373). -/

namespace Sys2Proof.Machine

/-! ### Work beside the issue of bundles -/

/-- The first action of a list that changes the state, but for the tick of the free values. -/
def State.firstChange (s : State) : List (State → State) → State
  | [] => s
  | f :: fs =>
    let t := f s
    if { t with tick := s.tick } = s then s.firstChange fs else t

/-- Accesses that may perform do, and those that have performed are acknowledged (R140). -/
def State.accessWork (s : State) : List (State → State) :=
  [fun s => s.performReady s.core.remote] ++ s.core.remote.map (fun a => fun s => s.ackStore a.id)

/-- Demands, store nodes and forces (R173, R191, R192). -/
def State.mashWork (s : State) : List (State → State) :=
  [fun s => s.runDemands s.core.mash.demands, State.readClosings] ++
    s.core.mash.demands.map (fun d => fun s => s.finishForce d) ++
    s.core.mash.stores.map (fun n => fun s => s.storeStep n 65536)

/-- Fences and commands in stream order, then invalidations (R95, R117, R289). -/
def State.engineWork (s : State) : List (State → State) :=
  s.core.eng.fences.map (fun f => fun s => s.fenceStep f.id) ++
    s.core.eng.cmds.map (fun c => fun s => s.cmdStep c.id 65536) ++
    s.core.eng.invals.map (fun i => fun s => s.completeInval i)

/-- What cores saved from the focused one's place have yet to send (R127). -/
def State.savedWork (s : State) : List (State → State) :=
  s.savedSends.map (fun w => fun s => s.asSaved w.1 w.2.1 (fun s => s.cmdStep w.2.2 1))

/-- The oldest piece of work that the focused core's agents, and then the launch hardware, can do. -/
def State.progress (s : State) : State :=
  s.firstChange (s.accessWork ++ s.mashWork ++ s.engineWork ++ s.savedWork ++ [State.loadStep, State.launchWork])

/-! ### Commits (R360, R183) -/

/-- Step 1 of R360 with R183: every demand is evaluated, every store node has performed, every window closed in the segment is
read, every fence is satisfied, every load has its data, and the gated commands find room in the engine (R94). -/
def Core.commitReady (c : Core) : Bool :=
  c.mash.demands.isEmpty && c.mash.stores.isEmpty && !c.mash.nodes.any TileNode.closingOpen && c.eng.fences.isEmpty &&
    !c.awaitsData && decide (c.eng.held + c.gateCmds.length ≤ 64)

/-- The hold that follows a commit. -/
def After.next : After → Hold
  | .ckpt | .implicit => .none
  | .sstep d dom => .exchange d dom
  | .launch d addr g => .launch d addr g
  | .yield => .yielding
  | .exit succ => .endStep succ

/-- Steps 2 to 5 of R360: a load with a mark rolls back (R366); else the segment commits, and an implicit checkpoint is
counted (R361). -/
def State.doCommit (s : State) (a : After) : State :=
  match s.core.flight.find? (fun e => e.mark.isSome) with
  | some e =>
    match e.mark with
    | some m => s.recoveryFault (if m.ue then Cause.eccUncorrectable else Cause.poison) (recoveryInfo m.pc 2)
    | none => s
  | none =>
    let s := match a with
      | .implicit => s.countErr s.ctxNo (fun e => { e with implicit := satInc e.implicit })
      | _ => s
    ((s.commit.gc).assignSerials).holdFor a.next

/-- A core held in a commit goes on. -/
def State.commitStep (s : State) (a : After) : State :=
  if s.core.commitReady then s.doCommit a
  else s.firstChange ([State.arriveLoads] ++ s.accessWork ++ s.mashWork ++ s.engineWork ++ s.savedWork ++
    [State.loadStep, State.launchWork])

/-! ### Supersteps (R144 to R147, R351) -/

/-- Step 3 of R144: the exchange is drained. -/
def Core.drained (c : Core) : Bool := !(c.remote.any (fun a => a.store)) && c.eng.cmds.all (fun k => !k.x)

/-- Steps 4 and 5 of R144: release at the domain's scope, and arrival; a step passes where its task's record says that an earlier run of
it did (R351). -/
def State.arriveBarrier (s : State) (d : XReg) (dom : Fin 16) : State :=
  match s.core.task.bind (fun st => (s.task? st.task).map (fun t => (st, t))) with
  | none => s
  | some (st, t) =>
    let s := if s.bothDies t then s.release .package else s
    match (t.replayRec st.number).1[st.passed]? with
    | some gen =>
      s.modCore (fun c => { c.writeBoth d (gen.setWidth 64) with
        hold := .none, task := some { st with passed := st.passed + 1 } })
    | none =>
      (s.modLaunch (fun l => { l with domains := l.domains.map (fun x =>
        if x.1 = dom.val then (x.1, { x.2 with arrived := if x.2.arrived.contains s.cur then x.2.arrived else x.2.arrived ++ [s.cur] })
        else x) })).holdFor (.barrier d dom)

/-! ### Launches and the ends of steps (R285 to R287) -/

/-- A launch is accepted or refused (R286). -/
def State.finishLaunch (s : State) (d : XReg) (addr : Word) (graph : Bool) : State :=
  let r := s.submit s.ctxNo addr.toNat graph false
  match r.2 with
  | .got (k, node) =>
    r.1.modCore (fun c => { c.writeBoth d (BitVec.ofNat 64 k) with
      hold := .none,
      sys := if k = 0 then c.sys else { c.sys with fInfo := BitVec.ofNat 64 (k + node * 65536) } })
  | _ => r.1

/-- Step 3 of R285: store nodes, commands and stores are done. -/
def Core.settled (c : Core) : Bool :=
  c.mash.stores.isEmpty && c.eng.cmds.isEmpty && c.eng.fences.isEmpty && !(c.remote.any (fun a => a.store))

/-- The end of a step (R285): late traps of its commands come first; then the release, and the step is over
(DEDUCED, log entry 24). -/
def State.finishStep (s : State) (succ : List Word) : State :=
  if s.core.lateTraps.isEmpty then (s.release .package).stepEnd succ else s.takeLate

/-! ### Fences and drains (R116, R117, R88) -/

/-- The hold of a drain or fence ends: its acquire and release, and its flag; what the ctl slot of its bundle holds for
follows. -/
def State.finishDrain (s : State) (k : DrainKind) (sc : Scope) (flag : Option FlagNo) (next : Hold) : State :=
  let s := match k with
    | .sdrn => s
    | .acq => s.acquire sc
    | .sc => (s.release sc).acquire sc
  (s.raiseFlag? flag false).holdFor next

/-- A core held by a drain or fence goes on. -/
def State.drainStep (s : State) (k : DrainKind) (sc : Scope) (flag : Option FlagNo) (next : Hold) : State :=
  if s.drainMet k sc then s.finishDrain k sc flag next else s.progress

/-! ### Own-scratchpad accesses before pending stores (R179) -/

/-- What goes on beside the core goes on, the pending store nodes and demands among it, and the waiting bundle is tried again. -/
def State.aliasWait (s : State) : State :=
  match s.core.hold with
  | .store => s.progress.holdFor .none
  | _ => s

/-- ALIAS_STORE_WAIT (R179). -/
def execAliasStoreWait (s : State) : Out := .next s.aliasWait

/-! ### Leaving handler mode (R374, R375) -/

/-- A late-class trap that was held in handler mode is taken in place of the return (R372), unless a rollback comes first
(R373). -/
def State.takeHeld (s : State) : State :=
  if s.core.evalDue || s.core.faultedCmd.isSome then s else s.takeLate

/-- The handler's results have their data: it is left, with the bundle that xbnd emulates, or a held event is taken; a
marked result is a fault in handler mode (R372). -/
def State.finishReturn (s : State) (e : Option (BitVec 512)) : State :=
  let s := s.arriveLoads
  if s.core.awaitsData then s.progress
  else
    match s.core.flight.find? (fun x => x.mark.isSome) with
    | some x => s.stopCore (match x.mark with
        | some m => if m.ue then Cause.eccUncorrectable else Cause.poison
        | none => Cause.poison)
    | none => (s.leaveHandler.modCore (fun c => { c with emul := e })).takeHeld

/-! ### Entering the handler (R370) -/

/-- A trap waits for the data of the core's remote loads, and is then entered, after the rollback of an E- or B-class trap. -/
def State.enterStep (s : State) (cause : BitVec 6) (info : Word) (pc : CodeAddr) (parked : Hold) (back : Bool) : State :=
  let t := s.arriveLoads
  if t.core.awaitsData then s.firstChange [State.arriveLoads, State.progress]
  else if back then (t.holdFor parked).rollbackEnter cause info
  else (t.holdFor parked).enterTrap cause info pc

/-! ### The holds together -/

/-- What a held core does next. -/
def State.holdStep (s : State) : State :=
  match s.core.hold with
  | .none => s
  | .commit a => s.commitStep a
  | .exchange d dom => if s.core.drained then s.arriveBarrier d dom else s.progress
  | .barrier _ dom =>
    match lookupNat dom.val s.launch.domains with
    | some d =>
      match s.task? d.task with
      | some t => if d.complete t then s.openBarrier dom.val d t else s.progress
      | none => s.progress
    | none => s.progress
  | .rdv _ =>
    match s.core.task.bind (fun st => s.task? st.task) with
    | some t => s.firstChange [fun s => s.releaseRdv t s.core.die, State.progress]
    | none => s.progress
  | .drain k sc flag next => s.drainStep k sc flag next
  | .endStep succ => if s.core.settled then s.finishStep succ else s.progress
  | .yielding =>
    if s.core.settled then
      let t := (s.release .package).holdFor .none
      if t.core.preempt.isSome then t.switchOut true else t
    else s.progress
  | .page _ _ _ | .stage2 _ _ _ _ _ | .hypervisor _ => s.progress
  | .store => s.aliasWait
  | .engine => if s.core.eng.held < 64 then s.holdFor .none else s.progress
  | .fence => if s.core.eng.fences.isEmpty then s.holdFor .none else s.progress
  | .entering cause info pc parked back => s.enterStep cause info pc parked back
  | .launch d addr g => s.firstChange [fun s => s.finishLaunch d addr g, State.progress]
  | .ret e => s.finishReturn e

/-- The horizon of a pending pre-emption has passed (R342). -/
def State.preemptDue (s : State) : Bool :=
  match s.core.preempt with
  | some t => decide (t ≤ s.podTime.toNat)
  | none => false

/-! ### The order at a boundary (R373) -/

/-- The events of the opcode table that a core takes by itself. -/
inductive CoreAct where
  | evaluationFault
  | copyCommandFault (id : Nat)
  | lateTrap
  | trapEntry
  | preemptHorizon
  | bundleIssue
  | resultLand
  | contextRestore
  deriving DecidableEq, Repr

/-- The core waits for the data of a remote load that cannot come before other work is done (R54, R140, R304). -/
def State.stuckLoad (s : State) : Bool := s.core.flight.any InFlight.blocks && decide (s.arriveLoads = s)

/-- What the focused core does at a bundle boundary, where an event of the table says it (R373): rollbacks and page faults, then
a trap of the kernel or a precise fault of the bundle about to issue, then a late trap, then pre-emption, then the bundle. -/
def State.boundary (s : State) : Option CoreAct :=
  let leave : Option CoreAct := if s.preemptDue && s.core.savable then some .preemptHorizon else none
  if s.core.entering then none
  else if s.core.evalDue then some .evaluationFault
  else
    match s.core.faultedCmd with
    | some c => some (.copyCommandFault c.id)
    | none =>
      if s.fetchFaults || s.bundleRolls then some .bundleIssue
      else if !s.core.kTraps.isEmpty then some .trapEntry
      else if s.core.hold ≠ .none then leave
      else
        let late := !s.core.lateTraps.isEmpty && !s.core.sys.hnd
        match s.tryBundle with
        | .raised _ _ => some .bundleIssue
        | .held => if late then some .lateTrap else leave
        | .stalled t .flight => if t.stuckLoad then none else some .bundleIssue
        | r =>
          if late then some .lateTrap
          else if s.preemptDue then leave
          else
            match r with
            | .stalled t .full => if t.fullStep = t then none else some .bundleIssue
            | _ => some .bundleIssue

/-- The event that the focused core takes, where there is one: a position that passes, an event of a boundary, or the return
of a switched-out core. -/
def State.nextEvent (s : State) : Option CoreAct :=
  match s.core.run with
  | .running => if 0 < s.core.due then if s.stuckLoad then none else some .resultLand else s.boundary
  | .switchedOut => if s.core.preempt.isNone && s.core.task.isSome then some .contextRestore else none
  | _ => none

/-- What the focused core does where no event of the table says it: its hold goes on, or what works beside it. -/
def State.otherwise (s : State) : State :=
  if s.core.run = .running ∧ s.core.hold ≠ .none then s.holdStep else s.progress

/-- The event's meaning. -/
def State.takeEvent (s : State) (a : CoreAct) : Out :=
  match a with
  | .evaluationFault => execEvaluationFault s
  | .copyCommandFault id => execCopyCommandFault id s
  | .lateTrap => execLateTrap s
  | .trapEntry => .next s.takeKernel
  | .preemptHorizon => execPreemptHorizon s
  | .bundleIssue => execBundleIssue s
  | .resultLand => execResultLand s
  | .contextRestore => execContextRestore s

end Sys2Proof.Machine
end

