-- ==== Sys2Proof/Machine/Loader.lean ====
section
/-! DEFINITION. The loader (spec/20 R390 to R394): KBO files, their symbols and relocations, and the writing of an image. -/

namespace Sys2Proof.Machine

/-! ### The file (R390) -/

/-- A section entry. -/
structure KSect where
  kind : Nat
  align : Nat
  offset : Nat
  size : Nat
  relOff : Nat
  nRel : Nat
  deriving DecidableEq, Repr

/-- A symbol entry with its name. -/
structure KSym where
  name : List Byte
  sect : Nat
  bind : Nat
  kind : Nat
  value : Nat
  size : Nat
  deriving DecidableEq, Repr

/-- A relocation record. -/
structure KRel where
  offset : Nat
  typ : Nat
  pair : Nat
  link : Nat
  sym : Nat
  addend : Int
  deriving DecidableEq, Repr

/-- A file that the loader accepts, with the relocation records by section. -/
structure KObj where
  bytes : List Byte
  sects : List KSect
  syms : List KSym
  rels : List (List KRel)
  places : List Placement
  tensors : List (Nat × Nat)
  deriving DecidableEq, Repr

/-- The name at an offset of the string table, which ends with a NUL inside the table. -/
def nameAt (bs : List Byte) (strOff strSize n : Nat) : Option (List Byte) :=
  let rest := ((bs.drop strOff).take strSize).drop n
  if rest.contains 0 then some (rest.takeWhile (fun b => b != 0)) else none

/-- Section entry k: its reserved fields, its kind and its extent; a section of kind 2 is ignored. -/
def parseSect (bs : List Byte) (off k : Nat) : Option KSect :=
  let o := off + 40 * k
  let s : KSect := { kind := field bs (o + 4) 1, align := field bs (o + 5) 1, offset := field bs (o + 8) 8,
                     size := field bs (o + 16) 8, relOff := field bs (o + 24) 8, nRel := field bs (o + 32) 4 }
  if o + 40 ≤ bs.length ∧ field bs (o + 6) 2 = 0 ∧ field bs (o + 36) 4 = 0 ∧ s.kind ≤ 2 ∧
      (s.kind ≠ 2 → s.offset + s.size ≤ bs.length ∧ s.relOff + 24 * s.nRel ≤ bs.length) ∧
      (s.kind = 0 → 6 ≤ s.align ∧ s.size % 64 = 0) then some s else none

/-- Symbol entry k. -/
def parseSym (bs : List Byte) (off strOff strSize nSect k : Nat) : Option KSym :=
  let o := off + 24 * k
  match nameAt bs strOff strSize (field bs o 4) with
  | none => none
  | some name =>
    let s : KSym := { name := name, sect := field bs (o + 4) 2, bind := field bs (o + 6) 1, kind := field bs (o + 7) 1,
                      value := field bs (o + 8) 8, size := field bs (o + 16) 8 }
    if o + 24 ≤ bs.length ∧ (s.sect < nSect ∨ s.sect = 0xFFFE ∨ s.sect = 0xFFFF) ∧ s.bind ≤ 2 ∧ s.kind ≤ 4 then some s
    else none

/-- Relocation record k of a section (R390). -/
def parseRel (bs : List Byte) (off nSym k : Nat) : Option KRel :=
  let o := off + 24 * k
  let r : KRel := { offset := field bs o 8, typ := field bs (o + 8) 1, pair := field bs (o + 9) 1,
                    link := field bs (o + 10) 2, sym := field bs (o + 12) 4, addend := sgn 64 (field bs (o + 16) 8) }
  if 1 ≤ r.typ ∧ r.typ ≤ 10 ∧ r.sym < nSym ∧ (r.typ ≠ 4 → r.pair = 0) ∧ (r.typ ≠ 10 → r.link = 0) ∧
      (r.typ = 10 → 1 ≤ r.link) then some r else none

/-- A file: its header, section table, symbol table and relocation records. -/
def parseKbo (x : LoadObject) : Option KObj :=
  let bs := x.bytes
  let nSect := field bs 8 2
  let nSym := field bs 12 4
  let strOff := field bs 0x20 8
  let strSize := field bs 0x28 8
  let entry := field bs 0x30 4
  if 64 ≤ bs.length ∧ field bs 0 4 = 0x4F424B7F ∧ field bs 4 2 = 1 ∧ field bs 6 1 = 1 ∧ field bs 7 1 ≤ 3 ∧
      field bs 10 2 = 0 ∧ field bs 0x34 12 = 0 ∧ strOff + strSize ≤ bs.length ∧ (entry < nSym ∨ entry = 0xFFFFFFFF) then
    match allOf (parseSect bs (field bs 0x10 8)) (List.range nSect),
        allOf (parseSym bs (field bs 0x18 8) strOff strSize nSect) (List.range nSym) with
    | some ss, some ys =>
      match allOf (fun s => allOf (parseRel bs s.relOff nSym) (List.range (if s.kind = 2 then 0 else s.nRel))) ss with
      | some rs => some { bytes := bs, sects := ss, syms := ys, rels := rs, places := x.places, tensors := x.tensors }
      | none => none
    | _, _ => none
  else none

/-! ### Symbols (R393) -/

/-- The placement of a section. -/
def KObj.place (o : KObj) (k : Nat) : Option Placement := o.places.find? (fun p => p.sect == k)

/-- The address of the bytes of a placement, where it has one beside its base. -/
def targetOff : PlaceTarget → Nat
  | .spad _ off => off
  | _ => 0

/-- Placements name bases that are multiples of the alignment, and code goes in the control tensor; an empty section needs no
placement. R24 and R393 do not say what the base of a section is that goes to a tensor: the load address that the placement names is
checked, and the element of its first byte may be any (DESIGN CHOICE, log entry 98). -/
def KObj.placesOk (o : KObj) : Bool :=
  o.sects.zipIdx.all (fun p =>
    if p.1.kind = 2 then true
    else match o.place p.2 with
      | none => p.1.size == 0
      | some q => q.base % 2 ^ p.1.align == 0 && targetOff q.target % 2 ^ p.1.align == 0 &&
          (p.1.kind != 0 || q.target == .control))

/-- A definition that other objects may see. -/
def KSym.isGlobal (s : KSym) : Bool := s.bind == 1 && s.sect != 0xFFFF

/-- A definition of any binding. -/
def KSym.isDefined (s : KSym) : Bool := s.bind != 2 && s.sect != 0xFFFF

/-- The global definitions of a name: object and symbol. -/
def globalsOf (objs : List KObj) (name : List Byte) : List (Nat × Nat) :=
  (objs.zipIdx.map (fun o => (o.1.syms.zipIdx.filter (fun s => s.1.isGlobal && s.1.name == name)).map
    (fun s => (o.2, s.2)))).flatten

/-- No name is defined globally twice. -/
def namesOnce (objs : List KObj) : Bool :=
  objs.all (fun o => o.syms.all (fun s => !s.isGlobal || (globalsOf objs s.name).length == 1))

/-- The definition that a symbol stands for: object and symbol. A tensor symbol that nothing defines needs none: the placement
names its tensor id. -/
def resolve (objs : List KObj) (o k : Nat) : Option (Nat × Nat) :=
  match (objs[o]?).bind (fun x => x.syms[k]?) with
  | none => none
  | some s =>
    if s.bind = 0 then if s.kind ≠ 2 ∧ s.sect = 0xFFFF then none else some (o, k)
    else match globalsOf objs s.name with
      | [] => if s.kind = 2 then some (o, k) else none
      | [(o', k')] =>
        match (objs[o']?).bind (fun x => x.syms[k']?) with
        | some d => if d.kind ≠ s.kind then none else if s.kind = 2 then some (o, k) else some (o', k')
        | none => none
      | _ => none

/-- Every global and extern symbol has its definition, of its kind. -/
def allResolve (objs : List KObj) : Bool :=
  objs.zipIdx.all (fun o => (List.range o.1.syms.length).all (fun k => (resolve objs o.2 k).isSome))

/-- The first index of the run of each defined format-base symbol, and the total (R393). -/
def fmtRuns (objs : List KObj) : List ((Nat × Nat) × Nat) × Nat :=
  objs.zipIdx.foldl (fun acc o =>
    o.1.syms.zipIdx.foldl (fun acc s =>
      if s.1.kind = 4 ∧ s.1.isDefined then (acc.1 ++ [((o.2, s.2), acc.2)], acc.2 + s.1.size) else acc) acc) ([], 0)

/-- S of R392. -/
def symValue (objs : List KObj) (o k : Nat) : Option Nat :=
  match resolve objs o k with
  | none => none
  | some (o', k') =>
    match objs[o']? with
    | none => none
    | some x =>
      match x.syms[k']? with
      | none => none
      | some s =>
        if s.kind = 2 then lookupNat k' x.tensors
        else if s.kind = 4 then ((fmtRuns objs).1.find? (fun r => r.1 == (o', k'))).map (fun r => r.2)
        else if s.sect = 0xFFFE then some s.value
        else (x.place s.sect).map (fun p => p.base + s.value)

/-! ### Relocations (R391, R392) -/

/-- Replace n bits of a number from bit lo on. -/
def setBits (w lo n v : Nat) : Nat := w - w / 2 ^ lo % 2 ^ n * 2 ^ lo + v % 2 ^ n * 2 ^ lo

/-- The low n bits of an integer. -/
def twosBits (v : Int) (n : Nat) : Nat := (v % (2 ^ n : Nat)).toNat

/-- v within bounds. -/
def within (lo v hi : Int) : Bool := decide (lo ≤ v) && decide (v ≤ hi)

/-- The high part of the split form: (v - sext15(v[14:0])) >> 15. -/
def highPart (v : Int) : Int := (v - sgn 15 (twosBits v 15)) / 32768

/-- Pool words that an instruction reads. -/
def poolWordsOf (i : Instr) : List Nat := (encode i).pool.map (fun p => p.1.val)

/-- Pool words that the present slots of a bundle read. -/
def poolReads (w : Nat) : List (List Nat) :=
  (slotResults w).map (fun r => match r.2 with
    | .ok s => poolWordsOf s.op
    | .error _ => [])

/-- Some slot reads pool word k alone. -/
def readsWord (w k : Nat) : Bool := (poolReads w).contains [k]

/-- Some slot reads the pool pair at k. -/
def readsPair (w k : Nat) : Bool := k % 2 == 0 && (poolReads w).any (fun p => p.contains k && p.contains (k + 1))

/-- A present slot whose format holds imm15. -/
def imm15Slot (w k : Nat) : Bool :=
  if h : k < 8 then
    let s := slotWord w ⟨k, h⟩
    present w ⟨k, h⟩ && (match SlotKind.of ⟨k, h⟩ with
      | .alu => fld s 32 2 == 1
      | .mem => [1, 2, 3, 4, 5, 6, 7, 9, 10, 11, 12, 16, 17].contains (fld s 32 8)
      | _ => false)
  else false

/-- The modes of a tile arithmetic instruction. -/
def tileModes : Instr → Option TMode
  | .tmma m | .tmmaD m | .tmac m | .tmacD m | .tadd m | .taddD m | .tsub m | .tmul m | .tmax m | .tmin m => some m
  | .tscl m _ _ | .tbia m _ | .tfun m _ | .tred m _ _ | .tsmx m | .ttrn m | .tcvt m | .tslc m _ | .tcat m _ => some m
  | .tbcs m _ | .tmsk m _ => some m
  | _ => none

/-- A present tile slot whose modes come from the format table. -/
def tableSlot (w k : Nat) : Bool :=
  (slotResults w).any (fun r => r.1.val == k && (match r.2 with
    | .ok s => (match tileModes s.op with
        | some (.table _ _) => true
        | _ => false)
    | .error _ => false))

/-- A present ctl slot with an offset. -/
def offsetSlot (w : Nat) : Bool := present w 7 && [1, 2].contains (fld (slotWord w 7) 32 8)

/-- The field of a slot word of a bundle. -/
def setSlot (w k lo n v : Nat) : Nat := setBits w (64 + 40 * k + lo) n v

/-- A field of a bundle at address pc patched, with the high part that the record writes; none refuses the load. `sel` is the
field selector, `kind` the symbol's kind, `prev` the high parts of the section's earlier records. -/
def patchBundle (w pc : Nat) (r : KRel) (sel kind : Nat) (v : Int) (prev : List (Option Int)) : Option (Nat × Option Int) :=
  let word := if 48 ≤ sel ∧ sel ≤ 60 ∧ sel % 4 = 0 then some ((sel - 48) / 4) else none
  let inSlot (f : Nat → Option (Nat × Option Int)) : Option (Nat × Option Int) := if sel < 8 then f sel else none
  let inPool (f : Nat → Option (Nat × Option Int)) : Option (Nat × Option Int) := word.bind f
  let wide := within (-(2 ^ 48)) v (2 ^ 48 - 1)
  match r.typ with
  | 1 => inPool (fun k =>
      if within (-(2 ^ 31)) v (2 ^ 32 - 1) && readsWord w k then some (setBits w (384 + 32 * k) 32 (twosBits v 32), none) else none)
  | 2 => inPool (fun k => if readsPair w k then some (setBits w (384 + 32 * k) 64 (twosBits v 64), none) else none)
  | 3 => inSlot (fun k =>
      if within (-16384) v 16383 && imm15Slot w k then some (setSlot w k 0 15 (twosBits v 15), none) else none)
  | 4 => inSlot (fun k =>
      if wide && imm15Slot w k && readsPair w r.pair then
        some (setBits (setSlot w k 0 15 (twosBits v 15)) (384 + 32 * r.pair) 64 (twosBits (highPart v) 64), some (highPart v))
      else none)
  | 5 => inSlot (fun k =>
      if k = 7 ∧ offsetSlot w ∧ (v - pc) % 64 = 0 ∧ within (-(2 ^ 24)) ((v - pc) / 64) (2 ^ 24 - 1) then
        some (setSlot w 7 0 25 (twosBits ((v - pc) / 64) 25), none) else none)
  | 6 => inPool (fun k =>
      if kind = 2 ∧ r.addend = 0 ∧ within 0 v 65535 ∧ readsWord w k then some (setBits w (384 + 32 * k) 32 (twosBits v 32), none)
      else none)
  | 7 => inPool (fun k =>
      if v % 64 = 0 ∧ readsPair w k then some (setBits w (384 + 32 * k) 64 (twosBits v 64), none) else none)
  | 8 => inSlot (fun k => if within 0 v 31 && tableSlot w k then some (setSlot w k 19 5 (twosBits v 5), none) else none)
  | 9 => inPool (fun k =>
      if wide && readsPair w k then some (setBits w (384 + 32 * k) 64 (twosBits (highPart v) 64), some (highPart v)) else none)
  | _ => inSlot (fun k =>
      let back := if r.link ≤ prev.length then ((prev[prev.length - r.link]?).bind id) else none
      if wide && imm15Slot w k && decide (back = some (highPart v)) then some (setSlot w k 0 15 (twosBits v 15), none)
      else none)

/-- Put bytes into a run of bytes. -/
def putBytes (bs : List Byte) (off : Nat) (new : List Byte) : List Byte :=
  bs.take off ++ new ++ bs.drop (off + new.length)

/-- A record of a data section (R392): TENSOR16 and FTIDX. -/
def patchData (bs : List Byte) (r : KRel) (kind : Nat) (v : Int) : Option (List Byte) :=
  match r.typ with
  | 6 =>
    if kind = 2 ∧ r.addend = 0 ∧ within 0 v 65535 ∧ r.offset % 2 = 0 ∧ r.offset + 2 ≤ bs.length then
      some (putBytes bs r.offset (leBytes 2 (twosBits v 16))) else none
  | 8 =>
    if within 0 v 63 && decide (r.offset + 4 ≤ bs.length) then
      some (putBytes bs r.offset (leBytes 4 (setBits (field bs r.offset 4) 12 6 (twosBits v 6)))) else none
  | _ => none

/-- The bytes of section k of object o after its relocations: v is a number of 64-bit two's complement arithmetic (R20). -/
def relocate (objs : List KObj) (o k : Nat) (x : KObj) (s : KSect) (base : Nat) : Option (List Byte) :=
  let init := (x.bytes.drop s.offset).take s.size
  (((x.rels[k]?).getD []).foldl (fun (acc : Option (List Byte × List (Option Int))) r =>
    match acc, symValue objs o r.sym, x.syms[r.sym]? with
    | some (bs, prev), some sv, some y =>
      let v : Int := sgn 64 (twosBits ((sv : Int) + r.addend) 64)
      if s.kind = 0 then
        let at_ := r.offset / 64 * 64
        if at_ + 64 ≤ bs.length then
          match patchBundle (field bs at_ 64) (base + at_) r (r.offset % 64) y.kind v prev with
          | some (w, hi) => some (putBytes bs at_ (leBytes 64 w), prev ++ [hi])
          | none => none
        else none
      else
        match patchData bs r y.kind v with
        | some bs' => some (bs', prev ++ [none])
        | none => none
    | _, _, _ => none) (some (init, []))).map (fun q => q.1)

/-- The sections of a link with their bytes as they are written: whether it is code, where it goes, the bytes. -/
def linkObjects (objs : List KObj) : Option (List (Bool × Placement × List Byte)) :=
  if objs.all KObj.placesOk && namesOnce objs && allResolve objs && decide ((fmtRuns objs).2 ≤ 64) then
    (allOf (fun (o : KObj × Nat) =>
      allOf (fun (s : KSect × Nat) =>
        match o.1.place s.2 with
        | some p => (relocate objs o.2 s.2 o.1 s.1 p.base).map (fun bs => (s.1.kind == 0, p, bs))
        | none => none) (o.1.sects.zipIdx.filter (fun s => s.1.kind != 2 && s.1.size != 0))) objs.zipIdx).map List.flatten
  else none

/-! ### The writing of an image (R393, R394, R379) -/

/-- The sections of a link, or none when the load is refused: then nothing is written. A frame that is absent or moves refuses nothing:
the write waits (R81, R83). -/
def State.link (s : State) (ctx : Nat) (objects : List LoadObject) : Option (List (Bool × Placement × List Byte)) :=
  match allOf parseKbo objects with
  | none => none
  | some objs =>
    match linkObjects objs with
    | none => none
    | some ss => if ss.all (fun x => s.placeCells ctx x.2.1 x.2.2 != .bad) then some ss else none

/-- The pieces of a code section: its bundles, and the icinv over it (R394). -/
def codePieces (ctx base : Nat) (bs : List Byte) : List LoadPiece :=
  (List.range (bs.length / 64)).map (fun k => .code ctx (base + 64 * k) (BitVec.ofNat 512 (field bs (64 * k) 64))) ++
    [.inval base (base + bs.length)]

/-- LOAD_IMAGE (R393, R394): of an image that passes, data is written as far as its frames allow; code goes bundle by bundle as the load goes on
(`State.loadStep`) (DESIGN CHOICE, log entry 39). -/
def execLoadImage (ctx : Nat) (objects : List LoadObject) (s : State) : Out :=
  .next (match s.link ctx objects with
    | none => s
    | some ss => ss.foldl (fun s x =>
        if x.1 then s.modMalt (fun m => { m with loads := m.loads ++ codePieces ctx x.2.1.base x.2.2 })
        else s.putPiece (.data ctx x.2.1 x.2.2)) s)

/-- KERNEL_CODE_WRITE (R379): one whole bundle. -/
def execKernelCodeWrite (ctx : Nat) (addr : CodeAddr) (bundle : BitVec 512) (s : State) : Out :=
  .next (if addr.toNat % 64 = 0 then s.writeBundle ctx addr.toNat bundle else s)

end Sys2Proof.Machine
end

