-- ==== Sys2Proof/Machine/RemoteEv.lean ====
section
/-! DEFINITION. The events of the retransmission engine, the owner ports and the fabric (spec/05 R116 to R129; spec/15 R324 to
R326; spec/21 R402 to R405). -/

namespace Sys2Proof.Machine

/-! ### Operations and acknowledgements (R122 to R126) -/

/-- What the fabric brings: nothing before its ports are up (R396). -/
def State.fromFabric (s t : State) : Out := .next (if s.malt.links.fabric then t else s)

/-- REMOTE_REQUEST (R124, R326). -/
def execRemoteRequest (r : RemReq) (s : State) : Out := s.fromFabric (s.takeRequest r)

/-- REMOTE_REPLY (R125). -/
def execRemoteReply (r : RemRep) (s : State) : Out := s.fromFabric (s.takeReply r)

/-- The class of an operation's request. -/
def RemOp.cls (o : RemOp) : Nat := (o.req.map (fun q => q.cls)).getD 2

/-- The timeout of a sent operation, of its class (R403): it is sent again, or after LIMIT transmissions completes INDETERMINATE
(R125, R129). One that was answered BUSY waits for its backoff. -/
def State.timeOut (s : State) (ctx owner serial : Nat) : State :=
  match s.ctx? ctx, s.opOut ctx owner serial with
  | some c, some o =>
    if o.busyAt.isSome || !s.timedOut ctx o.cls o.sentAt then s
    else if tmoLimit c.tmo ≤ o.tries then s.bump.completeOp ctx owner o 2 (Config.openOld s.tick) 0
    else s.resend ctx owner o true
  | _, _ => s

/-- REMOTE_TIMEOUT (R125). -/
def execRemoteTimeout (ctx owner serial : Nat) (s : State) : Out := .next (s.timeOut ctx owner serial)

/-- BUSY_BACKOFF_EXPIRY (R125): an operation that was answered BUSY is sent again once the timeout of its class has passed. -/
def execBusyBackoffExpiry (ctx owner serial : Nat) (s : State) : Out :=
  .next (match s.opOut ctx owner serial with
    | some o =>
      match o.busyAt with
      | some at_ => if s.timedOut ctx o.cls at_ then s.resend ctx owner o false else s
      | none => s
    | none => s)

/-- ACK_ALONE (R123): an acknowledgement that has advanced since the last that went out, 50 µs ago or more. -/
def execAckAlone (ctx owner : Nat) (s : State) : Out :=
  .next (
    let w := s.side ctx owner
    if newer w.acked w.ackSent && decide (w.ackAt + 50000 ≤ s.podTime.toNat) then
      (s.putSide ctx { w with ackSent := w.acked, ackAt := s.podTime.toNat }).send (.ack s.fabric.self ctx owner w.acked)
    else s)

/-- ACK_ARRIVAL (R326). -/
def execAckArrival (pkg ctx serial : Nat) (s : State) : Out := s.fromFabric (s.takeAck pkg ctx serial)

/-- INCARNATION_QUERY (R122, R124). -/
def execIncarnationQuery (pkg ctx : Nat) (s : State) : Out :=
  let a := s.carryAck ctx pkg
  s.fromFabric (a.1.send (.reply { ack := a.2, owner := s.fabric.self, pkg := pkg, ctx := ctx, serial := 0,
                                   inc := s.ports[0].inc, tag := 0, body := .incarnation }))

/-- INCARNATION_QUERY_TIMEOUT (R122): at each class-1 timeout. -/
def execIncarnationQueryTimeout (ctx owner : Nat) (s : State) : Out :=
  .next (match (s.side ctx owner).query with
    | some at_ =>
      if s.timedOut ctx 1 at_ then
        (s.modSide ctx owner (fun w => { w with query := some s.podTime.toNat })).send (.query s.fabric.self ctx owner)
      else s
    | none => s)

/-- Entries of a pair are retired. -/
def Port.forget (p : Port) (pkg ctx : Nat) : Port :=
  { p with cache := p.cache.filter (fun e => !(e.pkg == pkg && e.ctx == ctx)) }

/-- CONTEXT_DESTROYED_NOTICE (R124) (DEDUCED, log entry 44). -/
def execContextDestroyedNotice (pkg ctx : Nat) (s : State) : Out :=
  s.fromFabric ((s.modPort false (fun p => p.forget pkg ctx)).modPort true (fun p => p.forget pkg ctx))

/-- OWNER_RESTART (R124): a new incarnation, different from the one before (DEDUCED, log entry 44). -/
def execOwnerRestart (inc : Nat) (s : State) : Out :=
  .next (if 1 ≤ inc ∧ inc ≤ 65535 ∧ s.ports.all (fun p => p.inc != inc) then
      { s with ports := Vector.replicate 2 { cache := [], acks := [], inc := inc, waiting := [] } }
    else s)

/-! ### Packets of plain copies (R116, R403) -/

/-- PACKET_RETRANSMISSION_TIMEOUT (R403), of the packet's class. -/
def execPacketRetransmissionTimeout (tag : Nat) (s : State) : Out :=
  .next (match s.fabric.out.find? (fun p => p.tag == tag && !p.acked) with
    | none => s
    | some p =>
      let q := { p.req with retx := true }
      if !s.timedOut p.req.ctx p.req.cls p.lastTx then s
      else (s.modFabric (fun f => { f with out := f.out.map (fun x =>
        if x.tag = tag then { x with req := q, retx := true, lastTx := s.podTime.toNat } else x) })).send (.request q))

/-- PACKET_AGE_EXPIRY (R116): 10 µs after the last transmission no copy of an answered packet is left. -/
def execPacketAgeExpiry (tag : Nat) (s : State) : Out :=
  .next (s.modFabric (fun f => { f with out := f.out.filter (fun p =>
    !(p.tag == tag && p.acked && p.retx && p.held.isNone && decide (p.lastTx + 10000 ≤ s.podTime.toNat))) }))

/-! ### Class-0 transfers (R119, R404, R405) -/

/-- The transfer of a number. -/
def State.transfer? (s : State) (id : Nat) : Option Transfer := s.fabric.transfers.find? (fun t => t.id == id && !t.done)

/-- The reservation of a transfer's slot: slots are of a port (R404). -/
def State.reservationOf (s : State) (t : Transfer) : Option Reservation :=
  s.fabric.reservations.find? (fun r => r.slot.sender == s.fabric.self && r.slot.ctx == t.ctx && r.slot.port == t.port &&
    r.slot.start == t.start)

/-- Put a transfer. -/
def State.putTransfer (s : State) (t : Transfer) : State :=
  s.modFabric (fun f => { f with transfers := f.transfers.map (fun x => if x.id = t.id ∧ x.core = t.core then t else x) })

/-- The units of a whole walk as they leave, or what stops it. -/
def State.transferData (s : State) (t : Transfer) : State × Except WalkEnd (List PktElem) :=
  match s.walkFmts t.desc with
  | .error f => (s, .error (.fault f))
  | .ok (sf, df, g) => s.readConverted t.desc none sf df g (stepsFrom t.desc g 0 (t.desc.total / g))

/-- Units that class 0 brings for a tensor of a context are written at home; they wait like any write for a frame that moves or is
missing (R83, R404). -/
def State.writeArrived (s : State) (ctx tid : Nat) (fmt : Option Fmt) (es : List PktElem) : State :=
  let q : RemReq := { cls := 0, owner := s.fabric.self, pkg := s.fabric.self, ctx := ctx, serial := 0, ack := 0, retx := false,
                      inc := 0, tag := 0, body := .write tid fmt es true }
  s.portRun (s.portDie q) q

/-- A transfer is sent; `acked` says whether its last hop acknowledges. What arrives on this package is written here. It goes in its slot
whatever sbar or fence.rel stands before its command, of which no rule says which gives way (DESIGN CHOICE, log entry 119). -/
def State.sendTransfer (s : State) (t : Transfer) (acked : Bool) : State :=
  s.onCore t.core (fun s =>
    let q := s.transferData t
    match q.2 with
    | .error (.fault f) =>
      match q.1.core.eng.cmd? t.cmd with
      | some c => q.1.cmdFault c f
      | none => q.1
    | .error _ => q.1
    | .ok es =>
      let u := (q.1.putTransfer { t with tries := t.tries + 1, delivered := acked }).send (.transfer t.port t.start es)
      if acked && u.ownPackage t.desc.pkg then u.writeArrived t.ctx t.desc.dst.id t.desc.dst.fmt es else u)

/-- A slot that neither side has abandoned carries the transfers admitted to it (R405). -/
def Reservation.carries (r : Reservation) : Bool := !r.abandoned && !r.peerAbandoned

/-- A pod time lies in the 64 ns slot that begins at another (R119). -/
def State.inSlot (s : State) (start : Nat) : Bool := decide (start ≤ s.podTime.toNat) && decide (s.podTime.toNat < start + 64)

/-- SXFR_SLOT_SEND (R404): in its slot. -/
def execSxfrSlotSend (id : Nat) (acked : Bool) (s : State) : Out :=
  .next (match s.transfer? id with
    | some t =>
      match s.reservationOf t with
      | some r => if t.tries = 0 ∧ r.carries ∧ s.inSlot t.start then s.sendTransfer t acked else s
      | none => s
    | none => s)

/-- SXFR_RETRY_SEND (R404): in the retry slot, when the first send brought no acknowledgement. -/
def execSxfrRetrySend (id : Nat) (acked : Bool) (s : State) : Out :=
  .next (match s.transfer? id with
    | some t =>
      match s.reservationOf t with
      | some r => if t.tries = 1 ∧ !t.delivered ∧ r.carries ∧ s.inSlot r.slot.retry then s.sendTransfer t acked else s
      | none => s
    | none => s)

/-- The status word of R119; a slot that its sender's context or the receiving one has abandoned carried a mark (R405). -/
def transferStatus (t : Transfer) (abandoned : Bool) (arrive : Nat) : Word :=
  BitVec.ofNat 64 (if t.delivered then arrive % 2 ^ 48 * 65536 + t.tries * 256 + 1
    else t.tries * 256 + (if abandoned then 4 else 0) + 2)

/-- The slot of an admitted transfer, or its retry slot, has passed without an event that sends it: it is sent all the same (R404), and no
acknowledgement comes. One whose source cannot be read is lost too. -/
def State.sendMissed (s : State) (t : Transfer) : State :=
  let u := s.sendTransfer t false
  if u.fabric.transfers.any (fun x => x.id == t.id && x.core == t.core && x.tries == t.tries) then
    u.putTransfer { t with tries := t.tries + 1 }
  else u

/-- Transfers whose send has been missed: with so many sends behind them, in a slot that has passed. -/
def State.missed (s : State) (tries : Nat) (slot : Reservation → Nat) : List Transfer :=
  s.fabric.transfers.filter (fun t => !t.done && !t.delivered && t.tries == tries && t.desc.total != 0 &&
    (s.ownPackage t.desc.pkg || s.fabric.pods.contains t.desc.pkg) &&
    (s.reservationOf t).any (fun r => r.carries && decide (slot r + 64 ≤ s.podTime.toNat)))

/-- As pod time passes, every admitted transfer is sent in its slot and, without an acknowledgement, in its retry slot (R404). -/
def State.sendPassed (s : State) : State :=
  let t := (s.missed 0 (fun r => r.slot.start)).foldl State.sendMissed s
  (t.missed 1 (fun r => r.slot.retry)).foldl State.sendMissed t

/-- A trap of the kernel reaches a core of a context, live or switched out. -/
def State.deliverTo (s : State) (ctx core : Nat) (cause : BitVec 6) (info : Word) : State :=
  match (s.ctx? ctx).bind (fun c => c.saved.find? (fun e => e.1 % 128 == core)) with
  | some (key, k) => s.modCtx ctx (fun c => { c with saved := insertNat key (k.postTrap cause info) c.saved })
  | none => s.onCore core (fun s => s.deliverTrap cause info)

/-- The units of a reservation's destination: its elements, or the blocks that hold them. -/
def State.lostUnits (s : State) (r : Reservation) : List Nat :=
  let first (e : Nat) : Nat :=
    match ((s.ctx? r.slot.ctx).bind (fun c => lookupNat r.slot.tid c.tensors)).bind parseTensor with
    | some t => e - e % t.cols % t.fmt.blockElems
    | none => e
  ((List.range r.slot.count).map (fun k => first (r.slot.elem + k))).dedup

/-- The far copies of poisoned blocks of main memory give way: no agent reads the bytes that a lost transfer should have replaced
(R404). -/
def State.dropReplicas (s : State) : State :=
  s.modL2 (fun l => { l with lines := l.lines.filter (fun o =>
    !(o.copy.isSome && ((lookupNat (2 * o.line) s.marks).isSome || (lookupNat (2 * o.line + 1) s.marks).isSome))) })

/-- The units of a reservation's destination on this package are written as poison marks, each as soon as its frame is there, and
each receiving core takes FABRIC-LOSS (R404, R405) (DESIGN CHOICE, log entry 43). -/
def State.loseSlot (s : State) (r : Reservation) : State :=
  let s := ((s.lostUnits r).foldl (fun s e =>
    s.writeArrived r.slot.ctx r.slot.tid none [{ idx := e, bits := 0, poison := true }]) s).dropReplicas
  let info : Word := BitVec.ofNat 64 (r.slot.start / 64 % 2 ^ 58 + (if r.abandoned then 2 ^ 63 else 0))
  r.slot.cores.foldl (fun s n => s.deliverTo r.slot.peer n Cause.fabricLoss info) s

/-- The first deadline of a slot, and that of its retry (R404). -/
def Reservation.first (r : Reservation) : Nat := r.slot.start + 64 * r.slot.hops
/-- The deadline of the retry slot. -/
def Reservation.second (r : Reservation) : Nat := r.slot.retry + 64 * r.slot.hops

/-- Both sends of a transfer that this package admitted to a slot were lost. -/
def State.lostHere (s : State) (r : Reservation) : Bool :=
  s.fabric.transfers.any (fun t => s.reservationOf t == some r && !t.delivered && t.tries == 2 && t.desc.total != 0)

/-- The loss in a slot toward this package is due (R404, R405): at the first deadline where its sender has abandoned it, at the
retry deadline where both sends were lost. An abandoned receiver takes none. -/
def State.lossDue (s : State) (r : Reservation) : Bool :=
  !r.lapsed && r.slot.receiver == s.fabric.self &&
    if r.abandoned then decide (r.first ≤ s.podTime.toNat)
    else !r.peerAbandoned && s.lostHere r && decide (r.second ≤ s.podTime.toNat)

/-- Put the note that a reservation's loss has reached its destination. -/
def State.noteLapse (s : State) (r : Reservation) : State :=
  s.modFabric (fun f => { f with reservations := f.reservations.map (fun x => if x = r then { x with lapsed := true } else x) })

/-- As pod time passes, transfers go out, and the losses that are due reach their destinations. -/
def State.lapse (s : State) : State :=
  let t := s.sendPassed
  (t.fabric.reservations.filter t.lossDue).foldl (fun s r => (s.loseSlot r).noteLapse r) t

/-- The last deadline that applies to a transfer (R404, R405). -/
def Reservation.deadline (r : Reservation) (t : Transfer) : Nat :=
  if r.abandoned ∨ r.peerAbandoned ∨ (t.delivered ∧ t.tries = 1) then r.first else r.second

/-- An arrival, in units of 64 ns, fits the send that was acknowledged. -/
def Reservation.arrives (r : Reservation) (t : Transfer) (arrive : Nat) : Bool :=
  let sent := if t.tries = 1 then r.slot.start else r.slot.retry
  decide (sent ≤ arrive * 64 + 63) && decide (arrive * 64 ≤ sent + 64 * r.slot.hops)

/-- A transfer has come to its end (R404): it was delivered, both its sends were lost, or its slot was abandoned. -/
def Reservation.settles (r : Reservation) (t : Transfer) : Bool := t.delivered || t.tries == 2 || !r.carries

/-- SXFR_DEADLINE (R404, R405): the transfer is over, and its status word and its flag are written. -/
def State.endTransfer (s : State) (t : Transfer) (arrive : Nat) : State :=
  match s.reservationOf t with
  | none => s
  | some r =>
    if s.podTime.toNat < r.deadline t ∨ (t.delivered ∧ !r.arrives t arrive) ∨ !r.settles t then s
    else
      let w := transferStatus t (!r.carries) arrive
      (s.closeTransfer t.id t.core w).onCore t.core (fun s =>
        match s.core.eng.cmd? t.cmd with
        | some c => if c.fault.isSome then s else s.writeStatus c { t with word := w }
        | none => s)

/-- SXFR_DEADLINE (R404). -/
def execSxfrDeadline (id arrive : Nat) (s : State) : Out :=
  .next (match s.transfer? id with
    | some t => s.endTransfer t arrive
    | none => s)

/-- RESERVATION_ABANDON (R405): the slots of a killed context that have not begun, as sender or as receiver, and the notice to
the packages on their routes. -/
def execReservationAbandon (ctx : Nat) (s : State) : Out :=
  .next ((s.modFabric (fun f => { f with reservations := f.reservations.map (fun r =>
    if s.podTime.toNat < r.slot.start then
      { r with abandoned := r.abandoned || r.slot.ctx == ctx, peerAbandoned := r.peerAbandoned || r.slot.peer == ctx }
    else r) })).send (.abandon ctx))

/-! ### Flits and pod time (R402) -/

/-- One bit of the CRC register, reflected polynomial 0xEDB88320 (PRESUMED, log entry 8). -/
def crcBit (c : BitVec 32) : BitVec 32 := if c.getLsbD 0 then (c >>> 1) ^^^ 0xEDB88320 else c >>> 1

/-- A byte into the CRC register. -/
def crcByte (c : BitVec 32) (b : Byte) : BitVec 32 :=
  crcBit (crcBit (crcBit (crcBit (crcBit (crcBit (crcBit (crcBit (c ^^^ b.setWidth 32))))))))

/-- CRC-32 of a run of bytes. -/
def crc32 (bs : List Byte) : BitVec 32 := ~~~(bs.foldl crcByte 0xFFFF_FFFF)

/-- A flit passes: 64 bytes whose last four hold the CRC of the first sixty. -/
def flitOk (bs : List Byte) : Bool := bs.length == 64 && (crc32 (bs.take 60)).toNat == ofLe (bs.drop 60)

/-- FLIT_RECEIVE (R402): a flit that fails its CRC is dropped and counted. -/
def execFlitReceive (bytes : List Byte) (s : State) : Out :=
  s.fromFabric (s.modFabric (fun f =>
    if flitOk bytes then { f with received := f.received ++ [bytes] } else { f with crcDrops := satInc f.crcDrops }))

/-- POD_TIME_LOSS (R402). -/
def execPodTimeLoss (s : State) : Out :=
  .next (s.modFabric (fun f => { f with inStep := false, podFaults := satInc f.podFaults }))

/-- POD_TIME_AGAIN_IN_STEP (R402). -/
def execPodTimeAgainInStep (s : State) : Out := .next (s.modFabric (fun f => { f with inStep := true }))

end Sys2Proof.Machine
end

