-- ==== Sys2Proof/Machine/Kernel.lean ====
section
/-! DEFINITION. The Maltings, the host side and the memory system (spec/21 R395 to R409; spec/04 R67 to R69, R80 to R84; spec/09
R220): power-on, attestation, the kernel's actions, scrubbing, audits, tests and power. -/

namespace Sys2Proof.Machine

/-! ### Memory errors (R68, R69) -/

/-- MEMORY_SCRUB (R69): every block of main memory. -/
def execMemoryScrub (s : State) : Out :=
  .next ((s.marks.filter (fun m => decide (m.1 < 2 ^ 33))).foldl (fun s m => s.scrubBlock m.1 m.2) s)

/-- L2_DIRTY_EVICTION (R68): a dirty line leaves its home slice. -/
def execL2DirtyEviction (line : Nat) (s : State) : Out :=
  .next (match s.l2.lines.find? (fun o => o.line == line && o.dirty) with
    | some x => s.evict x
    | none => s)

/-! ### Tables, frames and caches (R80 to R84) -/

/-- The entry of a tile of a context with its place. -/
def State.tileEntry (s : State) (ctx tid tile : Nat) : Option Nat :=
  match (s.ctx? ctx).bind (fun c => ((lookupNat tid c.tensors).bind parseTensor).map (fun t => (c, t))) with
  | none => none
  | some (c, t) =>
    match (stage2 s c.stage2 (t.ttbase + tile * 8)).1 with
    | .ok a _ => some (s.read8 a)
    | _ => none

/-- The 64 KiB of a frame go to another, poison marks included. -/
def State.copyFrame (s : State) (ctx src dst : Nat) : State :=
  match s.frameAt ctx src, s.frameAt ctx dst with
  | some a, some b =>
    let s := (s.touchBlocks ctx false (blocksOf a 65536)).1
    let t := s.homeCells (cellsAt b (s.mem.readN a 65536))
    (List.range 1024).foldl (fun t k => t.setMark (b / 64 + k) (lookupNat (a / 64 + k) s.marks)) t
  | _, _ => s

/-- FRAME_MIGRATION (R83). -/
def execFrameMigration (ctx tid tile frame : Nat) (st : MigrationStep) (s : State) : Out :=
  .next (match s.tileEntry ctx tid tile with
    | none => s
    | some e =>
      let valid := e / 2 ^ 63 % 2 == 1
      let moving := e / 2 ^ 62 % 2 == 1
      match st with
      | .mark => if valid && !moving then s.changeTile ctx tid tile (e + 2 ^ 62) else s
      | .copy => if valid && moving then s.copyFrame ctx (e / 2 ^ 16 % 2 ^ 32) frame else s
      | .retarget =>
        if valid && moving then
          (s.changeTile ctx tid tile (e - 2 ^ 62 - e / 2 ^ 16 % 2 ^ 32 * 2 ^ 16 + frame % 2 ^ 32 * 2 ^ 16)).retryPorts
        else s
      | .abandon => if valid && moving then (s.changeTile ctx tid tile (e - 2 ^ 62)).retryPorts else s)

/-- TABLE_UPDATE_MULTICAST (R82): updates of the pod's kernel are applied in sequence order and acknowledged. -/
def execTableUpdateMulticast (seq : Nat) (u : TableUpdate) (s : State) : Out :=
  .next (if seq = s.malt.updateSeq + 1 then
      ((s.applyUpdate u).modMalt (fun m => { m with updateSeq := seq })).send (.updateAck seq)
    else s)

/-- KERNEL_INVALIDATE (R80). -/
def execKernelInvalidate (ctx : Nat) (k : InvKind) (s : State) : Out := .next (s.dropEntries ctx k).retryPorts

/-- Bytes of a range of the flat space are discarded. -/
def State.discard (s : State) (lo hi : Nat) : State :=
  { s with mem := s.mem.filter (fun c => !(decide (lo ≤ c.1) && decide (c.1 < hi))),
           marks := s.marks.filter (fun m => !(decide (lo ≤ m.1 * 64) && decide (m.1 * 64 < hi))) }

/-- The sum of the quotas of reserved ways that contexts hold in a slice (R90). -/
def quotaSum (cs : List Ctx) (slice : Nat) : Nat := (cs.map (fun c => (lookupNat slice c.quotas).getD 0)).foldl (· + ·) 0

/-- The lines of a slice that find no way where each set has so many: those used least lately (DESIGN CHOICE, log entry 88). -/
def L2.surplus (l : L2) (slice ways : Nat) : List L2Line :=
  (l.lines.filter (fun o => o.slice == slice)).filter (fun o =>
    decide (ways ≤ ((l.setOf slice o.line).takeWhile (fun x => x.line != o.line)).length))

/-- STAGING_RECONFIGURE (R84): while no context holds a window in the slice, and as far as the quotas leave room (R90); ways that
change role lose their contents. -/
def execStagingReconfigure (slice pairs : Nat) (s : State) : Out :=
  .next (if h : slice < 48 then
      if pairs ≤ 5 ∧ !(s.ctxs.any (fun c => c.windows.any (fun w => w.1 == slice && decide (0 < w.2.2)))) ∧
          quotaSum s.ctxs slice ≤ 10 - 2 * pairs then
        let old := s.l2.pairs[slice]
        let s := (s.l2.surplus slice (12 - 2 * pairs)).foldl State.evict s
        (s.discard (stagingBase slice + min old pairs * 2 ^ 20) (stagingBase slice + max old pairs * 2 ^ 20)).modL2
          (fun l => { l with pairs := l.pairs.set slice pairs })
      else s
    else s)

/-! ### The logical core map (R407, R408) -/

/-- Physical indices of a die, in service or not. -/
def ofDie (die : Nat) (inService : List Nat) (want : Bool) : List Nat :=
  (List.range 48).filterMap (fun k => if inService.contains (die * 48 + k) = want then some (die * 48 + k) else none)

/-- The physical indices in the order of the logical numbers that they take: on each die those in service, ascending, then the
others. -/
def numbered (inService : List Nat) : List Nat :=
  ofDie 0 inService true ++ ofDie 0 inService false ++ ofDie 1 inService true ++ ofDie 1 inService false

/-- The map of R408: logical number and physical index of every core in service. -/
def buildMap (inService : List Nat) : List (Nat × Nat) :=
  ((numbered inService).zipIdx.filter (fun p => inService.contains p.1)).map (fun p => (p.2, p.1))

/-- The core of a physical index under a logical number, reset. -/
def freshCore (inService : List Nat) (n phys : Nat) : Core :=
  { Core.reset n with die := decide (48 ≤ phys), pos := phys % 48,
                      run := if inService.contains phys then .idle else .outOfService }

/-- All cores reset, numbered by R408. -/
def State.resetCores (s : State) (inService : List Nat) : State :=
  let cs := (numbered inService).zipIdx.map (fun p => (p.2, freshCore inService p.2 p.1))
  { s with core := ((lookupNat s.cur cs).getD (Core.reset s.cur)), others := eraseNat s.cur cs,
           malt := { s.malt with coreMap := buildMap inService } }

/-- The physical index of a core. -/
def Core.phys (c : Core) : Nat := (if c.die then 48 else 0) + c.pos

/-- The scratchpad of a logical core takes the place of its new number. -/
def moveSpad (f : Nat → Nat) (a : Nat) : Nat :=
  if 2 ^ 40 ≤ a ∧ a < 2 ^ 40 + 96 * 2 ^ 22 then spadBase (f ((a - 2 ^ 40) / 2 ^ 22)) + (a - 2 ^ 40) % 2 ^ 22 else a

/-- Cores in service take new numbers; scratchpads and what contexts keep on a core go with the core (R408)
(DEDUCED, log entry 46). -/
def State.renumber (s : State) : State :=
  let inService := s.malt.coreMap.map (fun m => m.2)
  let order := numbered inService
  let new (old : Nat) : Nat := (order.findIdx? (fun p => p == (s.getCore old).phys)).getD old
  let all := (List.range 96).map (fun n => (new n, { s.getCore n with logical := new n }))
  let cs := all.foldl (fun acc p => insertNat p.1 p.2 acc) ([] : List (Nat × Core))
  { s with
    core := { s.core with logical := new s.cur }, cur := new s.cur, others := eraseNat (new s.cur) cs,
    mem := Memory.writeAll [] (s.mem.map (fun c => (moveSpad new c.1, c.2))),
    marks := s.marks.foldl (fun acc m => insertNat (moveSpad new (m.1 * 64) / 64) m.2 acc) [],
    ctxs := s.ctxs.map (fun c => { c with
      cores := c.cores.map new,
      kept := c.kept.foldl (fun acc k => insertNat (new k.1) k.2 acc) [] }),
    malt := { s.malt with coreMap := buildMap inService } }

/-- LOGICAL_CORE_MAP_RENUMBER (R408): only while no task is resident. -/
def execLogicalCoreMapRenumber (s : State) : Out := .next (if s.launch.resident.isEmpty then s.renumber else s)

/-- A core has nothing under way (R407): its commands, invalidations and accesses are done. -/
def Core.quiesced (c : Core) : Bool := c.eng.cmds.isEmpty && c.eng.fences.isEmpty && c.eng.invals.isEmpty && c.remote.isEmpty

/-- A queued task of a class needs a core. -/
def Launch.wants (l : Launch) (core : Nat) (f : Nat → Bool) : Bool := (l.needed (fun t => f t.lb.prio)).contains core

/-- SCAN_TEST (R407): a core without resident work is drained and tested as class 0 (R341); a class-7 task that needs the core
aborts the test. A completed test resets the core, whose commands and accesses are numbered on, and one whose signature differs leaves
service. -/
def execScanTest (core : Nat) (matched aborted : Bool) (s : State) : Out :=
  .next (if s.launch.busyCore core || !s.inService core || !(s.getCore core).quiesced then s
    else if aborted || s.launch.wants core (fun p => p == 7) then s.modMalt (fun m => { m with scansAborted := m.scansAborted + 1 })
    else if s.launch.wants core (fun p => p != 0) then s
    else
      let k := s.getCore core
      let t := s.setCore core { Core.reset core with die := k.die, pos := k.pos, nextAcc := k.nextAcc,
                                                      eng := { Engine.empty with nextId := k.eng.nextId },
                                                      run := if matched then .idle else .outOfService }
      if matched then t
      else t.modMalt (fun m => { m with coreMap := m.coreMap.filter (fun x => x.1 != core) }))

/-! ### Power-on and measurement (R396) -/

/-- The bytes of a digest. -/
def digestBytes (d : BitVec 512) : List Byte := leBytes 64 d.toNat

/-- What the signature of an image's manifest covers: its security version and the rest of it (R396; DESIGN CHOICE, log entry 47). -/
def signedManifest (im : Image) : List Byte := leBytes 8 im.version ++ im.manifest

/-- An image's manifest, its version included, is signed for its bytes, under the key whose digest is fused (R396; for the
kernel and later images DEDUCED, log entry 108). -/
def imageSigned (im : Image) : Bool :=
  decide (im.version < 2 ^ 64) && decide (Config.sha512 im.key = Config.fusedKeyDigest) &&
    Config.ecdsaVerify (digestBytes (Config.sha512 im.bytes) ++ signedManifest im) im.key

/-- The measurement of an image and its manifest. -/
def measure (im : Image) : BitVec 512 := Config.sha512 (im.bytes ++ signedManifest im)

/-- The boot sequence of R396: a failed check holds the package in reset. -/
def State.bootUp (s : State) (b : BootInput) : State :=
  let fail (n : Nat) (s : State) : State := s.modMalt (fun m => { m with boot := .failed n })
  if !imageSigned b.monitor then fail 1 s
  else if b.monitor.version < s.malt.rollback then fail 2 s
  else
    let s := s.modMalt (fun m => { m with log := m.log ++ [measure b.kernel] })
    if !imageSigned b.kernel then fail 3 s
    else
      let t := { s with mem := [], marks := [] }
      (t.resetCores ((List.range 96).filter (fun p => !b.badCores.contains p))).modMalt (fun m => { m with
        boot := .up, images := [b.monitor, b.kernel], root := { m.root with started := true },
        links := { endpoint := true, nvme := true, fabric := true } })

/-- BOOT (R396) (DESIGN CHOICE, log entry 47). -/
def execBoot (b : BootInput) (s : State) : Out := .next (if s.malt.boot = .off then s.bootUp b else s)

/-- IMAGE_VERIFICATION (R396): a later image is measured, and kept when its version and its signature pass. -/
def execImageVerification (im : Image) (s : State) : Out :=
  .next (s.modMalt (fun m => { m with
    log := m.log ++ [measure im],
    images := if imageSigned im && decide (m.rollback ≤ im.version) then m.images ++ [im] else m.images }))

/-! ### Attestation (R397) -/

/-- What comes through the endpoint: nothing before the kernel has brought it up (R396). -/
def State.fromHost (s t : State) : Out := .next (if s.malt.links.endpoint then t else s)

/-- The responder answers. -/
def State.answerSpdm (s : State) (a : SpdmAnswer) : State := s.modMalt (fun m => { m with spdm := m.spdm ++ [a] })

/-- What a signature covers: the nonce, the measurements and the anti-rollback counter. -/
def Maltings.evidence (m : Maltings) (nonce : BitVec 256) : List Byte :=
  leBytes 32 nonce.toNat ++ (m.log.map digestBytes).flatten ++ leBytes 8 m.rollback

/-- GET_VERSION (R397): 1.3. -/
def execGetVersion (s : State) : Out := s.fromHost (s.answerSpdm (.version 1 3))
/-- GET_CAPABILITIES (R397): no key exchange and no secured sessions. -/
def execGetCapabilities (s : State) : Out := s.fromHost (s.answerSpdm (.capabilities false false))
/-- NEGOTIATE_ALGORITHMS (R397): ECDSA over P-521 with SHA-512. -/
def execNegotiateAlgorithms (s : State) : Out := s.fromHost (s.answerSpdm (.algorithms 521 512))
/-- The code of a request, as an UnsupportedRequest names it (DMTF SPDM 1.3, PRESUMED, log entry 9). -/
def spdmCode (n : Nat) : Byte := BitVec.ofNat 8 n
/-- GET_DIGESTS (R397): one certificate slot. -/
def execGetDigests (slot : Nat) (s : State) : Out :=
  s.fromHost (s.answerSpdm (if slot = 0 then .digests 0 (Config.certDigest 0) else .unsupported (spdmCode 0x81)))
/-- GET_CERTIFICATE (R397). -/
def execGetCertificate (slot offset length : Nat) (s : State) : Out :=
  s.fromHost (s.answerSpdm (if slot = 0 then .certificate 0 offset length (Config.certificate 0 offset length)
    else .unsupported (spdmCode 0x82)))
/-- CHALLENGE (R397). -/
def execChallenge (slot : Nat) (nonce : BitVec 256) (s : State) : Out :=
  s.fromHost (s.answerSpdm (if slot = 0 then .challenge 0 (Config.ecdsaSign (s.malt.evidence nonce)) else .unsupported (spdmCode 0x83)))
/-- GET_MEASUREMENTS (R397): the log and the anti-rollback counter, signed or not. -/
def execGetMeasurements (signed : Bool) (nonce : BitVec 256) (s : State) : Out :=
  s.fromHost (s.answerSpdm (.measurements s.malt.log s.malt.rollback
    (if signed then some (Config.ecdsaSign (s.malt.evidence nonce)) else none)))
/-- SPDM_UNSUPPORTED_REQUEST (R397). -/
def execSpdmUnsupportedRequest (code : Byte) (s : State) : Out := s.fromHost (s.answerSpdm (.unsupported code))

/-- What the signature of a debug token covers: package identity and context too. -/
def tokenBytes (t : DebugToken) : List Byte := leBytes 8 t.package ++ leBytes 8 t.ctx ++ t.bytes

/-- DEBUG_AUTHORISATION (R399): a token signed with the debug key and bound to this package is granted and logged. -/
def execDebugAuthorisation (t : DebugToken) (s : State) : Out :=
  .next (if t.package = s.fabric.self ∧ Config.ecdsaVerify (tokenBytes t ++ t.signature) Config.debugKey then
      s.modMalt (fun m => { m with debugGrants := m.debugGrants ++ [t.ctx], log := m.log ++ [Config.sha512 (tokenBytes t)] })
    else s)

/-! ### The host (R398, R309) -/

/-- HOST_MAILBOX_WRITE (R398): the kernel is told, and no core starts. -/
def execHostMailboxWrite (fn : Fin 17) (off : BitVec 16) (v : Word) (s : State) : Out :=
  s.fromHost ((s.modMalt (fun m => { m with bar0 := insertNat (fn.val * 65536 + off.toNat) v m.bar0 })).report
    (.mailbox fn.val off.toNat v))

/-- HOST_BAR2_ACCESS (R398, R309): a read or a write of an element, or of a block-format unit, at its home slice. -/
def execHostBar2Access (fn : Fin 17) (tid elem : Nat) (data : Option (BitVec 512)) (s : State) : Out :=
  s.fromHost (s.hostAccess { fn := fn, tid := tid, elem := elem, data := data })

/-! ### Audit and power (R406, R409) -/

/-- A quiesce of 3 µs from now would overlap a reserved class-0 slot or its retry. Every route is taken to cross both dies
(DESIGN CHOICE, log entry 87). -/
def State.auditMeetsSlot (s : State) : Bool :=
  let now := s.podTime.toNat
  let meets (start hops : Nat) : Bool := decide (start < now + 3000) && decide (now < start + 64 * (hops + 1))
  s.fabric.reservations.any (fun r => meets r.slot.start r.slot.hops || meets r.slot.retry r.slot.hops)

/-- The audit of a die is due: its interval has passed, or it was aborted. -/
def State.auditDue (s : State) (die : Bool) : Bool :=
  s.malt.audit.again[dieNo die] || decide (s.malt.audit.last[dieNo die] + s.malt.audit.ms * 1000000 ≤ s.podTime.toNat)

/-- PERMIT_AUDIT (R406): of a die when it is due and meets no reserved slot. A queued class-7 task aborts it, and it runs again
later. Lost permits are restored, links with duplicated ones reset; both are counted. -/
def execPermitAudit (die : Bool) (lost duplicated : Nat) (s : State) : Out :=
  .next (if !s.auditDue die || s.auditMeetsSlot then s
    else if s.launch.queue.any (fun t => t.lb.prio == 7) then
      s.modMalt (fun m => { m with audit := { m.audit with again := m.audit.again.set (dieNo die) true } })
    else s.modMalt (fun m => { m with
      permitsRestored := m.permitsRestored + BitVec.ofNat 32 lost, linksReset := m.linksReset + BitVec.ofNat 32 duplicated,
      audit := { m.audit with again := m.audit.again.set (dieNo die) false, last := m.audit.last.set (dieNo die) s.podTime.toNat } }))

/-- THERMAL_THROTTLE (R409): issue is held for cycles that take no positions. -/
def execThermalThrottle (cycles : Nat) (s : State) : Out :=
  .next (s.modMalt (fun m => { m with throttled := m.throttled + cycles }))

/-- THERMAL_SHUTDOWN (R409), which the PF reports. -/
def execThermalShutdown (s : State) : Out := .next (s.modMalt (fun m => { m with boot := .shutDown, hot := true }))

/-! ### Contexts (R220, R129, R333, R370, R295) -/

/-- REMOP.TMO at creation (R129): LIMIT 64, T3 100, T1 5, T2 20. -/
def tmoReset : Word := 0x0040_0064_0005_0014

/-- A context as the kernel creates it. TRAP.VEC[11:0] is reserved (R294). -/
def newCtx (c : CtxInput) : Ctx :=
  { id := c.ctx, vf := c.vf, cores := c.cores, tensors := c.tensors, tableLen := c.tableLen, stage2 := c.stage2,
    windows := c.windows, quotas := c.quotas, ceiling := 6, err := ErrRegs.zero, inj := 0, tmo := tmoReset, owners := [],
    saved := [], savedIncs := [], savedFlags := [], savedGens := [], exports := c.exports, kept := [],
    trapVec := c.trapVec &&& 0xFFFF_FFFF_F000, saves := c.saves }

/-- The function of an input, as an index of the Maltings' records. -/
def fnOf (vf : Option Nat) : Option (Fin 17) :=
  match vf with
  | some f => if h : f < 17 then if f = 0 then none else some ⟨f, h⟩ else none
  | none => none

/-- The Maltings' records of a new context: its function's mask, cores and granules. -/
def Maltings.addCtx (m : Maltings) (c : CtxInput) : Maltings :=
  { m with
    vfMasks := match fnOf c.vf with
      | some f => m.vfMasks.set f c.mask
      | none => m.vfMasks,
    coreFn := match fnOf c.vf with
      | some f => c.cores.foldl (fun g n => insertNat n f g) m.coreFn
      | none => m.coreFn,
    granules := c.granules.foldl (fun g n => insertNat n (c.vf.getD 0) g) m.granules }

/-- A reservation as R404 admits it. -/
def slotOk (x : SlotInput) : Bool :=
  decide (x.port < 12) && x.start % 64 == 0 && decide (x.start + 64 * (2 * x.hops + 1) ≤ x.retry)

/-- The reserved slots of a new context: those that it sends into, and those of others toward it. -/
def Fabric.addSlots (b : Fabric) (c : CtxInput) : Fabric :=
  { b with
    reservations := b.reservations ++ (c.slots.filter slotOk).map (fun x =>
      { slot := if x.sender = b.self then { x with ctx := c.ctx } else { x with peer := c.ctx }, abandoned := false,
        peerAbandoned := false, lapsed := false }) }

/-- The kernel can create a context: its number is new, its cores have no resident work and serve no other virtual function
(R399), and its quotas leave two ordinary ways in every slice (R90). -/
def State.creates (s : State) (c : CtxInput) : Bool :=
  (s.ctx? c.ctx).isNone && c.cores.all (fun n => !s.launch.busyCore n && (match lookupNat n s.malt.coreFn, fnOf c.vf with
    | some g, some f => g == f
    | some _, none => false
    | none, _ => true)) &&
    (List.range 48).all (fun k => decide ((lookupNat k c.quotas).getD 0 + quotaSum s.ctxs k ≤ s.l2.cacheWays k - 2))

/-- The scratchpads of cores are zeroed (R130). -/
def State.zeroSpads (s : State) (cores : List Nat) : State :=
  cores.foldl (fun s n => s.discard (spadBase n) (spadBase n + 2 ^ 22)) s

/-- CONTEXT_CREATION (R220): registers take their values from `Ctx.freshKept`; the function's mask, cores, granules and reserved
slots are set with it. The cores come to the new context with their scratchpads zeroed (R130). -/
def execContextCreation (c : CtxInput) (s : State) : Out :=
  .next (if s.creates c then
      let s := s.zeroSpads c.cores
      { s with
        ctxs := s.ctxs.map (fun x => { x with cores := x.cores.filter (fun n => !c.cores.contains n) }) ++ [newCtx c],
        malt := s.malt.addCtx c, fabric := s.fabric.addSlots c }
    else s)

/-! ### What no row of the opcode table names (R129, R293, R333, R341, R353, R376, R395 to R400, R404, R406, R409) -/

/-- What stands behind the root monitor's filter. The fuses that a rule names are the key digest and the anti-rollback counter;
others read zero (DEDUCED, log entry 96). -/
def Maltings.rootValue (m : Maltings) (p : RootPlace) : Nat :=
  match p with
  | .sram off => ((lookupNat off.toNat m.root.sram).getD 0).toNat
  | .fuse n => if n = 0 then Config.fusedKeyDigest.toNat else if n = 1 then m.rollback else 0
  | .log n => (m.log[n]?.getD 0).toNat

/-- A read behind the filter (R395): cores 1 to 7 read zero, of the log too, and the error log records it (DEDUCED, log entry
96). That all 16 MiB of the cluster's SRAM (R10) are the root monitor's is the model's choice (DESIGN CHOICE, log entry 97). -/
def Maltings.rootRead (m : Maltings) (core : Fin 8) (p : RootPlace) : Maltings :=
  if core = 0 then { m with root := { m.root with reads := m.root.reads ++ [m.rootValue p] } }
  else { m with root := { m.root with reads := m.root.reads ++ [0], refused := m.root.refused ++ [(core, p)] } }

/-- A write of a byte of the root monitor's SRAM (R10, R395). -/
def Maltings.rootWrite (m : Maltings) (core : Fin 8) (off : BitVec 24) (b : Byte) : Maltings :=
  if core = 0 then { m with root := { m.root with sram := insertNat off.toNat b m.root.sram } }
  else { m with root := { m.root with refused := m.root.refused ++ [(core, .sram off)] } }

/-- An ERR counter by its place in R295. -/
def ErrRegs.reg (e : ErrRegs) (k : Fin 8) : Word32 :=
  #v[e.memCe, e.memUe, e.memOrphan, e.spadCe, e.tri2, e.rtx, e.dup, e.implicit][k]

/-- A register of BAR0 as the host reads it (R396, R398, R400); a virtual function reads zero of what only the PF has. -/
def State.bar0 (s : State) (fn : Fin 17) (r : Bar0Reg) : Word :=
  let pf (w : Word) : Word := if fn = 0 then w else 0
  match r with
  | .mailbox off => (lookupNat (fn.val * 65536 + off.toNat) s.malt.bar0).getD 0
  | .bootStatus => pf (match s.malt.boot with
      | .failed n => BitVec.ofNat 64 n
      | _ => 0)
  | .err k => ((if fn = 0 then s.malt.pfErr else s.malt.vfErr[fn]).reg k).setWidth 64
  | .crcDrops => pf (s.fabric.crcDrops.setWidth 64)
  | .podFaults => pf (s.fabric.podFaults.setWidth 64)
  | .permitsRestored => pf (s.malt.permitsRestored.setWidth 64)
  | .linksReset => pf (s.malt.linksReset.setWidth 64)
  | .power => pf (if s.malt.hot then 1 else 0)

/-- The bytes of the save area of a core (R377): 16,384 for each head slot that its saved state occupies, beside what every save
takes. -/
def Ctx.areaLen (c : Ctx) (core : Nat) : Nat :=
  headOff + 16384 * (((c.saved.find? (fun e => e.1 % 128 == core)).map (fun e => e.2.heads.length)).getD 0)

/-- The address of a word of a saved state that the kernel may reach under a debug grant (R399): a word of the save area. -/
def State.savedWord (s : State) (ctx core off : Nat) : Option Nat :=
  if s.malt.debugGrants.contains ctx ∧ off % 8 = 0 then
    (s.ctx? ctx).bind (fun c => if off + 8 ≤ c.areaLen core then (lookupNat core c.saves).map (fun a => a + off) else none)
  else none

/-- The hypervisor gives a core to a virtual function, or takes it back, while no task is resident on it (R399). -/
def State.assign (s : State) (core : Nat) (fn : Option (Fin 17)) : State :=
  if s.launch.busyCore core then s
  else s.modMalt (fun m => { m with coreFn := match fn with
    | some f => if f = 0 then eraseNat core m.coreFn else insertNat core f m.coreFn
    | none => eraseNat core m.coreFn })

/-- Loss in the slot of another package's transfer toward this one, on one of its ports (R404). -/
def State.foreignLoss (s : State) (port start : Nat) : State :=
  match s.fabric.reservations.find? (fun r => r.slot.sender != s.fabric.self && r.slot.receiver == s.fabric.self &&
      r.slot.port == port && r.slot.start == start && !r.lapsed && r.carries && decide (r.second ≤ s.podTime.toNat)) with
  | some r => (s.loseSlot r).noteLapse r
  | none => s

/-- The hypervisor gives a granule of main memory to a virtual function, or takes it back (R399); main memory has 126,976 of them
(R11). -/
def Maltings.assignGranule (m : Maltings) (granule : Nat) (fn : Fin 17) : Maltings :=
  if 126976 ≤ granule then m
  else { m with granules := if fn = 0 then eraseNat granule m.granules else insertNat granule fn.val m.granules }

/-! ### The turn of a core -/

/-- The cores other than the focused one, in the order of their turns. -/
def State.nextCores (s : State) : List Nat :=
  let ks := s.others.map (fun o => o.1)
  ks.filter (fun k => decide (s.cur < k)) ++ ks.filter (fun k => decide (k < s.cur))

/-- The focused core has an event, or what it waits for goes on. -/
def State.canGo (s : State) : Bool := s.unquiet.nextEvent.isSome || s.otherwise != s

/-- A core that holds still leaves the turn to the next that can go on (DESIGN CHOICE, log entry 10). -/
def State.passFocus (s : State) : State :=
  match s.nextCores.find? (fun k => (s.focus k).canGo) with
  | some k => s.focus k
  | none => s

/-- The focused core goes on: with its next event, or with what it waits for; where it can do neither, another has the turn. -/
def State.coreTurn (s : State) : Out :=
  match s.unquiet.nextEvent with
  | some a => s.unquiet.takeEvent a
  | none => .next (if s.otherwise = s then s.passFocus else s.otherwise)

/-- With nothing on the agenda the focused core goes on. Where its engine, its Mash, its accesses or the launch hardware have
work, which of them goes first is open (`Config.workFirst`) (DESIGN CHOICE, log entry 1). -/
def State.turn (s : State) : Out :=
  let t := s.progress
  if t = s then s.coreTurn
  else if Config.workFirst s.tick then .next t.bump
  else s.bump.coreTurn

/-- A core goes on by a whole turn. -/
def State.goOn (s : State) (core : Nat) : State :=
  match (s.focus core).turn with
  | .next t => t
  | _ => s

/-- An act of the Maltings, the hypervisor or the host. -/
def State.outer (s : State) (a : OuterAct) : State :=
  match a with
  | .remopTmo ctx v => s.modCtx ctx (fun c => { c with tmo := v &&& 0x00FF_FFFF_FFFF_FFFF })
  | .dbgRoute core on =>
    if s.malt.debugGrants.contains (s.getCore core).sys.ctxId.toNat then
      s.modCoreAt core (fun c => { c with sys := { c.sys with dbgRoute := on } })
    else s
  | .horizon core ns => s.modCoreAt core (fun c => { c with sys := { c.sys with horizon := ns } })
  | .ceiling ctx n => if n ≤ 7 then s.modCtx ctx (fun c => { c with ceiling := n }) else s
  | .weights w => s.modLaunch (fun l => { l with weights := #v[0, w[0], w[1], w[2], w[3], w[4], w[5], 0] })
  | .watchdogInterval ns => s.modLaunch (fun l => { l with wdogNs := ns })
  | .auditInterval ms => if 1 ≤ ms ∧ ms ≤ 1000 then s.modMalt (fun m => { m with audit := { m.audit with ms := ms } }) else s
  | .powerLimit watts => if watts ≤ 2400 then s.modMalt (fun m => { m with powerLimit := watts }) else s
  | .saveArea ctx core base =>
    if base % 64 = 0 then s.modCtx ctx (fun c => { c with saves := insertNat core base c.saves }) else s
  | .featureMask fn m => if fn = 0 then s else s.modMalt (fun x => { x with vfMasks := x.vfMasks.set fn m })
  | .assignCore core fn => s.assign core fn
  | .rootRead core p => s.modMalt (fun m => m.rootRead core p)
  | .rootWrite core off b => s.modMalt (fun m => m.rootWrite core off b)
  | .savedRead ctx core off =>
    match s.savedWord ctx core off with
    | some a => s.modMalt (fun m => { m with savedReads := m.savedReads ++ [BitVec.ofNat 64 (s.read8 a)] })
    | none => s
  | .savedWrite ctx core off v =>
    match s.savedWord ctx core off with
    | some a => s.homeCells (cellsAt a (leBytes 8 v.toNat))
    | none => s
  | .bar0Read fn r =>
    if s.malt.links.endpoint then s.modMalt (fun m => { m with bar0Reads := m.bar0Reads ++ [s.bar0 fn r] }) else s
  | .msix fn n => if s.malt.links.endpoint then s.modMalt (fun m => { m with msix := m.msix ++ [(fn, n)] }) else s
  | .slotLost port start => s.foreignLoss port start
  | .assignGranule g fn => s.modMalt (fun m => m.assignGranule g fn)
  | .goOn core => s.goOn core

/-! ### Before the kernel runs (R396) -/

/-- An act of the kernel, or of the hypervisor through it. -/
def kernelAct (a : OuterAct) : Bool :=
  match a with
  | .rootRead core _ | .rootWrite core _ _ => decide (core ≠ 0)
  | .bar0Read _ _ | .slotLost _ _ | .goOn _ => false
  | _ => true

/-- An event that the kernel brings about. -/
def kernelEvent (i : Instr) : Bool :=
  match i with
  | .pageFaultResolved _ | .secondStageFault _ | .featureMaskedHypervisorResume _ | .trapEntry _ _ => true
  | .frameMigration _ _ _ _ _ | .tableUpdateMulticast _ _ | .kernelInvalidate _ _ | .stagingReconfigure _ _ | .memoryScrub => true
  | .stepReplay _ _ | .watchdog _ | .reservationAbandon _ | .kernelCommandPortLaunch _ _ _ | .loadImage _ _ => true
  | .kernelCodeWrite _ _ _ | .contextCreation _ | .logicalCoreMapRenumber | .imageVerification _ | .scanTest _ _ _ => true
  | .permitAudit _ _ _ | .debugAuthorisation _ => true
  | _ => false

/-- The kernel's part of what happens waits until the root monitor has started the kernel's cores (R396). -/
def State.outerUp (s : State) (a : OuterAct) : State := if kernelAct a && !s.malt.root.started then s else s.outer a

end Sys2Proof.Machine
end

