-- ==== Sys2Proof/Machine/Dispatch.lean ====
section
/-! DEFINITION. The meaning of every instruction: one arm per constructor of Instr, a direct call. -/

namespace Sys2Proof.Machine

/-- What one instruction does. -/
def exec (i : Instr) (s : State) : Host.Outcome State Fault Refusal :=
  match i with
  | .nop => Sys2Proof.Machine.execNop s
  | .add d a b => Sys2Proof.Machine.execAdd d a b s
  | .addImm d a imm => Sys2Proof.Machine.execAddImm d a imm s
  | .addLit d a l => Sys2Proof.Machine.execAddLit d a l s
  | .sub d a b => Sys2Proof.Machine.execSub d a b s
  | .subImm d a imm => Sys2Proof.Machine.execSubImm d a imm s
  | .subLit d a l => Sys2Proof.Machine.execSubLit d a l s
  | .mul d a b => Sys2Proof.Machine.execMul d a b s
  | .mulImm d a imm => Sys2Proof.Machine.execMulImm d a imm s
  | .mulLit d a l => Sys2Proof.Machine.execMulLit d a l s
  | .mulh d a b => Sys2Proof.Machine.execMulh d a b s
  | .mulhImm d a imm => Sys2Proof.Machine.execMulhImm d a imm s
  | .mulhLit d a l => Sys2Proof.Machine.execMulhLit d a l s
  | .mulhu d a b => Sys2Proof.Machine.execMulhu d a b s
  | .mulhuImm d a imm => Sys2Proof.Machine.execMulhuImm d a imm s
  | .mulhuLit d a l => Sys2Proof.Machine.execMulhuLit d a l s
  | .div d a b => Sys2Proof.Machine.execDiv d a b s
  | .divImm d a imm => Sys2Proof.Machine.execDivImm d a imm s
  | .divLit d a l => Sys2Proof.Machine.execDivLit d a l s
  | .divu d a b => Sys2Proof.Machine.execDivu d a b s
  | .divuImm d a imm => Sys2Proof.Machine.execDivuImm d a imm s
  | .divuLit d a l => Sys2Proof.Machine.execDivuLit d a l s
  | .rem d a b => Sys2Proof.Machine.execRem d a b s
  | .remImm d a imm => Sys2Proof.Machine.execRemImm d a imm s
  | .remLit d a l => Sys2Proof.Machine.execRemLit d a l s
  | .remu d a b => Sys2Proof.Machine.execRemu d a b s
  | .remuImm d a imm => Sys2Proof.Machine.execRemuImm d a imm s
  | .remuLit d a l => Sys2Proof.Machine.execRemuLit d a l s
  | .and d a b => Sys2Proof.Machine.execAnd d a b s
  | .andImm d a imm => Sys2Proof.Machine.execAndImm d a imm s
  | .andLit d a l => Sys2Proof.Machine.execAndLit d a l s
  | .or d a b => Sys2Proof.Machine.execOr d a b s
  | .orImm d a imm => Sys2Proof.Machine.execOrImm d a imm s
  | .orLit d a l => Sys2Proof.Machine.execOrLit d a l s
  | .xor d a b => Sys2Proof.Machine.execXor d a b s
  | .xorImm d a imm => Sys2Proof.Machine.execXorImm d a imm s
  | .xorLit d a l => Sys2Proof.Machine.execXorLit d a l s
  | .andn d a b => Sys2Proof.Machine.execAndn d a b s
  | .andnImm d a imm => Sys2Proof.Machine.execAndnImm d a imm s
  | .andnLit d a l => Sys2Proof.Machine.execAndnLit d a l s
  | .shl d a b => Sys2Proof.Machine.execShl d a b s
  | .shlImm d a imm => Sys2Proof.Machine.execShlImm d a imm s
  | .shlLit d a l => Sys2Proof.Machine.execShlLit d a l s
  | .shr d a b => Sys2Proof.Machine.execShr d a b s
  | .shrImm d a imm => Sys2Proof.Machine.execShrImm d a imm s
  | .shrLit d a l => Sys2Proof.Machine.execShrLit d a l s
  | .sra d a b => Sys2Proof.Machine.execSra d a b s
  | .sraImm d a imm => Sys2Proof.Machine.execSraImm d a imm s
  | .sraLit d a l => Sys2Proof.Machine.execSraLit d a l s
  | .rotl d a b => Sys2Proof.Machine.execRotl d a b s
  | .rotlImm d a imm => Sys2Proof.Machine.execRotlImm d a imm s
  | .rotlLit d a l => Sys2Proof.Machine.execRotlLit d a l s
  | .min d a b => Sys2Proof.Machine.execMin d a b s
  | .minImm d a imm => Sys2Proof.Machine.execMinImm d a imm s
  | .minLit d a l => Sys2Proof.Machine.execMinLit d a l s
  | .max d a b => Sys2Proof.Machine.execMax d a b s
  | .maxImm d a imm => Sys2Proof.Machine.execMaxImm d a imm s
  | .maxLit d a l => Sys2Proof.Machine.execMaxLit d a l s
  | .minu d a b => Sys2Proof.Machine.execMinu d a b s
  | .minuImm d a imm => Sys2Proof.Machine.execMinuImm d a imm s
  | .minuLit d a l => Sys2Proof.Machine.execMinuLit d a l s
  | .maxu d a b => Sys2Proof.Machine.execMaxu d a b s
  | .maxuImm d a imm => Sys2Proof.Machine.execMaxuImm d a imm s
  | .maxuLit d a l => Sys2Proof.Machine.execMaxuLit d a l s
  | .sel d a b p => Sys2Proof.Machine.execSel d a b p s
  | .mov d a => Sys2Proof.Machine.execMov d a s
  | .movImm d imm => Sys2Proof.Machine.execMovImm d imm s
  | .movLit d l => Sys2Proof.Machine.execMovLit d l s
  | .ext d a b sc => Sys2Proof.Machine.execExt d a b sc s
  | .bitClz d a => Sys2Proof.Machine.execBitClz d a s
  | .bitCtz d a => Sys2Proof.Machine.execBitCtz d a s
  | .bitPopc d a => Sys2Proof.Machine.execBitPopc d a s
  | .bitBrev d a => Sys2Proof.Machine.execBitBrev d a s
  | .cmp c d a b => Sys2Proof.Machine.execCmp c d a b s
  | .plog o d a b => Sys2Proof.Machine.execPlog o d a b s
  | .faddS d a b => Sys2Proof.Machine.execFaddS d a b s
  | .faddSLit d a k v => Sys2Proof.Machine.execFaddSLit d a k v s
  | .fsubS d a b => Sys2Proof.Machine.execFsubS d a b s
  | .fsubSLit d a k v => Sys2Proof.Machine.execFsubSLit d a k v s
  | .fmulS d a b => Sys2Proof.Machine.execFmulS d a b s
  | .fmulSLit d a k v => Sys2Proof.Machine.execFmulSLit d a k v s
  | .ffmaS d a b => Sys2Proof.Machine.execFfmaS d a b s
  | .ffmaSLit d a k v => Sys2Proof.Machine.execFfmaSLit d a k v s
  | .fminS d a b => Sys2Proof.Machine.execFminS d a b s
  | .fminSLit d a k v => Sys2Proof.Machine.execFminSLit d a k v s
  | .fmaxS d a b => Sys2Proof.Machine.execFmaxS d a b s
  | .fmaxSLit d a k v => Sys2Proof.Machine.execFmaxSLit d a k v s
  | .fcmp c d a b => Sys2Proof.Machine.execFcmp c d a b s
  | .fcvtTo f d a r => Sys2Proof.Machine.execFcvtTo f d a r s
  | .fcvtFrom f d a r => Sys2Proof.Machine.execFcvtFrom f d a r s
  | .mfs d r => Sys2Proof.Machine.execMfs d r s
  | .mts r a => Sys2Proof.Machine.execMts r a s
  | .rsvWrite n a => Sys2Proof.Machine.execRsvWrite n a s
  | .injDropreplyArm a => Sys2Proof.Machine.execInjDropreplyArm a s
  | .cmpt a b => Sys2Proof.Machine.execCmpt a b s
  | .crd d k => Sys2Proof.Machine.execCrd d k s
  | .cwr k add a b => Sys2Proof.Machine.execCwr k add a b s
  | .cwrImm k add a imm => Sys2Proof.Machine.execCwrImm k add a imm s
  | .lcr d k => Sys2Proof.Machine.execLcr d k s
  | .ldB d a disp => Sys2Proof.Machine.execLdB d a disp s
  | .ldBu d a disp => Sys2Proof.Machine.execLdBu d a disp s
  | .ldH d a disp => Sys2Proof.Machine.execLdH d a disp s
  | .ldHu d a disp => Sys2Proof.Machine.execLdHu d a disp s
  | .ldW d a disp => Sys2Proof.Machine.execLdW d a disp s
  | .ldWu d a disp => Sys2Proof.Machine.execLdWu d a disp s
  | .ldD d a disp => Sys2Proof.Machine.execLdD d a disp s
  | .stB src a disp => Sys2Proof.Machine.execStB src a disp s
  | .stH src a disp => Sys2Proof.Machine.execStH src a disp s
  | .stW src a disp => Sys2Proof.Machine.execStW src a disp s
  | .stD src a disp => Sys2Proof.Machine.execStD src a disp s
  | .vld d a disp => Sys2Proof.Machine.execVld d a disp s
  | .vst src a disp => Sys2Proof.Machine.execVst src a disp s
  | .vlds d a stride disp => Sys2Proof.Machine.execVlds d a stride disp s
  | .vsts src a stride disp => Sys2Proof.Machine.execVsts src a stride disp s
  | .vgth d a idx => Sys2Proof.Machine.execVgth d a idx s
  | .vsct src a idx => Sys2Proof.Machine.execVsct src a idx s
  | .vadd c d a b sat => Sys2Proof.Machine.execVadd c d a b sat s
  | .vsub c d a b sat => Sys2Proof.Machine.execVsub c d a b sat s
  | .vmul c d a b sat => Sys2Proof.Machine.execVmul c d a b sat s
  | .vfma c d a b e => Sys2Proof.Machine.execVfma c d a b e s
  | .vfms c d a b e => Sys2Proof.Machine.execVfms c d a b e s
  | .vmin c d a b => Sys2Proof.Machine.execVmin c d a b s
  | .vmax c d a b => Sys2Proof.Machine.execVmax c d a b s
  | .vabs c d a sat => Sys2Proof.Machine.execVabs c d a sat s
  | .vneg c d a sat => Sys2Proof.Machine.execVneg c d a sat s
  | .vand c d a b => Sys2Proof.Machine.execVand c d a b s
  | .vor c d a b => Sys2Proof.Machine.execVor c d a b s
  | .vxor c d a b => Sys2Proof.Machine.execVxor c d a b s
  | .vshl c d a b => Sys2Proof.Machine.execVshl c d a b s
  | .vshr c d a b => Sys2Proof.Machine.execVshr c d a b s
  | .vsra c d a b => Sys2Proof.Machine.execVsra c d a b s
  | .vcmp q z fmt d a b cond => Sys2Proof.Machine.execVcmp q z fmt d a b cond s
  | .vsel c d a b qs => Sys2Proof.Machine.execVsel c d a b qs s
  | .vcvt c d a t r sat => Sys2Proof.Machine.execVcvt c d a t r sat s
  | .vfun c d a fn => Sys2Proof.Machine.execVfun c d a fn s
  | .vred c d a op => Sys2Proof.Machine.execVred c d a op s
  | .vscn c d a => Sys2Proof.Machine.execVscn c d a s
  | .vperm c d a b => Sys2Proof.Machine.execVperm c d a b s
  | .vshf c d a b m => Sys2Proof.Machine.execVshf c d a b m s
  | .vbcs c d src => Sys2Proof.Machine.execVbcs c d src s
  | .vmvx fmt d b idx => Sys2Proof.Machine.execVmvx fmt d b idx s
  | .vins fmt d src idx => Sys2Proof.Machine.execVins fmt d src idx s
  | .vrng c d a n hi => Sys2Proof.Machine.execVrng c d a n hi s
  | .viota c d => Sys2Proof.Machine.execViota c d s
  | .vdot c d a b e => Sys2Proof.Machine.execVdot c d a b e s
  | .vmov c d a => Sys2Proof.Machine.execVmov c d a s
  | .vlit c d k v => Sys2Proof.Machine.execVlit c d k v s
  | .tld xt xo f tr nt => Sys2Proof.Machine.execTld xt xo f tr nt s
  | .tzer f xs => Sys2Proof.Machine.execTzer f xs s
  | .tfil f xs xv => Sys2Proof.Machine.execTfil f xs xv s
  | .tdup => Sys2Proof.Machine.execTdup s
  | .tdrp => Sys2Proof.Machine.execTdrp s
  | .tswp => Sys2Proof.Machine.execTswp s
  | .tpk n => Sys2Proof.Machine.execTpk n s
  | .trot n => Sys2Proof.Machine.execTrot n s
  | .trtd n => Sys2Proof.Machine.execTrtd n s
  | .tmma m => Sys2Proof.Machine.execTmma m s
  | .tmmaD m => Sys2Proof.Machine.execTmmaD m s
  | .tmac m => Sys2Proof.Machine.execTmac m s
  | .tmacD m => Sys2Proof.Machine.execTmacD m s
  | .tadd m => Sys2Proof.Machine.execTadd m s
  | .taddD m => Sys2Proof.Machine.execTaddD m s
  | .tsub m => Sys2Proof.Machine.execTsub m s
  | .tmul m => Sys2Proof.Machine.execTmul m s
  | .tmax m => Sys2Proof.Machine.execTmax m s
  | .tmin m => Sys2Proof.Machine.execTmin m s
  | .tscl m xs int => Sys2Proof.Machine.execTscl m xs int s
  | .tbia m fn => Sys2Proof.Machine.execTbia m fn s
  | .tfun m fn => Sys2Proof.Machine.execTfun m fn s
  | .tred m op cols => Sys2Proof.Machine.execTred m op cols s
  | .tsmx m => Sys2Proof.Machine.execTsmx m s
  | .ttrn m => Sys2Proof.Machine.execTtrn m s
  | .tcvt m => Sys2Proof.Machine.execTcvt m s
  | .tslc m xs => Sys2Proof.Machine.execTslc m xs s
  | .tcat m cols => Sys2Proof.Machine.execTcat m cols s
  | .tbcs m xs => Sys2Proof.Machine.execTbcs m xs s
  | .tmsk m xv => Sys2Proof.Machine.execTmsk m xv s
  | .tchk => Sys2Proof.Machine.execTchk s
  | .tst xt xr flag => Sys2Proof.Machine.execTst xt xr flag s
  | .tfrc n xr flag => Sys2Proof.Machine.execTfrc n xr flag s
  | .scpy a flag cls x => Sys2Proof.Machine.execScpy a flag cls x s
  | .sacc a flag cls x => Sys2Proof.Machine.execSacc a flag cls x s
  | .satmFadd a flag cls => Sys2Proof.Machine.execSatmFadd a flag cls s
  | .satmFmin a flag cls => Sys2Proof.Machine.execSatmFmin a flag cls s
  | .satmFmax a flag cls => Sys2Proof.Machine.execSatmFmax a flag cls s
  | .satmSwap a flag cls => Sys2Proof.Machine.execSatmSwap a flag cls s
  | .satmCas a flag cls => Sys2Proof.Machine.execSatmCas a flag cls s
  | .satmIadd a flag cls => Sys2Proof.Machine.execSatmIadd a flag cls s
  | .satmAnd a flag cls => Sys2Proof.Machine.execSatmAnd a flag cls s
  | .satmOr a flag cls => Sys2Proof.Machine.execSatmOr a flag cls s
  | .satmXor a flag cls => Sys2Proof.Machine.execSatmXor a flag cls s
  | .ssig a b flag cls x => Sys2Proof.Machine.execSsig a b flag cls x s
  | .ssigRel a b flag cls x scope => Sys2Proof.Machine.execSsigRel a b flag cls x scope s
  | .sgth a b flag cls x => Sys2Proof.Machine.execSgth a b flag cls x s
  | .sbar a b flag => Sys2Proof.Machine.execSbar a b flag s
  | .sdrn flag => Sys2Proof.Machine.execSdrn flag s
  | .fenceAcq scope flag => Sys2Proof.Machine.execFenceAcq scope flag s
  | .fenceRel scope flag => Sys2Proof.Machine.execFenceRel scope flag s
  | .fenceSc scope flag => Sys2Proof.Machine.execFenceSc scope flag s
  | .l2wb a flag => Sys2Proof.Machine.execL2wb a flag s
  | .l2inv a flag => Sys2Proof.Machine.execL2inv a flag s
  | .l2pf a retained flag => Sys2Proof.Machine.execL2pf a retained flag s
  | .sxfr a b flag => Sys2Proof.Machine.execSxfr a b flag s
  | .br off => Sys2Proof.Machine.execBr off s
  | .call off => Sys2Proof.Machine.execCall off s
  | .ret => Sys2Proof.Machine.execRet s
  | .jmpr a => Sys2Proof.Machine.execJmpr a s
  | .loop n len => Sys2Proof.Machine.execLoop n len s
  | .loopr a len => Sys2Proof.Machine.execLoopr a len s
  | .lbrk => Sys2Proof.Machine.execLbrk s
  | .ckpt => Sys2Proof.Machine.execCkpt s
  | .rdv n => Sys2Proof.Machine.execRdv n s
  | .slack n => Sys2Proof.Machine.execSlack n s
  | .sstep d dom => Sys2Proof.Machine.execSstep d dom s
  | .exit s0 s1 s2 s3 => Sys2Proof.Machine.execExit s0 s1 s2 s3 s
  | .halt => Sys2Proof.Machine.execHalt s
  | .launch d a => Sys2Proof.Machine.execLaunch d a s
  | .launchGraph d a => Sys2Proof.Machine.execLaunchGraph d a s
  | .fset k => Sys2Proof.Machine.execFset k s
  | .fclr k => Sys2Proof.Machine.execFclr k s
  | .cset k n => Sys2Proof.Machine.execCset k n s
  | .brk k => Sys2Proof.Machine.execBrk k s
  | .trap k => Sys2Proof.Machine.execTrap k s
  | .rte => Sys2Proof.Machine.execRte s
  | .xbnd a => Sys2Proof.Machine.execXbnd a s
  | .icinv a b flag scope => Sys2Proof.Machine.execIcinv a b flag scope s
  | .tlbiAll flag pod => Sys2Proof.Machine.execTlbiAll flag pod s
  | .tlbiTensor a b flag pod => Sys2Proof.Machine.execTlbiTensor a b flag pod s
  | .tlbiRange a b flag pod => Sys2Proof.Machine.execTlbiRange a b flag pod s
  | .mode value mask => Sys2Proof.Machine.execMode value mask s
  | .yield => Sys2Proof.Machine.execYield s
  | .bundleIssue => Sys2Proof.Machine.execBundleIssue s
  | .syncPass => Sys2Proof.Machine.execSyncPass s
  | .resultLand => Sys2Proof.Machine.execResultLand s
  | .remoteLoadArrive id => Sys2Proof.Machine.execRemoteLoadArrive id s
  | .aliasStoreWait => Sys2Proof.Machine.execAliasStoreWait s
  | .remoteStoreArrive id => Sys2Proof.Machine.execRemoteStoreArrive id s
  | .remoteStoreAck id => Sys2Proof.Machine.execRemoteStoreAck id s
  | .demandEvaluation => Sys2Proof.Machine.execDemandEvaluation s
  | .evalAheadOfDemand node row col => Sys2Proof.Machine.execEvalAheadOfDemand node row col s
  | .storeNodePerform node n => Sys2Proof.Machine.execStoreNodePerform node n s
  | .tfrcComplete id => Sys2Proof.Machine.execTfrcComplete id s
  | .valueMovement => Sys2Proof.Machine.execValueMovement s
  | .evaluationFault => Sys2Proof.Machine.execEvaluationFault s
  | .copyCommandComplete id n => Sys2Proof.Machine.execCopyCommandComplete id n s
  | .copyCommandFault id => Sys2Proof.Machine.execCopyCommandFault id s
  | .signalIncrement id => Sys2Proof.Machine.execSignalIncrement id s
  | .implicitCheckpoint => Sys2Proof.Machine.execImplicitCheckpoint s
  | .invalidationComplete id => Sys2Proof.Machine.execInvalidationComplete id s
  | .trapEntry cause info => Sys2Proof.Machine.execTrapEntry cause info s
  | .lateTrap => Sys2Proof.Machine.execLateTrap s
  | .pageFault => Sys2Proof.Machine.execPageFault s
  | .pageFaultResolved r => Sys2Proof.Machine.execPageFaultResolved r s
  | .secondStageFault r => Sys2Proof.Machine.execSecondStageFault r s
  | .featureMaskedHypervisorResume deliver => Sys2Proof.Machine.execFeatureMaskedHypervisorResume deliver s
  | .preemptHorizon => Sys2Proof.Machine.execPreemptHorizon s
  | .contextRestore => Sys2Proof.Machine.execContextRestore s
  | .remoteRequest r => Sys2Proof.Machine.execRemoteRequest r s
  | .remoteReply r => Sys2Proof.Machine.execRemoteReply r s
  | .remoteTimeout ctx owner serial => Sys2Proof.Machine.execRemoteTimeout ctx owner serial s
  | .busyBackoffExpiry ctx owner serial => Sys2Proof.Machine.execBusyBackoffExpiry ctx owner serial s
  | .ackAlone ctx owner => Sys2Proof.Machine.execAckAlone ctx owner s
  | .ackArrival pkg ctx serial => Sys2Proof.Machine.execAckArrival pkg ctx serial s
  | .incarnationQuery pkg ctx => Sys2Proof.Machine.execIncarnationQuery pkg ctx s
  | .incarnationQueryTimeout ctx owner => Sys2Proof.Machine.execIncarnationQueryTimeout ctx owner s
  | .contextDestroyedNotice pkg ctx => Sys2Proof.Machine.execContextDestroyedNotice pkg ctx s
  | .ownerRestart inc => Sys2Proof.Machine.execOwnerRestart inc s
  | .sxfrSlotSend id acked => Sys2Proof.Machine.execSxfrSlotSend id acked s
  | .sxfrRetrySend id acked => Sys2Proof.Machine.execSxfrRetrySend id acked s
  | .sxfrDeadline id arrive => Sys2Proof.Machine.execSxfrDeadline id arrive s
  | .reservationAbandon ctx => Sys2Proof.Machine.execReservationAbandon ctx s
  | .flitReceive bytes => Sys2Proof.Machine.execFlitReceive bytes s
  | .podTimeLoss => Sys2Proof.Machine.execPodTimeLoss s
  | .podTimeAgainInStep => Sys2Proof.Machine.execPodTimeAgainInStep s
  | .packetRetransmissionTimeout tag => Sys2Proof.Machine.execPacketRetransmissionTimeout tag s
  | .packetAgeExpiry tag => Sys2Proof.Machine.execPacketAgeExpiry tag s
  | .rendezvousRelease task die => Sys2Proof.Machine.execRendezvousRelease task die s
  | .stepBarrier dom => Sys2Proof.Machine.execStepBarrier dom s
  | .taskDispatch => Sys2Proof.Machine.execTaskDispatch s
  | .taskCompletion task => Sys2Proof.Machine.execTaskCompletion task s
  | .taskAging task => Sys2Proof.Machine.execTaskAging task s
  | .preemptionMark task => Sys2Proof.Machine.execPreemptionMark task s
  | .stepReplay core act => Sys2Proof.Machine.execStepReplay core act s
  | .watchdog act => Sys2Proof.Machine.execWatchdog act s
  | .frameMigration ctx tid tile frame st => Sys2Proof.Machine.execFrameMigration ctx tid tile frame st s
  | .tableUpdateMulticast seq u => Sys2Proof.Machine.execTableUpdateMulticast seq u s
  | .kernelInvalidate ctx k => Sys2Proof.Machine.execKernelInvalidate ctx k s
  | .stagingReconfigure slice pairs => Sys2Proof.Machine.execStagingReconfigure slice pairs s
  | .memoryScrub => Sys2Proof.Machine.execMemoryScrub s
  | .l2DirtyEviction line => Sys2Proof.Machine.execL2DirtyEviction line s
  | .boot b => Sys2Proof.Machine.execBoot b s
  | .getVersion => Sys2Proof.Machine.execGetVersion s
  | .getCapabilities => Sys2Proof.Machine.execGetCapabilities s
  | .negotiateAlgorithms => Sys2Proof.Machine.execNegotiateAlgorithms s
  | .getDigests slot => Sys2Proof.Machine.execGetDigests slot s
  | .getCertificate slot offset length => Sys2Proof.Machine.execGetCertificate slot offset length s
  | .challenge slot nonce => Sys2Proof.Machine.execChallenge slot nonce s
  | .getMeasurements signed nonce => Sys2Proof.Machine.execGetMeasurements signed nonce s
  | .spdmUnsupportedRequest code => Sys2Proof.Machine.execSpdmUnsupportedRequest code s
  | .hostMailboxWrite fn off v => Sys2Proof.Machine.execHostMailboxWrite fn off v s
  | .hostBar2Access fn tid elem data => Sys2Proof.Machine.execHostBar2Access fn tid elem data s
  | .debugAuthorisation t => Sys2Proof.Machine.execDebugAuthorisation t s
  | .permitAudit die lost duplicated => Sys2Proof.Machine.execPermitAudit die lost duplicated s
  | .scanTest core matched aborted => Sys2Proof.Machine.execScanTest core matched aborted s
  | .thermalThrottle cycles => Sys2Proof.Machine.execThermalThrottle cycles s
  | .thermalShutdown => Sys2Proof.Machine.execThermalShutdown s
  | .loadImage ctx objects => Sys2Proof.Machine.execLoadImage ctx objects s
  | .kernelCommandPortLaunch ctx addr graph => Sys2Proof.Machine.execKernelCommandPortLaunch ctx addr graph s
  | .contextCreation c => Sys2Proof.Machine.execContextCreation c s
  | .logicalCoreMapRenumber => Sys2Proof.Machine.execLogicalCoreMapRenumber s
  | .imageVerification im => Sys2Proof.Machine.execImageVerification im s
  | .kernelCodeWrite ctx addr bundle => Sys2Proof.Machine.execKernelCodeWrite ctx addr bundle s

end Sys2Proof.Machine
end

