-- ==== Sys2Proof/Machine/Place.lean ====
section
/-! DEFINITION. What step does around the meanings: the head of the agenda begins; and the placing of a bundle where the next fetch
finds it. -/

namespace Sys2Proof

/-- An instruction of a slot, which stands in bundles only; the others are events. -/
def Instr.inSlot (i : Instr) : Bool := [SlotKind.alu, .mem, .vec, .tile, .copy, .ctl].any (fun k => i.fits k)

namespace Machine

/-- The package runs nothing more: a check of the boot sequence failed, or it has shut down (R396, R409). -/
def State.off (s : State) : Bool :=
  match s.malt.boot with
  | .failed _ | .shutDown => true
  | _ => false

/-- Pod time passes: cores that hold still are noted before it, and losses that it makes due reach their destinations. -/
def State.passTime (s : State) (dt : Nat) : State :=
  let t := s.noteQuiet
  ({ t with podTime := t.podTime + BitVec.ofNat 64 dt }).lapse

/-- The head of the agenda begins: its pod time has passed, the Maltings and the host have done their part, and its core has the
focus (DESIGN CHOICE, log entry 10). -/
def State.begin (s : State) (a : AgendaItem) (rest : List AgendaItem) : State :=
  (a.outer.foldl State.outerUp ({ s with agenda := rest }.passTime a.dt)).focus a.core

/-! ### A bundle where the next fetch finds it -/

/-- The table entry of a control tensor of 64 KiB, whose one tile is the frame at 0: UINT8, linear, writable, its tile
table at address 65536 (R70, R71). -/
def codeEntry (self : Nat) : BitVec 512 :=
  BitVec.ofNat 512 (Fmt.code .uint8 + 2 ^ 8 + 7 * 2 ^ 16 + self % 2 ^ 8 * 2 ^ 32 + 65536 * 2 ^ 64 + 65536 * 2 ^ 128 + 2 ^ 320)

/-- A context that holds only a control tensor. -/
def codeContext (n self : Nat) : Ctx :=
  newCtx { ctx := n, vf := none, mask := 0, cores := [0], tensors := [(0, codeEntry self)], tableLen := 1, stage2 := none,
           windows := [], quotas := [], trapVec := 0, granules := [], exports := [], slots := [], saves := [] }

/-- The focused core's context has that control tensor, and the pc is at its start. -/
def State.installCode (s : State) : State :=
  let n := s.ctxNo
  let c := match s.ctx? n with
    | some c => { c with tensors := insertNat 0 (codeEntry s.fabric.self) c.tensors, tableLen := max 1 c.tableLen, stage2 := none }
    | none => codeContext n s.fabric.self
  let t := { s with ctxs := c :: s.ctxs.filter (fun k => k.id != n) }
  (t.writeCells (cellsAt 65536 (leBytes 8 (2 ^ 63 + 2 ^ 61)))).modCore (fun k => { k with pc := 0 })

/-- The fetch at the pc finds a bundle in memory. -/
def State.fetches (s : State) : Bool :=
  match s.fetchFresh.2 with
  | .word _ => true
  | _ => false

/-- The address of the byte at the pc. -/
def State.codePlace (s : State) : Option Nat :=
  match (s.controlAt s.ctxNo s.core.pc.toNat false).2 with
  | .ok bit _ _ => some (bit / 8)
  | _ => none

/-- The focused core is at a boundary, with nothing that comes before its next bundle. -/
def Core.ready (c : Core) : Core :=
  { c with run := .running, due := 0, hold := .none, evalFault := none, hndFault := none, lateTraps := [], emul := none, icache := [],
           loopBuf := [], kTraps := [], preempt := none, flight := [], busy := Busy.none,
           eng := { c.eng with cmds := c.eng.cmds.map (fun k => { k with fault := none }) } }

/-- The bundle stands in memory at the pc, where no copy of it is kept elsewhere. -/
def State.storeCode (s : State) (w : Nat) : State :=
  match s.codePlace with
  | some a =>
    (s.writeCells (cellsAt a (leBytes 64 w))).modL2 (fun l =>
      { l with lines := l.lines.filter (fun r => r.line != a / 128), tlb := [] })
  | none => s

/-- The next step fetches and issues the bundle: the package is up, the focused core at a boundary, the agenda empty. -/
def State.placeCode (s : State) (w : Nat) : State :=
  let t := { s with agenda := [], malt := { s.malt with boot := .up, root := { s.malt.root with started := true } }, core := s.core.ready,
                    l2 := { s.l2 with tlb := [] } }
  let t := if t.fetches then t else t.installCode
  t.storeCode w

end Machine

end Sys2Proof
end

