-- ==== Sys2Proof/Machine/Step.lean ====
section
/-! DEFINITION. One step of the machine, and the state whose next step runs a given bundle. -/

namespace Sys2Proof.Machine

/-- One step: the head of the agenda, or the turn of the focused core; a slot instruction stands in no agenda, and before the kernel runs
nothing comes of it (R396): such an item only passes its time. -/
def step (s : State) : Host.Outcome State Fault Refusal :=
  if s.off then .fault .packageOff
  else
    match s.agenda with
    | [] => s.turn
    | a :: rest => if a.act.inSlot || kernelEvent a.act && !s.malt.root.started then .next (s.begin a rest) else exec a.act (s.begin a rest)

/-- The bundle of nbits bits where step fetches next. -/
def State.withFetchWord (s : State) (nbits w : Nat) : State := s.placeCode (w % 2 ^ min nbits 512)

end Sys2Proof.Machine
end

