-- ==== Sys2Proof/Safety.lean ====
section
/-! DEFINITION. What counts as a safe run: the invariant that every step keeps, and the runs that no stop ends. -/

namespace Sys2Proof.Machine

/-- The memory is in its canonical form: addresses strictly rising, and no entry equal to what an unlisted address reads as. -/
def State.Inv (s : State) : Prop := s.mem.wf = true

/-- k steps run from s without a fault or a refusal, and every state on the way keeps the invariant. -/
def SafeRun : Nat → State → Prop
  | 0, s => s.Inv
  | k + 1, s => s.Inv ∧ ∃ t, step s = .next t ∧ SafeRun k t

end Sys2Proof.Machine
end

