-- ==== Sys2Proof/Vocab.lean ====
section
/-! DEFINITION. The vocabulary of the statements: results in flight, results of the alu operations written from the tables of
spec/11, landings, and the shapes of the states that the meanings lead to. -/

namespace Sys2Proof.Machine

/-! ### Results in flight (R43, R49, R50) -/

/-- A result that lands at the start of the n-th position from the one that issues it. -/
def fly (l : Landing) (n : Nat) : InFlight := { what := l, k := n, mark := none, wait := none }

/-- The state with further results in flight, of which those of a second list chain; nothing else differs. -/
def State.withFlight (s : State) (fs : List InFlight) (chain : List Landing) : State :=
  { s with core := { s.core with flight := s.core.flight ++ fs,
                                 issue := { s.core.issue with chain := s.core.issue.chain ++ chain } } }

/-- The register that a number names: x48 to x63 name the handler bank in handler mode (R370). -/
def State.scalarDest (s : State) (d : XReg) (v : Word) : Landing :=
  if s.core.sys.hnd = true ∧ 48 ≤ d.val then .hx (Fin.ofNat 16 (d.val - 48)) v else .x d v

/-- A scalar result of a latency is in flight; a write of x0 is discarded (R47). -/
def State.issuesX (s : State) (d : XReg) (v : Word) (lat : Nat) (chains : Bool) : State :=
  if d = 0 then s
  else s.withFlight [fly (s.scalarDest d v) lat] (if chains then [s.scalarDest d v] else [])

/-- A predicate result of latency 1 is in flight and chains; a write of p0 is discarded (R272). -/
def State.issuesP (s : State) (d : PReg) (b : Bool) : State :=
  if d = 0 then s else s.withFlight [fly (.p d b) 1] [.p d b]

/-! ### Integer results (R268 to R271) -/

/-- Bits [127:64] of the product of two words read as signed (R269). -/
def signedHigh (a b : Word) : Word := BitVec.extractLsb' 64 64 (a.signExtend 128 * b.signExtend 128)
/-- Bits [127:64] of the product of two words read as unsigned (R269). -/
def unsignedHigh (a b : Word) : Word := BitVec.extractLsb' 64 64 (a.setWidth 128 * b.setWidth 128)
/-- Signed quotient, truncated toward zero; all ones for a divisor 0 (R269, R270). -/
def signedQuotient (a b : Word) : Word := if b = 0 then 0xFFFF_FFFF_FFFF_FFFF else a.sdiv b
/-- Unsigned quotient; 2^64 − 1 for a divisor 0 (R269, R270). -/
def unsignedQuotient (a b : Word) : Word := if b = 0 then 0xFFFF_FFFF_FFFF_FFFF else a / b
/-- Signed remainder, with the sign of a; a for a divisor 0 (R269, R270). -/
def signedRemainder (a b : Word) : Word := if b = 0 then a else a.srem b
/-- Unsigned remainder; a for a divisor 0 (R269, R270). -/
def unsignedRemainder (a b : Word) : Word := if b = 0 then a else a % b

/-- The integer operations of latency 1 in their three forms: destination and result (R268, R269). -/
def State.integerOne (s : State) : Instr → Option (XReg × Word)
  | .add d a b => some (d, (s.x a) + (s.x b))
  | .addImm d a i => some (d, (s.x a) + (i.signExtend 64))
  | .addLit d a l => some (d, (s.x a) + l.value)
  | .sub d a b => some (d, (s.x a) - (s.x b))
  | .subImm d a i => some (d, (s.x a) - (i.signExtend 64))
  | .subLit d a l => some (d, (s.x a) - l.value)
  | .and d a b => some (d, (s.x a) &&& (s.x b))
  | .andImm d a i => some (d, (s.x a) &&& (i.signExtend 64))
  | .andLit d a l => some (d, (s.x a) &&& l.value)
  | .or d a b => some (d, (s.x a) ||| (s.x b))
  | .orImm d a i => some (d, (s.x a) ||| (i.signExtend 64))
  | .orLit d a l => some (d, (s.x a) ||| l.value)
  | .xor d a b => some (d, (s.x a) ^^^ (s.x b))
  | .xorImm d a i => some (d, (s.x a) ^^^ (i.signExtend 64))
  | .xorLit d a l => some (d, (s.x a) ^^^ l.value)
  | .andn d a b => some (d, (s.x a) &&& ~~~(s.x b))
  | .andnImm d a i => some (d, (s.x a) &&& ~~~(i.signExtend 64))
  | .andnLit d a l => some (d, (s.x a) &&& ~~~l.value)
  | .shl d a b => some (d, (s.x a) <<< ((s.x b) % 64))
  | .shlImm d a i => some (d, (s.x a) <<< ((i.signExtend 64) % 64))
  | .shlLit d a l => some (d, (s.x a) <<< (l.value % 64))
  | .shr d a b => some (d, (s.x a) >>> ((s.x b) % 64))
  | .shrImm d a i => some (d, (s.x a) >>> ((i.signExtend 64) % 64))
  | .shrLit d a l => some (d, (s.x a) >>> (l.value % 64))
  | .sra d a b => some (d, (s.x a).sshiftRight ((s.x b) % 64).toNat)
  | .sraImm d a i => some (d, (s.x a).sshiftRight ((i.signExtend 64) % 64).toNat)
  | .sraLit d a l => some (d, (s.x a).sshiftRight (l.value % 64).toNat)
  | .rotl d a b => some (d, (s.x a).rotateLeft ((s.x b) % 64).toNat)
  | .rotlImm d a i => some (d, (s.x a).rotateLeft ((i.signExtend 64) % 64).toNat)
  | .rotlLit d a l => some (d, (s.x a).rotateLeft (l.value % 64).toNat)
  | .min d a b => some (d, if (s.x a).slt (s.x b) then (s.x a) else (s.x b))
  | .minImm d a i => some (d, if (s.x a).slt (i.signExtend 64) then (s.x a) else (i.signExtend 64))
  | .minLit d a l => some (d, if (s.x a).slt l.value then (s.x a) else l.value)
  | .max d a b => some (d, if (s.x a).slt (s.x b) then (s.x b) else (s.x a))
  | .maxImm d a i => some (d, if (s.x a).slt (i.signExtend 64) then (i.signExtend 64) else (s.x a))
  | .maxLit d a l => some (d, if (s.x a).slt l.value then l.value else (s.x a))
  | .minu d a b => some (d, if (s.x a) < (s.x b) then (s.x a) else (s.x b))
  | .minuImm d a i => some (d, if (s.x a) < (i.signExtend 64) then (s.x a) else (i.signExtend 64))
  | .minuLit d a l => some (d, if (s.x a) < l.value then (s.x a) else l.value)
  | .maxu d a b => some (d, if (s.x a) < (s.x b) then (s.x b) else (s.x a))
  | .maxuImm d a i => some (d, if (s.x a) < (i.signExtend 64) then (i.signExtend 64) else (s.x a))
  | .maxuLit d a l => some (d, if (s.x a) < l.value then l.value else (s.x a))
  | _ => none

/-- The multiplications in their three forms (R269). -/
def State.integerThree (s : State) : Instr → Option (XReg × Word)
  | .mul d a b => some (d, (s.x a) * (s.x b))
  | .mulImm d a i => some (d, (s.x a) * (i.signExtend 64))
  | .mulLit d a l => some (d, (s.x a) * l.value)
  | .mulh d a b => some (d, signedHigh (s.x a) (s.x b))
  | .mulhImm d a i => some (d, signedHigh (s.x a) (i.signExtend 64))
  | .mulhLit d a l => some (d, signedHigh (s.x a) l.value)
  | .mulhu d a b => some (d, unsignedHigh (s.x a) (s.x b))
  | .mulhuImm d a i => some (d, unsignedHigh (s.x a) (i.signExtend 64))
  | .mulhuLit d a l => some (d, unsignedHigh (s.x a) l.value)
  | _ => none

/-- The divisions in their three forms (R269, R270). -/
def State.integerDivide (s : State) : Instr → Option (XReg × Word)
  | .div d a b => some (d, signedQuotient (s.x a) (s.x b))
  | .divImm d a i => some (d, signedQuotient (s.x a) (i.signExtend 64))
  | .divLit d a l => some (d, signedQuotient (s.x a) l.value)
  | .divu d a b => some (d, unsignedQuotient (s.x a) (s.x b))
  | .divuImm d a i => some (d, unsignedQuotient (s.x a) (i.signExtend 64))
  | .divuLit d a l => some (d, unsignedQuotient (s.x a) l.value)
  | .rem d a b => some (d, signedRemainder (s.x a) (s.x b))
  | .remImm d a i => some (d, signedRemainder (s.x a) (i.signExtend 64))
  | .remLit d a l => some (d, signedRemainder (s.x a) l.value)
  | .remu d a b => some (d, unsignedRemainder (s.x a) (s.x b))
  | .remuImm d a i => some (d, unsignedRemainder (s.x a) (i.signExtend 64))
  | .remuLit d a l => some (d, unsignedRemainder (s.x a) l.value)
  | _ => none

/-- The bit field of ext at p = b[5:0] of n = b[13:8] bits, 64 when that field is 0 (R271). -/
def bitField (a b : Word) (signed : Bool) : Word :=
  let n := if (b >>> 8) % 64 = 0 then 64 else ((b >>> 8) % 64).toNat
  let f := (a >>> (b % 64)) <<< (64 - n)
  if signed then f.sshiftRight (64 - n) else f >>> (64 - n)

/-- Moves and bit operations, and the reads of counters and loop counters (R271, R277, R278). -/
def State.moveResult (s : State) : Instr → Option (XReg × Word)
  | .sel d a b p => some (d, if s.p p then s.x a else s.x b)
  | .mov d a => some (d, s.x a)
  | .movImm d i => some (d, i.signExtend 64)
  | .movLit d l => some (d, l.value)
  | .ext d a b sg => some (d, bitField (s.x a) (s.x b) sg)
  | .bitClz d a => some (d, (s.x a).clz)
  | .bitCtz d a => some (d, (s.x a).reverse.clz)
  | .bitPopc d a => some (d, (s.x a).cpop)
  | .bitBrev d a => some (d, (s.x a).reverse)
  | .crd d k => some (d, (s.ctr k).setWidth 64)
  | .lcr d k => some (d, match s.core.loops[k.val]? with
    | some e => e.index.setWidth 64
    | none => 0)
  | _ => none

/-- The predicate operations (R272, R274): destination and result. -/
def State.predicateResult (s : State) : Instr → Option (PReg × Bool)
  | .cmp .eq d a b => some (d, decide (s.x a = s.x b))
  | .cmp .ne d a b => some (d, decide (s.x a ≠ s.x b))
  | .cmp .lt d a b => some (d, (s.x a).slt (s.x b))
  | .cmp .le d a b => some (d, (s.x a).sle (s.x b))
  | .cmp .ltu d a b => some (d, (s.x a).ult (s.x b))
  | .cmp .leu d a b => some (d, (s.x a).ule (s.x b))
  | .plog .and d a b => some (d, s.p a && s.p b)
  | .plog .or d a b => some (d, s.p a || s.p b)
  | .plog .xor d a b => some (d, s.p a ^^ s.p b)
  | .plog .andn d a b => some (d, s.p a && !s.p b)
  | .fcmp .eq d a b => some (d, (s.fval (s.x a)).eqv (s.fval (s.x b)))
  | .fcmp .ne d a b => some (d, !(s.fval (s.x a)).eqv (s.fval (s.x b)))
  | .fcmp .lt d a b => some (d, (s.fval (s.x a)).lt (s.fval (s.x b)))
  | .fcmp .le d a b => some (d, (s.fval (s.x a)).lt (s.fval (s.x b)) || (s.fval (s.x a)).eqv (s.fval (s.x b)))
  | .fcmp .uo d a b => some (d, (s.fval (s.x a)).isNan || (s.fval (s.x b)).isNan)
  | _ => none

/-! ### Floating point and system registers (R273 to R275) -/

/-- An FP32 result written zero-extended, rounded once under MODE (R273). -/
def State.fpWord (s : State) (v : Num) : Word :=
  BitVec.ofNat 64 (encodeElem .fp32 s.frnd false s.ftz false SrKey.none v).bits

/-- The scalar FP32 operations in their two forms: destination and exact result (R273). The sign of an exact zero sum
follows MODE.FRND (R213). -/
def State.fpResult (s : State) : Instr → Option (XReg × Num)
  | .faddS d a b => some (d, (s.fval (s.x a)).add (s.fval (s.x b)) (s.frnd == .rdn))
  | .faddSLit d a _ v => some (d, (s.fval (s.x a)).add (decodeFp32 s.ftz v) (s.frnd == .rdn))
  | .fsubS d a b => some (d, (s.fval (s.x a)).add (s.fval (s.x b)).negate (s.frnd == .rdn))
  | .fsubSLit d a _ v => some (d, (s.fval (s.x a)).add (decodeFp32 s.ftz v).negate (s.frnd == .rdn))
  | .fmulS d a b => some (d, (s.fval (s.x a)).mul (s.fval (s.x b)))
  | .fmulSLit d a _ v => some (d, (s.fval (s.x a)).mul (decodeFp32 s.ftz v))
  | .ffmaS d a b => some (d, ((s.fval (s.x a)).mul (s.fval (s.x b))).add (s.fval (s.x d)) (s.frnd == .rdn))
  | .ffmaSLit d a _ v => some (d, ((s.fval (s.x a)).mul (decodeFp32 s.ftz v)).add (s.fval (s.x d)) (s.frnd == .rdn))
  | .fminS d a b => some (d, (s.fval (s.x a)).minRule (s.fval (s.x b)))
  | .fminSLit d a _ v => some (d, (s.fval (s.x a)).minRule (decodeFp32 s.ftz v))
  | .fmaxS d a b => some (d, (s.fval (s.x a)).maxRule (s.fval (s.x b)))
  | .fmaxSLit d a _ v => some (d, (s.fval (s.x a)).maxRule (decodeFp32 s.ftz v))
  | _ => none

/-- What mfs reads of a register after an mts of a value has landed: the fields that the register has, its reserved bits
as R220, R291, R292 and R294 give them; REMOP.NEXT reads the next serial toward the owner written, 1 toward one to which the context has
sent nothing (R129). None for a register that mts does not change. -/
def State.storedForm (s : State) (r : SysReg) (v : Word) : Option Word :=
  match r with
  | .mode => some ((if s.core.sys.hnd then 0x100 else 0) |||
      (if 5 ≤ ((v >>> 3) &&& 7).toNat then v &&& 0xC4 else v &&& 0xFC))
  | .fmt _ => some (if 6 ≤ ((v >>> 5) &&& 7).toNat then v &&& 0x71F else v &&& 0x7FF)
  | .rndSeed | .rsv _ | .faultInfo | .faultSeg => some v
  | .faultCause => some (v &&& 0x3F)
  | .faultOrigin => some (v &&& 0x0000_FFFF_FFFF_FFC7)
  | .faultDemand => some (v &&& 0x0000_FFFF_FFFF_FFFF)
  | .faultNode => some (v &&& 0xFFFF_00FF_0000_01FF)
  | .trapVec => some (v &&& 0x0000_FFFF_FFFF_F000)
  | .trapPc => some (v &&& 0x0000_FFFF_FFFF_FFC0)
  | .cntT _ => some (v &&& 0x0000_0000_FFFF_FFFF)
  | .remopNext => some (((v >>> 48 &&& 0xFF) <<< 48) ||| BitVec.ofNat 64
      (((s.ctx? s.ctxNo).map (fun c => (c.side (v >>> 48 &&& 0xFF).toNat).next)).getD 1))
  | .injDropReply => (s.ctx? s.ctxNo).map (fun _ => v &&& 0x8000_FF00_00FF_FFFF)
  | _ => none

/-- The focused core's results in flight all have their data and no mark, and none lands at the next position. -/
def State.nothingLands (s : State) : Prop :=
  ∀ e ∈ s.core.flight, e.mark = none ∧ e.wait = none ∧ 2 ≤ e.k

/-- One position has passed for results in flight that do not land, and for the busy units. -/
def State.counted (s : State) (rest : List InFlight) : State :=
  { s with core := { s.core with flight := rest.map (fun e => { e with k := e.k - 1 }), fresh := [], done := [],
                                 due := s.core.due - 1,
                                 busy := { vec := s.core.busy.vec - 1, div0 := s.core.busy.div0 - 1,
                                           div1 := s.core.busy.div1 - 1 } } }

/-- The registers after one landing, the flag of a threshold apart (R44, R47, R277). -/
def Regs.after (r : Regs) : Landing → Regs
  | .x d v => if d = 0 then r else { r with x := r.x.set d v }
  | .hx d v => { r with hx := r.hx.set d v }
  | .p d b => { r with p := r.p.set d b }
  | .v d v => { r with v := r.v.set d v }
  | .vm d v m => { r with v := r.v.set d ((r.v[d] &&& ~~~m) ||| (v &&& m)) }
  | .q d v m => if d = 0 then r else { r with q := r.q.set d ((r.q[d] &&& ~~~m) ||| (v &&& m)) }
  | .flag d b => { r with f := r.f.set d b }
  | .done d _ => { r with f := r.f.set d true }
  | .ctr k v => { r with c := r.c.set k v }
  | .inc k n => { r with c := r.c.set k (r.c[k] + n) }
  | .cset k n => { r with c := r.c.set k 0, t := r.t.set k n, f := r.f.set (Fin.ofNat 32 (16 + k.val)) false }
  | .sys (.cntT k) v => { r with t := r.t.set k (v.setWidth 32) }
  | _ => r

/-- The counter that a landing changes (R277). -/
def Landing.counter : Landing → Option CtrNo
  | .ctr k _ | .inc k _ | .cset k _ | .sys (.cntT k) _ => some k
  | _ => none

/-- The landing changes a system register, or the registers of the context, that R277 does not name. -/
def Landing.system : Landing → Bool
  | .sys (.cntT _) _ => false
  | .sys _ _ | .slack _ => true
  | _ => false

/-- Flag f16+K is set when cK is at or above its threshold (R277). -/
def Regs.compared (r : Regs) (k : CtrNo) : Regs :=
  if r.t[k].toNat ≤ r.c[k].toNat then { r with f := r.f.set (Fin.ofNat 32 (16 + k.val)) true } else r

/-! ### Bundles (R39 to R47) -/

/-- The state in which the one instruction of a bundle runs: its SYNC is passed, nothing chains yet, and the memory before the
bundle is noted. -/
def State.issuing (s : State) (w : Nat) (i : SlotInstr) : State :=
  let p := s.passSync w
  { p with core := { p.core with issue := { Issue.none with before := some p.before, slot := i.slot.val } } }

/-! ### Loads and stores of scratchpad (R134 to R140) -/

/-- The element addresses of a load (R135), its element size, where its data lands, and its near latency (R50, R136). -/
structure LoadPlan where
  size : Nat
  eas : List Word
  form : LoadForm
  near : Nat

/-- A load of a scalar in n bytes. -/
def State.scalarLoad (s : State) (n : Nat) (signed : Bool) (d a : XReg) (disp : BitVec 15) : LoadPlan :=
  { size := n, eas := [s.x a + disp.signExtend 64],
    form := .scalar n signed d (s.core.sys.hnd && decide (48 ≤ d.val)), near := 4 }

/-- The loads of the mem slot (R134 to R136). -/
def State.loadPlan (s : State) : Instr → Option LoadPlan
  | .ldB d a i => some (s.scalarLoad 1 true d a i)
  | .ldBu d a i => some (s.scalarLoad 1 false d a i)
  | .ldH d a i => some (s.scalarLoad 2 true d a i)
  | .ldHu d a i => some (s.scalarLoad 2 false d a i)
  | .ldW d a i => some (s.scalarLoad 4 true d a i)
  | .ldWu d a i => some (s.scalarLoad 4 false d a i)
  | .ldD d a i => some (s.scalarLoad 8 false d a i)
  | .vld d a i => some { size := 128, eas := [s.x a + i.signExtend 64], form := .vector d, near := 5 }
  | .vlds d a st i => some { size := 4, eas := (List.range 32).map (fun k =>
      s.x a + i.signExtend 64 + BitVec.ofNat 64 k * s.x st), form := .vector d, near := 5 }
  | .vgth d a ix => some { size := 4, eas := (List.range 32).map (fun k =>
      s.x a + (BitVec.extractLsb' (32 * k) 32 (s.v ix)).signExtend 64), form := .vector d, near := 5 }
  | _ => none

/-- What a load lands: the little-endian number of its bytes, sign-extended in the forms that say so (R136). -/
def LoadForm.value (f : LoadForm) (bs : List Byte) : Landing :=
  match f with
  | .scalar n true d false => .x d ((BitVec.ofNat (8 * n) (ofLe bs)).signExtend 64)
  | .scalar _ false d false => .x d (BitVec.ofNat 64 (ofLe bs))
  | .scalar n true d true => .hx (Fin.ofNat 16 (d.val - 48)) ((BitVec.ofNat (8 * n) (ofLe bs)).signExtend 64)
  | .scalar _ false d true => .hx (Fin.ofNat 16 (d.val - 48)) (BitVec.ofNat 64 (ofLe bs))
  | .vector d => .v d (BitVec.ofNat 1024 (ofLe bs))

/-- The element addresses of a store, its element size and its bytes (R135, R137). -/
structure StorePlan where
  size : Nat
  eas : List Word
  data : Nat

/-- The stores of the mem slot (R134, R135, R137). -/
def State.storePlan (s : State) : Instr → Option StorePlan
  | .stB r a i => some { size := 1, eas := [s.x a + i.signExtend 64], data := (s.x r).toNat }
  | .stH r a i => some { size := 2, eas := [s.x a + i.signExtend 64], data := (s.x r).toNat }
  | .stW r a i => some { size := 4, eas := [s.x a + i.signExtend 64], data := (s.x r).toNat }
  | .stD r a i => some { size := 8, eas := [s.x a + i.signExtend 64], data := (s.x r).toNat }
  | .vst r a i => some { size := 128, eas := [s.x a + i.signExtend 64], data := (s.v r).toNat }
  | .vsts r a st i => some { size := 4, eas := (List.range 32).map (fun k =>
      s.x a + i.signExtend 64 + BitVec.ofNat 64 k * s.x st), data := (s.v r).toNat }
  | .vsct r a ix => some { size := 4, eas := (List.range 32).map (fun k =>
      s.x a + (BitVec.extractLsb' (32 * k) 32 (s.v ix)).signExtend 64), data := (s.v r).toNat }
  | _ => none

/-- The lanes of a store, each with its bytes: element k takes bytes k × size on of the data (R137). -/
def StorePlan.pieces (p : StorePlan) (ls : List (Nat × Nat)) : List (Nat × List Byte) :=
  ls.zipIdx.map (fun x => (x.1.1, leBytes p.size (p.data >>> (8 * p.size * x.2))))

/-- The cells of pieces of bytes. -/
def pieceCells (ps : List (Nat × List Byte)) : List Host.Cell := ps.flatMap (fun p => cellsAt p.1 p.2)

/-- No store node and no pending load node records a range of scratchpad (R178). -/
def State.noRanges (s : State) : Prop := s.core.mash.stores = [] ∧ ∀ n ∈ s.core.mash.nodes, n.pendingLoad = false

/-- No block of n bytes at an address bears a mark (R68). -/
def State.unmarked (s : State) (a n : Nat) : Prop := ∀ b ∈ blocksOf a n, lookupNat b s.marks = none

/-- The far pieces of a store as the cluster-remote store that goes out (R140). -/
def State.remoteStore (s : State) (n : Nat) (far : List (Nat × List Byte)) : RemAccess :=
  { id := s.core.nextAcc, store := true, lanes := far.map (fun p => (p.1, n)), data := far.flatMap Prod.snd,
    form := .scalar 1 false 0 false, performed := false, pc := s.core.pc, deps := s.core.eng.fences.map (fun f => f.id),
    handler := s.core.sys.hnd }

/-- The state after the far pieces of a store, if there are any, have gone out. -/
def State.sendFar (s : State) (n : Nat) (far : List (Nat × List Byte)) : State :=
  if far = [] then s
  else { s with core := { s.core with nextAcc := s.core.nextAcc + 1, remote := s.core.remote ++ [s.remoteStore n far] } }

/-- A taken trap, written out (R370): the results in flight are parked with their counts, the cause, FAULT.INFO and TRAP.PC are
saved, MODE.HND is set, and the pc is at TRAP.VEC + cause × 64; nothing else changes. -/
def State.entered (s : State) (cause : BitVec 6) (info : Word) : State :=
  { s with core := { s.core with
      late := s.core.flight, lateBusy := s.core.busy, lateFresh := s.core.fresh, flight := [], busy := Busy.none, fresh := [],
      done := [], due := 0, hold := .none, parked := s.core.hold, emul := none, issue := Issue.none,
      sys := { s.core.sys with fCause := cause, fInfo := info, trapPc := s.core.pc, hnd := true },
      pc := s.core.sys.trapVec + (if cause = Cause.featureMasked then Cause.illegalOpcode else cause).setWidth 48 * 64 } }

/-! ### The vec slot (R250 to R267) -/

/-- The state after a vec instruction of b beats has issued: the unit is busy for b positions, and the results are in flight;
nothing else changes (R51, R52). -/
def State.vecIssued (s : State) (b : Nat) (fs : List InFlight) : State :=
  { s with core := { s.core with flight := s.core.flight ++ fs, busy := { s.core.busy with vec := b } } }

/-- The bits that a lane mask governs: 32 of the 1,024 for each active lane (R251). -/
def activeBits (q : Word32) : VWord :=
  BitVec.ofNat 1024 ((List.range 32).foldl (fun m l => if q.getLsbD l then m + (2 ^ 32 - 1) <<< (32 * l) else m) 0)

/-- The results of a run: register i of it takes bits [1024 i + 1023 : 1024 i] where its lanes are active; with Z the other bits
become zero, without it they stay. All land together (R51, R251, R252). -/
def State.vecResults (s : State) (c : VCtl) (d : VReg) (lat : Nat) (bits : Nat) : List InFlight :=
  (List.range (c.beats.val + 1)).map (fun i =>
    fly (.vm (Fin.ofNat 32 (d.val + i)) (BitVec.ofNat 1024 (bits >>> (1024 * i)) &&& activeBits (s.q c.q))
      (if c.z then BitVec.allOnes 1024 else activeBits (s.q c.q))) (c.beats.val + lat))

/-- A vec instruction whose whole run takes the elements of a list. -/
def State.vecWrites (s : State) (c : VCtl) (d : VReg) (lat : Nat) (es : List Nat) : State :=
  s.vecIssued (c.beats.val + 1) (s.vecResults c d lat (packElems c.fmt.width es))

/-- An element from an exact result, and the value of an element (R194, R253). -/
def State.elemOf (s : State) (c : VCtl) (sat : Bool) (v : Num) : Nat :=
  (encodeElem c.fmt .rne sat s.ftz c.fmt.isInt SrKey.none v).bits

/-- The exact value of an element (R194). -/
def State.valOf (s : State) (c : VCtl) (x : Nat) : Num := decodeElem c.fmt s.ftz x

/-- The elements that the arithmetic of the vec slot writes, with its latency (R254, R259). -/
def State.vecArith (s : State) : Instr → Option (VCtl × VReg × Nat × List Nat)
  | .vadd c d a b sat => some (c, d, 2, List.zipWith (fun x y =>
      s.elemOf c sat ((s.valOf c x).add (s.valOf c y) false)) (s.vecIn c a) (s.vecIn c b))
  | .vsub c d a b sat => some (c, d, 2, List.zipWith (fun x y =>
      s.elemOf c sat ((s.valOf c x).add (s.valOf c y).negate false)) (s.vecIn c a) (s.vecIn c b))
  | .vmul c d a b sat => some (c, d, 4, List.zipWith (fun x y =>
      s.elemOf c sat ((s.valOf c x).mul (s.valOf c y))) (s.vecIn c a) (s.vecIn c b))
  | .vfma c d a b e => some (c, d, 4, List.zipWith (fun x (y : Nat × Nat) =>
      s.elemOf c false (((s.valOf c x).mul (s.valOf c y.1)).add (s.valOf c y.2) false))
      (s.vecIn c a) (List.zip (s.vecIn c b) (s.vecIn c e)))
  | .vfms c d a b e => some (c, d, 4, List.zipWith (fun x (y : Nat × Nat) =>
      s.elemOf c false (((s.valOf c x).mul (s.valOf c y.1)).add (s.valOf c y.2).negate false))
      (s.vecIn c a) (List.zip (s.vecIn c b) (s.vecIn c e)))
  | .vmin c d a b => some (c, d, 2, List.zipWith (fun x y =>
      s.elemOf c false ((s.valOf c x).minRule (s.valOf c y))) (s.vecIn c a) (s.vecIn c b))
  | .vmax c d a b => some (c, d, 2, List.zipWith (fun x y =>
      s.elemOf c false ((s.valOf c x).maxRule (s.valOf c y))) (s.vecIn c a) (s.vecIn c b))
  | .vabs c d a sat => some (c, d, 2, (s.vecIn c a).map (fun x => s.elemOf c sat (s.valOf c x).magnitude))
  | .vneg c d a sat => some (c, d, 2, (s.vecIn c a).map (fun x => s.elemOf c sat (s.valOf c x).negate))
  | .vfun c d a fn => some (c, d, 8, (s.vecIn c a).map (fun x =>
      s.elemOf c false (applyFun fn s.ftz (s.valOf c x)).1))
  | .vscn c d a => some (c, d, 6, s.vscnOf c a)
  | .viota c d => some (c, d, 2, (List.range (1024 / c.fmt.width * (c.beats.val + 1))).map (fun (e : Nat) =>
      s.elemOf c false (Num.ofInt e)))
  | _ => none

/-- Counter and key of a stochastic vcvt for element e, field by field (R258). -/
def State.cvtKey (s : State) (e : Nat) : SrKey :=
  { ctr := (s.lc 2).setWidth 16 ++ (s.lc 1).setWidth 16 ++ (s.lc 0).setWidth 16 ++ BitVec.ofNat 16 e,
    key := (s.core.sys.rndSeed.extractLsb' 32 32 ^^^ BitVec.ofNat 32 ((s.core.task.map (fun t => t.number)).getD 0) ^^^ 0x4000_0000#32) ++
      (s.core.sys.rndSeed.extractLsb' 0 32 ^^^ s.core.pc.extractLsb' 6 32) }

/-- The elements that vcvt converts (R257). -/
def cvtCount (c : VCtl) (t : Fmt) : Nat := (c.beats.val + 1) * 1024 / max c.fmt.width t.width

/-- The bits of the converted elements of the run at a register (R206, R207, R257). -/
def State.cvtElems (s : State) (c : VCtl) (a : VReg) (t : Fmt) (r : Rnd) (sat : Bool) : List Nat :=
  (List.range (cvtCount c t)).map (fun e =>
    let x := s.run a ((cvtCount c t * c.fmt.width + 1023) / 1024) / 2 ^ (c.fmt.width * e) % 2 ^ c.fmt.width
    if c.fmt = t then x else (encodeElem t r sat s.ftz c.fmt.isInt (s.cvtKey e) (decodeElem c.fmt s.ftz x)).bits)

/-- The bits that vcvt writes of register i of its destination run: elements below the count in active lanes (R251, R257). -/
def State.cvtBits (s : State) (c : VCtl) (t : Fmt) (i : Nat) : VWord :=
  activeBits (s.q c.q) &&& lowBits (cvtCount c t * t.width - 1024 * i)

/-- The bits of the run that the bitwise operations, vmov and vsel write, from the bits of their operands' runs (R254, R256). -/
def State.vecRunBits (s : State) : Instr → Option (VCtl × VReg × Nat)
  | .vand c d a b => some (c, d, s.run a (c.beats.val + 1) &&& s.run b (c.beats.val + 1))
  | .vor c d a b => some (c, d, s.run a (c.beats.val + 1) ||| s.run b (c.beats.val + 1))
  | .vxor c d a b => some (c, d, s.run a (c.beats.val + 1) ^^^ s.run b (c.beats.val + 1))
  | .vmov c d a => some (c, d, s.run a (c.beats.val + 1))
  | _ => none

/-- The elements that shifts, selections, broadcasts and literals write (R254, R256, R265, R266). -/
def State.vecElemBits (s : State) : Instr → Option (VCtl × VReg × List Nat)
  | .vshl c d a b => some (c, d, List.zipWith (fun x y => x * 2 ^ (y % c.fmt.width) % 2 ^ c.fmt.width)
      (s.vecIn c a) (s.vecIn c b))
  | .vshr c d a b => some (c, d, List.zipWith (fun x y => x / 2 ^ (y % c.fmt.width)) (s.vecIn c a) (s.vecIn c b))
  | .vsra c d a b => some (c, d, List.zipWith (fun x y =>
      ((BitVec.ofNat c.fmt.width x).sshiftRight (y % c.fmt.width)).toNat) (s.vecIn c a) (s.vecIn c b))
  | .vsel c d a b qs => some (c, d, (List.range (1024 / c.fmt.width * (c.beats.val + 1))).map (fun e =>
      if activeAt (s.q qs) c.fmt.width e then (s.vecIn c a)[e]?.getD 0 else (s.vecIn c b)[e]?.getD 0))
  | .vbcs c d r => some (c, d, List.replicate (1024 / c.fmt.width * (c.beats.val + 1))
      ((s.x r).toNat % 2 ^ c.fmt.width))
  | .vlit c d _ v => some (c, d, List.replicate (1024 / c.fmt.width * (c.beats.val + 1)) (v.toNat % 2 ^ c.fmt.width))
  | _ => none

/-- An instruction needs the vector unit (R52): every vec instruction but nop. -/
def needsVec (i : Instr) : Bool := i.fits .vec && (i != .nop)

/-! ### The tile slots -/

/-- The handles, operation, tag and mode of the node that a tile instruction appends, with what its shape and format checks
find (R231 to R249, R160). -/
def State.appendPlan (s : State) : Instr → Option (Nat × BitVec 8 × (List Tag → Build))
  | .tmma m => some (2, 0x10, buildMma (s.nodeMode m) false)
  | .tmmaD m => some (2, 0x10, buildMma (s.nodeMode m) true)
  | .tmac m => some (3, 0x11, buildMac (s.nodeMode m) false)
  | .tmacD m => some (3, 0x11, buildMac (s.nodeMode m) true)
  | .tadd m => some (2, 0x12, buildEw (s.nodeMode m) .add false)
  | .taddD m => some (2, 0x12, buildEw (s.nodeMode m) .add true)
  | .tsub m => some (2, 0x13, buildEw (s.nodeMode m) .sub false)
  | .tmul m => some (2, 0x14, buildEw (s.nodeMode m) .mul false)
  | .tmax m => some (2, 0x15, buildEw (s.nodeMode m) .max false)
  | .tmin m => some (2, 0x16, buildEw (s.nodeMode m) .min false)
  | .tscl m xs int => some (1, 0x17, buildAs (s.nodeMode m) (.scl ((s.x xs).setWidth 32) int) (fun _ => true))
  | .tbia m fn => some (2, 0x18, buildBia (s.nodeMode m) fn)
  | .tfun m fn => some (1, 0x19, buildAs (s.nodeMode m) (.fn fn) (fun f => !f.isInt))
  | .tred m op cols => some (1, 0x1A, buildRed (s.nodeMode m) op cols)
  | .tsmx m => some (1, 0x1B, buildAs (s.nodeMode m) .smx (fun f => !f.isInt))
  | .ttrn m => some (1, 0x1C, buildTrn (s.nodeMode m))
  | .tcvt m => some (1, 0x1D, buildAs (s.nodeMode m) .cvt (fun _ => true))
  | .tslc m xs => some (1, 0x1E, buildSlc (s.nodeMode m) (s.x xs))
  | .tcat m cols => some (2, 0x1F, buildCat (s.nodeMode m) cols)
  | .tbcs m xs => some (1, 0x20, buildBcs (s.nodeMode m) (s.x xs))
  | .tmsk m xv => some (2, 0x21, buildMsk (s.nodeMode m) (xv.map (fun r => s.x r)))
  | .tchk => some (2, 0x22, buildChk)
  | .tzer f xs => some (0, 0x02, fun _ => buildConst f (s.x xs) { bits := 0, aux := 0, mark := none } true)
  | .tfil f xs xv => some (0, 0x03, fun _ => buildConst f (s.x xs) { bits := fillBits f (s.x xv), aux := 0, mark := none }
      (!f.isBlock && !f.isScaled))
  | _ => none

/-- The stack effect of the six stack instructions on the handles, top first: entries needed, entries gained, the new stack
(R162). -/
def stackPlan : Instr → Option (Nat × Nat × (List Nat → List Nat))
  | .tdup => some (1, 1, fun sp => sp.take 1 ++ sp)
  | .tdrp => some (1, 0, fun sp => sp.drop 1)
  | .tswp => some (2, 0, fun sp => (sp.drop 1).take 1 ++ sp.take 1 ++ sp.drop 2)
  | .tpk n => some (n.val + 1, 1, fun sp => (sp.drop n.val).take 1 ++ sp)
  | .trot n => some (n.val + 1, 0, fun sp => (sp.drop n.val).take 1 ++ sp.take n.val ++ sp.drop (n.val + 1))
  | .trtd n => some (n.val + 1, 0, fun sp => (sp.drop 1).take n.val ++ sp.take 1 ++ sp.drop (n.val + 1))
  | _ => none

/-- The parts of a state that a tile instruction leaves alone: all but the focused core, and of it all but the Mash. -/
def State.tileFrame (s t : State) : Prop :=
  t.mem = s.mem ∧ t.marks = s.marks ∧ t.others = s.others ∧ t.ctxs = s.ctxs ∧ t.l2 = s.l2 ∧ t.launch = s.launch ∧
    t.ports = s.ports ∧ t.fabric = s.fabric ∧ t.malt = s.malt ∧ t.podTime = s.podTime ∧
    t.core = { s.core with mash := t.core.mash }

/-! ### The copy slot -/

/-- A copy command of the issuing slot enters the engine, last in stream order; nothing else changes (R93). -/
def State.withCmd (s : State) (op : CmdOp) (flag : Option FlagNo) (cls : Nat) (x : Bool) : State :=
  { s with core := { s.core with eng := { s.core.eng with
      cmds := s.core.eng.cmds ++ [s.newCmd op flag cls x], nextId := s.core.eng.nextId + 1 } } }

/-- A gated command of the issuing slot takes a place of the store gate; nothing else changes (R98). -/
def State.withGated (s : State) (op : CmdOp) (flag : Option FlagNo) (cls : Nat) (x : Bool) : State :=
  { s with core := { s.core with gateCmds := s.core.gateCmds ++ [s.newCmd op flag cls x],
                                 eng := { s.core.eng with nextId := s.core.eng.nextId + 1 } } }

/-- n bytes at an address of the own scratchpad that a copy or tile slot may read: inside it, aligned, outside the spill regions,
and in no pending store range (R93, R158, R179). -/
def State.blockAt (s : State) (w : Word) (align n : Nat) : Prop :=
  w.toNat + n ≤ 2 ^ 22 ∧ w.toNat < 2 ^ 22 ∧ w.toNat % align = 0 ∧ s.core.inSpill w.toNat n = false ∧ s.core.mash.stores = []

/-- The read of n bytes of control data at an address of the own scratchpad: the state that has met the errors of its blocks, which
is the state before where no block bears a mark (R67, R68, R130), and the bytes. -/
def State.block (s : State) (w : Word) (n : Nat) : State × List Byte := s.controlBefore (spadBase s.cur + w.toNat) n

/-- A stream descriptor stands at an address (R93, R100). -/
def State.descAt (s : State) (u : DescUse) (w : Word) (d : Desc) : Prop :=
  s.blockAt w 64 128 ∧ parseDesc u (s.block w 128).2 = .ok d

/-- The state that has read a stream descriptor. -/
def State.descRead (s : State) (w : Word) : State := (s.block w 128).1

/-- The read of an index list of n entries behind that of the descriptor (R106). -/
def State.listRead (s : State) (a b : Word) (n : Nat) : State × List Byte :=
  (s.descRead a).controlNow (spadBase s.cur + b.toNat) (4 * n)

/-- The entries of the index list of a gather. -/
def Desc.listLen (d : Desc) : Nat := if d.total = 0 then 0 else (d.dims.getLastD ⟨0, 0, 0⟩).count

/-- The tile format of a tld (R166): an explicit code, or that of a format-table entry; none for an index above 63. -/
def State.tileFmt (s : State) (f : TldFmt) (b : Tab) : Option Fmt :=
  match f with
  | .code c => some c
  | .table k => (s.fmtEntry b.ftbase k).map (fun e => (entryMode e).fmt)

/-- The plain commands of the copy slot (R105, R115, R118): the state that has read what their registers name, flag, class, X bit and
operation, where the blocks hold what they need. -/
inductive EntersAs (s : State) : Instr → State → CmdOp → Option FlagNo → Nat → Bool → Prop where
  | scpy (a f c x d) (h : s.descAt .scpy (s.x a) d) :
      EntersAs s (.scpy a f c x) (s.descRead (s.x a)) (.scpy d) f c.val x
  | sgth (a b f c x d) (h : s.descAt .sgth (s.x a) d) (l : s.blockAt (s.x b) 4 (4 * d.listLen)) :
      EntersAs s (.sgth a b f c x) (s.listRead (s.x a) (s.x b) d.listLen).1
        (.sgth d ((List.range d.listLen).map (fun k =>
          sgn 32 (ofLe (((s.listRead (s.x a) (s.x b) d.listLen).2.drop (4 * k)).take 4))))) f c.val x
  | sbar (a b f) : EntersAs s (.sbar a b f) s (.sbar a b) f 0 false
  | l2wb (a f d) (h : s.descAt .l2 (s.x a) d) : EntersAs s (.l2wb a f) (s.descRead (s.x a)) (.l2wb d) f 0 false
  | l2inv (a f d) (h : s.descAt .l2 (s.x a) d) : EntersAs s (.l2inv a f) (s.descRead (s.x a)) (.l2inv d) f 0 false
  | l2pf (a r f d) (h : s.descAt .l2 (s.x a) d) : EntersAs s (.l2pf a r f) (s.descRead (s.x a)) (.l2pf d r) f 0 false

/-- The operation of a satm instruction with its register, flag and class (R110). -/
def satmPlan : Instr → Option (SatmOp × XReg × Option FlagNo × Fin 4)
  | .satmFadd a f c => some (.fadd, a, f, c)
  | .satmFmin a f c => some (.fmin, a, f, c)
  | .satmFmax a f c => some (.fmax, a, f, c)
  | .satmSwap a f c => some (.swap, a, f, c)
  | .satmCas a f c => some (.cas, a, f, c)
  | .satmIadd a f c => some (.iadd, a, f, c)
  | .satmAnd a f c => some (.and, a, f, c)
  | .satmOr a f c => some (.or, a, f, c)
  | .satmXor a f c => some (.xor, a, f, c)
  | _ => none

/-- The 48 bytes of the atomic block that a register names. -/
def State.atomBytes (s : State) (a : XReg) : List Byte := (s.block (s.x a) 48).2

/-- The RESULT field of an atomic block (R109). -/
def resultField (bs : List Byte) : Nat := ofLe ((bs.drop 0x20).take 4)

/-- The gated commands of the copy slot (R107, R109, R113): the state that has read what their register names, and what enters the gate
where the checks of step 10 pass. -/
inductive GatesAs (s : State) : Instr → State → CmdOp → Option FlagNo → Nat → Bool → Prop where
  | sacc (a f c x d) (h : s.descAt .sacc (s.x a) d)
      (r : s.replaySafe = true → d.dst.kind = 3 ∧ d.pkg ≠ s.fabric.self) :
      GatesAs s (.sacc a f c x) (s.descRead (s.x a)) (.sacc (SaccOp.ofNat d.subop) d) f c.val x
  | satm (i op a f c b) (p : satmPlan i = some (op, a, f, c)) (h : s.blockAt (s.x a) 16 48)
      (k : parseAtom op (s.atomBytes a) (fun r => s.core.inSpill r 16) = .ok b)
      (r : s.replaySafe = true → b.kind = 3 ∧ b.pkg ≠ s.fabric.self) :
      GatesAs s i (s.block (s.x a) 48).1 (.satm op b) f c.val false
  | ssig (a b f c x core k pkg) (h : sigTarget (s.x a) = some (core, k, pkg))
      (r : s.replaySafe = true → s.sigPkg pkg ≠ s.fabric.self) :
      GatesAs s (.ssig a b f c x) s (.ssig core k (s.sigPkg pkg) ((s.x b).setWidth 32) none) f c.val x
  | ssigRel (a b f c x sc core k pkg) (h : sigTarget (s.x a) = some (core, k, pkg))
      (r : s.replaySafe = true → s.sigPkg pkg ≠ s.fabric.self) :
      GatesAs s (.ssigRel a b f c x sc) s (.ssig core k (s.sigPkg pkg) ((s.x b).setWidth 32) (some sc)) f c.val x

/-! ### The ctl slot -/

/-- The bundle's transfer is taken to a target; nothing else changes (R280). -/
def State.takes (s : State) (target : CodeAddr) : State :=
  { s with core := { s.core with issue := { s.core.issue with taken := some target } } }

/-- The focused core is held; nothing else changes. -/
def State.held (s : State) (h : Hold) : State := { s with core := { s.core with hold := h } }

/-- The focused core is held for the ctl slot of a bundle: behind the drain or fence of its copy slot, where it has one (R42,
R116, R117). -/
def State.heldNext (s : State) (h : Hold) : State :=
  s.held (match s.core.hold with
    | .drain k sc f _ => .drain k sc f h
    | _ => h)

/-- An invalidation of the issuing slot is under way; nothing else changes (R289, R290). -/
def State.withInval (s : State) (code : Option (Nat × Nat)) (kind : InvKind) (sc : Scope) (flag : Option FlagNo) : State :=
  { s with core := { s.core with eng := { s.core.eng with
      invals := s.core.eng.invals ++ [{ id := s.core.eng.nextId, code := code, kind := kind, scope := sc, flag := flag,
                                        seg := s.core.seg, committed := false,
                                        ctx := s.ctxNo }],
      nextId := s.core.eng.nextId + 1 } } }

/-! ### Traps -/

/-- The core has stopped on a fault in handler mode, and the kernel is told that its step failed (R350, R372). -/
def State.stoppedOn (s : State) (cause : BitVec 6) : State :=
  { s with core := { s.core with run := .stopped, hold := .none, parked := .none },
           malt := { s.malt with reports := s.malt.reports ++ [.stepFailed s.cur cause] } }

/-- What every trap leaves, whatever accesses were still out: the saved registers, handler mode, the pc at the entry, and the
program's registers as they were (R370). -/
def State.trapped (s t : State) (cause : BitVec 6) (info : Word) : Prop :=
  t.core.sys = { s.core.sys with fCause := cause, fInfo := info, trapPc := s.core.pc, hnd := true } ∧
  t.core.pc = s.core.sys.trapVec + (if cause = Cause.featureMasked then Cause.illegalOpcode else cause).setWidth 48 * 64 ∧
  t.core.regs = s.core.regs ∧ t.core.flight = [] ∧ t.core.lateBusy = s.core.busy ∧ t.core.mash = s.core.mash ∧
  t.core.gate = s.core.gate

/-- The event of a core comes at a bundle boundary of a running core in program mode, with no access out and nothing that
holds it but what it waits for (R369, R373). -/
def State.quiet (s : State) : Prop :=
  s.core.run = .running ∧ s.core.due = 0 ∧ s.core.sys.hnd = false ∧ s.core.remote = [] ∧ s.core.awaitsData = false ∧
    s.core.entering = false

/-! ### Events -/

/-- The focused core is at a bundle boundary, with nothing that holds it. -/
def State.atRest (s : State) : Prop := s.core.run = .running ∧ s.core.due = 0 ∧ s.core.hold = .none

/-- Materialised values, in the order of their age, whose depth satisfies a test (R155). -/
def Core.materialised (c : Core) (p : Option Nat → Bool) : List TileNode :=
  c.mash.nodes.filter (fun n => !n.vals.isEmpty && p (c.mash.spine.findIdx? (fun e => e == n.id)))

/-- The storage class that the depth of a value gives it (R155 to R157); the values of no depth take the slots that these
leave, head slots first, the oldest value first (the model's choice, log entry 70). -/
def Core.placeOf (c : Core) (id : Nat) : ValueLoc :=
  let win := c.sys.stk.win.toNat
  let spill := c.sys.stk.spillSlots.toNat
  match c.mash.spine.findIdx? (fun e => e == id) with
  | some d => if d < win then .head else if d < win + spill then .spill else .l2
  | none =>
    let heads := 32 - (c.materialised (fun d => d.any (fun d => decide (d < win)))).length
    let spills := spill - (c.materialised (fun d => d.any (fun d => decide (win ≤ d ∧ d < win + spill)))).length
    let older := ((c.materialised Option.isNone).filter (fun n => decide (n.id < id))).length
    if older < heads then .head else if older < heads + spills then .spill else .l2

/-- A node for a constant of which nothing is computed yet, in a format without blocks. -/
def TileNode.freshConst (n : TileNode) (e : Elem) : Prop :=
  n.op = .const e ∧ n.st = .live ∧ n.retired = false ∧ n.vals = [] ∧ n.drows = [] ∧ n.dcols = [] ∧ n.tag.fmt.isBlock = false

/-- The exact value of element (r, c) of a materialised operand, where it bears no mark (R171, R232). -/
def Mash.given (m : Mash) (id : Nat) (ftz : Bool) (r c : Nat) : Option Num :=
  match m.node? id with
  | none => none
  | some o =>
    if o.retired && decide (o.st = .live) then
      match o.val? r c with
      | some e => if e.mark = none then some (decodeAux o.tag.fmt ftz e.bits e.aux) else none
      | none => none
    else none

/-- The element of an operand that element (i, j) of an elementwise result reads: row or column 0 of an extent 1 (R174, R233). -/
def Tag.spread (t : Tag) (i j : Nat) : Nat × Nat := (if t.rows = 1 then 0 else i, if t.cols = 1 then 0 else j)

/-- The exact result of an elementwise instruction (R237); z makes the sum of opposite values −0. -/
def EwOp.exact (o : EwOp) (z : Bool) (a b : Num) : Num :=
  match o with
  | .add => a.add b z
  | .sub => a.add b.negate z
  | .mul => a.mul b
  | .max => a.maxRule b
  | .min => a.minRule b

/-- The first blks blocks of 16 terms of a floating dot product over K terms, from +0 (R216). -/
def dotFp (sat ftz : Bool) (p : Nat → Num) (K : Nat) : Nat → Num
  | 0 => .zero false
  | blks + 1 =>
    (accStep { sat := sat, ftz := ftz } (dotFp sat ftz p K blks)
      (blockSum ((List.range (min 16 (K - 16 * blks))).map (fun k => p (16 * blks + k))))).1

/-- The first blks blocks of 16 terms of an integer dot product over K terms (R218). -/
def dotInt (sat : Bool) (p : Nat → Int) (K : Nat) : Nat → Int
  | 0 => 0
  | blks + 1 =>
    let t := dotInt sat p K blks + ((List.range (min 16 (K - 16 * blks))).map (fun k => p (16 * blks + k))).sum
    if -2 ^ 31 ≤ t ∧ t < 2 ^ 31 then t
    else if sat then (if t < 0 then -2 ^ 31 else 2 ^ 31 - 1)
    else (BitVec.ofInt 32 t).toInt

/-- The bits of an exact result in the output format of its node (R228, R232). -/
def TileNode.encoded (n : TileNode) (i j : Nat) (int : Bool) (v : Num) : Elem :=
  { bits := (encodeElem n.tag.fmt n.mode.rnd n.mode.sat n.mode.ftz int (srKeyAt n.srCtr n.srKey i j) v).bits, aux := 0, mark := none }

/-- The core's one demand is of element (i, j) of a node of which nothing is computed yet, in a format whose elements stand alone. -/
structure State.demands (s : State) (d : Demand) (n : TileNode) (i j : Nat) : Prop where
  noFault : s.core.faultOf d.handler = none
  one : s.core.mash.demands = [d]
  noFlag : d.flag = none
  isNode : s.core.mash.node? d.node = some n
  onSpine : d.node ∈ s.core.mash.spine
  live : n.st = .live
  notRetired : n.retired = false
  untouched : n.vals = [] ∧ n.drows = [] ∧ n.dcols = []
  plain : n.tag.fmt.isBlock = false ∧ n.tag.fmt.isScaled = false
  inRows : i < n.tag.rows
  inCols : j < n.tag.cols
  region : d.region = { r0 := i, r1 := i, c0 := j, c1 := j }

/-- Evaluation answers the demand with this element, and leaves memory and the registers as they are. -/
def State.evaluatesTo (s : State) (d : Demand) (i j : Nat) (e : Elem) : Prop :=
  ∃ t m, exec .demandEvaluation s = .next t ∧ t.core.mash.demands = [] ∧ t.core.faultOf d.handler = none ∧ t.mem = s.mem ∧
    t.core.regs = s.core.regs ∧ t.core.mash.node? d.node = some m ∧ m.val? i j = some e

/-- Evaluation of a duplicate form meets a difference, which becomes the fault of its demand (R187, R184). -/
def State.mismatches (s : State) (d : Demand) (n : TileNode) : Prop :=
  ∃ t g, exec .demandEvaluation s = .next t ∧ t.core.mash.demands = [d] ∧ t.core.faultOf d.handler = some g ∧
    g.what = .cause Cause.silentMismatch (BitVec.ofNat 64 n.origin.slot) ∧ t.mem = s.mem ∧ t.core.regs = s.core.regs

/-- A load node reads element (i, j) of its source at row r and column c of a scratchpad block. -/
structure TileNode.loadsFrom (n : TileNode) (a : TileAccess) (f : Fmt) (flat i j r c : Nat) : Prop where
  isLoad : n.op = .load a
  unread : n.after = [] ∧ n.sectors = [] ∧ n.raw = [] ∧ n.pinned = []
  place : a.place = .spad flat
  memFmt : a.mfmt = some f
  plain : f.isBlock = false ∧ f.isScaled = false
  row : a.row + ((if a.tr then j else i : Nat) : Int) = (r : Int)
  col : a.col + ((if a.tr then i else j : Nat) : Int) = (c : Int)

/-- The flag of a completed piece of work is set, where it has one (R95, R191, R192). -/
def Regs.flagged (r : Regs) (k : Option FlagNo) : Regs :=
  match k with
  | some k => { r with f := r.f.set k true }
  | none => r

/-- No write of a counter is in flight or parked. -/
def State.noWriteOf (s : State) (k : CtrNo) : Prop :=
  ∀ e ∈ s.core.flight ++ s.core.late, (∀ v, e.what ≠ .ctr k v) ∧ ∀ n, e.what ≠ .cset k n

/-- A trap of the kernel that the core has been given: no rollback and no page fault comes before it (R373). -/
def State.takesKernel (s : State) (cause : BitVec 6) (info : Word) : Prop :=
  s.core.kTraps = [] ∧ ({ s with core := { s.core with kTraps := [(cause, info)] } } : State).rollbackDue = false

/-- The focused core is held, and its next step goes on with that hold: nothing else is under way, and no event comes first
(R373). -/
structure State.holding (s : State) (h : Hold) : Prop where
  on : s.off = false
  noAgenda : s.agenda = []
  still : s.progress = s
  running : s.core.run = .running
  boundary : s.core.due = 0
  isHeld : s.core.hold = h
  noEval : s.core.evalDue = false
  noCmd : s.core.faultedCmd = none
  noKernel : s.core.kTraps = []
  stays : s.preemptDue = false

/-- A counter has taken an increment modulo 2^32, and the flag of its threshold is set where it is reached (R113, R277). -/
def Regs.added (r : Regs) (k : CtrNo) (n : Word32) : Regs :=
  { r with c := r.c.set k (r.c[k] + n) }.compared k

/-- A signal that arrives at the focused core of its context finds it live there (R114). -/
def State.liveHere (s : State) (ctx core : Nat) : Prop :=
  core = s.cur ∧ s.core.run ≠ .outOfService ∧ (s.core.task.isSome → s.core.sys.ctxId.toNat = ctx) ∧
    ∃ x, s.ctx? ctx = some x ∧ s.cur ∈ x.cores ∧ x.saved = []

/-- An operation of the focused core's step is out toward an owner, for its one command (R122, R125). -/
structure State.outOp (s : State) (ctx owner serial : Nat) (c : Ctx) (w : OwnerSt) (o : RemOp) (k : Cmd) : Prop where
  isCtx : s.ctx? ctx = some c
  noneSaved : c.saved = []
  isSide : s.side ctx owner = w
  isOwner : w.owner = owner
  oneOp : w.ops = [o]
  isSerial : o.serial = serial
  isOpen : o.completed = false
  isSent : 0 < o.tries
  ofCore : o.core = s.cur
  ofCmd : o.cmd = k.id
  oneCmd : s.core.eng.cmds = [k]
  isKept : k.discard = false

/-- No request waits at a port for a frame, and no access of the host (R81, R83). -/
def State.portsIdle (s : State) : Prop := (∀ p ∈ s.ports.toList, p.waiting = []) ∧ s.malt.hostWaiting = []

/-- An answer of the SPDM responder (R397). -/
def State.answers (s : State) (a : SpdmAnswer) : State := { s with malt := { s.malt with spdm := s.malt.spdm ++ [a] } }

/-- The answer to a request, with the acknowledgement of the context's own side toward the package that asks (R122, R123). -/
def State.replyTo (s : State) (r : RemReq) (inc : Nat) (b : RepBody) : Packet :=
  .reply { ack := (s.side r.ctx r.pkg).acked, owner := s.fabric.self, pkg := r.pkg, ctx := r.ctx, serial := r.serial, inc := inc,
           tag := r.tag, body := b }

/-- The pieces in which a code section at an address is written: its bundles in their order, and the icinv over it (R394). -/
def codeLoads (ctx base : Nat) (bs : List Byte) : List LoadPiece :=
  (List.range (bs.length / 64)).map (fun k =>
    .code ctx (base + 64 * k) (BitVec.ofNat 512 (ofLe ((bs.drop (64 * k)).take 64)))) ++ [.inval base (base + bs.length)]

/-- A packet is put on the fabric. -/
def State.sends (s : State) (p : Packet) : State := { s with fabric := { s.fabric with sent := s.fabric.sent ++ [p] } }

end Sys2Proof.Machine
end

