-- ==== Sys2Proof/Certificates/Slice0/Obligations.lean ====
section
/-! DEFINITION. The statements for the provers. Each docstring names the rules of spec/ that it rests on. -/

open Sys2Proof Sys2Proof.Machine

/-! ### Encoding, decoding and the step -/

/-- (R56 to R63) The decoder of a slot gives back each well-formed instruction of the alu, mem and ctl slots from the
word and the pool words that the encoder writes. -/
def Obligations.ScalarSlotsRoundTrip : Prop :=
  ∀ (i : Instr) (k : SlotKind), k = .alu ∨ k = .mem ∨ k = .ctl → i.wf = true → i.fits k = true →
    decodeKind k (encode i).poolWords (encode i).word = .ok i

/-- (R60, R61, R62) The same of the vec, tile and copy slots. -/
def Obligations.DataSlotsRoundTrip : Prop :=
  ∀ (i : Instr) (k : SlotKind), k = .vec ∨ k = .tile ∨ k = .copy → i.wf = true → i.fits k = true →
    decodeKind k (encode i).poolWords (encode i).word = .ok i

/-- (spec/11 R268 to R272, spec/03 R58, spec/07 R162, spec/11 R280, R291) Words written out in the spec decode to what the
spec says that they encode. -/
def Obligations.SpecWordsDecode : Prop :=
  decodeKind .alu ⟨0, 0, 0, 0⟩ 0x6800218802 = .ok (.cmp .lt 1 3 4) ∧
  decodeKind .tile ⟨0, 0, 0, 0⟩ 0x0700000003 = .ok (.tpk 3) ∧
  decodeKind .tile ⟨0, 0, 0, 0⟩ 0x0800000002 = .ok (.trot 2) ∧
  decodeKind .tile ⟨0, 0, 0, 0⟩ 0x0500000000 = .ok .tdrp ∧
  decodeKind .ctl ⟨0, 0, 0, 0⟩ 0x1700008080 = .ok (.mode 0x80 0x80)

/-- Every instruction that a slot holds acts by itself as its effect in a slot: the effect's state, the fault it raises, or
its stall. That an instruction acts by itself, as its effect at the issue of its slot, is the model's choice (DESIGN CHOICE, log
entry 22). -/
def Obligations.ExecSettlesSlotEffect : Prop :=
  ∀ (i : Instr) (s : State), i.inSlot = true → exec i s = settle s (slotEff i s)

/-- A package that is held in reset or shut down does not step; in every other state a step answers a next state. -/
def Obligations.StepStopsOnlyWhenOff : Prop :=
  ∀ s : State,
    (s.off = true → step s = .fault .packageOff) ∧
    (s.off = false → ∃ t, step s = .next t)

/-- The head of the agenda is the next action: its pod time passes, the acts of the Maltings beside it happen, its core has the
focus, and step is exec of it; an instruction of a slot stands in bundles only, nothing of the kernel comes before the kernel runs
(R396), and such an item only passes its time. With no task resident and no slot reserved, nothing else of the state changes before the
action. That actions come from an agenda, that an item of a slot only passes its time and that pod time goes by with the agenda
are the model's choices (DESIGN CHOICE, log entries 1, 22 and 10), and so is that an item of the kernel before the kernel runs has no
effect and only passes its time (DESIGN CHOICE, log entry 47). -/
def Obligations.StepRunsAgendaHead : Prop :=
  ∀ (s : State) (a : AgendaItem) (rest : List AgendaItem),
    s.off = false → s.agenda = a :: rest →
    step s = (if a.act.inSlot = true ∨ kernelEvent a.act = true ∧ s.malt.root.started = false then .next (s.begin a rest)
      else exec a.act (s.begin a rest)) ∧
    (s.fabric.reservations = [] → s.launch.resident = [] →
      s.begin a rest = (a.outer.foldl State.outerUp ({ s with agenda := rest, podTime := s.podTime + BitVec.ofNat 64 a.dt,
                                                              launch := { s.launch with quiet := [] } } : State)).focus a.core)

/-- With nothing on the agenda and no other agent at work, a core at a boundary with no hold, no pending fault, late trap or
pre-emption whose bundle issues steps by BUNDLE_ISSUE, and the state after the bundle is the next state; the core no longer
counts as one that holds still (R353). -/
def Obligations.StepIssuesBundle : Prop :=
  ∀ s t : State, s.off = false → s.agenda = [] → s.progress = s → s.core.run = .running → s.core.due = 0 →
    s.core.hold = .none → s.core.evalDue = false → s.core.faultedCmd = none → s.core.kTraps = [] → s.core.lateTraps = [] →
    s.preemptDue = false → s.unquiet.tryBundle = .issued t →
    step s = exec .bundleIssue s.unquiet ∧ step s = .next t

/-- (R39, R41, R45 to R47) A bundle that is fetched, has its flags and holds one instruction whose guard is true runs the decoded
instruction's effect in its slot, and the sequencer goes on from its address. -/
def Obligations.BundleRunsDecodedInstruction : Prop :=
  ∀ (s f t : State) (w : Nat) (b : Bundle) (i : SlotInstr),
    s.core.run = .running → s.core.due = 0 → s.core.hold = .none → s.fetch = (f, .word w) →
    f.core.regs.synced w = true → decodeBundle w = .ok b → b.slots = [i] → f.staticRaise b = none →
    f.core.sys.modeBits.getLsbD 7 = false → (f.issuing w i).guard i = true →
    i.op.inSlot = true → slotEff i.op (f.issuing w i) = .ok t → t.core.flight.length ≤ 64 →
    exec i.op (f.issuing w i) = .next t ∧
    exec .bundleIssue s = .next { t with core := t.core.afterBundle f.core.pc }

/-- (R47) A slot whose guard is false writes nothing and raises nothing at steps 9 to 12 of R46: the bundle passes. -/
def Obligations.FalseGuardHasNoEffect : Prop :=
  ∀ (s f : State) (w : Nat) (b : Bundle) (i : SlotInstr),
    s.core.run = .running → s.core.due = 0 → s.core.hold = .none → s.fetch = (f, .word w) →
    f.core.regs.synced w = true → decodeBundle w = .ok b → b.slots = [i] → f.staticRaise b = none →
    f.core.sys.modeBits.getLsbD 7 = false → (f.issuing w i).guard i = false → f.core.flight.length ≤ 64 →
    exec .bundleIssue s = .next { f.issuing w i with core := (f.issuing w i).core.afterBundle f.core.pc }

/-- (R49, R53, R281, R282) After a bundle whose transfer is taken two bubbles stand before the target, which issues at the third
position; after any other bundle, a loop body's last included, the next one issues at the next position. -/
def Obligations.TransferBubbles : Prop :=
  ∀ (c : Core) (pc : CodeAddr),
    (∀ t, c.issue.taken = some t → (c.afterBundle pc).pc = t ∧ (c.afterBundle pc).due = 3 ∧
      (c.afterBundle pc).loops = c.loops) ∧
    (c.issue.taken = none → (c.afterBundle pc).due = 1) ∧
    (c.issue.taken = none → (∀ e ∈ c.loops.head?, e.last ≠ pc) →
      (c.afterBundle pc).pc = pc + 64 ∧ (c.afterBundle pc).loops = c.loops) ∧
    (∀ (e : LoopEntry) (rest : List LoopEntry), c.issue.taken = none → c.loops = e :: rest → e.last = pc →
      e.index.toNat + 1 < e.count.toNat →
      (c.afterBundle pc).pc = e.first ∧ (c.afterBundle pc).loops = { e with index := e.index + 1 } :: rest) ∧
    (∀ e : LoopEntry, c.issue.taken = none → c.loops = [e] → e.last = pc → e.count.toNat ≤ e.index.toNat + 1 →
      (c.afterBundle pc).pc = pc + 64 ∧ (c.afterBundle pc).loops = [])

/-! ### The invariant, memory and reset -/

/-- Whatever a step or an action does, the memory keeps its canonical form: addresses strictly rising, no entry equal to
what an unlisted address reads as. -/
def Obligations.EveryStepKeepsCanonicalMemory : Prop :=
  (∀ s t : State, s.Inv → step s = .next t → t.Inv) ∧
  (∀ (i : Instr) (s t : State), s.Inv → exec i s = .next t → t.Inv)

/-- The memory at reset is canonical. -/
def Obligations.ResetMemoryCanonical : Prop := State.reset.Inv

/-- Canonical memories that read the same at every address are equal: no two states differ in memory alone without a byte
that tells them apart. -/
def Obligations.CanonicalMemoryIsDetermined : Prop :=
  ∀ m n : Memory, m.wf = true → n.wf = true → (∀ a, m.read a = n.read a) → m = n

/-- (R153, R170, R205, R220, R277, R291 to R294) What mfs reads of a core right after reset. Values of the other registers are the
model's choice (DESIGN CHOICE, log entry 3), and none is stated here. -/
def Obligations.ResetSystemRegisters : Prop :=
  (∀ k, State.reset.sysRead (.cntT k) = 0xFFFF_FFFF) ∧ (∀ n, State.reset.sysRead (.fmt n) = 0x0F) ∧
  (∀ n, State.reset.sysRead (.rsv n) = 0) ∧ State.reset.sysRead .mode = 0 ∧ State.reset.sysRead .slack = 0 ∧
  State.reset.sysRead .rndSeed = 0 ∧ State.reset.sysRead .faultCause = 0 ∧ State.reset.sysRead .faultInfo = 0 ∧
  State.reset.sysRead .faultOrigin = 0 ∧ State.reset.sysRead .faultDemand = 0 ∧ State.reset.sysRead .faultNode = 0 ∧
  State.reset.sysRead .faultSeg = 0 ∧ State.reset.sysRead .trapPc = 0 ∧ State.reset.sysRead .stkDepth = 0 ∧
  State.reset.sysRead .nodeFree = 512 ∧ State.reset.sysRead .schedHorizon = 10000 ∧ State.reset.sysRead .dbgRoute = 0 ∧
  State.reset.sysRead .remopNext = 1 ∧ State.reset.sysRead .remopAcked = 0

/-! ### Results in flight and their landing -/

/-- (R44, R49, R52, R277) A position at which no result lands lowers every count by one. A result whose count is one lands at the
next position: its register takes the value, a counter it changes is compared with its threshold, and of the other registers,
memory and the pc nothing changes. -/
def Obligations.ResultsLandInTheirRegisters : Prop :=
  (∀ s : State, s.nothingLands → exec .resultLand s = .next (s.counted s.core.flight)) ∧
  (∀ (s : State) (l : Landing) (rest : List InFlight), s.core.flight = fly l 1 :: rest → l.system = false →
    (∀ e ∈ rest, e.mark = none ∧ e.wait = none ∧ 2 ≤ e.k) →
    ∃ fr dn, (∀ f ∈ dn, l.doneFlag = some f) ∧ exec .resultLand s = .next
      { s.counted rest with core := { (s.counted rest).core with
          fresh := fr,
          done := dn,
          log := match l with
            | .done f true => s.core.log ++ [.flag f]
            | _ => s.core.log,
          regs := match l.counter with
            | some k => (s.core.regs.after l).compared k
            | none => s.core.regs.after l } })

/-- (R129, R220, R275, R291, R292, R294) A value that mts has in flight lands, and mfs reads it back in its stored form: reserved bits
read as their rules say, an FRND of 5 to 7 or a rounding code of 6 or 7 as 0, and REMOP.NEXT with the next serial toward its owner. -/
def Obligations.SystemRegisterReadsBack : Prop :=
  ∀ (s : State) (r : SysReg) (v x : Word), s.core.flight = [fly (.sys r v) 1] → s.storedForm r v = some x →
    ∃ t, exec .resultLand s = .next t ∧ t.sysRead r = x

/-! ### Integer instructions -/

/-- (R43, R50, R268, R269) add, sub, and, or, xor, andn, shl, shr, sra, rotl, min, max, minu and maxu, in their register, immediate
and literal forms, put the result of their row in flight with latency 1, chaining; nothing else changes. -/
def Obligations.IntegerResultsLandNext : Prop :=
  ∀ (i : Instr) (s : State) (d : XReg) (v : Word), s.integerOne i = some (d, v) →
    exec i s = .next (s.issuesX d v 1 true)

/-- (R50, R269) mul, mulh and mulhu, in their three forms: latency 3, not chaining. -/
def Obligations.ProductsLandAfterThree : Prop :=
  ∀ (i : Instr) (s : State) (d : XReg) (v : Word), s.integerThree i = some (d, v) →
    exec i s = .next (s.issuesX d v 3 false)

/-- (R270) Division never traps: with an idle divider div, divu, rem and remu complete on all operands, with the corner values
of R270, and the divider of the slot's alu is busy for 24 positions. -/
def Obligations.DivisionNeverTraps : Prop :=
  (∀ (i : Instr) (s : State) (d : XReg) (v : Word), s.integerDivide i = some (d, v) →
    (s.core.issue.slot = 0 → s.core.busy.div0 = 0) → (s.core.issue.slot ≠ 0 → s.core.busy.div1 = 0) →
    exec i s = .next (State.issuesX
      { s with core := { s.core with busy :=
          if s.core.issue.slot = 0 then { s.core.busy with div0 := 24 } else { s.core.busy with div1 := 24 } } } d v 24 false)) ∧
  (∀ a : Word, signedQuotient a 0 = BitVec.allOnes 64 ∧ unsignedQuotient a 0 = BitVec.ofNat 64 (2 ^ 64 - 1) ∧
    signedRemainder a 0 = a ∧ unsignedRemainder a 0 = a) ∧
  signedQuotient (BitVec.ofInt 64 (-2 ^ 63)) (-1) = BitVec.ofInt 64 (-2 ^ 63) ∧
  signedRemainder (BitVec.ofInt 64 (-2 ^ 63)) (-1) = 0

/-- (R43, R50, R271, R277, R278) sel, mov, ext, bit, crd and lcr: latency 1, chaining. -/
def Obligations.MovesAndBitFields : Prop :=
  ∀ (i : Instr) (s : State) (d : XReg) (v : Word), s.moveResult i = some (d, v) →
    exec i s = .next (s.issuesX d v 1 true)

/-- (R50, R272, R274) cmp, plog and fcmp: a predicate result of latency 1 that chains. -/
def Obligations.PredicatesCompare : Prop :=
  ∀ (i : Instr) (s : State) (d : PReg) (b : Bool), s.predicateResult i = some (d, b) →
    exec i s = .next (s.issuesP d b)

/-- (R54, R277, R283, R291) cwr, cset, fset, fclr, slack and mode put their writes in flight with latency 1; only cwr chains. -/
def Obligations.CounterFlagAndModeWrites : Prop :=
  ∀ s : State,
    (∀ k a b, exec (.cwr k false a b) s =
      .next (s.withFlight [fly (.ctr k ((s.x a + s.x b).setWidth 32)) 1] [.ctr k ((s.x a + s.x b).setWidth 32)])) ∧
    (∀ k a b, exec (.cwr k true a b) s =
      .next (s.withFlight [fly (.ctr k (s.ctr k + (s.x a + s.x b).setWidth 32)) 1]
        [.ctr k (s.ctr k + (s.x a + s.x b).setWidth 32)])) ∧
    (∀ k a (n : BitVec 15), exec (.cwrImm k false a n) s =
      .next (s.withFlight [fly (.ctr k ((s.x a + n.signExtend 64).setWidth 32)) 1]
        [.ctr k ((s.x a + n.signExtend 64).setWidth 32)])) ∧
    (∀ k a (n : BitVec 15), exec (.cwrImm k true a n) s =
      .next (s.withFlight [fly (.ctr k (s.ctr k + (s.x a + n.signExtend 64).setWidth 32)) 1]
        [.ctr k (s.ctr k + (s.x a + n.signExtend 64).setWidth 32)])) ∧
    (∀ k n, exec (.cset k n) s = .next (s.withFlight [fly (.cset k (n.setWidth 32)) 1] [])) ∧
    (∀ k, exec (.fset k) s = .next (s.withFlight [fly (.flag k true) 1] [])) ∧
    (∀ k, exec (.fclr k) s = .next (s.withFlight [fly (.flag k false) 1] [])) ∧
    (∀ n, exec (.slack n) s = .next (s.withFlight [fly (.slack n) 1] [])) ∧
    (∀ v m, exec (.mode v m) s = .next (s.withFlight
      [fly (.sys .mode (((s.core.sys.modeBits &&& ~~~m) ||| (v &&& m)).setWidth 64)) 1] []))

/-- (R48, R276, R366) nop and a cmpt of equal values have no effect; a cmpt of different values in program mode rolls the core back
for a first retry, with SILENT-MISMATCH in FAULT.CAUSE and the retry mark set. -/
def Obligations.CmptChecksTwoValues : Prop :=
  (∀ s : State, exec .nop s = .next s) ∧
  (∀ (s : State) a b, s.x a = s.x b → exec (.cmpt a b) s = .next s) ∧
  (∀ (s : State) a b, s.x a ≠ s.x b → s.core.sys.hnd = false → s.core.retry = false →
    ∃ t, exec (.cmpt a b) s = .next t ∧ t.core.pc = s.core.shadow.pc ∧ t.core.sys.fCause = Cause.silentMismatch ∧
      t.core.retry = true ∧ t.core.gate = [] ∧ t.core.sys.hnd = false ∧ t.mem = s.mem ∧
      (s.core.log = [] → t.core.regs.x = s.core.shadow.x ∧ t.core.regs.p = s.core.shadow.p ∧
        t.core.regs.v = s.core.shadow.v ∧ t.core.regs.q = s.core.shadow.q ∧ t.core.regs.f = s.core.shadow.f ∧
        t.core.regs.c = s.core.shadow.c ∧ t.core.regs.t = s.core.shadow.t))

/-! ### Floating point and system registers -/

/-- (R50, R273, R274) fadd.s, fsub.s, fmul.s, ffma.s, fmin.s and fmax.s, register and literal forms: the exact result rounded
once under MODE, with latency 4; fcvt.to and fcvt.from with latency 2, of FP32 itself with the bits kept (R210). A TRI2 operand 0b10
counts for the context (R194). -/
def Obligations.ScalarFloatResults : Prop :=
  (∀ (i : Instr) (s : State) (d : XReg) (v : Machine.Num), s.fpResult i = some (d, v) →
    exec i s = .next (s.issuesX d (s.fpWord v) 4 false)) ∧
  (∀ (s : State) (f : Fmt) d a r, f ≠ .fp32 → exec (.fcvtTo f d a r) s = .next (s.issuesX d
    (fcvtBits f (encodeElem f r (s.core.sys.modeBits.getLsbD 6) s.ftz false SrKey.none (s.fval (s.x a))).bits) 2 false)) ∧
  (∀ (s : State) d a r, exec (.fcvtTo .fp32 d a r) s = .next (s.issuesX d (BitVec.ofNat 64 ((s.x a).toNat % 2 ^ 32)) 2 false) ∧
    exec (.fcvtFrom .fp32 d a r) s = .next (s.issuesX d (BitVec.ofNat 64 ((s.x a).toNat % 2 ^ 32)) 2 false)) ∧
  (∀ (s : State) (f : Fmt) d a r, f ≠ .fp32 → (f = .tri2 → (s.x a).toNat % 4 ≠ 2) →
    exec (.fcvtFrom f d a r) s = .next (s.issuesX d (BitVec.ofNat 64
      (encodeElem .fp32 r false s.ftz false SrKey.none (decodeElem f s.ftz ((s.x a).toNat % 2 ^ f.width))).bits) 2 false)) ∧
  (∀ (s : State) d a r, (s.x a).toNat % 4 = 2 → ∃ t, exec (.fcvtFrom .tri2 d a r) s = .next t ∧
    t.ctxs = (s.countErr s.ctxNo (fun e => { e with tri2 := satInc e.tri2 })).ctxs ∧ t.mem = s.mem ∧
    t.core.regs = s.core.regs)

/-- (R50, R90, R129, R275) mfs reads with latency 2; mts writes from the next position and leaves a read-only register alone; RSV.n
takes a value that passes the checks of R90, and a failing check raises RESIDENCY with its code. -/
def Obligations.SystemRegisterMoves : Prop :=
  (∀ (s : State) d r, (r.handlerOnly = true → s.core.sys.hnd = true) →
    exec (.mfs d r) s = .next (s.issuesX d (s.sysRead r) 2 false)) ∧
  (∀ (s : State) r a, sysReadOnly r = false → r.kernelOnly = false → (r.handlerOnly = true → s.core.sys.hnd = true) →
    exec (.mts r a) s = .next (s.withFlight [fly (.sys r (s.x a)) 1] [])) ∧
  (∀ (s : State) r a, sysReadOnly r = true → exec (.mts r a) s = .next s) ∧
  (∀ (s : State) n a, s.rsvCode n (s.x a) = none →
    exec (.rsvWrite n a) s = .next (s.withFlight [fly (.sys (.rsv n) (s.x a)) 1] [])) ∧
  (∀ (s : State) n a k, s.rsvCode n (s.x a) = some k →
    exec (.rsvWrite n a) s = .next (s.takeTrap Cause.residency (BitVec.ofNat 64 k) s.core.pc)) ∧
  (∀ (s : State) a, exec (.injDropreplyArm a) s = .next (s.withFlight [fly (.sys .injDropReply (s.x a)) 1] []))

/-! ### Scratchpad accesses -/

/-- (R50, R134 to R136) A load whose lanes pass their checks and lie in the own scratchpad, with no pending store range and no
mark: its bytes are read through the store gate and land after 4 positions, 5 for a vector; nothing else changes. -/
def Obligations.OwnLoads : Prop :=
  ∀ (i : Instr) (s : State) (p : LoadPlan) (ls : List (Nat × Nat)), s.loadPlan i = some p →
    s.lanes p.size p.size p.eas = .ok ls → (∀ l ∈ ls, inSpad s.cur l.1 = true) → s.noRanges →
    (∀ l ∈ ls, s.unmarked l.1 l.2) →
    exec i s = .next (s.withFlight [fly (p.form.value (ls.flatMap (fun l => s.readOwn l.1 l.2))) p.near] [])

/-- (R50, R54, R136, R140) A load with a lane in another scratchpad is cluster-remote: the access goes out, and its result, of the
nominal latency 16 or 17, waits for the data under SLACK. -/
def Obligations.RemoteLoadsGoOut : Prop :=
  ∀ (i : Instr) (s : State) (p : LoadPlan) (ls : List (Nat × Nat)), s.loadPlan i = some p →
    s.lanes p.size p.size p.eas = .ok ls → (∃ l ∈ ls, inSpad s.cur l.1 = false) → s.noRanges →
    (∀ l ∈ ls, inSpad s.cur l.1 = true → s.unmarked l.1 l.2) → s.core.sys.modeBits.getLsbD 7 = false →
    ∃ t e a, exec i s = .next t ∧
      t = { s with core := { s.core with nextAcc := s.core.nextAcc + 1, flight := s.core.flight ++ [e],
                                         remote := s.core.remote ++ [a] } } ∧
      e.k = p.near + 12 ∧ e.mark = none ∧
      e.wait = some { id := s.core.nextAcc, window := s.core.sys.slack.toNat, arrived := false } ∧
      a.id = s.core.nextAcc ∧ a.store = false ∧ a.lanes = ls ∧ a.performed = false ∧ a.form = p.form

/-- (R137, R139, R140) Outside handler mode a store whose lanes pass their checks puts the bytes of its own lanes into one entry
of the store gate, where the gate has room, and sends the others out; memory does not change. -/
def Obligations.GatedStores : Prop :=
  ∀ (i : Instr) (s : State) (p : StorePlan) (ls : List (Nat × Nat)), s.storePlan i = some p →
    s.lanes p.size p.size p.eas = .ok ls → s.noRanges → s.core.sys.hnd = false → s.core.gate.length < 256 →
    let own := (p.pieces ls).filter (fun x => inSpad s.cur x.1)
    let far := (p.pieces ls).filter (fun x => !inSpad s.cur x.1)
    exec i s = .next (({ s with core := { s.core with
      gate := s.core.gate ++ (if own = [] then []
        else [{ cells := pieceCells own, cmd := s.core.eng.nextId, node := s.core.mash.nextId, gone := [] }]) } } : State).sendFar p.size far)

/-- (R117, R137, R372) In handler mode the own lanes are written to memory at once, or where a fence.rel is open the bundle waits for
it. For a scalar store the n bytes at its address then read as the register's low n bytes, and every other byte of memory reads
as before. -/
def Obligations.HandlerStores : Prop :=
  ∀ (i : Instr) (s : State) (p : StorePlan) (ls : List (Nat × Nat)), s.storePlan i = some p →
    s.lanes p.size p.size p.eas = .ok ls → s.noRanges → s.core.sys.hnd = true →
    (s.core.eng.fences ≠ [] → (∃ l ∈ ls, inSpad s.cur l.1 = true) → exec i s = .next (s.held .fence)) ∧
    (s.core.eng.fences = [] → ∃ t, exec i s = .next t ∧
      t.core = (s.sendFar p.size ((p.pieces ls).filter (fun x => !inSpad s.cur x.1))).core ∧
      (s.mem.wf = true → ∀ b, (∀ l ∈ ls, inSpad s.cur l.1 = true → b < l.1 ∨ l.1 + l.2 ≤ b) → t.mem.read b = s.mem.read b) ∧
      (s.mem.wf = true → ∀ a n, ls = [(a, n)] → inSpad s.cur a = true → t.mem.readN a n = leBytes n p.data) ∧
      t.ctxs = s.ctxs ∧ t.others = s.others ∧ t.l2 = s.l2 ∧ t.launch = s.launch ∧ t.fabric = s.fabric ∧ t.malt = s.malt)

/-- (R135, R139) A scalar store to the own scratchpad is seen by a later load of the same core, through the store gate, before it
performs; every other byte is seen as before. -/
def Obligations.OwnStoreIsSeen : Prop :=
  ∀ (i : Instr) (s t : State) (p : StorePlan) (a : Nat), s.storePlan i = some p →
    s.lanes p.size p.size p.eas = .ok [(a, p.size)] → inSpad s.cur a = true → s.noRanges → s.core.sys.hnd = false →
    s.core.gate.length < 256 → exec i s = .next t →
    t.readOwn a p.size = leBytes p.size p.data ∧ t.mem = s.mem ∧
    ∀ b, b < a ∨ a + p.size ≤ b → readThrough t.mem t.core.gate b = readThrough s.mem s.core.gate b

/-- (R131, R135) An access takes the trap of its first lane that fails: ADDRESS beyond the cluster addresses and for a CORE
field of 48 to 62, ALIGNMENT for an offset that is no multiple of the element's size, and no access is made. -/
def Obligations.WrongLanesTrap : Prop :=
  (∀ (i : Instr) (s : State) (p : LoadPlan) c, s.loadPlan i = some p → s.lanes p.size p.size p.eas = .error c →
    exec i s = .next (s.takeTrap c (BitVec.ofNat 64 s.core.issue.slot) s.core.pc)) ∧
  (∀ (i : Instr) (s : State) (p : StorePlan) c, s.storePlan i = some p → s.lanes p.size p.size p.eas = .error c →
    exec i s = .next (s.takeTrap c (BitVec.ofNat 64 s.core.issue.slot) s.core.pc)) ∧
  (∀ (s : State) (ea : Word) n, 2 ^ 28 ≤ ea.toNat → s.lane ea n n = .error Cause.address) ∧
  (∀ (s : State) (ea : Word) n, ea.toNat < 2 ^ 28 → 48 ≤ ea.toNat / 2 ^ 22 → ea.toNat / 2 ^ 22 ≤ 62 →
    s.lane ea n n = .error Cause.address) ∧
  (∀ (s : State) (ea : Word) n, ea.toNat < 2 ^ 28 → (ea.toNat / 2 ^ 22 < 48 ∨ ea.toNat / 2 ^ 22 = 63) →
    ea.toNat % 2 ^ 22 % n ≠ 0 → s.lane ea n n = .error Cause.alignment)

/-! ### The vec slot -/

/-- (R51 to R54, R250 to R254, R259, R261, R266) vadd, vsub, vmul, vfma, vfms, vmin, vmax, vabs, vneg, vfun, vscn and viota, with the
unit idle: every register of the run takes its elements where its lanes are active, all at the last beat plus the latency. That vabs and vneg
flush subnormals under FTZ is the model's reading (DEDUCED, log entry 55), and the enclosures by which vfun rounds exp2 and log2 are its
choice (DEDUCED, log entry 20). -/
def Obligations.VectorArithmetic : Prop :=
  ∀ (i : Instr) (s : State) (c : VCtl) (d : VReg) (lat : Nat) (es : List Nat), s.vecArith i = some (c, d, lat, es) →
    s.core.busy.vec = 0 → exec i s = .next (s.vecWrites c d lat es)

/-- (R254, R256, R265, R266) vand, vor, xor and vmov act on the bits of the whole runs; vshl, vshr, vsra, vsel, vbcs and vlit on the
bits of elements. The latency is 2. That vsra brings in the top bit of an element
in UINT8 too is the model's reading (DEDUCED, log entry 21). -/
def Obligations.VectorBitOperations : Prop :=
  (∀ (i : Instr) (s : State) (c : VCtl) (d : VReg) (bits : Nat), s.vecRunBits i = some (c, d, bits) → c.fmt.isVec = true →
    s.core.busy.vec = 0 →
    exec i s = .next (s.vecIssued (c.beats.val + 1) (s.vecResults c d 2 bits))) ∧
  (∀ (i : Instr) (s : State) (c : VCtl) (d : VReg) (es : List Nat), s.vecElemBits i = some (c, d, es) → c.fmt.isVec = true →
    s.core.busy.vec = 0 → exec i s = .next (s.vecWrites c d 2 es))

/-- (R226, R255, R257, R258, R260, R262, R264, R265, R267, R399) vcmp, vcvt, vred, vdot, vshf, vmvx, vins and vrng, with the unit idle. -/
def Obligations.VectorDataMovement : Prop :=
  ∀ s : State, s.core.busy.vec = 0 →
    (∀ q z (f : Fmt) d a b cond, ∃ r : Word32,
      (∀ l, l < 32 → r.getLsbD l = ((s.q q).getLsbD l && (List.range (32 / f.width)).all (fun j =>
        vcmpOf cond (decodeElem f s.ftz ((s.v a).toNat / 2 ^ (32 * l + f.width * j) % 2 ^ f.width))
          (decodeElem f s.ftz ((s.v b).toNat / 2 ^ (32 * l + f.width * j) % 2 ^ f.width))))) ∧
      exec (.vcmp q z f d a b cond) s =
        .next (s.vecIssued 1 [fly (.q d r (if z then 0xFFFF_FFFF else s.q q)) 2])) ∧
    (∀ c d a t r sat, c.fmt.isVec = true → t.isVec = true →
      exec (.vcvt c d a t r sat) s = .next (s.vecIssued (c.beats.val + 1)
        ((List.range ((cvtCount c t * t.width + 1023) / 1024)).map (fun i =>
          fly (.vm (Fin.ofNat 32 (d.val + i))
            (BitVec.ofNat 1024 (packElems t.width (s.cvtElems c a t r sat) / 2 ^ (1024 * i)) &&& s.cvtBits c t i)
            (if c.z then BitVec.allOnes 1024 else s.cvtBits c t i)) (c.beats.val + 3))))) ∧
    (∀ c d a op, exec (.vred c d a op) s = .next (s.vecIssued (c.beats.val + 1)
      [fly (.v d (BitVec.ofNat 1024 (s.vredOf c a op))) (c.beats.val + 6)])) ∧
    (∀ c d a b e, exec (.vdot c d a b e) s = .next (s.vecIssued (c.beats.val + 1) (s.vecResults c d 4
      (packElems 32 ((List.range (32 * (c.beats.val + 1))).map (fun l => s.vdotLane c.fmt
        (((s.vecIn c a).drop (32 / c.fmt.width * l)).take (32 / c.fmt.width))
        (((s.vecIn c b).drop (32 / c.fmt.width * l)).take (32 / c.fmt.width))
        ((elems 32 (c.beats.val + 1) (s.run e (c.beats.val + 1)))[l]?.getD 0))))))) ∧
    (∀ c d a b, exec (.vshf c d a b .rev) s = .next (s.vecWrites c d 3 (s.vecIn c a).reverse)) ∧
    (∀ c d a b m, ∃ es : List Nat, es.length = (s.vecIn c a).length ∧
      (∀ i, i < es.length → m = .zlo → es[i]?.getD 0 = if i % 2 = 0 then (s.vecIn c a)[i / 2]?.getD 0
        else (s.vecIn c b)[i / 2]?.getD 0) ∧
      (∀ i, i < es.length → m = .zhi → es[i]?.getD 0 = if i % 2 = 0 then (s.vecIn c a)[es.length / 2 + i / 2]?.getD 0
        else (s.vecIn c b)[es.length / 2 + i / 2]?.getD 0) ∧
      (∀ i, i < es.length → m = .uev → es[i]?.getD 0 = ((s.vecIn c a) ++ (s.vecIn c b))[2 * i]?.getD 0) ∧
      (∀ i, i < es.length → m = .uod → es[i]?.getD 0 = ((s.vecIn c a) ++ (s.vecIn c b))[2 * i + 1]?.getD 0) ∧
      exec (.vshf c d a b m) s = .next (s.vecWrites c d 3 es)) ∧
    (∀ (f : Fmt) d b (n : Fin 512), exec (.vmvx f d b n) s = .next
      ((s.vecIssued 1 []).issuesX d (fcvtBits f ((s.v b).toNat / 2 ^ (f.width * n.val) % 2 ^ f.width)) 3 false)) ∧
    (∀ (f : Fmt) d r (n : Fin 512), exec (.vins f d r n) s = .next (s.vecIssued 1
      [fly (.vm d (BitVec.ofNat 1024 (((s.x r).toNat % 2 ^ f.width) <<< (f.width * n.val)))
        (BitVec.ofNat 1024 ((2 ^ f.width - 1) <<< (f.width * n.val)))) 2])) ∧
    (∀ c d a n hi, s.featureMask.getLsbD 5 = false → ∃ es : List Nat, es.length = 32 * (c.beats.val + 1) ∧
      exec (.vrng c d a n hi) s = .next (s.vecWrites c d 6 es) ∧
      (c.fmt = .int32 → ∀ l, l < es.length → es[l]?.getD 0 =
        (rngc (BitVec.ofNat 64 (s.v a).toNat + BitVec.ofNat 64 l) (BitVec.ofNat 64 ((s.v a).toNat / 2 ^ 64))
          (match n with | .n4 => 4 | .n8 => 8 | .n12 => 12)).toNat / (if hi then 2 ^ 32 else 1) % 2 ^ 32) ∧
      (c.fmt = .fp32 → ∀ l, l < es.length → es[l]?.getD 0 = s.elemOf c false (.fin false
        ((rngc (BitVec.ofNat 64 (s.v a).toNat + BitVec.ofNat 64 l) (BitVec.ofNat 64 ((s.v a).toNat / 2 ^ 64))
          (match n with | .n4 => 4 | .n8 => 8 | .n12 => 12)).toNat / 2 ^ 8 % 2 ^ 24) (-24))))

/-- (R263) vperm.e vd, va, vb: element e of vd becomes element idx mod N of the run at va, where idx is element e of the run at
vb, read as an unsigned integer of w bits; the latency is 3. -/
def Obligations.VectorPermute : Prop :=
  ∀ (s : State) (c : VCtl) (d a b : VReg), c.fmt.isVec = true → s.core.busy.vec = 0 →
    exec (.vperm c d a b) s = .next (s.vecWrites c d 3
      ((List.range (1024 / c.fmt.width * (c.beats.val + 1))).map (fun e =>
        (s.run a (c.beats.val + 1)) /
          2 ^ (c.fmt.width * (((s.run b (c.beats.val + 1)) / 2 ^ (c.fmt.width * e) % 2 ^ c.fmt.width) %
            (1024 / c.fmt.width * (c.beats.val + 1)))) % 2 ^ c.fmt.width)))

/-- (R46, R52, R55) A vec instruction on a busy vector unit, and a division on the busy divider of its alu, raise SCHEDULE at their
bundle; in interlocked mode they wait, and a position passes. -/
def Obligations.BusyUnitsRaiseSchedule : Prop :=
  ∀ (i : Instr) (s : State),
    (needsVec i = true ∧ s.core.busy.vec ≠ 0 ∧ s.static67 i = none ∨
      s.integerDivide i ≠ none ∧
        (s.core.issue.slot = 0 ∧ s.core.busy.div0 ≠ 0 ∨ s.core.issue.slot ≠ 0 ∧ s.core.busy.div1 ≠ 0)) →
    (s.core.sys.modeBits.getLsbD 7 = false →
      exec i s = .next (s.takeTrap Cause.schedule (BitVec.ofNat 64 s.core.issue.slot) s.core.pc)) ∧
    (s.core.sys.modeBits.getLsbD 7 = true → exec i s = .next s.advance)

/-! ### The tile slots -/

/-- (R152, R160, R162) tdup, tdrp, tswp, tpk, trot and trtd move handles only: the new stack is that of their row, short of
underflow and overflow, which raise STACK-UNDERFLOW and STACK-OVERFLOW; memory, registers and the pc stay. -/
def Obligations.StackInstructionsMoveHandles : Prop :=
  ∀ (i : Instr) (s : State) (need grow : Nat) (f : List Nat → List Nat), stackPlan i = some (need, grow, f) →
    (s.core.mash.spine.length < need →
      exec i s = .next (s.takeTrap Cause.stackUnderflow (BitVec.ofNat 64 s.core.issue.slot) s.core.pc)) ∧
    (need ≤ s.core.mash.spine.length → grow = 1 → s.core.sys.stk.limit.toNat < s.core.mash.spine.length + 1 →
      exec i s = .next (s.takeTrap Cause.stackOverflow (BitVec.ofNat 64 s.core.issue.slot) s.core.pc)) ∧
    (need ≤ s.core.mash.spine.length → (grow = 1 → s.core.mash.spine.length + 1 ≤ s.core.sys.stk.limit.toNat) →
      ∃ t, exec i s = .next t ∧ t.core.mash.spine = f s.core.mash.spine ∧ t.core.mash.nextId = s.core.mash.nextId ∧
        (∀ n ∈ t.core.mash.nodes, n ∈ s.core.mash.nodes) ∧ s.tileFrame t)

/-- (R159, R160, R168, R169, R182, R231 to R249) The checks come in the order of R160: STACK-UNDERFLOW, STACK-OVERFLOW, SHAPE, FORMAT,
then NODE-TABLE-FULL where no node is left that evaluation could free. With its operands on the stack, its shape and format checks passed, room within STK.LIMIT
and a free node, each of the tile arithmetic instructions, tzer and tfil pops its operands and pushes the handle of a new
deferred node that records its operation, operands, tag and modes; nothing is evaluated, and memory, registers and the pc
stay. -/
def Obligations.TileInstructionsAppendNodes : Prop :=
  ∀ (i : Instr) (s : State) (pops : Nat) (opcode : BitVec 8) (f : List Tag → Build),
    s.appendPlan i = some (pops, opcode, f) → s.static67 i = none →
    let m := s.core.mash
    let b := f (m.tags (m.top pops))
    let tooDeep := s.core.sys.stk.limit.toNat < m.spine.length - pops + 1
    let room := (held (m.top pops) pops s.core).hasRoom true
    let trap (cause : BitVec 6) : Prop := exec i s = .next (s.takeTrap cause (BitVec.ofNat 64 s.core.issue.slot) s.core.pc)
    (m.spine.length < pops → trap Cause.stackUnderflow) ∧
    (pops ≤ m.spine.length → tooDeep → trap Cause.stackOverflow) ∧
    (pops ≤ m.spine.length → ¬tooDeep → b.shapeBad = true → trap Cause.shape) ∧
    (pops ≤ m.spine.length → ¬tooDeep → b.shapeBad = false → b.fmtBad = true → trap Cause.format) ∧
    (pops ≤ m.spine.length → ¬tooDeep → b.shapeBad = false → b.fmtBad = false → room = false →
      (∀ n ∈ m.nodes, m.candidate n = false) → trap Cause.nodeTableFull) ∧
    (pops ≤ m.spine.length → ¬tooDeep → b.shapeBad = false → b.fmtBad = false → room = true →
    ∃ t n, exec i s = .next t ∧ t.core.mash.spine = m.nextId :: m.spine.drop pops ∧
      t.core.mash.nextId = m.nextId + 1 ∧ n ∈ t.core.mash.nodes ∧ n.id = m.nextId ∧
      n.opcode = opcode ∧ n.op = b.op ∧ n.args = m.top pops ∧ n.tag = b.tag ∧ n.mode = b.mode ∧ n.vals = [] ∧ n.retired = false ∧
      n.origin = { addr := s.core.pc, slot := s.core.issue.slot, seg := s.core.seg } ∧ s.tileFrame t)

/-- (R163 to R167, R169, R188 to R192) tld of a tile access block without wrong fields pushes a load node whose memory is not yet
read; tst pops the top handle into a store node and a demand of its region; tfrc demands a region and leaves the stack. Registers,
memory and the pc stay; a force of a region that is already computed sets its flag at the next position. That the block's read meets
its errors at the issue, and the bytes of a bad block, are the model's choices (DESIGN CHOICE, log entry 75). -/
def Obligations.TileLoadsStoresAndForces : Prop :=
  (∀ (s : State) (xt xo : XReg) (f : TldFmt) (tr nt : Bool) (b : Tab) (mf : Option Fmt) (tf : Fmt),
    s.blockAt (s.x xt) 64 64 → parseTab (s.block (s.x xt) 64).2 = some b →
    let u := (s.block (s.x xt) 64).1
    u.memFmt b = some mf → u.tileFmt f b = some tf → s.core.mash.spine.length + 1 ≤ s.core.sys.stk.limit.toNat →
    (buildLd b (u.tabAccess b (s.x xo) (b.tr != tr) mf nt) (some mf) (some tf)).shapeBad = false →
    (buildLd b (u.tabAccess b (s.x xo) (b.tr != tr) mf nt) (some mf) (some tf)).fmtBad = false →
    s.core.hasRoom true = true →
    ∃ t n, exec (.tld xt xo f tr nt) s = .next t ∧ t.core.mash.spine = s.core.mash.nextId :: s.core.mash.spine ∧
      n ∈ t.core.mash.nodes ∧ n.id = s.core.mash.nextId ∧ n.opcode = 0x01 ∧ n.tag.rows = b.rows ∧ n.tag.cols = b.cols ∧
      n.tag.fmt = tf ∧ n.raw = [] ∧ n.vals = [] ∧ n.after = [] ∧
      n.op = .load (u.tabAccess b (s.x xo) (b.tr != tr) mf nt) ∧ u.tileFrame t) ∧
  (∀ (s : State) (xt xr : XReg) (flag : Option FlagNo) (b : Tab) (mf : Option Fmt) (top : Nat) (rest : List Nat)
    (n : TileNode) (r : Region),
    s.blockAt (s.x xt) 64 64 → parseTab (s.block (s.x xt) 64).2 = some b →
    let u := (s.block (s.x xt) 64).1
    u.memFmt b = some mf → (b.tid = 0xFFFF ∨ b.l2 = false) → s.core.mash.spine = top :: rest →
    s.core.mash.node? top = some n → (∀ m ∈ s.core.mash.nodes, m.pendingLoad = false) →
    storeRegion b n.tag mf (if xr = 0 then b.region else s.x xr) = some r →
    (∀ m, (u.tabAccess b 0 b.tr mf false).mfmt = some m →
      badPair (u.tabAccess b 0 b.tr mf false) n.tag.fmt m = false) →
    s.core.hasRoom false = true →
    ∃ t o, exec (.tst xt xr flag) s = .next t ∧ t.core.mash.spine = rest ∧ o ∈ t.core.mash.stores ∧
      o.id = s.core.mash.nextId ∧ o.src = top ∧ o.region = r ∧ o.flag = flag ∧ o.done = 0 ∧
      o.access = u.tabAccess b 0 b.tr mf false ∧ n ∈ t.core.mash.nodes ∧
      (∃ d ∈ t.core.mash.demands, d.id = o.id ∧ d.node = top ∧ d.region = r ∧ d.kind = .tst) ∧ u.tileFrame t) ∧
  (∀ (s : State) (k : Fin 64) (xr : XReg) (flag : FlagNo) (src : Nat) (n : TileNode) (r : Region),
    s.core.mash.spine[k.val]? = some src → s.core.mash.node? src = some n →
    regionOf (if xr = 0 then 0xFFFF else s.x xr) n.tag.rows n.tag.cols = some r →
    let demanded (f : Option FlagNo) : State := { s with core := { s.core with mash := { s.core.mash with
      demands := s.core.mash.demands ++ [Demand.mk s.core.mash.nextId src r .tfrc
        { addr := s.core.pc, slot := s.core.issue.slot, seg := s.core.seg } f s.core.sys.hnd false],
      nextId := s.core.mash.nextId + 1 } } }
    exec (.tfrc k xr flag) s = .next (if s.core.mash.computed src r = true
      then (demanded none).withFlight [fly (.done flag (decide (src < s.core.shadow.nextNode))) 1] [] else demanded (some flag)))

/-! ### The copy slot -/

/-- (R93, R94, R105, R106, R115, R118) scpy, sgth, sbar, l2wb, l2inv and l2pf enter the engine behind the commands before them,
where it holds fewer than 64; with 64 the next bundle waits. What the reads of their blocks make of an error there is the model's choice
(DESIGN CHOICE, log entry 75). -/
def Obligations.CommandsEnterTheEngine : Prop :=
  ∀ (i : Instr) (s u : State) (op : CmdOp) (f : Option FlagNo) (c : Nat) (x : Bool), EntersAs s i u op f c x →
    (s.core.eng.cmds.length + s.core.eng.fences.length < 64 → exec i s = .next (u.withCmd op f c x)) ∧
    (64 ≤ s.core.eng.cmds.length + s.core.eng.fences.length → exec i s = .next (s.nextCycle.held .engine))

/-- (R98, R107, R109, R113, R361, R372) sacc, the nine satm and ssig with and without a release take a place of the store gate, of
which there are 32, and enter the engine at once in handler mode. What the reads of their blocks make of an error there is the model's
choice (DESIGN CHOICE, log entry 75). -/
def Obligations.GatedCommandsWaitForCommit : Prop :=
  ∀ (i : Instr) (s u : State) (op : CmdOp) (f : Option FlagNo) (c : Nat) (x : Bool), GatesAs s i u op f c x →
    s.static67 i = none →
    (s.core.sys.hnd = false → s.core.gateCmds.length < 32 → exec i s = .next (u.withGated op f c x)) ∧
    (s.core.sys.hnd = true → s.core.eng.cmds.length + s.core.eng.fences.length < 64 →
      exec i s = .next (u.withCmd op f c x)) ∧
    (s.core.sys.hnd = false → 32 ≤ s.core.gateCmds.length →
      ∃ t, exec i s = .next t ∧ t.core.hold = .commit .implicit ∧ t.core.gateCmds = s.core.gateCmds ∧ t.mem = s.mem)

/-- (R46, R411) The RESULT field of an atomic block is checked when the satm issues: a field that is no multiple of 16 raises
ALIGNMENT, one beyond the 4 MiB scratchpad ADDRESS, and one whose 16 bytes touch a spill region PROTECTION. -/
def Obligations.AtomResultFieldIsChecked : Prop :=
  ∀ (i : Instr) (s : State) (op : SatmOp) (a : XReg) (f : Option FlagNo) (c : Fin 4) (b : AtomBlock),
    satmPlan i = some (op, a, f, c) → s.static67 i = none → s.blockAt (s.x a) 16 48 →
    (∃ r0, parseAtom op ((s.atomBytes a).take 0x20 ++ leBytes 4 r0 ++ (s.atomBytes a).drop 0x24) (fun _ => false) = .ok b) →
    (resultField (s.atomBytes a) % 16 ≠ 0 →
      exec i s = .next (s.takeTrap Cause.alignment (BitVec.ofNat 64 s.core.issue.slot) s.core.pc)) ∧
    (resultField (s.atomBytes a) % 16 = 0 → 2 ^ 22 ≤ resultField (s.atomBytes a) →
      exec i s = .next (s.takeTrap Cause.address (BitVec.ofNat 64 s.core.issue.slot) s.core.pc)) ∧
    (resultField (s.atomBytes a) % 16 = 0 → resultField (s.atomBytes a) < 2 ^ 22 →
      s.core.inSpill (resultField (s.atomBytes a)) 16 = true →
      exec i s = .next (s.takeTrap Cause.protection (BitVec.ofNat 64 s.core.issue.slot) s.core.pc))

/-- (R94, R116, R117, R177, R304) sdrn, fence.acq and fence.sc hold the next bundle; fence.rel enters the engine and notes the accesses
and commands that it waits for, at core scope no store, and issue goes on. With 64 commands in the engine each of them waits for
a place. -/
def Obligations.DrainsAndFences : Prop :=
  ∀ (s : State) (flag : Option FlagNo), (∀ n ∈ s.core.mash.nodes, n.pendingLoad = false) →
    (s.core.eng.cmds.length + s.core.eng.fences.length < 64 →
      exec (.sdrn flag) s = .next (s.held (.drain .sdrn .pod flag .none)) ∧
      (∀ sc, exec (.fenceAcq sc flag) s = .next (s.held (.drain .acq sc flag .none)) ∧
        exec (.fenceSc sc flag) s = .next (s.held (.drain .sc sc flag .none)) ∧
        exec (.fenceRel sc flag) s = .next { s with core := { s.core with eng := { s.core.eng with
          fences := s.core.eng.fences ++ [Fence.mk s.core.eng.nextId sc
            ((s.core.remote.filter (fun a => !a.store || sc != .core)).map (fun a => a.id))
            (s.core.eng.cmds.map (fun k => k.id)) flag],
          nextId := s.core.eng.nextId + 1 } } })) ∧
    (64 ≤ s.core.eng.cmds.length + s.core.eng.fences.length →
      exec (.sdrn flag) s = .next (s.nextCycle.held .engine) ∧
      ∀ sc, exec (.fenceAcq sc flag) s = .next (s.nextCycle.held .engine) ∧ exec (.fenceSc sc flag) s = .next (s.nextCycle.held .engine) ∧
        exec (.fenceRel sc flag) s = .next (s.nextCycle.held .engine))

/-- (R119, R120, R402, R404) A sxfr that names a reserved slot in the future, with the links in step and at most 12,488 bytes, is
admitted: its command enters the engine and its transfer is recorded; a slot that is not reserved, not aligned or past raises
ADMISSION. A recorded transfer whose segment was rolled back is taken up again without a new admission. That the 12,488 bytes are
counted on the source side is the model's reading (DEDUCED, log entry 78), and the port of the slot its choice (log entry 43). -/
def Obligations.TransfersAreAdmitted : Prop :=
  ∀ (s : State) (a b : XReg) (flag : Option FlagNo) (d : Desc), s.descAt .sxfr (s.x a) d →
    s.static67 (.sxfr a b flag) = none → d.subop % 8 = 0 → d.subop < 2 ^ 22 → s.core.inSpill d.subop 8 = false →
    let u := s.descRead (s.x a)
    (∀ (n : Nat), s.core.eng.sxfrs = [SxfrRec.mk (s.x b).toNat (s.x a).toNat n true] →
      s.core.eng.cmds.length + s.core.eng.fences.length < 64 →
      exec (.sxfr a b flag) s = .next
        { u with
          core := { s.core with eng := { s.core.eng with
            cmds := s.core.eng.cmds ++ [u.newCmd (.sxfr d (s.x b).toNat (s.x a).toNat) flag 0 false],
            nextId := s.core.eng.nextId + 1, sxfrs := [SxfrRec.mk (s.x b).toNat (s.x a).toNat n false] } },
          fabric := { s.fabric with transfers := s.fabric.transfers.map (fun x =>
            if x.id = n ∧ x.core = s.cur then { x with cmd := s.core.eng.nextId, status := d.subop } else x) } }) ∧
    (s.core.eng.sxfrs = [] →
    ((s.x b).toNat % 64 = 0 → s.podTime.toNat < (s.x b).toNat → s.fabric.inStep = true →
      (∃ r ∈ s.fabric.reservations, r.slot.sender = s.fabric.self ∧ r.slot.ctx = s.ctxNo ∧
        r.slot.start = (s.x b).toNat) → d.srcBytes ≤ 12488 →
      s.core.eng.cmds.length + s.core.eng.fences.length < 64 →
      exec (.sxfr a b flag) s = .next
        { u with
          core := { s.core with eng := { s.core.eng with
            cmds := s.core.eng.cmds ++ [u.newCmd (.sxfr d (s.x b).toNat (s.x a).toNat) flag 0 false],
            nextId := s.core.eng.nextId + 1,
            sxfrs := [SxfrRec.mk (s.x b).toNat (s.x a).toNat s.fabric.nextTag false] } },
          fabric := { s.fabric with nextTag := s.fabric.nextTag + 1, transfers := s.fabric.transfers ++
            [{ id := s.fabric.nextTag, core := s.cur, cmd := s.core.eng.nextId, ctx := s.ctxNo, desc := d,
               port := s.slotPort (s.x b).toNat d.pkg, start := (s.x b).toNat, status := d.subop, tries := 0, delivered := false, done := false,
               word := 0 }] } }) ∧
    (((s.x b).toNat % 64 ≠ 0 ∨ (s.x b).toNat ≤ s.podTime.toNat ∨ s.fabric.inStep = false ∨
        (∀ r ∈ s.fabric.reservations, r.slot.sender = s.fabric.self → r.slot.ctx = s.ctxNo → r.slot.start ≠ (s.x b).toNat) ∨ 12488 < d.srcBytes) →
      exec (.sxfr a b flag) s = .next (s.takeTrap Cause.admission (BitVec.ofNat 64 s.core.issue.slot) s.core.pc)))

/-! ### The ctl slot -/

/-- (R39, R53, R280) br, call, ret and jmpr take their transfer to an aligned address of 48 bits; call puts the next bundle's
address in flight toward x63. A target that is not 64-byte aligned raises ALIGNMENT, one beyond 48 bits ADDRESS. That a target of ret or
jmpr that is both raises ALIGNMENT is the model's choice (DESIGN CHOICE, log entry 99). -/
def Obligations.TransfersGoToTheirTargets : Prop :=
  ∀ (s : State), s.core.pc.toNat % 64 = 0 →
    (∀ off : BitVec 25, 0 ≤ (s.core.pc.toNat : Int) + 64 * off.toInt → (s.core.pc.toNat : Int) + 64 * off.toInt < 2 ^ 48 →
      exec (.br off) s = .next (s.takes (s.core.pc + BitVec.ofInt 48 (64 * off.toInt))) ∧
      exec (.call off) s = .next ((s.takes (s.core.pc + BitVec.ofInt 48 (64 * off.toInt))).issuesX 63
        (BitVec.ofNat 64 (s.core.pc.toNat + 64)) 1 false)) ∧
    (∀ off : BitVec 25, ((s.core.pc.toNat : Int) + 64 * off.toInt < 0 ∨ 2 ^ 48 ≤ (s.core.pc.toNat : Int) + 64 * off.toInt) →
      exec (.br off) s = .next (s.takeTrap Cause.address (BitVec.ofNat 64 s.core.issue.slot) s.core.pc) ∧
      exec (.call off) s = .next (s.takeTrap Cause.address (BitVec.ofNat 64 s.core.issue.slot) s.core.pc)) ∧
    (∀ (i : Instr) (r : XReg), (i = .ret ∧ r = 63 ∨ i = .jmpr r) →
      ((s.x r).toNat % 64 = 0 → (s.x r).toNat < 2 ^ 48 → exec i s = .next (s.takes ((s.x r).setWidth 48))) ∧
      ((s.x r).toNat % 64 ≠ 0 →
        exec i s = .next (s.takeTrap Cause.alignment (BitVec.ofNat 64 s.core.issue.slot) s.core.pc)) ∧
      ((s.x r).toNat % 64 = 0 → 2 ^ 48 ≤ (s.x r).toNat →
        exec i s = .next (s.takeTrap Cause.address (BitVec.ofNat 64 s.core.issue.slot) s.core.pc)))

/-- (R281, R282) loop and loopr push an entry for the len bundles that follow, with count n and index 0; a count of 0 goes past
the body; a seventh entry, or a body that ends after the one around it, raises LOOP-OVERFLOW. lbrk leaves the innermost loop. -/
def Obligations.LoopsPushAndBreak : Prop :=
  ∀ (i : Instr) (s : State) (n : Word32) (len : Fin 64),
    ((∃ k : BitVec 14, i = .loop k len ∧ n = k.setWidth 32) ∨ (∃ r, i = .loopr r len ∧ n = (s.x r).setWidth 32)) →
    s.core.pc.toNat % 64 = 0 → s.core.pc.toNat + 64 * (len.val + 2) < 2 ^ 48 →
    (6 ≤ s.core.loops.length → exec i s = .next (s.takeTrap Cause.loopOverflow 1 s.core.pc)) ∧
    (∀ e rest, s.core.loops.length < 6 → s.core.loops = e :: rest →
      e.last.toNat < s.core.pc.toNat + 64 * (len.val + 1) →
      exec i s = .next (s.takeTrap Cause.loopOverflow 2 s.core.pc)) ∧
    (s.core.loops.length < 6 → (∀ e ∈ s.core.loops.head?, s.core.pc.toNat + 64 * (len.val + 1) ≤ e.last.toNat) →
      (n = 0 → exec i s = .next (s.takes (BitVec.ofNat 48 (s.core.pc.toNat + 64 * (len.val + 2))))) ∧
      (n ≠ 0 → exec i s = .next { s with core := { s.core with
        loops := { first := BitVec.ofNat 48 (s.core.pc.toNat + 64),
                   last := BitVec.ofNat 48 (s.core.pc.toNat + 64 * (len.val + 1)), count := n, index := 0 } ::
          s.core.loops } })) ∧
    (s.core.loops = [] → exec .lbrk s = .next s) ∧
    (∀ e rest, s.core.loops = e :: rest → e.last.toNat % 64 = 0 → e.last.toNat + 64 < 2 ^ 48 →
      exec .lbrk s = .next { s.takes (e.last + 64) with core := { (s.takes (e.last + 64)).core with loops := rest } })

/-- (R143, R148, R285 to R287, R359, R360) ckpt, sstep in the task's domain, rdv in a group, yield with a pending pre-emption, launch,
exit and halt hold the next bundle, the stack released at the end of a step; rdv outside a group and yield without a
pre-emption have no effect, and sstep in another domain raises PROTECTION. Once its conditions are met the commit of R360 is
carried out in one step: the gated stores perform, the gated commands enter the engine, the shadow is the live state and the
segment number rises; with poisoned data in a load the core rolls back instead. The end of a step hands over its successors. That a hold
begins once a drain or fence of the same bundle has ended is the model's choice (DESIGN CHOICE, log entry 107). -/
def Obligations.SegmentsAndStepsHold : Prop :=
  (∀ s : State, s.core.sys.hnd = false →
    exec .ckpt s = .next (s.heldNext (.commit .ckpt)) ∧
    (s.core.preempt = none → exec .yield s = .next s) ∧
    (s.core.preempt ≠ none → exec .yield s = .next (s.heldNext (.commit .yield))) ∧
    (∀ n, (∀ t, s.myTask = some t → t.lb.rvGroup = 0) → exec (.rdv n) s = .next s) ∧
    (∀ n t, s.myTask = some t → t.lb.rvGroup ≠ 0 → exec (.rdv n) s = .next (s.heldNext (.rdv n))) ∧
    (∀ d dom t, s.myTask = some t → t.lb.domain = dom.val → (∀ n ∈ s.core.mash.nodes, n.pendingLoad = false) →
      exec (.sstep d dom) s = .next (s.heldNext (.commit (.sstep d dom)))) ∧
    (∀ d dom, (∀ t, s.myTask = some t → t.lb.domain ≠ dom.val) →
      exec (.sstep d dom) s = .next (s.takeTrap Cause.protection (BitVec.ofNat 64 s.core.issue.slot) s.core.pc)) ∧
    (∀ d a, s.featureMask.getLsbD 4 = false → s.replaySafe = false →
      exec (.launch d a) s = .next (s.heldNext (.commit (.launch d (s.x a) false))) ∧
      exec (.launchGraph d a) s = .next (s.heldNext (.commit (.launch d (s.x a) true)))) ∧
    (∀ d a, s.featureMask.getLsbD 4 = false → s.replaySafe = true →
      exec (.launch d a) s = .next (s.takeTrap Cause.protection (BitVec.ofNat 64 s.core.issue.slot) s.core.pc) ∧
      exec (.launchGraph d a) s = .next (s.takeTrap Cause.protection (BitVec.ofNat 64 s.core.issue.slot) s.core.pc)) ∧
    (∃ t, exec .halt s = .next t ∧ t.core.hold = (s.heldNext (.commit (.exit []))).core.hold ∧ t.core.mash.spine = [] ∧
      s.tileFrame { t with core := { t.core with hold := s.core.hold } }) ∧
    (∀ s0 s1 s2 s3, ∃ t, exec (.exit s0 s1 s2 s3) s = .next t ∧
      t.core.hold = (s.heldNext (.commit (.exit (([s0, s1, s2, s3].map s.successor).filter (fun a => a != 0))))).core.hold ∧
      t.core.mash.spine = [] ∧ s.tileFrame { t with core := { t.core with hold := s.core.hold } })) ∧
  (∀ (s : State) (a : After), s.holding (.commit a) → s.core.commitReady = true → (∀ e ∈ s.core.flight, e.mark = none) →
    ∃ t, step s = .next t ∧ t.mem = s.core.gate.foldl (fun m e => m.writeAll (e.performed m)) s.mem ∧ t.core.gate = [] ∧
      t.core.gateCmds = [] ∧ t.core.eng.cmds.map (fun k => k.id) = (s.core.eng.cmds ++ s.core.gateCmds).map (fun k => k.id) ∧
      (∀ k ∈ t.core.eng.cmds, k.committed = true) ∧ t.core.shadow = s.core.snapshot ∧ t.core.seg = s.core.seg + 1 ∧
      t.core.log = [] ∧ t.core.retry = false ∧ t.core.hold = a.next ∧ t.core.pc = s.core.pc ∧ t.core.regs = s.core.regs) ∧
  (∀ (s : State) (a : After) (e : InFlight) (m : LoadMark) rest, s.holding (.commit a) → s.core.commitReady = true →
    s.core.sys.hnd = false → s.core.retry = false → s.core.flight = e :: rest → e.mark = some m →
    ∃ t, step s = .next t ∧ t.mem = s.mem ∧ t.core.pc = s.core.shadow.pc ∧ t.core.seg = s.core.seg ∧ t.core.gate = [] ∧
      t.core.gateCmds = [] ∧ t.core.retry = true) ∧
  (∀ (s : State) (succ : List Word) (st : StepRec) (x : Task), s.holding (.endStep succ) → s.core.settled = true →
    s.core.lateTraps = [] → s.core.task = some st → s.task? st.task = some x →
    ∃ t, step s = .next t ∧ t.mem = s.mem ∧
      (∃ y ∈ t.launch.resident ++ t.launch.queue, y.id = st.task ∧
        y.succ = x.succ ++ succ.zipIdx.map (fun p => (st.number, p.2, p.1))) ∧
      (x.pb.total ≤ (x.next[st.gangIdx]?).getD x.pb.total →
        t.core.run = .idle ∧ t.core.task = none ∧ t.core.regs = s.core.regs))

/-- (R288, R294, R369, R370, R372) brk and trap take their trap at their bundle: FAULT.CAUSE, FAULT.INFO and TRAP.PC are saved, MODE.HND is
set and the pc is at the handler's entry; with no remote access out nothing else of the machine changes but that results in
flight are parked. A trap waits for the data of remote loads, and is then entered. In handler mode the core stops, and the step is reported as failed. -/
def Obligations.TrapsEnterTheHandler : Prop :=
  ∀ (i : Instr) (s : State) (cause : BitVec 6) (k : BitVec 16),
    (i = .brk k ∧ cause = Cause.breakpoint ∨ i = .trap k ∧ cause = Cause.software) →
    (s.core.sys.hnd = false → s.core.remote = [] → s.core.awaitsData = false →
      exec i s = .next (s.entered cause (k.setWidth 64))) ∧
    (s.core.sys.hnd = false → s.arriveLoads.core.awaitsData = false →
      ∃ t, exec i s = .next t ∧ s.trapped t cause (k.setWidth 64)) ∧
    (s.core.sys.hnd = false → s.arriveLoads.core.awaitsData = true → ∃ t, exec i s = .next t ∧
      t.core.hold = .entering cause (k.setWidth 64) s.core.pc s.core.hold false ∧ t.core.sys = s.core.sys ∧ t.core.pc = s.core.pc ∧
      t.core.regs = s.core.regs) ∧
    (∀ info parked, s.off = false → s.agenda = [] → s.progress = s → s.core.run = .running → s.core.due = 0 →
      s.core.hold = .entering cause info s.core.pc parked false → s.core.remote = [] → s.core.awaitsData = false →
      step s = .next ((s.held parked).entered cause info)) ∧
    (s.core.sys.hnd = true → exec i s = .next (s.stoppedOn cause))

/-- (R370, R371, R372, R374, R375) In handler mode rte holds, and xbnd with the 64 bytes of its bundle. The held core with no results of its own
left then returns in one step: MODE.HND is clear, the pc is TRAP.PC, the parked results and busy counts are the program's again,
and xbnd's bundle stands in place of the one at TRAP.PC; or a late trap that was held is taken in place of the return (R372). That an xbnd whose block touches a spill
region stops with PROTECTION, and that its block is read as it stands before its own bundle, are the model's readings (DEDUCED, log
entries 64 and 40); what an uncorrectable block reads as (log entry 75), and that the hold begins once a drain or fence of the same bundle
has ended (log entry 107), are its choices (DESIGN CHOICE). -/
def Obligations.HandlerReturns : Prop :=
  (∀ s : State, s.core.sys.hnd = true → exec .rte s = .next (s.heldNext (.ret none))) ∧
  (∀ (s : State) a, s.core.sys.hnd = true → (s.x a).toNat < 2 ^ 22 → (s.x a).toNat % 64 = 0 →
    (s.core.inSpill (s.x a).toNat 64 = true → exec (.xbnd a) s = .next (s.stoppedOn Cause.protection)) ∧
    (s.core.inSpill (s.x a).toNat 64 = false → exec (.xbnd a) s = .next ((s.block (s.x a) 64).1.heldNext (.ret (some
      (BitVec.ofNat 512 (ofLe (s.block (s.x a) 64).2))))))) ∧
  (∀ (s : State) e, s.off = false → s.agenda = [] → s.progress = s → s.core.run = .running → s.core.due = 0 →
    s.core.hold = .ret e → s.core.evalDue = false → s.core.faultedCmd = none → s.core.kTraps = [] →
    s.preemptDue = false → s.core.flight = [] → s.core.remote = [] → s.core.lateTraps = [] →
    step s = .next { s with core := { s.core with
      flight := s.core.late, busy := s.core.lateBusy, late := [], lateBusy := Busy.none, due := 0, fresh := s.core.lateFresh,
      done := [], lateFresh := [], hold := s.core.parked, parked := .none, sys := { s.core.sys with hnd := false }, pc := s.core.sys.trapPc,
      emul := e } }) ∧
  (∀ (s : State) e l rest, s.off = false → s.agenda = [] → s.progress = s → s.core.run = .running → s.core.due = 0 →
    s.core.hold = .ret e → s.core.evalFault = none → s.core.hndFault = none → s.core.eng.cmds = [] → s.core.kTraps = [] →
    s.preemptDue = false → s.core.flight = [] → (∀ e ∈ s.core.late, e.waits = false) → s.core.remote = [] →
    s.core.lateTraps = l :: rest → l.origin = none →
    ∃ t, step s = .next t ∧ t.core.sys.hnd = true ∧ t.core.sys.fCause = l.cause ∧ t.core.sys.fInfo = l.info ∧
      t.core.sys.trapPc = s.core.sys.trapPc ∧ t.core.pc = trapEntryAddr s.core.sys.trapVec l.cause ∧
      t.core.late = s.core.late ∧ t.core.lateTraps = rest ∧ t.core.regs = s.core.regs ∧ t.mem = s.mem)

/-- (R80, R289, R290) icinv and the three forms of tlbi start an invalidation, and its completion drops what it names of the issuer's
context, in every cache of its scope, and sets its flag; bundles that an icinv has named are then fetched at their home slices, as the
model reads R289 and R394 (DEDUCED, log entry 114); a tlbi of no tiles sets its flag at the next position, and has no effect without one. -/
def Obligations.InvalidationsStartAndComplete : Prop :=
  (∀ (s : State) a b flag sc, s.static67 (.icinv a b flag sc) = none → (s.x a).toNat < 2 ^ 48 →
    exec (.icinv a b flag sc) s = .next (s.withInval (some (if (s.x b).toNat = 0 then (0, 2 ^ 48)
      else ((s.x a).toNat / 64 * 64, ((s.x a).toNat + (s.x b).toNat + 63) / 64 * 64))) .all sc flag)) ∧
  (∀ (s : State) flag pod, s.static67 (.tlbiAll flag pod) = none →
    exec (.tlbiAll flag pod) s = .next (s.withInval none .all (if pod then .pod else .package) flag)) ∧
  (∀ (s : State) a b flag pod, s.static67 (.tlbiTensor a b flag pod) = none →
    exec (.tlbiTensor a b flag pod) s = .next (s.withInval none (.tensor ((s.x a).toNat % 2 ^ 16))
      (if pod then .pod else .package) flag)) ∧
  (∀ (s : State) a b flag pod, s.static67 (.tlbiRange a b flag pod) = none → (s.x b).toNat / 2 ^ 32 % 2 ^ 20 ≠ 0 →
    exec (.tlbiRange a b flag pod) s = .next (s.withInval none (.range ((s.x a).toNat % 2 ^ 16) ((s.x b).toNat % 2 ^ 20)
      ((s.x b).toNat / 2 ^ 32 % 2 ^ 20)) (if pod then .pod else .package) flag)) ∧
  (∀ (s : State) a b f pod, s.static67 (.tlbiRange a b (some f) pod) = none → (s.x b).toNat / 2 ^ 32 % 2 ^ 20 = 0 →
    exec (.tlbiRange a b (some f) pod) s = .next (s.withFlight [fly (.done f false) 1] [])) ∧
  (∀ (s : State) a b pod, s.static67 (.tlbiRange a b none pod) = none → (s.x b).toNat / 2 ^ 32 % 2 ^ 20 = 0 →
    exec (.tlbiRange a b none pod) s = .next s) ∧
  (∀ (s : State) (i : Inval), s.core.eng.invals = [i] → i.code = none →
    ∃ t, exec (.invalidationComplete i.id) s = .next t ∧ t.core.eng.invals = [] ∧ t.core.regs = s.core.regs.flagged i.flag ∧
      t.mem = s.mem ∧ t.core.icache = s.core.icache ∧
      ∀ e, e ∈ t.l2.tlb ↔ e ∈ s.l2.tlb ∧ ¬(e.ctx = i.ctx ∧ match i.kind with
        | .all | .secondStage => True
        | .tensor n => e.tid = n
        | .range n first count => e.tid = n ∧ first ≤ e.tile ∧ e.tile < first + count)) ∧
  (∀ (s : State) (i : Inval) (lo hi : Nat), s.core.eng.invals = [i] → i.code = some (lo, hi) →
    ∃ t, exec (.invalidationComplete i.id) s = .next t ∧ t.core.eng.invals = [] ∧ t.core.regs = s.core.regs.flagged i.flag ∧
      t.mem = s.mem ∧ t.l2 = { s.l2 with afresh := t.l2.afresh } ∧ (∀ pc, lo ≤ pc → pc < hi → t.codeAtHome pc = true) ∧
      t.core.icache = s.core.icache.filter (fun e => !(decide (lo ≤ e.1) && decide (e.1 < hi))) ∧
      t.core.loopBuf = s.core.loopBuf.filter (fun e => !(decide (lo ≤ e.1) && decide (e.1 < hi))) ∧
      ∀ n k, (n, k) ∈ t.others → ∃ k0, (n, k0) ∈ s.others ∧ (i.scope ≠ .core → (i.scope = .cluster → k0.die = s.core.die) →
        n ≠ s.cur → ∀ e ∈ k.icache, e.1 < lo ∨ hi ≤ e.1))

/-- (R46, R275, R359, R372, R399) The privilege rules: rte and xbnd and the H registers outside handler mode, the K registers for mts in
either mode, and ckpt, sstep, rdv, launch and yield in handler mode raise PRIVILEGE; an instruction whose feature the
hypervisor masks raises FEATURE-MASKED, which with DBG.ROUTE = 0 enters the handler at the entry of ILLEGAL-OPCODE. -/
def Obligations.PrivilegeAndFeatureTraps : Prop :=
  (∀ (i : Instr) (s : State), s.core.sys.hnd = false → s.core.remote = [] → s.core.awaitsData = false →
    (i = .rte ∨ (∃ a, i = .xbnd a) ∨ (∃ d r, i = .mfs d r ∧ r.handlerOnly = true) ∨
      (∃ r a, i = .mts r a ∧ (r.handlerOnly = true ∨ r.kernelOnly = true))) →
    exec i s = .next (s.entered Cause.privilege (BitVec.ofNat 64 s.core.issue.slot))) ∧
  (∀ (i : Instr) (s : State), s.core.sys.hnd = true →
    (i = .ckpt ∨ (∃ d m, i = .sstep d m) ∨ (∃ n, i = .rdv n) ∨ i = .yield ∨
      (∃ r a, i = .mts r a ∧ r.kernelOnly = true) ∨
      (s.featureMask.getLsbD 4 = false ∧ ((∃ d a, i = .launch d a) ∨ (∃ d a, i = .launchGraph d a)))) →
    exec i s = .next (s.stoppedOn Cause.privilege)) ∧
  (∀ (i : Instr) (s : State) (n : Nat), i.inSlot = true → i.feature = some n → s.featureMask.getLsbD n = true →
    s.core.sys.hnd = false → s.core.sys.dbgRoute = false → s.core.remote = [] →
    s.core.awaitsData = false →
    exec i s = .next (s.entered Cause.featureMasked (BitVec.ofNat 64 s.core.issue.slot)) ∧
      (s.entered Cause.featureMasked (BitVec.ofNat 64 s.core.issue.slot)).core.pc = s.core.sys.trapVec + 64) ∧
  (∀ (i : Instr) (s : State) (n : Nat), i.inSlot = true → i.feature = some n → s.featureMask.getLsbD n = true →
    s.core.sys.hnd = false → s.core.sys.dbgRoute = true →
    ∃ t, exec i s = .next t ∧ t.core = { s.core with hold := .hypervisor (BitVec.ofNat 64 s.core.issue.slot) } ∧
      t.malt = { s.malt with reports := s.malt.reports ++ [.masked s.cur] } ∧ t.mem = s.mem)

/-! ### Events of a core -/

/-- (R54, R140, R157, R179, R361, R45, R46) A remote store performs at its target and is then acknowledged; one that meets an
earlier access that has not performed waits; a remote load takes the bytes of its lanes into its result in flight; values move to
the classes of their depths; a bundle that needs a full gate gets an implicit checkpoint, which counts when it commits; a bundle held in SYNC passes when its
flags are set; an access that waits for pending stores is tried again. The places of values that no entry
refers to, oldest first, the flags checked before anything else of a bundle, and a remote access that performs whole in one step are the
model's choices (log entries 70, 25 and 92). -/
def Obligations.AccessAndIssueEvents : Prop :=
  (∀ (s : State) (a : RemAccess), s.core.remote = [a] → a.store = true → a.performed = false → s.core.eng.fences = [] →
    ∃ t, exec (.remoteStoreArrive a.id) s = .next t ∧
      t = { s with mem := s.mem.writeAll a.cells, marks := t.marks,
                   core := { s.core with remote := [{ a with performed := true }] } } ∧ (s.marks = [] → t.marks = [])) ∧
  (∀ (s : State) (a b : RemAccess), s.core.remote = [b, a] → a.store = true → b.performed = false → b.id ≠ a.id →
    b.meets a = true → exec (.remoteStoreArrive a.id) s = .next s) ∧
  (∀ (s : State) id, exec (.remoteStoreAck id) s = .next { s with core := { s.core with
    remote := s.core.remote.filter (fun a => !(a.store && a.performed && a.id == id)) } }) ∧
  (∀ (s : State) (a : RemAccess) (e : InFlight) (w : RemWait), s.core.remote = [a] → a.store = false → a.performed = false →
    s.core.eng.fences = [] → s.marks = [] → s.core.late = [] → s.core.flight = [e] → e.wait = some w → w.id = a.id →
    (∀ l ∈ a.lanes, inSpad s.cur l.1 = false) →
    exec (.remoteLoadArrive a.id) s = .next { s with core := { s.core with remote := [], flight := [{ e with
      what := a.form.landing (a.lanes.flatMap (fun l => s.mem.readN l.1 l.2)), wait := some { w with arrived := true } }] } }) ∧
  (∀ s : State, s.core.hold = .store → s.progress = s → exec .aliasStoreWait s = .next (s.held .none)) ∧
  (∀ s : State, exec .valueMovement s = .next { s with core := { s.core with mash := { s.core.mash with
    nodes := s.core.mash.nodes.map (fun n => if n.vals.isEmpty then n else { n with loc := s.core.placeOf n.id }) } } }) ∧
  (∀ (s t : State), s.atRest → s.tryBundle = .stalled t .gate →
    exec .implicitCheckpoint s = .next (t.held (.commit .implicit))) ∧
  (∀ s : State, s.holding (.commit .implicit) → s.core.commitReady = true → (∀ e ∈ s.core.flight, e.mark = none) →
    s.core.gateCmds = [] → s.core.eng.cmds = [] →
    ∃ t, step s = .next t ∧ t.core.hold = .none ∧ t.core.seg = s.core.seg + 1 ∧ t.ctxs = s.ctxs.map (fun c =>
      if c.id == s.ctxNo then { c with err := { c.err with implicit := satInc c.err.implicit } } else c)) ∧
  (∀ (s : State) w, s.atRest → s.fetch.2 = .word w →
    (s.core.regs.synced w = false → exec .syncPass s = .next s) ∧
    (s.core.regs.synced w = true → exec .syncPass s = .next s.issueBundle ∧ exec .bundleIssue s = .next s.issueBundle))

/-- (R167, R171, R173, R176, R184, R187, R191, R192, R216, R218, R232, R234, R237, R370) Evaluation of a demanded element of a constant
computes it and answers the demand; so does that of an element of an elementwise node and of a matrix product, from the exact values of
their materialised operands, and that of a load node, from the bits in its scratchpad block; a duplicate form whose two units differ,
which is free (DESIGN CHOICE, log entry 89), raises SILENT-MISMATCH in their place; ahead of
demand it is computed too; a store whose sectors are written, or whose acknowledgement has come, is complete and sets its flag, and
no byte outside its sectors changes; a force sets its flag once its region is computed; an evaluation fault rolls the core back
and traps with the registers of R184, once the data of every remote load has arrived (R370). -/
def Obligations.EvaluationEvents : Prop :=
  (∀ (s : State) (d : Demand) (n : TileNode) (e : Elem) (i j : Nat), s.core.faultOf d.handler = none → s.core.mash.demands = [d] →
    d.flag = none → s.core.mash.node? d.node = some n → d.node ∈ s.core.mash.spine → n.freshConst e →
    i < n.tag.rows → j < n.tag.cols → d.region = { r0 := i, r1 := i, c0 := j, c1 := j } →
    ∃ t m, exec .demandEvaluation s = .next t ∧ t.core.mash.demands = [] ∧ t.core.faultOf d.handler = none ∧ t.mem = s.mem ∧
      t.core.regs = s.core.regs ∧ t.core.mash.node? d.node = some m ∧ m.val? i j = some e) ∧
  (∀ (s : State) (d : Demand) (n oa ob : TileNode) (op : EwOp) (dup : Bool) (a b i j : Nat) (va vb : Machine.Num), s.demands d n i j →
    n.op = .ew op dup → n.args = [a, b] → n.mode.chk = false → s.core.mash.node? a = some oa → s.core.mash.node? b = some ob →
    s.core.mash.given a n.mode.ftz (oa.tag.spread i j).1 (oa.tag.spread i j).2 = some va →
    s.core.mash.given b n.mode.ftz (ob.tag.spread i j).1 (ob.tag.spread i j).2 = some vb →
    if dup && Config.unitsDiffer s.tick (i * 256 + j) then s.mismatches d n
    else s.evaluatesTo d i j
      (n.encoded i j (oa.tag.fmt.isInt && ob.tag.fmt.isInt) (op.exact (n.mode.rnd == .rdn) va vb))) ∧
  (∀ (s : State) (d : Demand) (n oa ob : TileNode) (dup : Bool) (a b i j K : Nat) (va vb : Nat → Machine.Num), s.demands d n i j →
    n.op = .mma dup → n.args = [a, b] → n.mode.chk = false → s.core.mash.node? a = some oa → s.core.mash.node? b = some ob →
    oa.tag.cols = K → ob.tag.rows = K → (∀ k < K, s.core.mash.given a n.mode.ftz i k = some (va k)) →
    (∀ k < K, s.core.mash.given b n.mode.ftz k j = some (vb k)) → oa.tag.fmt.isInt = ob.tag.fmt.isInt →
    if dup && Config.unitsDiffer s.tick (i * 256 + j) then s.mismatches d n
    else s.evaluatesTo d i j (n.encoded i j oa.tag.fmt.isInt
      (if oa.tag.fmt.isInt then Machine.Num.ofInt (dotInt n.mode.sat (fun k => (va k).toInt * (vb k).toInt) K ((K + 15) / 16))
       else dotFp n.mode.sat n.mode.ftz (fun k => (va k).mul (vb k)) K ((K + 15) / 16)))) ∧
  (∀ (s : State) (d : Demand) (n : TileNode) (acc : TileAccess) (f : Fmt) (flat i j r c : Nat), s.demands d n i j →
    n.loadsFrom acc f flat i j r c → acc.chk = false → inSpad s.cur flat = true → s.core.gate = [] → s.marks = [] →
    let bit := flat % 2 ^ 22 * 8 + r * acc.pitch * 8 + c * f.width
    let bytes := (bit % 8 + f.width + 7) / 8
    let raw := (ofLe (s.mem.readN (spadBase s.cur + bit / 8) bytes) >>> (bit % 8)) % 2 ^ f.width
    bit / 8 + bytes ≤ 2 ^ 22 → s.core.inSpill (bit / 8) bytes = false →
    s.evaluatesTo d i j (if f = n.tag.fmt then { bits := cleanBits f raw, aux := 0, mark := none } else
      { bits := (encodeElem n.tag.fmt acc.rnd acc.sat acc.ftz f.isInt (srKeyAt n.srCtr n.srKey i j)
          (decodeElem f acc.ftz raw)).bits, aux := 0, mark := none })) ∧
  (∀ (s : State) (n : TileNode) (e : Elem) (id i j : Nat), s.core.mash.node? id = some n → n.freshConst e → i < n.tag.rows →
    j < n.tag.cols → id ∈ s.core.mash.spine → s.core.mash.demands = [] →
    ∃ t m, exec (.evalAheadOfDemand id i j) s = .next t ∧ t.core.evalFault = s.core.evalFault ∧ t.mem = s.mem ∧
      t.core.regs = s.core.regs ∧ t.core.mash.node? id = some m ∧ m.val? i j = some e ∧ m.drows = []) ∧
  (∀ (s : State) (o : StoreNode) k, s.core.mash.stores = [o] → o.sent = true → s.core.mash.demands = [] →
    ∃ t, exec (.storeNodePerform o.id k) s = .next t ∧ t.core.mash.stores = [] ∧ t.core.regs = s.core.regs.flagged o.flag ∧
      t.mem = s.mem) ∧
  (∀ (s : State) (o : StoreNode) (src : TileNode) places k, s.core.mash.stores = [o] → o.sent = false → o.done = 0 →
    s.core.mash.demands = [] → s.storeReady o = true → s.core.mash.node? o.src = some src →
    s.storePlaces o = (s, places, none) → places.head?.map (fun p => p.2.2.fmt) = some src.tag.fmt →
    badPair o.access src.tag.fmt src.tag.fmt = false → (∀ c ∈ storeCells o src src.tag.fmt, c.ex = .none) →
    (∀ c x, o.access.place ≠ .remote c x) →
    (writeSectors (storeWrites src.tag.fmt places (storeCells o src src.tag.fmt))).length ≤ k →
    ∃ t, exec (.storeNodePerform o.id k) s = .next t ∧ t.core.mash.stores = [] ∧
      t.core.regs = s.core.regs.flagged o.flag ∧
      t.mem = ((writeSectors (storeWrites src.tag.fmt places (storeCells o src src.tag.fmt))).foldl
        (fun u key => u.writeSector (storeWrites src.tag.fmt places (storeCells o src src.tag.fmt)) o.after? key) s).mem ∧
      ∀ a, a / 64 ∉ writeSectors (storeWrites src.tag.fmt places (storeCells o src src.tag.fmt)) →
        t.mem.read a = s.mem.read a) ∧
  (∀ (s : State) (d : Demand), s.core.mash.demands = [d] → d.flag.isSome = true →
    (d.met = true ∨ s.core.mash.computed d.node d.region = true) → 0 < s.core.due → exec (.tfrcComplete d.id) s = .next s) ∧
  (∀ (s : State) (d : Demand), s.core.mash.demands = [d] → d.flag.isSome = true →
    (d.met = true ∨ s.core.mash.computed d.node d.region = true) → s.core.due = 0 →
    ∃ t, exec (.tfrcComplete d.id) s = .next t ∧ t.core.mash.demands = [] ∧ t.core.regs = s.core.regs.flagged d.flag ∧
      t.mem = s.mem) ∧
  (∀ (s : State) (f : EvalFault) cause info, s.quiet → s.core.evalFault = some f → f.what = .cause cause info →
    isRecovery cause = false →
    ∃ t, exec .evaluationFault s = .next t ∧ t.mem = s.mem ∧ t.core.regs = s.core.restoredRegs ∧ t.core.gate = [] ∧
      t.core.sys = { s.core.sys with fOrigin := f.origin, fDemand := f.demand, fNode := f.node, fSeg := f.seg, fCause := cause,
                                     fInfo := info, trapPc := s.core.shadow.pc, hnd := true, slack := s.core.shadow.slack } ∧
      t.core.pc = s.core.sys.trapVec + (entryCause cause).setWidth 48 * 64) ∧
  (∀ (s : State) (f : EvalFault) cause info, s.core.run = .running → s.core.due = 0 → s.core.sys.hnd = false →
    s.core.entering = false → s.core.evalFault = some f → f.what = .cause cause info → isRecovery cause = false →
    s.arriveLoads.core.awaitsData = true →
    ∃ t, exec .evaluationFault s = .next t ∧ t.core.hold = .entering cause info s.core.pc s.core.hold true ∧
      t.core.pc = s.core.pc ∧ t.core.regs = s.core.regs ∧ t.core.gate = s.core.gate ∧ t.core.sys.fOrigin = f.origin ∧
      t.core.sys.hnd = false) ∧
  (∀ (s : State) cause info parked, s.off = false → s.agenda = [] → s.progress = s → s.core.run = .running → s.core.due = 0 →
    s.core.sys.hnd = false → s.core.hold = .entering cause info s.core.pc parked true → s.core.remote = [] →
    s.core.awaitsData = false →
    ∃ t, step s = .next t ∧ t.mem = s.mem ∧ t.core.regs = s.core.restoredRegs ∧ t.core.gate = [] ∧
      t.core.sys.fCause = cause ∧ t.core.sys.fInfo = info ∧ t.core.sys.trapPc = s.core.shadow.pc ∧ t.core.sys.hnd = true ∧
      t.core.pc = s.core.sys.trapVec + (entryCause cause).setWidth 48 * 64)

/-- (R95, R99, R104, R114, R115, R369, R370) A command completes and sets its flag: a barrier once no earlier command of its kinds
is left, a copy after its last step; the increment of a signal to the own core is added; a faulted command that is not committed
rolls the core back and traps, a committed one traps late; a late trap enters the handler, and of the kernel's traps those of
class K do. An increment that meets a write of its counter in flight lands behind it (R277). -/
def Obligations.CommandAndTrapEvents : Prop :=
  (∀ (s : State) (c : Cmd) a b k, s.core.eng.cmds = [c] → s.core.eng.fences = [] → c.op = .sbar a b → c.fault = none →
    c.after = [] → c.accs = [] → c.discard = false →
    ∃ t, exec (.copyCommandComplete c.id k) s = .next t ∧ t.core.eng.cmds = [] ∧
      t.core.regs = s.core.regs.flagged c.flag ∧ t.mem = s.mem) ∧
  (∀ (s t : State) (c c' : Cmd) (d : Desc), s.core.eng.cmd? c.id = some c → c.op = .scpy d → c.fault = none →
    s.cmdBlocked c = false → c.pos < d.total → s.otherPkg d.src.kind d.pkg = false → s.otherPkg d.dst.kind d.pkg = false →
    s.copyStep c d none = (t, c', .more) → c'.pos = d.total → c'.id = c.id → c'.discard = false → c'.flag = c.flag →
    ∃ u, exec (.copyCommandComplete c.id 1) s = .next u ∧
      u.core.eng.cmds = t.core.eng.cmds.filter (fun o => o.id != c.id) ∧ u.core.regs = t.core.regs.flagged c.flag ∧
      u.mem = t.mem) ∧
  (∀ (s : State) (c : Cmd) core k n, s.core.eng.cmds = [c] → s.core.eng.fences = [] → c.op = .ssig core k s.fabric.self n none →
    s.liveHere s.ctxNo core → c.fault = none → c.after = [] → c.accs = [] → c.discard = false →
    (s.noWriteOf k → ∃ t, exec (.signalIncrement c.id) s = .next t ∧ t.core.eng.cmds = [] ∧
      t.core.regs = (s.core.regs.added k n).flagged c.flag ∧ t.mem = s.mem) ∧
    (∀ e v, s.core.flight = [e] → e.what = .ctr k v → ∃ t, exec (.signalIncrement c.id) s = .next t ∧
      t.core.eng.cmds = [] ∧ t.core.regs = s.core.regs.flagged c.flag ∧ t.core.flight = [e, fly (.inc k n) e.k])) ∧
  (∀ (s : State) (c : Cmd) cause info, s.quiet → s.core.eng.cmds = [c] → c.fault = some (.cause cause info) →
    (c.committed = false →
      ∃ t, exec (.copyCommandFault c.id) s = .next t ∧ t.mem = s.mem ∧ t.core.regs = s.core.restoredRegs ∧
        t.core.eng.cmds = [] ∧
        t.core.sys = { s.core.sys with fOrigin := originWord c.origin, fCause := cause, fInfo := info,
                                       trapPc := s.core.shadow.pc, hnd := true, slack := s.core.shadow.slack } ∧
        t.core.pc = s.core.sys.trapVec + (entryCause cause).setWidth 48 * 64) ∧
    (c.committed = true → exec (.copyCommandFault c.id) s = .next { s with core := { s.core with
      eng := { s.core.eng with cmds := [] },
      lateTraps := s.core.lateTraps ++ [{ cause := cause, info := info, origin := some (originWord c.origin) }] } })) ∧
  (∀ (s : State) (x : LateTrap) rest, s.quiet → s.core.lateTraps = x :: rest → x.origin = none → s.rollbackDue = false →
    s.core.kTraps = [] → s.bundleFaults = false →
    exec .lateTrap s = .next { s.entered x.cause x.info with core := { (s.entered x.cause x.info).core with
      lateTraps := rest } }) ∧
  (∀ (s : State) cause info, s.quiet → (cause = Cause.watchdog ∨ cause = Cause.fabricLoss) → s.takesKernel cause info →
    exec (.trapEntry cause info) s = .next (s.entered cause info)) ∧
  (∀ (s : State) cause info, cause ≠ Cause.watchdog → cause ≠ Cause.fabricLoss → exec (.trapEntry cause info) s = .next s)

/-- (R78, R81, R104, R367, R372) A page fault of an evaluation rolls the core back and tells the kernel; the core then waits. Resolved,
the page's data and the entry are written, the replicas are told and the translations are invalidated, and the core goes on at its
resume point, with the hold that stood there; not resolved, the fault is delivered as TRANSLATION, with the registers it names. So is
a second-stage fault, or as PROTECTION where the hypervisor denies the access; a core stopped on FEATURE-MASKED is resumed at its
bundle or takes the trap. That the entry changes everywhere and its translations go at once is the model's choice (DESIGN CHOICE, log
entry 83). -/
def Obligations.FaultsAreResolved : Prop :=
  (∀ (s : State) (f : EvalFault) tid tile, s.quiet → s.core.evalFault = some f → f.what = .page tid tile →
    ∃ t w, exec .pageFault s = .next t ∧ t.mem = s.mem ∧ t.core.regs = s.core.restoredRegs ∧ t.core.pc = s.core.shadow.pc ∧
      t.core.hold = .page tid tile w ∧ w.origin = some f.origin ∧ w.eval = some (f.demand, f.node, f.seg) ∧
      t.malt = { s.malt with reports := s.malt.reports ++ [.pageFault s.ctxNo tid tile] }) ∧
  (∀ (s : State) tid tile w e data, s.core.hold = .page tid tile w →
    ∃ t, exec (.pageFaultResolved (.resolved e data)) s = .next t ∧ (s.portsIdle →
      t.mem = (s.pageIn s.ctxNo tid tile e data).mem ∧ t.malt.updateSeq = s.malt.updateSeq + 1 ∧
      t.fabric.sent = s.fabric.sent ++ [.update (s.malt.updateSeq + 1) (.tile s.ctxNo tid tile e)] ∧ t.core.hold = s.core.parked ∧
      t.core.parked = .none ∧ t.core.pc = s.core.pc ∧ t.core.regs = s.core.regs ∧
      (∀ x ∈ t.l2.tlb, ¬(x.ctx = s.ctxNo ∧ x.tid = tid ∧ x.tile = tile)))) ∧
  (∀ (s : State) tid tile w, s.quiet → s.core.eng.cmds = [] → s.core.hold = .page tid tile w → w.origin = none →
    w.eval = none →
    ∀ r, r = .translation ∨ r = .protection →
      exec (.pageFaultResolved r) s = .next { s.entered Cause.translation w.info with
        core := { (s.entered Cause.translation w.info).core with parked := s.core.parked } }) ∧
  (∀ (s : State) gpa tid tile wr w, s.quiet → s.core.eng.cmds = [] → s.core.hold = .stage2 gpa tid tile wr w → w.origin = none →
    w.eval = none →
    (∀ e data, ∃ t, exec (.secondStageFault (.resolved e data)) s = .next t ∧ (s.portsIdle →
      t.mem = (s.writeGranule s.ctxNo gpa e).mem ∧ t.core.hold = s.core.parked ∧ t.core.pc = s.core.pc)) ∧
    (∃ t, exec (.secondStageFault .translation) s = .next t ∧ s.trapped t Cause.translation w.info) ∧
    (∃ t, exec (.secondStageFault .protection) s = .next t ∧ s.trapped t Cause.protection w.info)) ∧
  (∀ (s : State) info, s.core.hold = .hypervisor info →
    exec (.featureMaskedHypervisorResume false) s = .next { s with core := { s.core with hold := .none } } ∧
    (s.quiet → ∃ t, exec (.featureMaskedHypervisorResume true) s = .next t ∧
      s.trapped t Cause.featureMasked info ∧ t.core.pc = s.core.sys.trapVec + 64))

/-! ### The retransmission engine, the owner ports and the fabric -/

/-- (R113, R122 to R126, R129, R324, R326, R396, R403) At the owner a signal that is new executes once and its answer is kept; a
request that is known is answered again without effect. At the requester an answer completes the operation and sets the flag of
its command; the timeout of its class and the end of a busy wait send it again, and after LIMIT transmissions it completes
INDETERMINATE with a late trap. Acknowledgements go with every packet, alone after 50 µs, and retire what they cover; queries
are answered with the incarnation; a notice of destruction and a restart empty what they name. Nothing comes in before the
fabric is up. The cause in the place of OLD in the answer to a duplicate (log entry 82), the first incarnation kept
by what is sent again (log entry 34), one incarnation for both dies (log entry 44) and the wait for the fabric's start (log entry 47) are
the model's choices. -/
def Obligations.RemoteOperationEvents : Prop :=
  (∀ s : State, s.malt.links.fabric = false → (∀ r, exec (.remoteRequest r) s = .next s) ∧
    (∀ r, exec (.remoteReply r) s = .next s) ∧ (∀ pkg ctx n, exec (.ackArrival pkg ctx n) s = .next s) ∧
    (∀ pkg ctx, exec (.incarnationQuery pkg ctx) s = .next s ∧ exec (.contextDestroyedNotice pkg ctx) s = .next s)) ∧
  (∀ (s : State) (r : RemReq) core k n die (p : Port), s.malt.links.fabric = true → r.body = .ssig core k n →
    s.liveHere r.ctx core → s.noWriteOf k → r.cls ≠ 0 → die = decide (48 ≤ core) → s.ports[dieNo die] = p →
    (∀ q ∈ s.ports.toList, q.cache = []) → p.acks = [] → (r.retx = false ∨ r.inc = p.inc) → newer r.serial r.ack = true →
    ∃ t, exec (.remoteRequest r) s = .next t ∧ t.core.regs = s.core.regs.added k n ∧ t.mem = s.mem ∧
      t.fabric.sent = s.fabric.sent ++ [s.replyTo r p.inc (.ok false 0)] ∧
      (t.ports[dieNo die]).cache = [ReplyEntry.mk r.pkg r.ctx r.serial (.ok false 0) p.inc false]) ∧
  (∀ (s : State) (r : RemReq) die (p : Port) (e : ReplyEntry), s.malt.links.fabric = true → serialised r.body = true →
    r.cls ≠ 0 → s.ports[dieNo die] = p → p.cache = [e] → (s.ports[dieNo (!die)]).cache = [] → p.acks = [] → e.pkg = r.pkg →
    e.ctx = r.ctx → e.serial = r.serial → e.pending = false →
    let again (b : RepBody) : Prop := ∃ t, exec (.remoteRequest r) s = .next t ∧ t.core = s.core ∧ t.mem = s.mem ∧
      t.fabric.sent = s.fabric.sent ++ [s.replyTo r e.inc b]
    (∀ d old, e.rep = .ok d old → again (.ok true old)) ∧
    (∀ cause tile, e.rep = .fault cause tile → again (.ok true (cause.setWidth 64)))) ∧
  (∀ (s : State) (r : RemRep) c w o k old, s.malt.links.fabric = true → s.outOp r.ctx r.owner r.serial c w o k →
    r.body = .ok false old → dropFires c.inj r.owner r.serial = false → w.inc = some r.inc →
    (∃ n i p v l, k.op = .ssig n i p v l) →
    ∃ t, exec (.remoteReply r) s = .next t ∧ t.core.eng.cmds = [] ∧ t.core.regs = s.core.regs.flagged k.flag ∧
      t.core.lateTraps = s.core.lateTraps ∧ t.mem = s.mem) ∧
  (∀ (s : State) ctx owner serial c w o k q, s.outOp ctx owner serial c w o k → o.req = some q →
    let again (i : Instr) : Prop := ∃ t, exec i s = .next t ∧ t.core = s.core ∧ t.mem = s.mem ∧
      t.fabric.sent = s.fabric.sent ++ [.request { q with retx := true, ack := w.acked }]
    (s.timedOut ctx q.cls o.sentAt = false → exec (.remoteTimeout ctx owner serial) s = .next s) ∧
    (o.busyAt = none → s.timedOut ctx q.cls o.sentAt = true → o.tries < tmoLimit c.tmo →
      again (.remoteTimeout ctx owner serial)) ∧
    (∀ since, o.busyAt = some since → exec (.remoteTimeout ctx owner serial) s = .next s ∧
      (s.timedOut ctx q.cls since = true → again (.busyBackoffExpiry ctx owner serial)) ∧
      (s.timedOut ctx q.cls since = false → exec (.busyBackoffExpiry ctx owner serial) s = .next s)) ∧
    (o.busyAt = none → s.timedOut ctx q.cls o.sentAt = true → tmoLimit c.tmo ≤ o.tries →
      (∃ n i p v l, k.op = .ssig n i p v l) →
      ∃ t, exec (.remoteTimeout ctx owner serial) s = .next t ∧ t.core.eng.cmds = [] ∧
        t.core.regs = s.core.regs.flagged k.flag ∧ t.core.lateTraps = s.core.lateTraps ++
          [{ cause := Cause.remoteIndeterminate, info := 2, origin := some (originWord k.origin) }])) ∧
  (∀ (s : State) ctx owner, newer (s.side ctx owner).acked (s.side ctx owner).ackSent = true →
    (s.podTime.toNat < (s.side ctx owner).ackAt + 50000 → exec (.ackAlone ctx owner) s = .next s) ∧
    ((s.side ctx owner).ackAt + 50000 ≤ s.podTime.toNat →
      ∃ t, exec (.ackAlone ctx owner) s = .next t ∧ t.core = s.core ∧ t.mem = s.mem ∧
        t.fabric.sent = s.fabric.sent ++ [.ack s.fabric.self ctx owner (s.side ctx owner).acked])) ∧
  (∀ (s : State) pkg ctx n, s.malt.links.fabric = true →
    ∃ t, exec (.ackArrival pkg ctx n) s = .next t ∧ t.core = s.core ∧ t.mem = s.mem ∧
      ∀ k : Fin 2, s.ports[k].acks = [] → t.ports[k].acks = [(pkg, ctx, n)] ∧
        ∀ e ∈ t.ports[k].cache, e ∈ s.ports[k].cache ∧ (e.pkg = pkg → e.ctx = ctx → newer e.serial n = true)) ∧
  (∀ (s : State) pkg ctx, s.malt.links.fabric = true →
    ∃ t, exec (.incarnationQuery pkg ctx) s = .next t ∧ t.core = s.core ∧ t.mem = s.mem ∧
      t.fabric.sent = s.fabric.sent ++ [.reply
        { ack := (s.side ctx pkg).acked, owner := s.fabric.self, pkg := pkg, ctx := ctx, serial := 0, inc := s.ports[0].inc,
          tag := 0, body := .incarnation }]) ∧
  (∀ (s : State) ctx owner, ((s.side ctx owner).query = none → exec (.incarnationQueryTimeout ctx owner) s = .next s) ∧
    ∀ since, (s.side ctx owner).query = some since →
      (s.timedOut ctx 1 since = false → exec (.incarnationQueryTimeout ctx owner) s = .next s) ∧
      (s.timedOut ctx 1 since = true → ∃ t, exec (.incarnationQueryTimeout ctx owner) s = .next t ∧ t.core = s.core ∧
        t.mem = s.mem ∧ t.fabric.sent = s.fabric.sent ++ [.query s.fabric.self ctx owner])) ∧
  (∀ (s : State) pkg ctx, s.malt.links.fabric = true →
    ∃ t, exec (.contextDestroyedNotice pkg ctx) s = .next t ∧ t.core = s.core ∧ t.mem = s.mem ∧
      ∀ (k : Fin 2) e, e ∈ t.ports[k].cache ↔ e ∈ s.ports[k].cache ∧ ¬(e.pkg = pkg ∧ e.ctx = ctx)) ∧
  (∀ (s : State) inc, 1 ≤ inc → inc ≤ 65535 → (∀ p ∈ s.ports.toList, p.inc ≠ inc) →
    exec (.ownerRestart inc) s = .next { s with ports := #v[Port.mk [] [] inc [], Port.mk [] [] inc []] })

/-- (R116, R119, R402, R403, R404, R405) A class-0 transfer leaves in its slot, and again in its retry slot, and at no other time; at
its deadline its status word and its flag are written. An abandoned reservation that has not begun is marked and announced. A
flit with a bad CRC is dropped and counted; pod time is lost and found again. A packet without an answer is sent again after the
timeout of its class, and an answered one that holds no data is forgotten 10 µs after its last transmission. The CRC-32 is that of IEEE 802.3, which the
spec does not name (PRESUMED, log entry 8). -/
def Obligations.FabricEvents : Prop :=
  (∀ (s : State) (t : Transfer) r es acked, s.transfer? t.id = some t → t.core = s.cur →
    s.reservationOf t = some r → r.abandoned = false → r.peerAbandoned = false →
    (s.transferData t).1 = s → (s.transferData t).2.toOption = some es →
    (acked = false ∨ s.ownPackage t.desc.pkg = false) →
    (t.tries = 0 → t.start ≤ s.podTime.toNat → s.podTime.toNat < t.start + 64 →
      exec (.sxfrSlotSend t.id acked) s = .next ((s.putTransfer { t with tries := 1, delivered := acked }).sends
        (.transfer t.port t.start es))) ∧
    (t.tries = 1 → t.delivered = false → r.slot.retry ≤ s.podTime.toNat → s.podTime.toNat < r.slot.retry + 64 →
      exec (.sxfrRetrySend t.id acked) s = .next ((s.putTransfer { t with tries := 2, delivered := acked }).sends
        (.transfer t.port t.start es)))) ∧
  (∀ (s : State) (t : Transfer) r acked, s.transfer? t.id = some t → s.reservationOf t = some r →
    (s.podTime.toNat < t.start ∨ t.start + 64 ≤ s.podTime.toNat ∨ r.abandoned = true ∨ r.peerAbandoned = true →
      exec (.sxfrSlotSend t.id acked) s = .next s) ∧
    (s.podTime.toNat < r.slot.retry ∨ r.slot.retry + 64 ≤ s.podTime.toNat ∨ t.delivered = true ∨ r.abandoned = true ∨
        r.peerAbandoned = true →
      exec (.sxfrRetrySend t.id acked) s = .next s)) ∧
  (∀ (s : State) (t : Transfer) c d a b r arrive, s.transfer? t.id = some t → t.core = s.cur → t.ctx = s.ctxNo → s.reservationOf t = some r →
    r.abandoned = false → r.peerAbandoned = false → t.tries = 1 → t.delivered = true → s.noRanges →
    s.core.eng.cmds = [c] → s.core.eng.fences = [] → c.op = .sxfr d a b → c.fault = none → c.after = [] → c.accs = [] →
    c.discard = false → s.fabric.transfers = [t] → c.id = t.cmd → r.slot.start + 64 * r.slot.hops ≤ s.podTime.toNat →
    r.slot.start ≤ arrive * 64 + 63 → arrive * 64 ≤ r.slot.start + 64 * r.slot.hops →
    ∃ u, exec (.sxfrDeadline t.id arrive) s = .next u ∧ u.core.eng.cmds = [] ∧
      u.core.regs = s.core.regs.flagged c.flag ∧
      u.mem = ((s.closeTransfer t.id t.core (BitVec.ofNat 64 (arrive % 2 ^ 48 * 65536 + 257))).writeUnit { c with clean := [] }
        Fetch.plain ((spadBase s.cur + t.status) * 8) 64 (arrive % 2 ^ 48 * 65536 + 257) false).1.mem) ∧
  (∀ (s : State) ctx, ∃ t, exec (.reservationAbandon ctx) s = .next t ∧ t.core = s.core ∧ t.mem = s.mem ∧
    t.fabric.sent = s.fabric.sent ++ [.abandon ctx] ∧
    t.fabric.reservations = s.fabric.reservations.map (fun r => if s.podTime.toNat < r.slot.start then
      { r with abandoned := r.abandoned || r.slot.ctx == ctx, peerAbandoned := r.peerAbandoned || r.slot.peer == ctx } else r)) ∧
  (∀ (s : State) (bytes : List Byte), exec (.flitReceive bytes) s =
    .next (if s.malt.links.fabric = false then s
    else if bytes.length = 64 ∧ (crc32 (bytes.take 60)).toNat = ofLe (bytes.drop 60) then
      { s with fabric := { s.fabric with received := s.fabric.received ++ [bytes] } }
    else { s with fabric := { s.fabric with crcDrops := satInc s.fabric.crcDrops } })) ∧
  (∀ s : State, exec .podTimeLoss s =
    .next { s with fabric := { s.fabric with inStep := false, podFaults := satInc s.fabric.podFaults } }) ∧
  (∀ s : State, exec .podTimeAgainInStep s = .next { s with fabric := { s.fabric with inStep := true } }) ∧
  (∀ (s : State) (p : OutPacket), s.fabric.out = [p] → p.acked = false →
    exec (.packetRetransmissionTimeout p.tag) s = .next (if s.timedOut p.req.ctx p.req.cls p.lastTx = false then s
      else { s with fabric := { s.fabric with
        out := [{ p with req := { p.req with retx := true }, retx := true, lastTx := s.podTime.toNat }],
        sent := s.fabric.sent ++ [.request { p.req with retx := true }] } })) ∧
  (∀ (s : State) tag, exec (.packetAgeExpiry tag) s = .next { s with fabric := { s.fabric with
    out := s.fabric.out.filter (fun p => !(decide (p.tag = tag ∧ p.acked = true ∧ p.retx = true ∧ p.held = none ∧
      p.lastTx + 10000 ≤ s.podTime.toNat))) } })

/-! ### The launch hardware -/

/-- (R145, R148, R330, R336 to R345, R350 to R353, R376 to R378) A dispatched step begins at its entry with its registers; tasks age after 1 ms and
mark the gangs they pre-empt; a core is switched out at its horizon with its state saved, in the save area that the kernel has named where there is one, and restored from it. A complete
barrier opens with the next generation in the register; a rendezvous ends when all members have come, unequal tags with a late trap. A
completed task leaves the package; a stopped replay-safe step runs again; a machine that holds still wakes the watchdog; the
kernel's port queues a task or reports the refusal. The form of the save area and what a
restore takes from it (log entries 85 and 86), the switch of a pre-empted core (log entry 36), the watchdog's interval and its FAULT.INFO
(log entries 37 and 23) and the tag shown by an unequal rendezvous (log entry 93) are the model's choices. -/
def Obligations.LaunchEvents : Prop :=
  (∀ (s : State) (t : Task) cr, s.pickTask = some (t, cr) → t.cores = [s.cur] → t.ended = [] →
    (∀ c ∈ s.ctxs, c.saved = []) → s.launch.waiting = [] →
    ∃ u, exec .taskDispatch s = .next u ∧ u.mem = s.mem ∧ u.core.run = .running ∧ u.core.pc = t.lb.entry.setWidth 48 ∧
      u.core.sys.hnd = false ∧ u.core.sys.modeBits = 0 ∧ u.core.regs.x[7] = BitVec.ofNat 64 ((t.next[0]?).getD 0) ∧
      u.core.regs.x[8] = t.lb.opb ∧ u.core.regs.x[9] = 0 ∧ u.core.regs.x[10] = BitVec.ofNat 64 t.lb.gang ∧
      u.core.regs.p = Vector.replicate 16 false ∧ u.core.regs.t = Vector.replicate 16 0xFFFF_FFFF ∧
      (∃ st, u.core.task = some st ∧ st.task = t.id ∧ st.number = (t.next[0]?).getD 0) ∧
      u.launch.queue = s.launch.queue.filter (fun x => x.id != t.id) ∧ u.launch.credits = cr ∧
      (∃ x ∈ u.launch.resident, x.id = t.id)) ∧
  (∀ (s : State) id, exec (.taskAging id) s = .next { s with launch := { s.launch with queue := s.launch.queue.map (fun t =>
    if t.id = id ∧ t.enqueued + 1000000 < s.podTime.toNat then { t with aged := true } else t) } }) ∧
  (∀ (s : State) (t r : Task), s.launch.queue = [t] → s.launch.resident = [r] → preempts t.lb.prio r.lb.prio = true →
    t.needs = [s.cur] → r.needs = [s.cur] → s.core.preempt = none →
    exec (.preemptionMark t.id) s = .next { s with core := { s.core with
      preempt := some (s.podTime.toNat + min s.core.sys.horizon.toNat 10000) } }) ∧
  (∀ (s : State) n st x, s.core.preempt = some n → n ≤ s.podTime.toNat → s.core.atBoundary = true → s.beforePreempt = false →
    s.core.remote = [] → s.core.savable = true → s.core.task = some st → s.ctx? s.ctxNo = some x →
    ∃ u y, exec .preemptHorizon s = .next u ∧ u.core.run ≠ .running ∧ u.ctx? s.ctxNo = some y ∧
      lookupNat (savedKey st.task s.cur) y.saved = some { s.core with preempt := none, done := [] } ∧
      (lookupNat s.cur x.saves = none → u.mem = s.mem) ∧
      ∀ a, lookupNat s.cur x.saves = some a → u.mem = s.mem.writeAll (s.core.saveCells x.inj s.tick a false)) ∧
  (∀ (s : State) st c k, s.core.run = .switchedOut → s.core.task = some st → s.core.preempt = none → s.ctxs = [c] →
    lookupNat (savedKey st.task s.cur) c.saved = some k → c.savedIncs = [] → c.savedFlags = [] → c.savedGens = [] →
    let r := match lookupNat s.cur c.saves with
      | some a => k.reload s.mem a
      | none => k
    ∃ u, exec .contextRestore s = .next u ∧ u.mem = s.mem ∧ u.core = { r with
      sys := { r.sys with dbgRoute := s.core.sys.dbgRoute, horizon := s.core.sys.horizon },
      icache := s.core.icache, die := s.core.die, pos := s.core.pos, logical := s.core.logical, run := .running,
      preempt := none, nextAcc := s.core.nextAcc, eng := { r.eng with nextId := s.core.eng.nextId } }) ∧
  (∀ (s : State) (dom : Fin 16) d t r m, lookupNat dom.val s.launch.domains = some d → s.task? d.task = some t →
    t.needs = [s.cur] → d.arrived = [s.cur] → s.core.hold = .barrier r m → t.replaySafe = false → s.bothDies t = false →
    (∀ c ∈ s.ctxs, c.saved = []) →
    ∃ u, exec (.stepBarrier dom) s = .next u ∧ u.mem = s.mem ∧ u.core.hold = .none ∧ u.core.pc = s.core.pc ∧
      u.core.regs = (if r = 0 then s.core.regs else { s.core.regs with x := s.core.regs.x.set r ((d.gen + 1).setWidth 64) }) ∧
      lookupNat dom.val u.launch.domains = some { d with gen := d.gen + 1, arrived := [] }) ∧
  (∀ (s : State) t die n, s.task? t.id = some t → t.lb.rvGroup ≠ 0 → (∀ c ∈ s.ctxs, c.saved = []) → s.core.hold = .rdv n →
    (s.members t die = [s.cur] →
      exec (.rendezvousRelease t.id die) s = .next { s with core := { s.core with hold := .none } }) ∧
    (∀ c m, c ≠ s.cur → s.members t die = [s.cur, c] → (s.getCore c).hold = .rdv m → m ≠ n →
      ∃ u, exec (.rendezvousRelease t.id die) s = .next u ∧ u.core = { s.core with
        hold := .none, lateTraps := s.core.lateTraps ++
          [LateTrap.mk Cause.software (n.setWidth 64 ||| (n.setWidth 64 <<< 8)) none] })) ∧
  (∀ (s : State) (t : Task), s.task? t.id = some t → t.done = true → t.succ = [] → t.graph = none → s.launch.waiting = [] →
    s.launch.graphs = [] →
    ∃ u, exec (.taskCompletion t.id) s = .next u ∧ u.core = s.core ∧ u.mem = s.mem ∧
      u.launch.resident = s.launch.resident.filter (fun x => x.id != t.id) ∧
      u.launch.domains = s.launch.domains.filter (fun d => d.2.task != t.id) ∧ u.launch.queue = s.launch.queue ∧
      u.malt.reports = if t.failed then s.malt.reports ++ [.taskFailed t.id] else s.malt.reports) ∧
  (∀ (s : State) (t : Task) st, s.core.run = .stopped → s.core.task = some st → s.task? st.task = some t → t.id = st.task →
    t.replaySafe = true → s.malt.coreMap.any (fun m => m.1 == s.cur) = true →
    ∃ u, exec (.stepReplay s.cur .replay) s = .next u ∧ u.mem = s.mem ∧ u.core.run = .running ∧
      u.core.pc = t.lb.entry.setWidth 48 ∧ u.core.regs.x[7] = BitVec.ofNat 64 st.number ∧
      (∃ z, u.core.task = some z ∧ z.number = st.number ∧ z.passed = 0)) ∧
  (∀ (s : State), (s.allStill = false → ∀ act, exec (.watchdog act) s = .next s) ∧
    (s.allStill = true → s.malt.reports.contains .watchdog = false →
      exec (.watchdog .none) s = .next { s with malt := { s.malt with reports := s.malt.reports ++ [.watchdog] } }) ∧
    (s.allStill = true → s.malt.reports.contains .watchdog = true → s.quiet →
      s.bump.takesKernel Cause.watchdog (Config.watchdogInfo s.tick) →
      exec (.watchdog (.deliver s.cur)) s = .next (s.bump.entered Cause.watchdog (Config.watchdogInfo s.tick)))) ∧
  (∀ (s : State) ctx (addr : Word),
    (addr.toNat % 64 ≠ 0 → ∀ g, exec (.kernelCommandPortLaunch ctx addr g) s =
      .next { s with malt := { s.malt with reports := s.malt.reports ++ [.refusedLaunch ctx addr 1] } }) ∧
    (∀ t b p, s.loadBlocks ctx addr.toNat true true = (t, .got (.ok (b, p))) → t.launch.queue.length < 768 →
      ∃ u x, exec (.kernelCommandPortLaunch ctx addr false) s = .next u ∧ u.core = t.core ∧ u.mem = t.mem ∧
        u.launch.queue = t.launch.queue ++ [x] ∧ x.lb = b ∧ x.pb = p ∧ x.id = t.launch.nextTask ∧ x.ended = []))

/-! ### The kernel's and the hypervisor's memory -/

/-- (R68, R69, R80, R82, R83, R84, R90, R129, R130, R309, R379, R393, R394) What the kernel and the memory system do to memory, tables and
caches: a frame that begins to move is marked, and then retargeted or freed again, each time under the next update of every
replica and with its translations dropped; table updates apply in sequence and are acknowledged; an invalidation drops what it
covers; a staging change discards the ways that change role; the scrub and an eviction settle latent errors; of an image that
links data is written and code goes bundle by bundle; one bundle is written whole; a context is created with its scratchpads
zeroed; the host reads and writes elements at home. An image that goes in bundle by bundle and a refused load
without effect (log entry 39), an update out of sequence ignored (log entry 47), a change that acts everywhere at once (log entry 83),
discarded ways that read 0 (log entry 5) and the form of a BAR2 access (log entry 38) are the model's choices. -/
def Obligations.KernelMemoryEvents : Prop :=
  (∀ (s : State) ctx tid tile frame e, s.tileEntry ctx tid tile = some e → e / 2 ^ 63 % 2 = 1 →
    let changed (st : MigrationStep) (e' : Nat) : Prop := ∃ t, exec (.frameMigration ctx tid tile frame st) s = .next t ∧
      t.core = s.core ∧ t.mem = (s.writeTile ctx tid tile (BitVec.ofNat 64 e')).mem ∧
      t.malt.updateSeq = s.malt.updateSeq + 1 ∧
      t.fabric.sent = s.fabric.sent ++ [.update (s.malt.updateSeq + 1) (.tile ctx tid tile (BitVec.ofNat 64 e'))] ∧
      ∀ x ∈ t.l2.tlb, ¬(x.ctx = ctx ∧ x.tid = tid ∧ x.tile = tile)
    (e / 2 ^ 62 % 2 = 0 → changed .mark (e + 2 ^ 62)) ∧
    (e / 2 ^ 62 % 2 = 1 → s.portsIdle →
      changed .retarget (e - 2 ^ 62 - e / 2 ^ 16 % 2 ^ 32 * 2 ^ 16 + frame % 2 ^ 32 * 2 ^ 16) ∧
      changed .abandon (e - 2 ^ 62))) ∧
  (∀ (s : State) n ctx tid e,
    (n ≠ s.malt.updateSeq + 1 → exec (.tableUpdateMulticast n (.tensor ctx tid e)) s = .next s) ∧
    (∀ c, n = s.malt.updateSeq + 1 → s.ctxs = [c] → c.id = ctx →
      exec (.tableUpdateMulticast n (.tensor ctx tid e)) s = .next { s with
        ctxs := [{ c with tensors := insertNat tid e c.tensors }], malt := { s.malt with updateSeq := n },
        fabric := { s.fabric with sent := s.fabric.sent ++ [.updateAck n] } })) ∧
  (∀ (s : State) ctx k, s.portsIdle → exec (.kernelInvalidate ctx k) s = .next { s with l2 := { s.l2 with
    tlb := s.l2.tlb.filter (fun e => !(e.ctx == ctx && k.covers e)) } }) ∧
  (∀ (s : State) (slice : Fin 48) pairs, pairs ≤ 5 → quotaSum s.ctxs slice.val ≤ 10 - 2 * pairs →
    (∀ c ∈ s.ctxs, ∀ w ∈ c.windows, w.1 = slice.val → w.2.2 = 0) →
    ∃ t, exec (.stagingReconfigure slice.val pairs) s = .next t ∧ t.core = s.core ∧
      t.l2.pairs = s.l2.pairs.set slice.val pairs ∧ ∀ a, t.mem.read a =
        if stagingBase slice.val + min s.l2.pairs[slice] pairs * 2 ^ 20 ≤ a ∧
          a < stagingBase slice.val + max s.l2.pairs[slice] pairs * 2 ^ 20 then 0 else s.mem.read a) ∧
  (∀ (s : State) blk, blk < 2 ^ 33 → s.malt.holder blk = none →
    (s.marks = [(blk, .latentUe)] → exec .memoryScrub s = .next { s with marks := [(blk, .poison)], malt := { s.malt with
      pfErr := { s.malt.pfErr with memUe := satInc s.malt.pfErr.memUe } } }) ∧
    (s.marks = [(blk, .latentCe)] → exec .memoryScrub s = .next { s with marks := [], malt := { s.malt with
      pfErr := { s.malt.pfErr with memCe := satInc s.malt.pfErr.memCe } } })) ∧
  (∀ (s : State) line, s.marks = [] →
    ((∀ x ∈ s.l2.lines, x.line = line → x.dirty = false) → exec (.l2DirtyEviction line) s = .next s) ∧
    (∀ x, s.l2.lines.find? (fun x => x.line == line && x.dirty) = some x → exec (.l2DirtyEviction line) s =
      .next { s with l2 := { s.l2 with
        lines := s.l2.lines.filter (fun y => !(y.slice == x.slice && y.line == x.line)) } })) ∧
  (∀ (s : State) ctx objs,
    (s.link ctx objs = none → exec (.loadImage ctx objs) s = .next s) ∧
    (∀ p bs cs core off, s.link ctx objs = some [(false, p, bs)] → p.target = .spad core off →
      s.placeCells ctx p bs = .got cs →
      ∃ t, exec (.loadImage ctx objs) s = .next t ∧ t.mem = s.mem.writeAll cs ∧ t.core = s.core) ∧
    (∀ p bs, s.link ctx objs = some [(true, p, bs)] →
      exec (.loadImage ctx objs) s =
        .next { s with malt := { s.malt with loads := s.malt.loads ++ codeLoads ctx p.base bs } })) ∧
  (∀ (s : State) ctx addr b cs rest, s.malt.loads = .code ctx addr b :: rest →
    s.controlCells ctx addr (leBytes 64 b.toNat) = .got cs →
    s.loadStep.mem = s.mem.writeAll cs ∧ s.loadStep.malt.loads = rest ∧ s.loadStep.core = s.core) ∧
  (∀ (s : State) ctx (addr : CodeAddr) b,
    (addr.toNat % 64 ≠ 0 → exec (.kernelCodeWrite ctx addr b) s = .next s) ∧
    (∀ cs, addr.toNat % 64 = 0 → s.controlCells ctx addr.toNat (leBytes 64 b.toNat) = .got cs →
      ∃ t, exec (.kernelCodeWrite ctx addr b) s = .next t ∧ t.mem = s.mem.writeAll cs ∧ t.core = s.core)) ∧
  (∀ (s : State) (c : CtxInput),
    (s.creates c = false → exec (.contextCreation c) s = .next s) ∧
    (s.creates c = true → ∃ t x, exec (.contextCreation c) s = .next t ∧ t.core = s.core ∧
      t.ctxs = s.ctxs.map (fun y => { y with cores := y.cores.filter (fun n => !c.cores.contains n) }) ++ [x] ∧
      x.id = c.ctx ∧ x.cores = c.cores ∧ x.tensors = c.tensors ∧ x.stage2 = c.stage2 ∧ x.saves = c.saves ∧
      x.tmo = 0x0040_0064_0005_0014 ∧ x.err = ErrRegs.zero ∧ x.owners = [] ∧ x.saved = [] ∧
      x.trapVec = c.trapVec &&& 0xFFFF_FFFF_F000 ∧
      ∀ a, ((∃ n ∈ c.cores, spadBase n ≤ a ∧ a < spadBase n + 2 ^ 22) → t.mem.read a = 0) ∧
        ((∀ n ∈ c.cores, a < spadBase n ∨ spadBase n + 2 ^ 22 ≤ a) → t.mem.read a = s.mem.read a))) ∧
  (∀ (s : State) fn tid e v, s.malt.links.endpoint = false → exec (.hostBar2Access fn tid e v) s = .next s) ∧
  (∀ (s t : State) fn tid e c x, s.malt.links.endpoint = true → (∀ a ∈ s.malt.hostWaiting, a.fn ≠ fn) →
    s.exporter fn.val tid = some c → t.marks = [] →
    (s.portPlace c.id tid e none false = (t, .ok x) → ∃ u, exec (.hostBar2Access fn tid e none) s = .next u ∧
      u.mem = t.mem ∧ u.core = t.core ∧ u.malt.hostReads = t.malt.hostReads ++
        [((ofLe (t.mem.readN (x.bit / 8) ((x.bit % 8 + unitBits x.fmt + 7) / 8)) >>> (x.bit % 8)) % 2 ^ unitBits x.fmt,
          false)]) ∧
    (∀ v : BitVec 512, s.portPlace c.id tid e none true = (t, .ok x) →
      exec (.hostBar2Access fn tid e (some v)) s = .next (t.homeWrite x.bit (unitBits x.fmt) v.toNat false true)))

/-! ### The Maltings -/

/-- (R5, R129, R293, R395 to R399, R406 to R409) Power-on checks the root monitor's key and signature, its version and the
kernel's signature, and a failed check holds the package in reset; a package that is up has empty memory, its cores renumbered
and its links. The responder answers the requests of R397, and no other slot or request. A mailbox write tells the kernel and
starts no core; a token that verifies is granted; audits run when they are due and meet no reserved slot; throttling counts; a
scanned core is reset, and leaves service when its signature differs; numbers change only with nothing resident; a later image is
measured and kept when it passes. The kernel writes the K registers and its settings; the filter keeps its cores 1 to 7 from the
root monitor's. The error of digests of
other slots (PRESUMED, log entry 9), the numbers of failed checks and the key and version of an image (log entry 47), audits held off by
any reserved slot (log entry 87), registers that move with their core (log entry 46), a filtered read of 0 (log entry 96) and a filter
over all 16 MiB of the SRAM (DESIGN CHOICE, log entry 97) are the model's choices. That the kernel's image and every later one are
verified with the fused key is the model's reading (DEDUCED, log entry 108). -/
def Obligations.MaltingsEvents : Prop :=
  let manifest (im : Image) : List Byte := leBytes 8 im.version ++ im.manifest
  let signed (im : Image) : Bool := decide (im.version < 2 ^ 64) && decide (Config.sha512 im.key = Config.fusedKeyDigest) &&
    Config.ecdsaVerify (leBytes 64 (Config.sha512 im.bytes).toNat ++ manifest im) im.key
  (∀ (s : State) (b : BootInput), (s.malt.boot ≠ .off → exec (.boot b) s = .next s) ∧
    (s.malt.boot = .off →
      let logged := s.malt.log ++ [Config.sha512 (b.kernel.bytes ++ manifest b.kernel)]
      if signed b.monitor = false then exec (.boot b) s = .next { s with malt := { s.malt with boot := .failed 1 } }
      else if b.monitor.version < s.malt.rollback then
        exec (.boot b) s = .next { s with malt := { s.malt with boot := .failed 2 } }
      else if signed b.kernel = true then
        ∃ t, exec (.boot b) s = .next t ∧ t.mem = [] ∧ t.marks = [] ∧ t.malt.boot = .up ∧
          t.malt.images = [b.monitor, b.kernel] ∧ t.malt.log = logged ∧
          t.malt.links.endpoint = true ∧ t.malt.links.nvme = true ∧ t.malt.links.fabric = true ∧
          t.malt.coreMap = buildMap ((List.range 96).filter (fun p => !b.badCores.contains p))
      else exec (.boot b) s = .next { s with malt := { s.malt with boot := .failed 3, log := logged } })) ∧
  (∀ s : State,
    let tells (i : Instr) (a : SpdmAnswer) : Prop :=
      exec i s = .next (if s.malt.links.endpoint = true then s.answers a else s)
    tells .getVersion (.version 1 3) ∧ tells .getCapabilities (.capabilities false false) ∧
    tells .negotiateAlgorithms (.algorithms 521 512) ∧ tells (.getDigests 0) (.digests 0 (Config.certDigest 0)) ∧
    (∀ n, n ≠ 0 → tells (.getDigests n) (.unsupported 0x81)) ∧
    (∀ off n, tells (.getCertificate 0 off n) (.certificate 0 off n (Config.certificate 0 off n))) ∧
    (∀ nonce, tells (.challenge 0 nonce) (.challenge 0 (Config.ecdsaSign (s.malt.evidence nonce)))) ∧
    (∀ nonce, tells (.getMeasurements false nonce) (.measurements s.malt.log s.malt.rollback none) ∧
      tells (.getMeasurements true nonce) (.measurements s.malt.log s.malt.rollback
        (some (Config.ecdsaSign (s.malt.evidence nonce))))) ∧
    (∀ code, tells (.spdmUnsupportedRequest code) (.unsupported code))) ∧
  (∀ (s : State) (fn : Fin 17) (off : BitVec 16) v, exec (.hostMailboxWrite fn off v) s = .next
    (if s.malt.links.endpoint = true then { s with malt := { s.malt with
      bar0 := insertNat (fn.val * 65536 + off.toNat) v s.malt.bar0,
      reports := s.malt.reports ++ [.mailbox fn.val off.toNat v] } } else s)) ∧
  (∀ (s : State) (k : DebugToken), exec (.debugAuthorisation k) s = .next
    (if k.package = s.fabric.self ∧
        Config.ecdsaVerify (leBytes 8 k.package ++ leBytes 8 k.ctx ++ k.bytes ++ k.signature) Config.debugKey = true then
      { s with malt := { s.malt with
        debugGrants := s.malt.debugGrants ++ [k.ctx],
        log := s.malt.log ++ [Config.sha512 (leBytes 8 k.package ++ leBytes 8 k.ctx ++ k.bytes)] } }
    else s)) ∧
  (∀ (s : State) die lost dup, (s.auditDue die = false ∨ s.auditMeetsSlot = true → exec (.permitAudit die lost dup) s = .next s) ∧
    (s.auditDue die = true → s.auditMeetsSlot = false →
      ((∃ t ∈ s.launch.queue, t.lb.prio = 7) → ∃ t, exec (.permitAudit die lost dup) s = .next t ∧
        t.malt = { s.malt with audit := { s.malt.audit with again := s.malt.audit.again.set (dieNo die) true } }) ∧
      ((∀ t ∈ s.launch.queue, t.lb.prio ≠ 7) → ∃ t, exec (.permitAudit die lost dup) s = .next t ∧
        t.malt.permitsRestored = s.malt.permitsRestored + BitVec.ofNat 32 lost ∧
        t.malt.linksReset = s.malt.linksReset + BitVec.ofNat 32 dup ∧ t.malt.audit.again[dieNo die] = false ∧
        t.malt.audit.last[dieNo die] = s.podTime.toNat))) ∧
  (∀ (s : State), s.launch.busyCore s.cur = false → s.malt.coreMap.any (fun m => m.1 == s.cur) = true →
    (s.core.quiesced = false → ∀ m ab, exec (.scanTest s.cur m ab) s = .next s) ∧
    (s.core.quiesced = true →
      (∀ m ab, ab = true ∨ (∃ t ∈ s.launch.queue, t.lb.prio = 7 ∧ s.cur ∈ t.needs) → exec (.scanTest s.cur m ab) s =
        .next { s with malt := { s.malt with scansAborted := s.malt.scansAborted + 1 } }) ∧
      ((∀ t ∈ s.launch.queue, t.lb.prio ≠ 0 → s.cur ∉ t.needs) →
        (∃ t, exec (.scanTest s.cur true false) s = .next t ∧ t.core.run = .idle ∧ t.core.regs = Regs.reset ∧
          t.core.sys = SysRegs.reset ∧ t.malt = s.malt ∧ t.mem = s.mem) ∧
        (∃ t, exec (.scanTest s.cur false false) s = .next t ∧ t.core.run = .outOfService ∧ t.mem = s.mem ∧
          t.malt.coreMap = s.malt.coreMap.filter (fun x => x.1 != s.cur))))) ∧
  (∀ (s : State) n, exec (.thermalThrottle n) s =
    .next { s with malt := { s.malt with throttled := s.malt.throttled + n } }) ∧
  (∀ s : State, exec .thermalShutdown s = .next { s with malt := { s.malt with boot := .shutDown, hot := true } }) ∧
  (∀ s : State, (s.launch.resident ≠ [] → exec .logicalCoreMapRenumber s = .next s) ∧
    (s.launch.resident = [] → ∃ t, exec .logicalCoreMapRenumber s = .next t ∧ t.launch = s.launch ∧
      t.core.regs = s.core.regs ∧ t.malt.coreMap = buildMap (s.malt.coreMap.map (fun m => m.2)))) ∧
  (∀ (s : State) (im : Image), exec (.imageVerification im) s = .next { s with malt := { s.malt with
    log := s.malt.log ++ [Config.sha512 (im.bytes ++ manifest im)],
    images := if signed im = true ∧ s.malt.rollback ≤ im.version then s.malt.images ++ [im] else s.malt.images } }) ∧
  (∀ (s : State) (ctx : Nat) (x : Ctx) v, s.ctxs = [x] → x.id = ctx →
    ((s.outer (.remopTmo ctx v)).ctxs = [{ x with tmo := v &&& 0x00FF_FFFF_FFFF_FFFF }]) ∧
    (∀ n, n ≤ 7 → (s.outer (.ceiling ctx n)).ctxs = [{ x with ceiling := n }])) ∧
  (∀ (s : State) v, (s.outer (.horizon s.cur v)).core.sys = { s.core.sys with horizon := v } ∧
    (∀ b, s.core.sys.ctxId.toNat ∉ s.malt.debugGrants → s.outer (.dbgRoute s.cur b) = s) ∧
    (∀ b, s.core.sys.ctxId.toNat ∈ s.malt.debugGrants →
      (s.outer (.dbgRoute s.cur b)).core.sys = { s.core.sys with dbgRoute := b })) ∧
  (∀ (s : State) (k : Fin 8) (p : RootPlace), k ≠ 0 → s.outer (.rootRead k p) = { s with malt := { s.malt with
    root := { s.malt.root with reads := s.malt.root.reads ++ [0], refused := s.malt.root.refused ++ [(k, p)] } } }) ∧
  (∀ (s : State) n, s.outer (.powerLimit n) =
    if n ≤ 2400 then { s with malt := { s.malt with powerLimit := n } } else s)
end

