-- ==== Sys2Proof/Laws/Memory.lean ====
section
/-! SUPPORT. The laws of memory: a read after a write, and the canonical form, which every memory operation keeps. -/

namespace Sys2Proof.Machine

/-! ### Reading -/

@[simp] theorem Memory.read_nil (a : Nat) : Memory.read [] a = 0 := rfl

@[simp] theorem Memory.read_cons (a k : Nat) (b : Byte) (m : Memory) :
    Memory.read ((k, b) :: m) a = if k = a then b else Memory.read m a := rfl

/-- Below its first address a memory lists nothing. -/
theorem Memory.read_below {m : Memory} {lo a : Nat} (h : Memory.risingFrom lo m = true) (ha : a < lo) :
    Memory.read m a = 0 := by
  induction m generalizing lo with
  | nil => rfl
  | cons c m ih =>
    simp only [Memory.risingFrom, Bool.and_eq_true, decide_eq_true_eq] at h
    have hne : c.1 ≠ a := by omega
    simp [Memory.read, hne, ih h.2 (by omega)]

/-- A byte reads as it was last written, and every other byte as before. -/
theorem Memory.read_write {m : Memory} {lo : Nat} (h : Memory.risingFrom lo m = true) (a : Nat) (b : Byte) (k : Nat) :
    Memory.read (Memory.write m a b) k = if a = k then b else Memory.read m k := by
  induction m generalizing lo with
  | nil =>
    by_cases hb : b = 0#8 <;> by_cases hk : a = k <;> simp [Memory.write, Memory.rest, hb, hk]
  | cons c m ih =>
    obtain ⟨x, y⟩ := c
    simp only [Memory.risingFrom, Bool.and_eq_true, decide_eq_true_eq] at h
    have hlow := Memory.read_below (a := k) h.2
    simp only [Memory.write]
    by_cases hk : a = k
    · subst hk
      by_cases h1 : a < x
      · have hx : x ≠ a := by omega
        by_cases hb : b = Memory.rest
        · simp [h1, hb, hx, hlow (by omega), Memory.rest]
        · simp [h1, hb]
      · by_cases h2 : x = a
        · by_cases hb : b = Memory.rest
          · simp [h2, hb, hlow (by omega), Memory.rest]
          · simp [h2, hb]
        · simp [h1, h2, ih h.2]
    · by_cases h1 : a < x
      · by_cases hb : b = Memory.rest <;> simp [h1, hb, hk]
      · by_cases h2 : x = a
        · have hx : x ≠ k := by omega
          by_cases hb : b = Memory.rest <;> simp [h2, hb, hk]
        · simp [h1, h2, ih h.2, hk]

/-! ### The canonical form -/

/-- A lower bound may sink. -/
theorem Memory.rising_mono {m : Memory} {lo lo' : Nat} (h : Memory.risingFrom lo m = true) (hl : lo' ≤ lo) :
    Memory.risingFrom lo' m = true := by
  cases m with
  | nil => rfl
  | cons c m =>
    simp only [Memory.risingFrom, Bool.and_eq_true, decide_eq_true_eq] at h ⊢
    exact ⟨⟨by omega, h.1.2⟩, h.2⟩

/-- A write at or above the bound keeps the form. -/
theorem Memory.rising_write {m : Memory} {lo a : Nat} (h : Memory.risingFrom lo m = true) (ha : lo ≤ a) (b : Byte) :
    Memory.risingFrom lo (Memory.write m a b) = true := by
  induction m generalizing lo with
  | nil =>
    by_cases hb : b = Memory.rest <;> simp [Memory.write, hb, Memory.risingFrom, ha]
  | cons c m ih =>
    simp only [Memory.risingFrom, Bool.and_eq_true, decide_eq_true_eq] at h
    unfold Memory.write
    by_cases h1 : a < c.1
    · by_cases hb : b = Memory.rest
      · simp [h1, hb, Memory.risingFrom, h.1.1, h.2, h.1.2]
      · have h3 : a + 1 ≤ c.1 := by omega
        simp [h1, hb, Memory.risingFrom, ha, h3, h.2, h.1.2]
    · by_cases h2 : c.1 = a
      · by_cases hb : b = Memory.rest
        · simp [h2, hb, Memory.rising_mono h.2 (show lo ≤ c.1 + 1 by omega)]
        · have h3 := h.2
          rw [h2] at h3
          simp [h2, hb, Memory.risingFrom, ha, h3]
      · have h3 := ih h.2 (show c.1 + 1 ≤ a by omega)
        simp [h1, h2, Memory.risingFrom, h.1.1, h.1.2, h3]

/-- A write keeps the canonical form. -/
@[simp] theorem Memory.wf_write {m : Memory} (h : m.wf = true) (a : Nat) (b : Byte) : (Memory.write m a b).wf = true :=
  Memory.rising_write h (Nat.zero_le a) b

/-- A run of writes keeps the canonical form. -/
@[simp] theorem Memory.wf_writeAll {m : Memory} (h : m.wf = true) (cs : List Host.Cell) : (m.writeAll cs).wf = true := by
  induction cs generalizing m with
  | nil => exact h
  | cons c cs ih => exact ih (Memory.wf_write h c.1 c.2)

/-- Dropping entries keeps the form. -/
theorem Memory.rising_filter {m : Memory} {lo : Nat} (h : Memory.risingFrom lo m = true) (p : Host.Cell → Bool) :
    Memory.risingFrom lo (m.filter p) = true := by
  induction m generalizing lo with
  | nil => rfl
  | cons c m ih =>
    simp only [Memory.risingFrom, Bool.and_eq_true, decide_eq_true_eq] at h
    by_cases hp : p c = true
    · simp [hp, Memory.risingFrom, h.1.1, h.1.2, ih h.2]
    · simp [hp, Memory.rising_mono (ih h.2) (show lo ≤ c.1 + 1 by omega)]

/-- Dropping entries keeps the canonical form. -/
@[simp] theorem Memory.wf_filter {m : Memory} (h : m.wf = true) (p : Host.Cell → Bool) : Memory.wf (m.filter p) = true :=
  Memory.rising_filter h p

@[simp] theorem Memory.wf_nil : Memory.wf [] = true := rfl

/-- A byte reads as it was last written, and every other byte as before, in a memory of canonical form. -/
theorem Memory.read_write_wf {m : Memory} (h : m.wf = true) (a : Nat) (b : Byte) (k : Nat) :
    Memory.read (Memory.write m a b) k = if a = k then b else Memory.read m k :=
  Memory.read_write h a b k

/-- A byte that no cell of a run names reads as before. -/
theorem Memory.read_writeAll_other {m : Memory} (h : m.wf = true) (cs : List Host.Cell) (k : Nat)
    (hk : ∀ c ∈ cs, c.1 ≠ k) : Memory.read (m.writeAll cs) k = Memory.read m k := by
  induction cs generalizing m with
  | nil => rfl
  | cons c cs ih =>
    have h1 := ih (Memory.wf_write h c.1 c.2) (fun d hd => hk d (List.mem_cons_of_mem _ hd))
    have h2 : c.1 ≠ k := hk c List.mem_cons_self
    rw [show Memory.writeAll m (c :: cs) = Memory.writeAll (Memory.write m c.1 c.2) cs from rfl, h1,
      Memory.read_write_wf h]
    simp [h2]

/-- The last cell of a run that names a byte decides it. -/
theorem Memory.read_writeAll_last {m : Memory} (h : m.wf = true) (cs : List Host.Cell) (a : Nat) (b : Byte)
    (ds : List Host.Cell) (hd : ∀ c ∈ ds, c.1 ≠ a) : Memory.read (m.writeAll (cs ++ (a, b) :: ds)) a = b := by
  have h1 : Memory.writeAll m (cs ++ (a, b) :: ds) = Memory.writeAll (Memory.write (Memory.writeAll m cs) a b) ds := by
    simp [Memory.writeAll, List.foldl_append]
  rw [h1, Memory.read_writeAll_other (Memory.wf_write (Memory.wf_writeAll h cs) a b) ds a hd,
    Memory.read_write_wf (Memory.wf_writeAll h cs)]
  simp

/-! ### Little-endian runs -/

@[simp] theorem leBytes_length (n w : Nat) : (leBytes n w).length = n := by simp [leBytes]

@[simp] theorem Memory.readN_length (m : Memory) (a n : Nat) : (m.readN a n).length = n := by simp [Memory.readN]

/-- A run of bytes ends with its highest. -/
theorem leBytes_succ (n w : Nat) : leBytes (n + 1) w = BitVec.ofNat 8 w :: leBytes n (w / 256) := by
  simp only [leBytes, List.range_succ_eq_map, List.map_cons, List.map_map]
  refine congrArg₂ List.cons (by simp) (List.map_congr_left fun i _ => ?_)
  simp only [Function.comp_apply, Nat.succ_eq_add_one, Nat.shiftRight_eq_div_pow, Nat.div_div_eq_div_mul]
  congr 2
  rw [show (256 : Nat) = 2 ^ 8 from rfl, ← Nat.pow_add]
  ring_nf

/-- The bytes of a number give it back, modulo their width (R4). -/
@[simp] theorem ofLe_leBytes (n w : Nat) : ofLe (leBytes n w) = w % 256 ^ n := by
  induction n generalizing w with
  | zero => simp [leBytes, ofLe, Nat.mod_one]
  | succ n ih =>
    rw [leBytes_succ]
    simp only [ofLe, ih, BitVec.toNat_ofNat]
    rw [Nat.pow_succ' (m := 256), Nat.mod_mul (a := 256)]

end Sys2Proof.Machine
end

