-- ==== Sys2Proof/Laws/State.lean ====
section
/-! SUPPORT. What each update of the state does to each field: one lemma per field and update. -/

namespace Sys2Proof.Machine

variable (s : State)

/-! ### modCore -/

@[simp] theorem State.modCore_core (f : Core → Core) : (s.modCore f).core = f s.core := rfl
@[simp] theorem State.modCore_cur (f : Core → Core) : (s.modCore f).cur = s.cur := rfl
@[simp] theorem State.modCore_others (f : Core → Core) : (s.modCore f).others = s.others := rfl
@[simp] theorem State.modCore_mem (f : Core → Core) : (s.modCore f).mem = s.mem := rfl
@[simp] theorem State.modCore_marks (f : Core → Core) : (s.modCore f).marks = s.marks := rfl
@[simp] theorem State.modCore_ctxs (f : Core → Core) : (s.modCore f).ctxs = s.ctxs := rfl
@[simp] theorem State.modCore_l2 (f : Core → Core) : (s.modCore f).l2 = s.l2 := rfl
@[simp] theorem State.modCore_launch (f : Core → Core) : (s.modCore f).launch = s.launch := rfl
@[simp] theorem State.modCore_ports (f : Core → Core) : (s.modCore f).ports = s.ports := rfl
@[simp] theorem State.modCore_fabric (f : Core → Core) : (s.modCore f).fabric = s.fabric := rfl
@[simp] theorem State.modCore_malt (f : Core → Core) : (s.modCore f).malt = s.malt := rfl
@[simp] theorem State.modCore_podTime (f : Core → Core) : (s.modCore f).podTime = s.podTime := rfl
@[simp] theorem State.modCore_agenda (f : Core → Core) : (s.modCore f).agenda = s.agenda := rfl
@[simp] theorem State.modCore_tick (f : Core → Core) : (s.modCore f).tick = s.tick := rfl

/-! ### modCtx -/

@[simp] theorem State.modCtx_core (n : Nat) (f : Ctx → Ctx) : (s.modCtx n f).core = s.core := rfl
@[simp] theorem State.modCtx_cur (n : Nat) (f : Ctx → Ctx) : (s.modCtx n f).cur = s.cur := rfl
@[simp] theorem State.modCtx_others (n : Nat) (f : Ctx → Ctx) : (s.modCtx n f).others = s.others := rfl
@[simp] theorem State.modCtx_mem (n : Nat) (f : Ctx → Ctx) : (s.modCtx n f).mem = s.mem := rfl
@[simp] theorem State.modCtx_marks (n : Nat) (f : Ctx → Ctx) : (s.modCtx n f).marks = s.marks := rfl
@[simp] theorem State.modCtx_ctxs (n : Nat) (f : Ctx → Ctx) : (s.modCtx n f).ctxs = s.ctxs.map (fun c => if c.id == n then f c else c) := rfl
@[simp] theorem State.modCtx_l2 (n : Nat) (f : Ctx → Ctx) : (s.modCtx n f).l2 = s.l2 := rfl
@[simp] theorem State.modCtx_launch (n : Nat) (f : Ctx → Ctx) : (s.modCtx n f).launch = s.launch := rfl
@[simp] theorem State.modCtx_ports (n : Nat) (f : Ctx → Ctx) : (s.modCtx n f).ports = s.ports := rfl
@[simp] theorem State.modCtx_fabric (n : Nat) (f : Ctx → Ctx) : (s.modCtx n f).fabric = s.fabric := rfl
@[simp] theorem State.modCtx_malt (n : Nat) (f : Ctx → Ctx) : (s.modCtx n f).malt = s.malt := rfl
@[simp] theorem State.modCtx_podTime (n : Nat) (f : Ctx → Ctx) : (s.modCtx n f).podTime = s.podTime := rfl
@[simp] theorem State.modCtx_agenda (n : Nat) (f : Ctx → Ctx) : (s.modCtx n f).agenda = s.agenda := rfl
@[simp] theorem State.modCtx_tick (n : Nat) (f : Ctx → Ctx) : (s.modCtx n f).tick = s.tick := rfl

/-! ### modLaunch -/

@[simp] theorem State.modLaunch_core (f : Launch → Launch) : (s.modLaunch f).core = s.core := rfl
@[simp] theorem State.modLaunch_cur (f : Launch → Launch) : (s.modLaunch f).cur = s.cur := rfl
@[simp] theorem State.modLaunch_others (f : Launch → Launch) : (s.modLaunch f).others = s.others := rfl
@[simp] theorem State.modLaunch_mem (f : Launch → Launch) : (s.modLaunch f).mem = s.mem := rfl
@[simp] theorem State.modLaunch_marks (f : Launch → Launch) : (s.modLaunch f).marks = s.marks := rfl
@[simp] theorem State.modLaunch_ctxs (f : Launch → Launch) : (s.modLaunch f).ctxs = s.ctxs := rfl
@[simp] theorem State.modLaunch_l2 (f : Launch → Launch) : (s.modLaunch f).l2 = s.l2 := rfl
@[simp] theorem State.modLaunch_launch (f : Launch → Launch) : (s.modLaunch f).launch = f s.launch := rfl
@[simp] theorem State.modLaunch_ports (f : Launch → Launch) : (s.modLaunch f).ports = s.ports := rfl
@[simp] theorem State.modLaunch_fabric (f : Launch → Launch) : (s.modLaunch f).fabric = s.fabric := rfl
@[simp] theorem State.modLaunch_malt (f : Launch → Launch) : (s.modLaunch f).malt = s.malt := rfl
@[simp] theorem State.modLaunch_podTime (f : Launch → Launch) : (s.modLaunch f).podTime = s.podTime := rfl
@[simp] theorem State.modLaunch_agenda (f : Launch → Launch) : (s.modLaunch f).agenda = s.agenda := rfl
@[simp] theorem State.modLaunch_tick (f : Launch → Launch) : (s.modLaunch f).tick = s.tick := rfl

/-! ### modMalt -/

@[simp] theorem State.modMalt_core (f : Maltings → Maltings) : (s.modMalt f).core = s.core := rfl
@[simp] theorem State.modMalt_cur (f : Maltings → Maltings) : (s.modMalt f).cur = s.cur := rfl
@[simp] theorem State.modMalt_others (f : Maltings → Maltings) : (s.modMalt f).others = s.others := rfl
@[simp] theorem State.modMalt_mem (f : Maltings → Maltings) : (s.modMalt f).mem = s.mem := rfl
@[simp] theorem State.modMalt_marks (f : Maltings → Maltings) : (s.modMalt f).marks = s.marks := rfl
@[simp] theorem State.modMalt_ctxs (f : Maltings → Maltings) : (s.modMalt f).ctxs = s.ctxs := rfl
@[simp] theorem State.modMalt_l2 (f : Maltings → Maltings) : (s.modMalt f).l2 = s.l2 := rfl
@[simp] theorem State.modMalt_launch (f : Maltings → Maltings) : (s.modMalt f).launch = s.launch := rfl
@[simp] theorem State.modMalt_ports (f : Maltings → Maltings) : (s.modMalt f).ports = s.ports := rfl
@[simp] theorem State.modMalt_fabric (f : Maltings → Maltings) : (s.modMalt f).fabric = s.fabric := rfl
@[simp] theorem State.modMalt_malt (f : Maltings → Maltings) : (s.modMalt f).malt = f s.malt := rfl
@[simp] theorem State.modMalt_podTime (f : Maltings → Maltings) : (s.modMalt f).podTime = s.podTime := rfl
@[simp] theorem State.modMalt_agenda (f : Maltings → Maltings) : (s.modMalt f).agenda = s.agenda := rfl
@[simp] theorem State.modMalt_tick (f : Maltings → Maltings) : (s.modMalt f).tick = s.tick := rfl

/-! ### modFabric -/

@[simp] theorem State.modFabric_core (f : Fabric → Fabric) : (s.modFabric f).core = s.core := rfl
@[simp] theorem State.modFabric_cur (f : Fabric → Fabric) : (s.modFabric f).cur = s.cur := rfl
@[simp] theorem State.modFabric_others (f : Fabric → Fabric) : (s.modFabric f).others = s.others := rfl
@[simp] theorem State.modFabric_mem (f : Fabric → Fabric) : (s.modFabric f).mem = s.mem := rfl
@[simp] theorem State.modFabric_marks (f : Fabric → Fabric) : (s.modFabric f).marks = s.marks := rfl
@[simp] theorem State.modFabric_ctxs (f : Fabric → Fabric) : (s.modFabric f).ctxs = s.ctxs := rfl
@[simp] theorem State.modFabric_l2 (f : Fabric → Fabric) : (s.modFabric f).l2 = s.l2 := rfl
@[simp] theorem State.modFabric_launch (f : Fabric → Fabric) : (s.modFabric f).launch = s.launch := rfl
@[simp] theorem State.modFabric_ports (f : Fabric → Fabric) : (s.modFabric f).ports = s.ports := rfl
@[simp] theorem State.modFabric_fabric (f : Fabric → Fabric) : (s.modFabric f).fabric = f s.fabric := rfl
@[simp] theorem State.modFabric_malt (f : Fabric → Fabric) : (s.modFabric f).malt = s.malt := rfl
@[simp] theorem State.modFabric_podTime (f : Fabric → Fabric) : (s.modFabric f).podTime = s.podTime := rfl
@[simp] theorem State.modFabric_agenda (f : Fabric → Fabric) : (s.modFabric f).agenda = s.agenda := rfl
@[simp] theorem State.modFabric_tick (f : Fabric → Fabric) : (s.modFabric f).tick = s.tick := rfl

/-! ### modL2 -/

@[simp] theorem State.modL2_core (f : L2 → L2) : (s.modL2 f).core = s.core := rfl
@[simp] theorem State.modL2_cur (f : L2 → L2) : (s.modL2 f).cur = s.cur := rfl
@[simp] theorem State.modL2_others (f : L2 → L2) : (s.modL2 f).others = s.others := rfl
@[simp] theorem State.modL2_mem (f : L2 → L2) : (s.modL2 f).mem = s.mem := rfl
@[simp] theorem State.modL2_marks (f : L2 → L2) : (s.modL2 f).marks = s.marks := rfl
@[simp] theorem State.modL2_ctxs (f : L2 → L2) : (s.modL2 f).ctxs = s.ctxs := rfl
@[simp] theorem State.modL2_l2 (f : L2 → L2) : (s.modL2 f).l2 = f s.l2 := rfl
@[simp] theorem State.modL2_launch (f : L2 → L2) : (s.modL2 f).launch = s.launch := rfl
@[simp] theorem State.modL2_ports (f : L2 → L2) : (s.modL2 f).ports = s.ports := rfl
@[simp] theorem State.modL2_fabric (f : L2 → L2) : (s.modL2 f).fabric = s.fabric := rfl
@[simp] theorem State.modL2_malt (f : L2 → L2) : (s.modL2 f).malt = s.malt := rfl
@[simp] theorem State.modL2_podTime (f : L2 → L2) : (s.modL2 f).podTime = s.podTime := rfl
@[simp] theorem State.modL2_agenda (f : L2 → L2) : (s.modL2 f).agenda = s.agenda := rfl
@[simp] theorem State.modL2_tick (f : L2 → L2) : (s.modL2 f).tick = s.tick := rfl

/-! ### modMash -/

@[simp] theorem State.modMash_core (f : Mash → Mash) : (s.modMash f).core = { s.core with mash := f s.core.mash } := rfl
@[simp] theorem State.modMash_cur (f : Mash → Mash) : (s.modMash f).cur = s.cur := rfl
@[simp] theorem State.modMash_others (f : Mash → Mash) : (s.modMash f).others = s.others := rfl
@[simp] theorem State.modMash_mem (f : Mash → Mash) : (s.modMash f).mem = s.mem := rfl
@[simp] theorem State.modMash_marks (f : Mash → Mash) : (s.modMash f).marks = s.marks := rfl
@[simp] theorem State.modMash_ctxs (f : Mash → Mash) : (s.modMash f).ctxs = s.ctxs := rfl
@[simp] theorem State.modMash_l2 (f : Mash → Mash) : (s.modMash f).l2 = s.l2 := rfl
@[simp] theorem State.modMash_launch (f : Mash → Mash) : (s.modMash f).launch = s.launch := rfl
@[simp] theorem State.modMash_ports (f : Mash → Mash) : (s.modMash f).ports = s.ports := rfl
@[simp] theorem State.modMash_fabric (f : Mash → Mash) : (s.modMash f).fabric = s.fabric := rfl
@[simp] theorem State.modMash_malt (f : Mash → Mash) : (s.modMash f).malt = s.malt := rfl
@[simp] theorem State.modMash_podTime (f : Mash → Mash) : (s.modMash f).podTime = s.podTime := rfl
@[simp] theorem State.modMash_agenda (f : Mash → Mash) : (s.modMash f).agenda = s.agenda := rfl
@[simp] theorem State.modMash_tick (f : Mash → Mash) : (s.modMash f).tick = s.tick := rfl

/-! ### modPort -/

@[simp] theorem State.modPort_core (die : Bool) (f : Port → Port) : (s.modPort die f).core = s.core := rfl
@[simp] theorem State.modPort_cur (die : Bool) (f : Port → Port) : (s.modPort die f).cur = s.cur := rfl
@[simp] theorem State.modPort_others (die : Bool) (f : Port → Port) : (s.modPort die f).others = s.others := rfl
@[simp] theorem State.modPort_mem (die : Bool) (f : Port → Port) : (s.modPort die f).mem = s.mem := rfl
@[simp] theorem State.modPort_marks (die : Bool) (f : Port → Port) : (s.modPort die f).marks = s.marks := rfl
@[simp] theorem State.modPort_ctxs (die : Bool) (f : Port → Port) : (s.modPort die f).ctxs = s.ctxs := rfl
@[simp] theorem State.modPort_l2 (die : Bool) (f : Port → Port) : (s.modPort die f).l2 = s.l2 := rfl
@[simp] theorem State.modPort_launch (die : Bool) (f : Port → Port) : (s.modPort die f).launch = s.launch := rfl
@[simp] theorem State.modPort_ports (die : Bool) (f : Port → Port) : (s.modPort die f).ports = s.ports.set (dieNo die) (f s.ports[dieNo die]) := rfl
@[simp] theorem State.modPort_fabric (die : Bool) (f : Port → Port) : (s.modPort die f).fabric = s.fabric := rfl
@[simp] theorem State.modPort_malt (die : Bool) (f : Port → Port) : (s.modPort die f).malt = s.malt := rfl
@[simp] theorem State.modPort_podTime (die : Bool) (f : Port → Port) : (s.modPort die f).podTime = s.podTime := rfl
@[simp] theorem State.modPort_agenda (die : Bool) (f : Port → Port) : (s.modPort die f).agenda = s.agenda := rfl
@[simp] theorem State.modPort_tick (die : Bool) (f : Port → Port) : (s.modPort die f).tick = s.tick := rfl

/-! ### report -/

@[simp] theorem State.report_core (r : Report) : (s.report r).core = s.core := rfl
@[simp] theorem State.report_cur (r : Report) : (s.report r).cur = s.cur := rfl
@[simp] theorem State.report_others (r : Report) : (s.report r).others = s.others := rfl
@[simp] theorem State.report_mem (r : Report) : (s.report r).mem = s.mem := rfl
@[simp] theorem State.report_marks (r : Report) : (s.report r).marks = s.marks := rfl
@[simp] theorem State.report_ctxs (r : Report) : (s.report r).ctxs = s.ctxs := rfl
@[simp] theorem State.report_l2 (r : Report) : (s.report r).l2 = s.l2 := rfl
@[simp] theorem State.report_launch (r : Report) : (s.report r).launch = s.launch := rfl
@[simp] theorem State.report_ports (r : Report) : (s.report r).ports = s.ports := rfl
@[simp] theorem State.report_fabric (r : Report) : (s.report r).fabric = s.fabric := rfl
@[simp] theorem State.report_malt (r : Report) : (s.report r).malt = { s.malt with reports := s.malt.reports ++ [r] } := rfl
@[simp] theorem State.report_podTime (r : Report) : (s.report r).podTime = s.podTime := rfl
@[simp] theorem State.report_agenda (r : Report) : (s.report r).agenda = s.agenda := rfl
@[simp] theorem State.report_tick (r : Report) : (s.report r).tick = s.tick := rfl

/-! ### bump -/

@[simp] theorem State.bump_core : (s.bump).core = s.core := rfl
@[simp] theorem State.bump_cur : (s.bump).cur = s.cur := rfl
@[simp] theorem State.bump_others : (s.bump).others = s.others := rfl
@[simp] theorem State.bump_mem : (s.bump).mem = s.mem := rfl
@[simp] theorem State.bump_marks : (s.bump).marks = s.marks := rfl
@[simp] theorem State.bump_ctxs : (s.bump).ctxs = s.ctxs := rfl
@[simp] theorem State.bump_l2 : (s.bump).l2 = s.l2 := rfl
@[simp] theorem State.bump_launch : (s.bump).launch = s.launch := rfl
@[simp] theorem State.bump_ports : (s.bump).ports = s.ports := rfl
@[simp] theorem State.bump_fabric : (s.bump).fabric = s.fabric := rfl
@[simp] theorem State.bump_malt : (s.bump).malt = s.malt := rfl
@[simp] theorem State.bump_podTime : (s.bump).podTime = s.podTime := rfl
@[simp] theorem State.bump_agenda : (s.bump).agenda = s.agenda := rfl
@[simp] theorem State.bump_tick : (s.bump).tick = s.tick + 1 := rfl

/-! ### writeBits -/

@[simp] theorem State.writeBits_core (cs full : List Host.Cell) : (s.writeBits cs full).core = s.core := rfl
@[simp] theorem State.writeBits_cur (cs full : List Host.Cell) : (s.writeBits cs full).cur = s.cur := rfl
@[simp] theorem State.writeBits_others (cs full : List Host.Cell) : (s.writeBits cs full).others = s.others := rfl
@[simp] theorem State.writeBits_mem (cs full : List Host.Cell) : (s.writeBits cs full).mem = s.mem.writeAll cs := rfl
@[simp] theorem State.writeBits_ctxs (cs full : List Host.Cell) : (s.writeBits cs full).ctxs = s.ctxs := rfl
@[simp] theorem State.writeBits_l2 (cs full : List Host.Cell) : (s.writeBits cs full).l2 = s.l2 := rfl
@[simp] theorem State.writeBits_launch (cs full : List Host.Cell) : (s.writeBits cs full).launch = s.launch := rfl
@[simp] theorem State.writeBits_ports (cs full : List Host.Cell) : (s.writeBits cs full).ports = s.ports := rfl
@[simp] theorem State.writeBits_fabric (cs full : List Host.Cell) : (s.writeBits cs full).fabric = s.fabric := rfl
@[simp] theorem State.writeBits_malt (cs full : List Host.Cell) : (s.writeBits cs full).malt = s.malt := rfl
@[simp] theorem State.writeBits_podTime (cs full : List Host.Cell) : (s.writeBits cs full).podTime = s.podTime := rfl
@[simp] theorem State.writeBits_agenda (cs full : List Host.Cell) : (s.writeBits cs full).agenda = s.agenda := rfl
@[simp] theorem State.writeBits_tick (cs full : List Host.Cell) : (s.writeBits cs full).tick = s.tick := rfl

/-! ### writeCells -/

@[simp] theorem State.writeCells_core (cs : List Host.Cell) : (s.writeCells cs).core = s.core := rfl
@[simp] theorem State.writeCells_cur (cs : List Host.Cell) : (s.writeCells cs).cur = s.cur := rfl
@[simp] theorem State.writeCells_others (cs : List Host.Cell) : (s.writeCells cs).others = s.others := rfl
@[simp] theorem State.writeCells_mem (cs : List Host.Cell) : (s.writeCells cs).mem = s.mem.writeAll cs := rfl
@[simp] theorem State.writeCells_ctxs (cs : List Host.Cell) : (s.writeCells cs).ctxs = s.ctxs := rfl
@[simp] theorem State.writeCells_l2 (cs : List Host.Cell) : (s.writeCells cs).l2 = s.l2 := rfl
@[simp] theorem State.writeCells_launch (cs : List Host.Cell) : (s.writeCells cs).launch = s.launch := rfl
@[simp] theorem State.writeCells_ports (cs : List Host.Cell) : (s.writeCells cs).ports = s.ports := rfl
@[simp] theorem State.writeCells_fabric (cs : List Host.Cell) : (s.writeCells cs).fabric = s.fabric := rfl
@[simp] theorem State.writeCells_malt (cs : List Host.Cell) : (s.writeCells cs).malt = s.malt := rfl
@[simp] theorem State.writeCells_podTime (cs : List Host.Cell) : (s.writeCells cs).podTime = s.podTime := rfl
@[simp] theorem State.writeCells_agenda (cs : List Host.Cell) : (s.writeCells cs).agenda = s.agenda := rfl
@[simp] theorem State.writeCells_tick (cs : List Host.Cell) : (s.writeCells cs).tick = s.tick := rfl

/-! ### holdFor -/

@[simp] theorem State.holdFor_core (h : Hold) : (s.holdFor h).core = { s.core with hold := h } := rfl
@[simp] theorem State.holdFor_cur (h : Hold) : (s.holdFor h).cur = s.cur := rfl
@[simp] theorem State.holdFor_others (h : Hold) : (s.holdFor h).others = s.others := rfl
@[simp] theorem State.holdFor_mem (h : Hold) : (s.holdFor h).mem = s.mem := rfl
@[simp] theorem State.holdFor_marks (h : Hold) : (s.holdFor h).marks = s.marks := rfl
@[simp] theorem State.holdFor_ctxs (h : Hold) : (s.holdFor h).ctxs = s.ctxs := rfl
@[simp] theorem State.holdFor_l2 (h : Hold) : (s.holdFor h).l2 = s.l2 := rfl
@[simp] theorem State.holdFor_launch (h : Hold) : (s.holdFor h).launch = s.launch := rfl
@[simp] theorem State.holdFor_ports (h : Hold) : (s.holdFor h).ports = s.ports := rfl
@[simp] theorem State.holdFor_fabric (h : Hold) : (s.holdFor h).fabric = s.fabric := rfl
@[simp] theorem State.holdFor_malt (h : Hold) : (s.holdFor h).malt = s.malt := rfl
@[simp] theorem State.holdFor_podTime (h : Hold) : (s.holdFor h).podTime = s.podTime := rfl
@[simp] theorem State.holdFor_agenda (h : Hold) : (s.holdFor h).agenda = s.agenda := rfl
@[simp] theorem State.holdFor_tick (h : Hold) : (s.holdFor h).tick = s.tick := rfl

/-! ### put -/

@[simp] theorem State.put_cur (l : Landing) (lat : Nat) (ch : Bool) : (s.put l lat ch).cur = s.cur := rfl
@[simp] theorem State.put_others (l : Landing) (lat : Nat) (ch : Bool) : (s.put l lat ch).others = s.others := rfl
@[simp] theorem State.put_mem (l : Landing) (lat : Nat) (ch : Bool) : (s.put l lat ch).mem = s.mem := rfl
@[simp] theorem State.put_marks (l : Landing) (lat : Nat) (ch : Bool) : (s.put l lat ch).marks = s.marks := rfl
@[simp] theorem State.put_ctxs (l : Landing) (lat : Nat) (ch : Bool) : (s.put l lat ch).ctxs = s.ctxs := rfl
@[simp] theorem State.put_l2 (l : Landing) (lat : Nat) (ch : Bool) : (s.put l lat ch).l2 = s.l2 := rfl
@[simp] theorem State.put_launch (l : Landing) (lat : Nat) (ch : Bool) : (s.put l lat ch).launch = s.launch := rfl
@[simp] theorem State.put_ports (l : Landing) (lat : Nat) (ch : Bool) : (s.put l lat ch).ports = s.ports := rfl
@[simp] theorem State.put_fabric (l : Landing) (lat : Nat) (ch : Bool) : (s.put l lat ch).fabric = s.fabric := rfl
@[simp] theorem State.put_malt (l : Landing) (lat : Nat) (ch : Bool) : (s.put l lat ch).malt = s.malt := rfl
@[simp] theorem State.put_podTime (l : Landing) (lat : Nat) (ch : Bool) : (s.put l lat ch).podTime = s.podTime := rfl
@[simp] theorem State.put_agenda (l : Landing) (lat : Nat) (ch : Bool) : (s.put l lat ch).agenda = s.agenda := rfl
@[simp] theorem State.put_tick (l : Landing) (lat : Nat) (ch : Bool) : (s.put l lat ch).tick = s.tick := rfl

end Sys2Proof.Machine
end

