-- ==== Sys2Proof/Laws/Keep.lean ====
section
/-! SUPPORT. The canonical form of memory through the updates of the state, and through folds. -/

namespace Sys2Proof.Machine

/-- An effect that goes on leaves memory in its canonical form. -/
def Eff.Keeps : Eff → Prop
  | .ok t => t.Inv
  | _ => True

/-- An outcome with a next state leaves memory in its canonical form. -/
def Keeps : Out → Prop
  | .next t => t.Inv
  | _ => True

/-- A trial of a bundle leaves memory in its canonical form. -/
def Trial.Keeps : Trial → Prop
  | .issued t => t.Inv
  | .stalled t _ => t.Inv
  | .raised t _ => t.Inv
  | .held => True

@[simp] theorem Eff.keeps_ok (t : State) : (Eff.ok t).Keeps ↔ t.Inv := Iff.rfl
@[simp] theorem Eff.keeps_raise (r : Raise) : (Eff.raise r).Keeps ↔ True := Iff.rfl
@[simp] theorem Eff.keeps_stall (w : Stall) : (Eff.stall w).Keeps ↔ True := Iff.rfl
@[simp] theorem keeps_next (t : State) : Keeps (.next t) ↔ t.Inv := Iff.rfl
@[simp] theorem keeps_fault (f : Fault) : Keeps (.fault f) ↔ True := Iff.rfl
@[simp] theorem keeps_refused (r : Refusal) : Keeps (.refused r) ↔ True := Iff.rfl
@[simp] theorem Trial.keeps_issued (t : State) : (Trial.issued t).Keeps ↔ t.Inv := Iff.rfl
@[simp] theorem Trial.keeps_held : Trial.held.Keeps ↔ True := Iff.rfl
@[simp] theorem Trial.keeps_raised (t : State) (r : Raise) : (Trial.raised t r).Keeps ↔ t.Inv := Iff.rfl
@[simp] theorem Trial.keeps_stalled (t : State) (w : Stall) : (Trial.stalled t w).Keeps ↔ t.Inv := Iff.rfl

theorem State.inv_iff (s : State) : s.Inv ↔ s.mem.wf = true := Iff.rfl

/-! ### Updates that leave memory alone -/

variable (s : State)

@[simp] theorem State.inv_modCore (f : Core → Core) : (s.modCore f).Inv ↔ s.Inv := Iff.rfl
@[simp] theorem State.inv_modCtx (n : Nat) (f : Ctx → Ctx) : (s.modCtx n f).Inv ↔ s.Inv := Iff.rfl
@[simp] theorem State.inv_modLaunch (f : Launch → Launch) : (s.modLaunch f).Inv ↔ s.Inv := Iff.rfl
@[simp] theorem State.inv_modMalt (f : Maltings → Maltings) : (s.modMalt f).Inv ↔ s.Inv := Iff.rfl
@[simp] theorem State.inv_modFabric (f : Fabric → Fabric) : (s.modFabric f).Inv ↔ s.Inv := Iff.rfl
@[simp] theorem State.inv_modL2 (f : L2 → L2) : (s.modL2 f).Inv ↔ s.Inv := Iff.rfl
@[simp] theorem State.inv_modMash (f : Mash → Mash) : (s.modMash f).Inv ↔ s.Inv := Iff.rfl
@[simp] theorem State.inv_modPort (die : Bool) (f : Port → Port) : (s.modPort die f).Inv ↔ s.Inv := Iff.rfl
@[simp] theorem State.inv_report (r : Report) : (s.report r).Inv ↔ s.Inv := Iff.rfl
@[simp] theorem State.inv_bump : s.bump.Inv ↔ s.Inv := Iff.rfl
@[simp] theorem State.inv_holdFor (h : Hold) : (s.holdFor h).Inv ↔ s.Inv := Iff.rfl
@[simp] theorem State.inv_holdNext (h : Hold) : (s.holdNext h).Inv ↔ s.Inv := Iff.rfl
@[simp] theorem State.inv_put (l : Landing) (lat : Nat) (ch : Bool) : (s.put l lat ch).Inv ↔ s.Inv := Iff.rfl
@[simp] theorem State.inv_mk (core cur others mem marks ctxs l2 launch ports fabric malt podTime agenda tick) :
    State.Inv ⟨core, cur, others, mem, marks, ctxs, l2, launch, ports, fabric, malt, podTime, agenda, tick⟩ ↔
      mem.wf = true := Iff.rfl

/-- A write of bits keeps the form. -/
@[simp] theorem State.inv_writeBits {s : State} (h : s.Inv) (cs full : List Host.Cell) : (s.writeBits cs full).Inv :=
  Memory.wf_writeAll h cs
/-- A write of cells keeps the form. -/
@[simp] theorem State.inv_writeCells {s : State} (h : s.Inv) (cs : List Host.Cell) : (s.writeCells cs).Inv :=
  Memory.wf_writeAll h cs

/-! ### Folds and lists of actions -/

/-- A fold whose every step keeps the form keeps it. -/
theorem foldl_inv {β : Type} (f : State → β → State) (hf : ∀ s b, s.Inv → (f s b).Inv) (l : List β) {s : State}
    (h : s.Inv) : (l.foldl f s).Inv := by
  induction l generalizing s with
  | nil => exact h
  | cons b l ih => exact ih (hf s b h)

/-- A fold over a state with something beside it. -/
theorem foldl_inv_fst {α β : Type} (f : State × α → β → State × α) (hf : ∀ s b, s.1.Inv → (f s b).1.Inv) (l : List β)
    {s : State × α} (h : s.1.Inv) : (l.foldl f s).1.Inv := by
  induction l generalizing s with
  | nil => exact h
  | cons b l ih => exact ih (hf s b h)

end Sys2Proof.Machine
end

