-- ==== Sys2Proof/Laws/KeepOps.lean ====
section
/-! SUPPORT. The operations of Machine/Ops.lean keep memory in its canonical form. -/

namespace Sys2Proof.Machine

@[simp] theorem State.fault_keeps (s : State) (step : Nat) (cause : BitVec 6) : (s.fault step cause).Keeps := trivial

@[simp] theorem State.faultInfo_keeps (s : State) (step : Nat) (cause : BitVec 6) (info : Word) :
    (s.faultInfo step cause info).Keeps := trivial

@[simp] theorem State.setCore_inv {s : State} (c : Nat) (k : Core) (hi : s.Inv) :
    (State.setCore s c k).Inv := by
  unfold State.setCore
  repeat' split
  all_goals exact hi

@[simp] theorem State.focus_inv {s : State} (c : Nat) (hi : s.Inv) :
    (State.focus s c).Inv := by
  unfold State.focus
  repeat' split
  all_goals exact hi

@[simp] theorem State.modCoreAt_inv {s : State} (c : Nat) (f : Core → Core) (hi : s.Inv) :
    (State.modCoreAt s c f).Inv := by
  simp [State.modCoreAt, *]

@[simp] theorem State.countErr_inv {s : State} (n : Nat) (f : ErrRegs → ErrRegs) (hi : s.Inv) :
    (State.countErr s n f).Inv := by
  unfold State.countErr
  repeat' split
  all_goals simp [*]

@[simp] theorem State.setMark_inv {s : State} (blk : Nat) (m : Option Mark) (hi : s.Inv) :
    (State.setMark s blk m).Inv := by
  unfold State.setMark
  repeat' split
  all_goals exact hi

@[simp] theorem State.touchBlocks_inv {s : State} (ctx : Nat) (spad : Bool) (blks : List Nat) (hi : s.Inv) :
    (State.touchBlocks s ctx spad blks).1.Inv := by
  unfold State.touchBlocks
  refine foldl_inv_fst _ (fun t b ht => ?_) _ hi
  repeat' split
  all_goals simp_all

@[simp] theorem State.controlBytes_inv {s : State} (m : Memory) (ms : Marks) (g : List GateEntry) (a n : Nat) (hi : s.Inv) :
    (State.controlBytes s m ms g a n).1.Inv := by
  unfold State.controlBytes
  dsimp only
  split
  all_goals simp [*]

@[simp] theorem State.controlBefore_inv {s : State} (a n : Nat) (hi : s.Inv) : (State.controlBefore s a n).1.Inv := by
  unfold State.controlBefore
  split <;> simp [*]

@[simp] theorem State.controlNow_inv {s : State} (a n : Nat) (hi : s.Inv) : (State.controlNow s a n).1.Inv :=
  State.controlBytes_inv _ _ _ _ _ hi

@[simp] theorem State.putX_inv {s : State} (d : XReg) (v : Word) (lat : Nat) (chains : Bool) (hi : s.Inv) :
    (State.putX s d v lat chains).Inv := by
  unfold State.putX
  repeat' split
  all_goals simp [*]

@[simp] theorem State.putP_inv {s : State} (d : PReg) (b : Bool) (hi : s.Inv) :
    (State.putP s d b).Inv := by
  unfold State.putP
  repeat' split
  all_goals simp [*]

@[simp] theorem State.land1_inv {s : State} (l : Landing) (hi : s.Inv) :
    (State.land1 s l).1.Inv := by
  unfold State.land1
  repeat' split
  all_goals simp [*]

@[simp] theorem State.landAll_inv {s : State} (ls : List Landing) (hi : s.Inv) :
    (State.landAll s ls).Inv := by
  unfold State.landAll
  refine foldl_inv_fst _ (fun t b ht => ?_) _ hi
  repeat' split
  all_goals simp_all

@[simp] theorem State.passPosition_inv {s : State} (hi : s.Inv) :
    (State.passPosition s).Inv := by
  simp [State.passPosition, *]

@[simp] theorem State.performAccess_inv {s : State} (a : RemAccess) (hi : s.Inv) :
    (State.performAccess s a).Inv := by
  unfold State.performAccess
  repeat' split
  all_goals simp [*]

@[simp] theorem State.performReady_inv {s : State} (as : List RemAccess) (hi : s.Inv) :
    (State.performReady s as).Inv := by
  unfold State.performReady
  refine foldl_inv _ (fun t b ht => ?_) _ hi
  repeat' split
  all_goals simp_all

@[simp] theorem State.arriveLoads_inv {s : State} (hi : s.Inv) :
    (State.arriveLoads s).Inv := by
  simp [State.arriveLoads, *]

@[simp] theorem State.stopCore_inv {s : State} (cause : BitVec 6) (hi : s.Inv) :
    (State.stopCore s cause).Inv := by
  simp [State.stopCore, *]

@[simp] theorem State.takeTrap_inv {s : State} (cause : BitVec 6) (info : Word) (trapPc : CodeAddr) (hi : s.Inv) :
    (State.takeTrap s cause info trapPc).Inv := by
  unfold State.takeTrap
  have h := State.arriveLoads_inv hi
  dsimp only
  repeat' split
  all_goals first | exact State.stopCore_inv _ hi | exact h

@[simp] theorem State.rollback_inv {s : State} (hi : s.Inv) :
    (State.rollback s).Inv := by
  simp [State.rollback, *]

@[simp] theorem State.rollbackEnter_inv {s : State} (cause : BitVec 6) (info : Word) (hi : s.Inv) :
    (State.rollbackEnter s cause info).Inv := by
  simp [State.rollbackEnter, State.enterTrap, *]

@[simp] theorem State.rollbackTrap_inv {s : State} (cause : BitVec 6) (info : Word) (hi : s.Inv) :
    (State.rollbackTrap s cause info).Inv := by
  unfold State.rollbackTrap
  have h := State.arriveLoads_inv hi
  dsimp only
  repeat' split
  all_goals simp [*]

@[simp] theorem State.recoveryFault_inv {s : State} (cause : BitVec 6) (info : Word) (hi : s.Inv) :
    (State.recoveryFault s cause info).Inv := by
  unfold State.recoveryFault
  have h : (if (cause == Cause.silentMismatch && s.core.mismatch) = true then
      (s.modCore (fun c => c.noteMismatch cause)).report (.suspect (s.modCore (fun c => c.noteMismatch cause)).cur)
      else s.modCore (fun c => c.noteMismatch cause)).Inv := by
    split <;> exact hi
  dsimp only
  split
  · exact State.stopCore_inv _ hi
  · split
    · exact State.rollbackTrap_inv _ _ h
    · exact State.rollback_inv h

@[simp] theorem State.takeRaise_inv {s : State} (r : Raise) (hi : s.Inv) :
    (State.takeRaise s r).Inv := by
  unfold State.takeRaise
  repeat' split
  all_goals simp [*]

@[simp] theorem State.pageRollback_inv {s : State} (h : Hold) (hi : s.Inv) :
    (State.pageRollback s h).Inv := by
  simp [State.pageRollback, *]

@[simp] theorem State.advance_inv {s : State} (hi : s.Inv) :
    (State.advance s).Inv := by
  unfold State.advance
  repeat' split
  all_goals simp [*]

@[simp] theorem State.landWindow_inv {s : State} (hi : s.Inv) : s.landWindow.Inv := by
  unfold State.landWindow
  split <;> simp [*]

@[simp] theorem State.fullStep_inv {s : State} (hi : s.Inv) : s.fullStep.Inv := by
  have h := State.arriveLoads_inv hi
  unfold State.fullStep
  dsimp only
  repeat' split
  all_goals simp [*]

@[simp] theorem State.nextCycle_inv {s : State} (hi : s.Inv) : s.nextCycle.Inv := hi

@[simp] theorem State.takeStall_inv {s : State} (w : Stall) (hi : s.Inv) :
    (State.takeStall s w).Inv := by
  unfold State.takeStall
  repeat' split
  all_goals simp [*]

@[simp] theorem settle_keeps {s : State} {e : Eff} (hi : s.Inv) (he : e.Keeps) :
    Keeps (settle s e) := by
  unfold settle
  cases e <;> simp_all

@[simp] theorem State.landFlight_inv {s : State} (hi : s.Inv) :
    (State.landFlight s).Inv := by
  simp [State.landFlight, *]

@[simp] theorem State.leaveHandler_inv {s : State} (hi : s.Inv) :
    (State.leaveHandler s).Inv := by
  simp [State.leaveHandler, *]

@[simp] theorem State.commit_inv {s : State} (hi : s.Inv) :
    (State.commit s).Inv := by
  unfold State.commit
  exact foldl_inv State.performGate (fun t b ht => State.inv_writeBits ht _ _) _ hi

end Sys2Proof.Machine
end

