-- ==== Sys2Proof/Laws/KeepTranslate.lean ====
section
/-! SUPPORT. The operations of Machine/Translate.lean keep memory in its canonical form. -/

namespace Sys2Proof.Machine

@[simp] theorem State.walked_inv {s : State} (ctx : Nat) (w : Walk) (hi : s.Inv) : (State.walked s ctx w).Inv := by
  unfold State.walked
  dsimp only
  repeat' split
  all_goals simp_all

@[simp] theorem State.translate_inv {s : State} (ctx : Nat) (tid : Nat) (p : Pos) (write : Bool) (hi : s.Inv) :
    (State.translate s ctx tid p write).1.Inv := by
  unfold State.translate
  dsimp only
  repeat' split
  all_goals first | exact hi | exact State.walked_inv _ _ hi

@[simp] theorem State.dropEntries_inv {s : State} (ctx : Nat) (k : InvKind) (hi : s.Inv) :
    (State.dropEntries s ctx k).Inv := by
  simp [State.dropEntries, *]

@[simp] theorem State.countBlock_inv {s : State} (blk : Nat) (f : ErrRegs → ErrRegs) (hi : s.Inv) :
    (State.countBlock s blk f).Inv := hi

@[simp] theorem State.scrubBlock_inv {s : State} (blk : Nat) (m : Mark) (hi : s.Inv) : (State.scrubBlock s blk m).Inv := by
  cases m <;> simp [State.scrubBlock, hi]

@[simp] theorem State.evictBlock_inv {s : State} (x : L2Line) (blk : Nat) (hi : s.Inv) : (State.evictBlock s x blk).Inv := by
  unfold State.evictBlock
  repeat' split
  all_goals simp [hi]

@[simp] theorem State.evict_inv {s : State} (x : L2Line) (hi : s.Inv) : (State.evict s x).Inv := by
  unfold State.evict
  split <;> simp [hi]

@[simp] theorem State.fetchLine_inv {s : State} (x : L2Line) (held : List Nat) (hi : s.Inv) : (State.fetchLine s x held).Inv := by
  have h : ∀ vs : List L2Line, (vs.foldl State.evict s).Inv := fun vs =>
    foldl_inv _ (fun t b ht => State.evict_inv b ht) vs hi
  unfold State.fetchLine
  split
  · exact hi
  · dsimp only
    split
    · split <;> simp [h]
    · exact hi

@[simp] theorem State.cacheHome_inv {s : State} (line : Nat) (f : Fetch) (dirty : Bool) (hi : s.Inv) :
    (State.cacheHome s line f dirty).Inv := by
  unfold State.cacheHome
  split <;> simp [hi]

@[simp] theorem State.putReplica_inv {s : State} (die : Bool) (line : Nat) (f : Fetch) (hi : s.Inv) :
    (State.putReplica s die line f).Inv := by
  simp [State.putReplica, *]

@[simp] theorem State.drawLine_inv {s : State} (ctx line : Nat) (f : Fetch) (far : Bool) (blks : List Nat) (hi : s.Inv) :
    (State.drawLine s ctx line f far blks).1.Inv := by
  unfold State.drawLine
  dsimp only
  split <;> simp [hi]

@[simp] theorem State.freshLine_inv {s : State} (die : Bool) (line : Nat) (f : Fetch) (far : Bool) (blks : List Nat) (hi : s.Inv) :
    (State.freshLine s die line f far blks).1.Inv := by
  have h := State.cacheHome_inv line f false (State.drawLine_inv s.ctxNo line f far blks hi)
  unfold State.freshLine
  dsimp only
  split
  · exact State.putReplica_inv _ _ _ h
  · exact h

@[simp] theorem State.readLine_inv {s : State} (die : Bool) (line : Nat) (f : Fetch) (blks : List Nat) (hi : s.Inv) :
    (State.readLine s die line f blks).1.Inv := by
  unfold State.readLine
  dsimp only
  repeat' split
  all_goals simp [hi]

@[simp] theorem State.readMain_inv {s : State} (die : Bool) (a : Nat) (n : Nat) (f : Fetch) (hi : s.Inv) :
    (State.readMain s die a n f).1.Inv := by
  simp [State.readMain, *]

@[simp] theorem State.writeLine_inv {s : State} (agent : Option Bool) (f : Fetch) (line : Nat) (hi : s.Inv) :
    (State.writeLine s agent f line).Inv := by
  unfold State.writeLine
  dsimp only
  split <;> simp [hi]

@[simp] theorem State.writeMainBits_inv {s : State} (agent : Option Bool) (f : Fetch) (cs full : List Host.Cell) (hi : s.Inv) :
    (State.writeMainBits s agent f cs full).Inv := by
  unfold State.writeMainBits
  exact foldl_inv _ (fun t b ht => State.writeLine_inv _ _ _ ht) _ (State.inv_writeBits hi cs full)

@[simp] theorem State.writeMain_inv {s : State} (agent : Option Bool) (f : Fetch) (cs : List Host.Cell) (hi : s.Inv) :
    (State.writeMain s agent f cs).Inv :=
  State.writeMainBits_inv agent f cs cs hi

@[simp] theorem State.publish_inv {s : State} (die : Bool) (hi : s.Inv) :
    (State.publish s die).Inv := by
  simp [State.publish, *]

@[simp] theorem State.homeCells_inv {s : State} (cs : List Host.Cell) (hi : s.Inv) :
    (State.homeCells s cs).Inv := by
  have h := State.writeMain_inv none Fetch.plain cs hi
  unfold State.homeCells
  generalize s.writeMain none Fetch.plain cs = t at h
  dsimp only
  split <;> split <;> simp [h]

@[simp] theorem State.applyInbox_inv {s : State} (die : Bool) (hi : s.Inv) :
    (State.applyInbox s die).Inv := by
  simp [State.applyInbox, *]

@[simp] theorem State.release_inv {s : State} (sc : Scope) (hi : s.Inv) :
    (State.release s sc).Inv := by
  unfold State.release
  repeat' split
  all_goals simp [*]

@[simp] theorem State.acquire_inv {s : State} (sc : Scope) (hi : s.Inv) :
    (State.acquire s sc).Inv := by
  unfold State.acquire
  repeat' split
  all_goals simp [*]

@[simp] theorem State.controlAt_inv {s : State} (ctx : Nat) (addr : Nat) (write : Bool) (hi : s.Inv) :
    (State.controlAt s ctx addr write).1.Inv := State.translate_inv _ _ _ _ hi

end Sys2Proof.Machine
end

