-- ==== Sys2Proof/Laws/KeepOperands.lean ====
section
/-! SUPPORT. The operations of Machine/Operands.lean keep memory in its canonical form. -/

namespace Sys2Proof.Machine



end Sys2Proof.Machine
end

