-- ==== Sys2Proof/Laws/KeepFlags.lean ====
section
/-! SUPPORT. The operations of Machine/Flags.lean keep memory in its canonical form. -/

namespace Sys2Proof.Machine

@[simp] theorem State.raiseFlag_inv {s : State} (k : FlagNo) (old : Bool) (hi : s.Inv) :
    (State.raiseFlag s k old).Inv := by
  simp [State.raiseFlag, *]

@[simp] theorem State.raiseFlag?_inv {s : State} (k : Option FlagNo) (old : Bool) (hi : s.Inv) :
    (State.raiseFlag? s k old).Inv := by
  unfold State.raiseFlag?
  repeat' split
  all_goals simp [*]

@[simp] theorem State.increment_inv {s : State} (n : Nat) (k : CtrNo) (v : Word32) (old : Bool) (hi : s.Inv) :
    (State.increment s n k v old).Inv := by
  simp [State.increment, *]

end Sys2Proof.Machine
end

