-- ==== Sys2Proof/Laws/KeepIssue.lean ====
section
/-! SUPPORT. The operations of Machine/Issue.lean keep memory in its canonical form. -/

namespace Sys2Proof.Machine

@[simp] theorem State.guarded_keeps {s : State} (i : Instr) {e : Eff} (hi : s.Inv) (he : e.Keeps) :
    (State.guarded s i e).Keeps := by
  unfold State.guarded
  repeat' split
  all_goals simp [*]

end Sys2Proof.Machine
end

