-- ==== Sys2Proof/Laws/KeepAlu.lean ====
section
/-! SUPPORT. The operations of Machine/Alu.lean keep memory in its canonical form. -/

namespace Sys2Proof.Machine

@[simp] theorem State.alu1_keeps {s : State} (d : XReg) (v : Word) (hi : s.Inv) :
    (State.alu1 s d v).Keeps := by
  simp [State.alu1, *]

@[simp] theorem State.aluN_keeps {s : State} (d : XReg) (v : Word) (lat : Nat) (hi : s.Inv) :
    (State.aluN s d v lat).Keeps := by
  simp [State.aluN, *]

@[simp] theorem State.startDiv_inv {s : State} (hi : s.Inv) :
    (State.startDiv s).Inv := by
  simp [State.startDiv, *]

@[simp] theorem State.aluDiv_keeps {s : State} (d : XReg) (v : Word) (hi : s.Inv) :
    (State.aluDiv s d v).Keeps := by
  unfold State.aluDiv
  repeat' split
  all_goals simp [*]

@[simp] theorem State.writeCtr_keeps {s : State} (k : CtrNo) (v : Word32) (hi : s.Inv) :
    (State.writeCtr s k v).Keeps := by
  simp [State.writeCtr, *]

end Sys2Proof.Machine
end

