-- ==== Sys2Proof/Laws/KeepAluFp.lean ====
section
/-! SUPPORT. The operations of Machine/AluFp.lean keep memory in its canonical form. -/

namespace Sys2Proof.Machine

@[simp] theorem State.putFp_keeps {s : State} (d : XReg) (v : Num) (hi : s.Inv) :
    (State.putFp s d v).Keeps := by
  simp [State.putFp, *]

@[simp] theorem State.noteTri2_inv {s : State} (bad : Bool) (hi : s.Inv) :
    (State.noteTri2 s bad).Inv := by
  unfold State.noteTri2
  repeat' split
  all_goals simp [*]

end Sys2Proof.Machine
end

