-- ==== Sys2Proof/Laws/KeepMash.lean ====
section
/-! SUPPORT. The operations of Machine/Mash.lean keep memory in its canonical form. -/

namespace Sys2Proof.Machine

@[simp] theorem State.putNode_inv {s : State} (n : TileNode) (hi : s.Inv) :
    (State.putNode s n).Inv := by
  simp [State.putNode, *]

@[simp] theorem State.elemAt_inv {s : State} (a : TileAccess) (rows : Nat) (slot : Nat) (i : Nat) (j : Nat) (write : Bool) (hi : s.Inv) :
    (State.elemAt s a rows slot i j write).1.Inv := by
  unfold State.elemAt
  dsimp only
  repeat' split
  all_goals simp_all

@[simp] theorem State.readSector_inv {s : State} (key : Nat) (f : Fetch) (hi : s.Inv) :
    (State.readSector s key f).1.Inv := by
  unfold State.readSector
  dsimp only
  repeat' split
  all_goals simp_all

@[simp] theorem State.needSectors_inv {s : State} (secs : List Sector) (a : Nat) (n : Nat) (f : Fetch) (hi : s.Inv) :
    (State.needSectors s secs a n f).1.Inv := by
  unfold State.needSectors
  refine foldl_inv_fst _ (fun t b ht => ?_) _ hi
  repeat' split
  all_goals simp_all

@[simp] theorem State.readRaw_inv {s : State} (n : TileNode) (a : TileAccess) (i : Nat) (j : Nat) (hi : s.Inv) :
    (State.readRaw s n a i j).1.Inv := by
  unfold State.readRaw
  dsimp only
  split
  · exact hi
  · have h1 := State.elemAt_inv a n.tag.rows n.origin.slot i j false hi
    generalize s.elemAt a n.tag.rows n.origin.slot i j false = w at h1
    split
    · exact h1
    · exact h1
    · rename_i e _
      generalize (if e.fmt.isBlock = true then e.fmt.blockBytes else (e.bit % 8 + e.fmt.width + 7) / 8) = k
      have h2 (f : Fetch) := State.needSectors_inv n.sectors (e.bit / 8) k f h1
      cases e.scale with
      | none => split <;> simp only [h1, h2, apply_ite, ite_self]
      | some x => split <;> simp only [h1, State.needSectors_inv, h2, apply_ite, ite_self]

@[simp] theorem State.noteFault_inv {s : State} (fs : List NodeFault) (o : Origin) (k : DemandKind) (handler : Bool) (hi : s.Inv) :
    (State.noteFault s fs o k handler).Inv := by
  unfold State.noteFault
  repeat' split
  all_goals simp [*]

@[simp] theorem State.takeCells_inv {s : State} (n : TileNode) (cs : List CellOut) (hi : s.Inv) :
    (State.takeCells s n cs).Inv := by
  simp [State.takeCells, *]

@[simp] theorem State.finishCells_inv {s : State} (n : TileNode) (ahead : Bool) (cs : List CellOut) (hi : s.Inv) :
    (State.finishCells s n ahead cs).1.Inv := by
  unfold State.finishCells
  dsimp only
  repeat' split
  all_goals simp_all

@[simp] theorem State.countTri2For_inv {s : State} (ctx n : Nat) (hi : s.Inv) : (State.countTri2For s ctx n).Inv := by
  unfold State.countTri2For
  split <;> simp [*]

@[simp] theorem State.countTri2_inv {s : State} (n : Nat) (hi : s.Inv) : (State.countTri2 s n).Inv :=
  State.countTri2For_inv _ _ hi

@[simp] theorem State.tock_inv {s : State} (b : Bool) (hi : s.Inv) : (s.tock b).Inv := by
  unfold State.tock
  split <;> simp [*]

@[simp] theorem State.readCells_inv {s : State} (n : TileNode) (a : TileAccess) (cells : List (Nat × Nat)) (hi : s.Inv) :
    (State.readCells s n a cells).1.Inv := by
  refine foldl_inv_fst _ (fun x c hx => ?_) _ hi
  split
  · exact hx
  · have h1 := State.readRaw_inv x.2.1 a c.1 c.2 hx
    dsimp only
    split <;> exact h1

@[simp] theorem State.takeLoaded_inv {s : State} (n : TileNode) (a : TileAccess) (rf : Fmt) (ahead : Bool) (cells : List (Nat × Nat))
    (hi : s.Inv) : (State.takeLoaded s n a rf ahead cells).1.Inv :=
  State.finishCells_inv _ _ _ (State.countTri2_inv _ hi)

@[simp] theorem State.loadRun_inv {s : State} (n : TileNode) (a : TileAccess) (ahead : Bool) (cells : List (Nat × Nat)) (fuel : Nat)
    (hi : s.Inv) : (State.loadRun s n a ahead cells fuel).1.Inv := by
  induction fuel generalizing s n cells with
  | zero => exact hi
  | succ fuel ih =>
    unfold State.loadRun
    have hr := State.readCells_inv n a cells hi
    generalize s.readCells n a cells = r at hr
    extract_lets r0 n' rf format rest stop
    have he (fs : List NodeFault) : (stop fs).1.Inv := by
      show (if ahead then (r.1.putNode rest, [], false) else _).1.Inv
      split <;> exact State.putNode_inv _ hr
    clear_value stop
    split
    · split
      · exact he _
      · exact State.takeLoaded_inv _ _ _ _ _ (State.putNode_inv _ hr)
    · exact he _
    · extract_lets moving ready q
      have hq : q.1.Inv := by
        show (if ready.isEmpty then (r.1.putNode n', []) else _).1.Inv
        split
        · exact State.putNode_inv _ hr
        · exact State.takeLoaded_inv _ _ _ _ _ (State.putNode_inv _ hr)
      clear_value q
      split
      · exact hq
      · split
        · exact hq
        · dsimp only
          split
          · exact ih _ _ (State.putNode_inv _ hq)
          · exact State.putNode_inv _ hq

@[simp] theorem State.evalLoad_inv {s : State} (n : TileNode) (a : TileAccess) (ahead : Bool) (cells : List (Nat × Nat)) (hi : s.Inv) :
    (State.evalLoad s n a ahead cells).1.Inv := State.loadRun_inv n a ahead cells _ hi

@[simp] theorem State.demand_inv {s : State} (ahead : Bool) (id : Nat) (rows : List Nat) (cols : List Nat) (n1 : Nat) (hi : s.Inv) :
    (State.demand s ahead id rows cols n1).1.Inv := by
  induction n1 generalizing s id rows cols with
  | zero => exact hi
  | succ fuel ih =>
    unfold State.demand
    split
    · exact hi
    · rename_i n0 _
      split
      · exact hi
      · extract_lets wd dr dc n1' new t
        have ht : t.Inv := State.putNode_inv _ hi
        clear_value wd dr dc n1' new t
        split
        · exact hi
        · split <;> exact hi
        · split
          · exact ht
          · split
            · split
              · exact ht
              · exact State.evalLoad_inv _ _ _ _ ht
            · exact State.finishCells_inv _ _ _ ht
            · extract_lets maps r u
              have hr : u.Inv := by
                refine foldl_inv_fst _ (fun x c hx => ?_) _ ht
                split
                · exact hx
                · exact ih _ _ _ hx
              clear_value r u
              repeat' first | split | extract_lets
              all_goals first
                | exact hr
                | exact State.finishCells_inv _ _ _ (State.tock_inv _ (State.countTri2_inv _ hr))

@[simp] theorem State.gc_inv {s : State} (hi : s.Inv) :
    (State.gc s).Inv := by
  simp [State.gc, *]

@[simp] theorem State.runDemand_inv {s : State} (d : Demand) (hi : s.Inv) :
    (State.runDemand s d).Inv := by
  unfold State.runDemand
  have h1 := State.noteFault_inv (s.demand false d.node d.region.rows d.region.cols s.depth).2 d.origin d.kind d.handler
    (State.demand_inv false d.node d.region.rows d.region.cols s.depth hi)
  dsimp only
  refine State.gc_inv ?_
  split
  · exact h1
  · exact h1

@[simp] theorem State.closeNode_inv {s : State} (n : TileNode) (hi : s.Inv) :
    (State.closeNode s n).1.Inv := by
  unfold State.closeNode
  repeat' split
  all_goals simp [*]

@[simp] theorem State.readClosing_inv {s : State} (id : Nat) (hi : s.Inv) : (State.readClosing s id).Inv := by
  unfold State.readClosing
  repeat' split
  all_goals first | exact hi | exact State.noteFault_inv _ _ _ _ (State.closeNode_inv _ hi)

@[simp] theorem State.readClosings_inv {s : State} (hi : s.Inv) : s.readClosings.Inv :=
  State.gc_inv (foldl_inv _ (fun t b ht => State.readClosing_inv b ht) _ hi)

@[simp] theorem State.closeNodes_inv {s : State} (ids : List Nat) (o : Origin) (k : DemandKind) (hi : s.Inv) :
    (State.closeNodes s ids o k).Inv := State.readClosings_inv hi

@[simp] theorem State.closeAll_inv {s : State} (k : DemandKind) (hi : s.Inv) :
    (State.closeAll s k).Inv := by
  unfold State.closeAll
  split <;> simp [*]

@[simp] theorem State.aliasForce_inv {s : State} (lanes : List (Nat × Nat)) (hi : s.Inv) :
    (State.aliasForce s lanes).Inv := by
  unfold State.aliasForce
  repeat' split
  all_goals simp [*]

@[simp] theorem State.makeRoom_inv {s : State} (value : Bool) (tail : Core → Core) (n1 : List Nat) (hi : s.Inv) :
    (State.makeRoom s value tail n1).1.Inv := by
  induction n1 generalizing s with
  | nil => exact hi
  | cons id rest ih =>
    unfold State.makeRoom
    repeat' split
    all_goals first | exact hi | exact ih hi | exact ih (State.demand_inv _ _ _ _ _ hi)

@[simp] theorem State.appendNode_inv {s : State} (op : NodeOp) (opcode : BitVec 8) (args : List Nat) (tag : Tag) (mode : NodeMode) (after : List Nat) (hi : s.Inv) :
    (State.appendNode s op opcode args tag mode after).Inv := by
  simp [State.appendNode, *]

@[simp] theorem State.storePlaces_inv {s : State} (n : StoreNode) (hi : s.Inv) :
    (State.storePlaces s n).1.Inv := by
  unfold State.storePlaces
  refine foldl_inv_fst _ (fun t b ht => ?_) _ (by simp_all)
  dsimp only
  repeat' split
  all_goals first | exact ht | simp_all

@[simp] theorem State.patchReplica_inv {s : State} (ws : List BitWrite) (key : Nat) (hi : s.Inv) :
    (State.patchReplica s ws key).Inv := by
  unfold State.patchReplica
  split
  · exact hi
  · split
    · exact hi
    · exact (State.inv_modL2 s _).2 hi

@[simp] theorem State.writeSector_inv {s : State} (ws : List BitWrite) (earlier : GateEntry → Bool) (key : Nat)
    (hi : s.Inv) : (State.writeSector s ws earlier key).Inv := by
  unfold State.writeSector
  extract_lets fe touched cells full a b c
  have ha : a.Inv := by
    show (if key * 64 < 2 ^ 40 then s.writeMainBits (some s.core.die) fe cells full else s.writeBits cells full).Inv
    split
    · exact State.writeMainBits_inv _ _ _ _ hi
    · exact State.inv_writeBits hi _ _
  have hb : b.Inv := State.patchReplica_inv _ _ ha
  have hc : c.Inv := by
    show (if inSpad s.cur (key * 64) then b.modCore _ else b).Inv
    split
    · exact (State.inv_modCore b _).2 hb
    · exact hb
  clear_value c
  split
  · exact State.setMark_inv _ _ hc
  · exact hc

@[simp] theorem State.storeDone_inv {s : State} (n : StoreNode) (hi : s.Inv) :
    (State.storeDone s n).Inv := by
  simp [State.storeDone, *]

@[simp] theorem State.storePerform_inv {s : State} (n : StoreNode) (k : Nat) (hi : s.Inv) :
    (State.storePerform s n k).Inv := by
  unfold State.storePerform
  split
  · exact hi
  · extract_lets o pl places mf cells fs ws secs now read t n'
    have h1 : pl.1.Inv := State.storePlaces_inv n hi
    have h2 : t.Inv := foldl_inv _ (fun t b ht => State.writeSector_inv ws _ b ht) _ (State.countTri2_inv _ h1)
    clear_value pl fs t
    repeat' split
    · exact h1
    · exact State.noteFault_inv _ _ _ _ h1
    · exact h2
    · exact h2
    · exact State.storeDone_inv _ h2

end Sys2Proof.Machine
end

