-- ==== Sys2Proof/Laws/KeepMem.lean ====
section
/-! SUPPORT. The operations of Machine/Mem.lean keep memory in its canonical form. -/

namespace Sys2Proof.Machine

@[simp] theorem State.load_keeps {s : State} (ls : List (Nat × Nat)) (form : LoadForm) (near : Nat) (far : Nat) (hi : s.Inv) :
    (State.load s ls form near far).Keeps := by
  unfold State.load
  dsimp only
  repeat' split
  all_goals simp_all

@[simp] theorem State.store_keeps {s : State} (ls : List (Nat × Nat)) (data : List Byte) (hi : s.Inv) :
    (State.store s ls data).Keeps := by
  unfold State.store
  dsimp only
  repeat' split
  all_goals simp_all

@[simp] theorem State.loadScalar_keeps {s : State} (n : Nat) (signed : Bool) (d : XReg) (a : XReg) (disp : BitVec 15) (hi : s.Inv) :
    (State.loadScalar s n signed d a disp).Keeps := by
  unfold State.loadScalar
  repeat' split
  all_goals simp [*]

@[simp] theorem State.storeScalar_keeps {s : State} (n : Nat) (src : XReg) (a : XReg) (disp : BitVec 15) (hi : s.Inv) :
    (State.storeScalar s n src a disp).Keeps := by
  unfold State.storeScalar
  repeat' split
  all_goals simp [*]

@[simp] theorem State.loadVector_keeps {s : State} (n : Nat) (d : VReg) (eas : List Word) (hi : s.Inv) :
    (State.loadVector s n d eas).Keeps := by
  unfold State.loadVector
  repeat' split
  all_goals simp [*]

@[simp] theorem State.storeVector_keeps {s : State} (n : Nat) (src : VReg) (eas : List Word) (hi : s.Inv) :
    (State.storeVector s n src eas).Keeps := by
  unfold State.storeVector
  repeat' split
  all_goals simp [*]

end Sys2Proof.Machine
end

