-- ==== Sys2Proof/Laws/KeepVec.lean ====
section
/-! SUPPORT. The operations of Machine/Vec.lean keep memory in its canonical form. -/

namespace Sys2Proof.Machine

@[simp] theorem State.vecIssue_keeps {s : State} (b : Nat) {f : State → State} (hi : s.Inv) (hf : ∀ t, t.Inv → (f t).Inv) :
    (State.vecIssue s b f).Keeps := by
  unfold State.vecIssue
  repeat' split
  all_goals simp [*]

@[simp] theorem State.putRun_inv {s : State} (d : VReg) (b : Nat) (lat : Nat) (v : Nat) (act : VWord) (z : Bool) (hi : s.Inv) :
    (State.putRun s d b lat v act z).Inv := by
  unfold State.putRun
  exact foldl_inv _ (fun t b ht => by simp_all) _ hi

@[simp] theorem State.vecOut_keeps {s : State} (c : VCtl) (d : VReg) (lat : Nat) (es : List Nat) (hi : s.Inv) :
    (State.vecOut s c d lat es).Keeps := by
  unfold State.vecOut
  exact State.vecIssue_keeps _ hi (fun t ht => State.putRun_inv _ _ _ _ _ _ ht)

@[simp] theorem State.vec2_keeps {s : State} (c : VCtl) (d : VReg) (a : VReg) (b : VReg) (lat : Nat) (sat : Bool) (f : Num → Num → Num) (hi : s.Inv) :
    (State.vec2 s c d a b lat sat f).Keeps := by
  simp [State.vec2, *]

@[simp] theorem State.vec3_keeps {s : State} (c : VCtl) (d : VReg) (a : VReg) (b : VReg) (e : VReg) (f : Num → Num → Num → Num) (hi : s.Inv) :
    (State.vec3 s c d a b e f).Keeps := by
  simp [State.vec3, *]

@[simp] theorem State.vecBits_keeps {s : State} (c : VCtl) (d : VReg) (a : VReg) (b : VReg) (f : Nat → Nat → Nat) (hi : s.Inv) :
    (State.vecBits s c d a b f).Keeps := by
  simp [State.vecBits, *]

@[simp] theorem drawVrng_keeps (c : VCtl) (d : VReg) (a : VReg) (n : RngRounds) (hiArg : Bool) {s : State} (hi : s.Inv) :
    (drawVrng c d a n hiArg s).Keeps := by
  simp [drawVrng, *]

end Sys2Proof.Machine
end

