-- ==== Sys2Proof/Laws/KeepTileSlot.lean ====
section
/-! SUPPORT. The operations of Machine/TileSlot.lean keep memory in its canonical form. -/

namespace Sys2Proof.Machine

@[simp] theorem State.append_keeps {s : State} (pops : Nat) (opcode : BitVec 8) (after : List Nat) (f : List Tag → Build) (hi : s.Inv) :
    (State.append s pops opcode after f).Keeps := by
  unfold State.append
  dsimp only
  repeat' split
  all_goals simp_all

@[simp] theorem State.stackOp_keeps {s : State} (need : Nat) (grow : Nat) (f : List Nat → List Nat) (hi : s.Inv) :
    (State.stackOp s need grow f).Keeps := by
  unfold State.stackOp
  dsimp only
  repeat' split
  all_goals simp_all

@[simp] theorem State.readTab_keeps {s : State} (w : Word) {k : State → Tab → Eff} (hi : s.Inv)
    (hk : ∀ t x, t.Inv → (k t x).Keeps) : (State.readTab s w k).Keeps := by
  unfold State.readTab
  dsimp only
  repeat' split
  all_goals first | trivial | exact hk _ _ (State.controlBefore_inv _ _ hi)

@[simp] theorem State.appendStore_inv {s : State} (src : Nat) (tag : Tag) (a : TileAccess) (r : Region) (flag : Option FlagNo) (hi : s.Inv) :
    (State.appendStore s src tag a r flag).Inv := by
  unfold State.appendStore
  repeat' split
  all_goals simp [*]

end Sys2Proof.Machine
end

