-- ==== Sys2Proof/Laws/KeepCopy.lean ====
section
/-! SUPPORT. The operations of Machine/Copy.lean keep memory in its canonical form. -/

namespace Sys2Proof.Machine

@[simp] theorem State.enter_keeps {s : State} (op : CmdOp) (flag : Option FlagNo) (cls : Nat) (x : Bool) (hi : s.Inv) :
    (State.enter s op flag cls x).Keeps := by
  unfold State.enter
  repeat' split
  all_goals simp [*]

@[simp] theorem State.enterGated_keeps {s : State} (op : CmdOp) (flag : Option FlagNo) (cls : Nat) (x : Bool) (hi : s.Inv) :
    (State.enterGated s op flag cls x).Keeps := by
  unfold State.enterGated
  repeat' split
  all_goals simp [*]

@[simp] theorem State.readBlock_keeps {s : State} {read : State → Nat → Nat → State × List Byte} (w : Word) (align : Nat) (n : Nat)
    {k : State → List Byte → Eff} (hi : s.Inv) (hr : ∀ a n, (read s a n).1.Inv) (hk : ∀ t x, t.Inv → (k t x).Keeps) :
    (State.readBlock s read w align n k).Keeps := by
  unfold State.readBlock
  dsimp only
  repeat' split
  all_goals first | trivial | exact hk _ _ (hr _ _)

@[simp] theorem State.readDesc_keeps {s : State} (u : DescUse) (w : Word) {k : State → Desc → Eff} (hi : s.Inv)
    (hk : ∀ t x, t.Inv → (k t x).Keeps) : (State.readDesc s u w k).Keeps := by
  unfold State.readDesc
  refine State.readBlock_keeps _ _ _ hi (fun _ _ => State.controlBefore_inv _ _ hi) (fun t bs ht => ?_)
  split
  · trivial
  · exact hk _ _ ht

@[simp] theorem State.satm_keeps {s : State} (op : SatmOp) (a : XReg) (flag : Option FlagNo) (cls : Fin 4) (hi : s.Inv) :
    (State.satm s op a flag cls).Keeps := by
  unfold State.satm
  refine State.readBlock_keeps _ _ _ hi (fun _ _ => State.controlBefore_inv _ _ hi) (fun t bs ht => ?_)
  split
  · trivial
  · split
    · trivial
    · exact State.enterGated_keeps _ _ _ _ ht

@[simp] theorem State.signal_keeps {s : State} (a : XReg) (b : XReg) (flag : Option FlagNo) (cls : Nat) (x : Bool) (rel : Option Scope) (hi : s.Inv) :
    (State.signal s a b flag cls x rel).Keeps := by
  unfold State.signal
  repeat' split
  all_goals simp [*]

@[simp] theorem State.drainAt_keeps {s : State} (k : DrainKind) (sc : Scope) (flag : Option FlagNo) (hi : s.Inv) :
    (State.drainAt s k sc flag).Keeps := by
  unfold State.drainAt
  split
  · trivial
  · exact hi

end Sys2Proof.Machine
end

