-- ==== Sys2Proof/Laws/KeepEngine.lean ====
section
/-! SUPPORT. The operations of Machine/Engine.lean keep memory in its canonical form. -/

namespace Sys2Proof.Machine

@[simp] theorem State.putCmd_inv {s : State} (c : Cmd) (hi : s.Inv) :
    (State.putCmd s c).Inv := by
  simp [State.putCmd, *]

@[simp] theorem State.dropCmd_inv {s : State} (id : Nat) (hi : s.Inv) :
    (State.dropCmd s id).Inv := by
  simp [State.dropCmd, *]

@[simp] theorem State.finishCmd_inv {s : State} (c : Cmd) (hi : s.Inv) :
    (State.finishCmd s c).Inv := by
  unfold State.finishCmd
  repeat' split
  all_goals simp [*]

@[simp] theorem State.lateTrapOf_inv {s : State} (c : Cmd) (cause : BitVec 6) (info : Word) (hi : s.Inv) :
    (State.lateTrapOf s c cause info).Inv := by
  simp [State.lateTrapOf, *]

@[simp] theorem State.tensorPlace_inv {s : State} (ctx : Nat) (tid : Nat) (e : Int) (f : Option Fmt) (whole : Bool) (write : Bool) (hi : s.Inv) :
    (State.tensorPlace s ctx tid e f whole write).1.Inv := by
  unfold State.tensorPlace
  dsimp only
  repeat' split
  all_goals simp_all

@[simp] theorem State.unitPlace_inv {s : State} (sd : Side) (n : Int) (f : Fmt) (write : Bool) (hi : s.Inv) :
    (State.unitPlace s sd n f write).1.Inv := by
  unfold State.unitPlace
  dsimp only
  repeat' split
  all_goals simp_all

@[simp] theorem State.readUnit_inv {s : State} (e : ElemAt) (bits : Nat) (f : Fetch) (hi : s.Inv) :
    (State.readUnit s e bits f).1.Inv := by
  simp [State.readUnit, *]

@[simp] theorem State.readDest_inv {s : State} (e : ElemAt) (bits : Nat) (alloc : Bool) (hi : s.Inv) :
    (State.readDest s e bits alloc).1.Inv := State.readUnit_inv _ _ _ hi

@[simp] theorem State.cleanUp_inv {s : State} (clean : List Nat) (bit : Nat) (n : Nat) (mark : Bool) (hi : s.Inv) :
    (State.cleanUp s clean bit n mark).1.Inv := by
  unfold State.cleanUp
  dsimp only
  repeat' split
  · exact hi
  · exact hi
  · exact foldl_inv (fun (s : State) b => (s.setMark b none).cleanReplica b)
      (fun t b ht => (State.inv_modL2 _ _).2 (State.setMark_inv _ _ ht)) _ hi

@[simp] theorem State.writeUnit_inv {s : State} (c : Cmd) (f : Fetch) (bit : Nat) (bits : Nat) (v : Nat) (mark : Bool)
    (hi : s.Inv) : (State.writeUnit s c f bit bits v mark).1.Inv :=
  State.cleanUp_inv _ _ _ _ (foldl_inv _ (fun t b ht => State.writeSector_inv _ _ b ht) _ hi)

@[simp] theorem State.forceFor_inv {s : State} (o : Origin) (a : Nat) (n : Nat) (hi : s.Inv) :
    (State.forceFor s o a n).1.Inv := by
  unfold State.forceFor
  dsimp only
  repeat' split
  all_goals simp_all

@[simp] theorem State.readStep_inv {s : State} (d : Desc) (idx : Option (List Int)) (sf : Fmt) (pos : Nat) (g : Nat) (hi : s.Inv) :
    (State.readStep s d idx sf pos g).1.Inv := by
  unfold State.readStep
  refine foldl_inv_fst _ (fun t b ht => ?_) _ (by simp_all)
  dsimp only
  repeat' split
  all_goals first | exact ht | simp [ht]

@[simp] theorem State.writeStep_inv {s : State} (c : Cmd) (d : Desc) (df : Fmt) (pos : Nat) (raws : List Nat) (mark : Bool) (hi : s.Inv) :
    (State.writeStep s c d df pos raws mark).1.Inv := by
  unfold State.writeStep
  refine foldl_inv_fst _ (fun x p hx => ?_) _ hi
  dsimp only
  have h1 := State.unitPlace_inv d.dst (walkTerms d none (pos + p.2 * df.blockElems)).2 df true hx
  generalize x.1.unitPlace d.dst (walkTerms d none (pos + p.2 * df.blockElems)).2 df true = r at h1
  split
  · split
    · exact h1
    · exact h1
    · split
      · exact State.writeUnit_inv _ _ _ _ _ _ (State.forceFor_inv _ _ _ h1)
      · exact State.forceFor_inv _ _ _ h1
  · exact hx

@[simp] theorem State.copyStep_inv {s : State} (c : Cmd) (d : Desc) (idx : Option (List Int)) (hi : s.Inv) :
    (State.copyStep s c d idx).1.Inv := by
  unfold State.copyStep
  split
  · exact hi
  · rename_i sf df g _
    have h1 := State.readStep_inv d idx sf c.pos g hi
    dsimp only
    split
    · exact h1
    · have h2 := fun x y z => State.writeStep_inv c d x c.pos y z h1
      split
      · exact State.countTri2_inv _ (h2 _ _ _)
      · exact h2 _ _ _

@[simp] theorem State.saccStep_inv {s : State} (c : Cmd) (op : SaccOp) (d : Desc) (hi : s.Inv) :
    (State.saccStep s c op d).1.Inv := by
  unfold State.saccStep
  split
  · exact hi
  · rename_i sf df _ _
    dsimp only
    have h1 := State.unitPlace_inv d.src (walkTerms d none c.pos).1 sf false hi
    generalize s.unitPlace d.src (walkTerms d none c.pos).1 sf false = r at h1
    split
    · exact h1
    · exact h1
    · have h2 := State.unitPlace_inv d.dst (walkTerms d none c.pos).2 df true h1
      generalize r.1.unitPlace d.dst (walkTerms d none c.pos).2 df true = w at h2
      split
      · exact h2
      · exact h2
      · split
        · exact h2
        · split
          · exact h2
          · split
            · exact State.forceFor_inv _ _ _ h2
            · exact State.countTri2_inv _ (State.writeUnit_inv _ _ _ _ _ _
                (State.readDest_inv _ _ _ (State.readUnit_inv _ _ _ (State.forceFor_inv _ _ _ h2))))

@[simp] theorem State.l2Line_inv {s : State} (op : CmdOp) (tid : Nat) (tile : Nat) (line : Nat) (hi : s.Inv) :
    (State.l2Line s op tid tile line).Inv := by
  unfold State.l2Line
  split
  · exact (State.inv_modL2 s _).2 hi
  · exact foldl_inv _ (fun t b ht => State.evict_inv b ht) _ hi
  · extract_lets tile f far t
    have ht : t.Inv := State.cacheHome_inv _ _ _ (State.drawLine_inv _ _ _ _ _ hi)
    clear_value t
    split
    · exact State.putReplica_inv _ _ _ ht
    · exact ht
  · exact hi

@[simp] theorem State.l2Step_inv {s : State} (c : Cmd) (d : Desc) (hi : s.Inv) :
    (State.l2Step s c d).1.Inv := by
  have h1 := State.tensorPlace_inv s.ctxNo d.src.id ((d.src.base : Int) + (walkTerms d none c.pos).1) d.src.fmt false false hi
  unfold State.l2Step
  dsimp only
  repeat' split
  all_goals first | exact h1 | exact foldl_inv _ (fun t b ht => State.l2Line_inv _ _ _ b ht) _ h1

@[simp] theorem State.atomPlace_inv {s : State} (b : AtomBlock) (hi : s.Inv) :
    (State.atomPlace s b).1.Inv := by
  unfold State.atomPlace
  dsimp only
  repeat' split
  all_goals simp_all

@[simp] theorem State.recordAtom_inv {s : State} (c : Cmd) (b : AtomBlock) (old : Word) (status : Nat) (serial : Nat) (hi : s.Inv) :
    (State.recordAtom s c b old status serial).Inv := by
  unfold State.recordAtom
  dsimp only
  split
  · exact State.finishCmd_inv _ (State.writeUnit_inv _ _ _ _ _ _ (State.forceFor_inv _ _ _ hi))
  · exact State.putCmd_inv _ (State.forceFor_inv _ _ _ hi)

@[simp] theorem State.atomStep_inv {s : State} (c : Cmd) (op : SatmOp) (b : AtomBlock) (hi : s.Inv) :
    (State.atomStep s c op b).Inv := by
  have h1 := State.atomPlace_inv b hi
  unfold State.atomStep
  dsimp only
  repeat' split
  all_goals first
    | exact hi
    | exact h1
    | exact State.recordAtom_inv _ _ _ _ _ h1
    | exact State.putCmd_inv _ h1
    | exact State.forceFor_inv _ _ _ h1
    | exact State.recordAtom_inv _ _ _ _ _ (State.writeUnit_inv _ _ _ _ _ _ (State.readDest_inv _ _ _ (State.forceFor_inv _ _ _ h1)))

@[simp] theorem State.takeSignal_inv {s : State} (ctx : Nat) (core : Nat) (k : CtrNo) (n : Word32) (old : Bool) (hi : s.Inv) :
    (State.takeSignal s ctx core k n old).1.Inv := by
  unfold State.takeSignal
  dsimp only
  repeat' split
  all_goals first | exact hi | simp [hi]

@[simp] theorem State.signalStep_inv {s : State} (c : Cmd) (core : Nat) (k : CtrNo) (n : Word32) (rel : Option Scope) (hi : s.Inv) :
    (State.signalStep s c core k n rel).Inv := by
  have key : ∀ t : State, t.Inv → (if (t.takeSignal t.ctxNo core k n (c.committed || core != t.cur)).2 = true ∨ c.discard = true
      then (t.takeSignal t.ctxNo core k n (c.committed || core != t.cur)).1.finishCmd c
      else ((t.takeSignal t.ctxNo core k n (c.committed || core != t.cur)).1.lateTrapOf c Cause.protection
        (BitVec.ofNat 64 core)).dropCmd c.id).Inv := by
    intro t ht
    split
    · exact State.finishCmd_inv _ (State.takeSignal_inv _ _ _ _ _ ht)
    · exact State.dropCmd_inv _ (State.lateTrapOf_inv _ _ _ (State.takeSignal_inv _ _ _ _ _ ht))
  cases rel with
  | none => exact key _ hi
  | some sc => exact key _ (State.release_inv _ hi)

@[simp] theorem State.putSide_inv {s : State} (ctx : Nat) (w : OwnerSt) (hi : s.Inv) : (State.putSide s ctx w).Inv := hi

@[simp] theorem State.abandonCmd_inv {s : State} (c : Cmd) (hi : s.Inv) : (State.abandonCmd s c).Inv := by
  unfold State.abandonCmd
  repeat' split
  all_goals simp [hi]

@[simp] theorem State.cmdFault_inv {s : State} (c : Cmd) (f : EngFault) (hi : s.Inv) :
    (State.cmdFault s c f).Inv := by
  unfold State.cmdFault
  repeat' split
  all_goals simp [*]

@[simp] theorem State.takeCmdFault_inv {s : State} (c : Cmd) (hi : s.Inv) :
    (State.takeCmdFault s c).Inv := by
  unfold State.takeCmdFault
  repeat' split
  all_goals simp [*]

@[simp] theorem State.finishAnswer_inv {s : State} (c : Cmd) (status : Nat) (old : Word) (serial : Nat) (cause : BitVec 6) (hi : s.Inv) :
    (State.finishAnswer s c status old serial cause).Inv := by
  unfold State.finishAnswer
  repeat' split
  all_goals simp [*]

end Sys2Proof.Machine
end

