-- ==== Sys2Proof/Laws/KeepRemote.lean ====
section
/-! SUPPORT. The operations of Machine/Remote.lean keep memory in its canonical form. -/

namespace Sys2Proof.Machine

@[simp] theorem State.modTask_inv {s : State} (id : Nat) (f : Task → Task) (hi : s.Inv) :
    (State.modTask s id f).Inv := by
  simp [State.modTask, *]

@[simp] theorem State.advanceAck_inv {s : State} (ctx : Nat) (owner : Nat) (hi : s.Inv) :
    (State.advanceAck s ctx owner).Inv := by
  unfold State.advanceAck
  extract_lets w stops first ack
  clear_value w stops first ack
  split
  · exact State.putSide_inv _ _ hi
  · exact hi

@[simp] theorem State.advanceAcks_inv {s : State} (ctx : Nat) (hi : s.Inv) : (s.advanceAcks ctx).Inv := by
  unfold State.advanceAcks
  split
  · exact foldl_inv _ (fun t b ht => State.advanceAck_inv _ _ ht) _ hi
  · exact hi

@[simp] theorem State.takeSerial_inv {s : State} (owner : Nat) (hi : s.Inv) :
    (State.takeSerial s owner).1.Inv := by
  unfold State.takeSerial
  dsimp only
  repeat' split
  all_goals simp_all

@[simp] theorem State.giveSerial_inv {s : State} (c : Cmd) (o : Nat) (hi : s.Inv) : (State.giveSerial s c o).1.Inv := by
  have h1 := State.takeSerial_inv o hi
  unfold State.giveSerial
  dsimp only
  split
  · exact h1
  · exact State.putCmd_inv _ (State.putSide_inv _ _ h1)

@[simp] theorem State.onCore_inv {s : State} (n : Nat) {f : State → State} (hi : s.Inv) (hf : ∀ t, t.Inv → (f t).Inv) :
    (State.onCore s n f).Inv :=
  State.focus_inv _ (hf _ (State.focus_inv _ hi))

@[simp] theorem State.asSaved_inv {s : State} (ctx key : Nat) {f : State → State} (hi : s.Inv)
    (hf : ∀ t, t.Inv → (f t).Inv) : (State.asSaved s ctx key f).Inv := by
  unfold State.asSaved
  split
  · exact hi
  · rename_i k _
    exact State.onCore_inv _ hi (fun u hu => hf { u with core := k } hu)

@[simp] theorem State.onHolder_inv {s : State} (ctx core cmd : Nat) {f : State → State} (hi : s.Inv)
    (hf : ∀ t, t.Inv → (f t).Inv) : (State.onHolder s ctx core cmd f).Inv := by
  unfold State.onHolder
  split
  · exact State.asSaved_inv _ _ hi hf
  · exact State.onCore_inv _ hi hf

@[simp] theorem State.settleQueue_inv {s : State} (ctx o : Nat) (qs : List (Nat × Nat)) (hi : s.Inv) :
    (State.settleQueue s ctx o qs).Inv := by
  induction qs generalizing s with
  | nil => exact hi
  | cons q rest ih =>
    have h1 : (s.onHolder ctx q.1 q.2 (fun u =>
        match u.core.eng.cmd? q.2 with
        | some c => (u.giveSerial c o).1
        | none => u)).Inv := by
      refine State.onHolder_inv _ _ _ hi (fun u hu => ?_)
      split
      · exact State.giveSerial_inv _ _ hu
      · exact hu
    unfold State.settleQueue
    dsimp only
    split
    · exact h1
    · exact ih (State.putSide_inv _ _ h1)

@[simp] theorem State.assignSerials_inv {s : State} (hi : s.Inv) : (State.assignSerials s).Inv := by
  unfold State.assignSerials
  refine foldl_inv _ (fun t b ht => ?_) _ hi
  split
  · split
    · exact ht
    · rename_i o _ _ _
      have hq := State.settleQueue_inv t.ctxNo o (t.side t.ctxNo o).queue ht
      have hg := State.giveSerial_inv b o hq
      dsimp only
      repeat' split
      all_goals first | exact hg | exact hq
  · exact ht

@[simp] theorem State.send_inv {s : State} (p : Packet) (hi : s.Inv) :
    (State.send s p).Inv := by
  simp [State.send, *]

@[simp] theorem State.gather_inv {s : State} (d : Desc) (sf : Fmt) (n : Nat) (acc : State × List PktElem)
    (hacc : acc.1.Inv) : (s.gather d sf n acc).1.Inv := by
  induction n generalizing acc with
  | zero => exact hacc
  | succ n ih =>
    unfold State.gather
    dsimp only
    have h1 := State.readStep_inv d none sf (d.total - (n + 1)) 1 hacc
    generalize acc.1.readStep d none sf (d.total - (n + 1)) 1 = r at h1
    split
    · exact h1
    · split
      · exact h1
      · exact ih _ h1

@[simp] theorem State.opBody_inv {s : State} (c : Cmd) (hi : s.Inv) :
    (State.opBody s c).1.Inv := by
  have hg : ∀ d sf, (s.gather d sf d.total (s, [])).1.Inv := fun d sf => State.gather_inv d sf _ _ hi
  unfold State.opBody
  dsimp only
  repeat' split
  all_goals first | exact hi | exact hg _ _

@[simp] theorem State.carryAck_inv {s : State} (ctx o : Nat) (hi : s.Inv) : (State.carryAck s ctx o).1.Inv := by
  unfold State.carryAck
  split <;> exact hi

@[simp] theorem State.modSide_inv {s : State} (ctx o : Nat) (f : OwnerSt → OwnerSt) (hi : s.Inv) :
    (State.modSide s ctx o f).Inv := hi

@[simp] theorem State.sendOp_inv {s : State} (c : Cmd) (owner : Nat) (serial : Nat) (hi : s.Inv) :
    (State.sendOp s c owner serial).Inv := by
  have h1 := State.opBody_inv c hi
  have hr : (match c.op with
      | .ssig _ _ _ _ (some sc) => (s.opBody c).1.release sc
      | _ => (s.opBody c).1).Inv := by
    split
    · exact State.release_inv _ h1
    · exact h1
  unfold State.sendOp
  dsimp only
  repeat' split
  all_goals first
    | exact hi
    | exact h1
    | exact State.cmdFault_inv _ _ h1
    | exact State.send_inv _ (State.putSide_inv _ _ hi)
    | exact State.send_inv _ (State.modSide_inv _ _ _ (State.carryAck_inv _ _ (State.release_inv _ h1)))
    | exact State.send_inv _ (State.modSide_inv _ _ _ (State.carryAck_inv _ _ h1))

@[simp] theorem State.sendPacket_inv {s : State} (c : Cmd) (owner : Nat) (pos : Nat) (next : Nat) (body : ReqBody) (hi : s.Inv) :
    (State.sendPacket s c owner pos next body).Inv :=
  State.putCmd_inv _ (State.send_inv _ (State.carryAck_inv _ _ hi))

@[simp] theorem State.readConverted_inv {s : State} (d : Desc) (idx : Option (List Int)) (sf : Fmt) (df : Fmt) (g : Nat) (ps : List Nat) (hi : s.Inv) :
    (State.readConverted s d idx sf df g ps).1.Inv := by
  unfold State.readConverted
  refine foldl_inv_fst _ (fun t b ht => ?_) _ hi
  have h1 := State.readStep_inv d idx sf b g ht
  dsimp only
  repeat' split
  all_goals first | exact ht | exact h1 | exact State.countTri2_inv _ h1

@[simp] theorem State.sendWrites_inv {s : State} (c : Cmd) (d : Desc) (idx : Option (List Int)) (n : Nat) (hi : s.Inv) :
    (State.sendWrites s c d idx n).Inv := by
  unfold State.sendWrites
  dsimp only
  repeat' split
  all_goals simp_all

@[simp] theorem State.sendReads_inv {s : State} (c : Cmd) (d : Desc) (idx : Option (List Int)) (n : Nat) (hi : s.Inv) :
    (State.sendReads s c d idx n).Inv := by
  unfold State.sendReads
  dsimp only
  repeat' split
  all_goals simp_all

@[simp] theorem State.placeStep_inv {s : State} (c : Cmd) (d : Desc) (sf df : Fmt) (pos : Nat) (es : List PktElem)
    (hi : s.Inv) : (State.placeStep s c d sf df pos es).1.Inv := by
  have h1 := State.writeStep_inv c d df pos (convUnits sf df d.rnd d.sat d.ftz (es.map (fun e => e.bits)))
    (es.any (fun e => e.poison)) hi
  unfold State.placeStep
  dsimp only
  split
  · exact State.countTri2_inv _ h1
  · exact h1

@[simp] theorem State.placeReads_inv {s : State} (c : Cmd) (d : Desc) (sf df : Fmt) (g : Nat) (ess : List (List PktElem))
    (pos : Nat) (hi : s.Inv) : (State.placeReads s c d sf df g ess pos).1.Inv := by
  induction ess generalizing s c pos with
  | nil => exact hi
  | cons es rest ih =>
    have h1 := State.placeStep_inv c d sf df pos es hi
    unfold State.placeReads
    dsimp only
    split
    · exact ih _ _ h1
    · exact h1

@[simp] theorem State.tryFinish_inv {s : State} (c : Cmd) (d : Desc) (hi : s.Inv) :
    (State.tryFinish s c d).Inv := by
  unfold State.tryFinish
  repeat' split
  all_goals simp [*]

@[simp] theorem State.modOut_inv {s : State} (tag : Nat) (g : OutPacket → OutPacket) (hi : s.Inv) :
    (State.modOut s tag g).Inv := hi

@[simp] theorem State.placeHeld_inv {s : State} (c : Cmd) (d : Desc) (p : OutPacket) (es : List PktElem) (r : RemRep)
    (hi : s.Inv) : (State.placeHeld s c d p es r).Inv := by
  unfold State.placeHeld
  split
  · exact State.cmdFault_inv _ _ hi
  · rename_i sf df g _
    have h1 := State.placeReads_inv c d sf df g (groups (g / sf.blockElems) es) p.pos hi
    dsimp only
    repeat' split
    all_goals first
      | exact State.tryFinish_inv _ _ (State.putCmd_inv _ (State.modOut_inv _ _ h1))
      | exact State.cmdFault_inv _ _ (State.putCmd_inv _ (State.modOut_inv _ _ h1))
      | exact State.putCmd_inv _ (State.modOut_inv _ _ h1)

theorem State.retryHeld_inv {s t : State} (c : Cmd) (d : Desc) (hi : s.Inv) (h : s.retryHeld c d = some t) : t.Inv := by
  unfold State.retryHeld at h
  split at h
  · split at h
    · split at h
      · exact Option.some.inj h ▸ State.placeHeld_inv _ _ _ _ _ hi
      · exact nomatch h
    · exact nomatch h
  · exact nomatch h

@[simp] theorem State.walk_inv {s : State} (c : Cmd) (total : Nat) (f : State → Cmd → State × Cmd × WalkEnd) (n : Nat)
    (hi : s.Inv) (hf : ∀ t k, t.Inv → (f t k).1.Inv) : (s.walk c total f n).Inv := by
  induction n generalizing s c with
  | zero =>
    unfold State.walk
    split
    · exact State.finishCmd_inv _ hi
    · exact State.putCmd_inv _ hi
  | succ n ih =>
    unfold State.walk
    dsimp only
    have h1 := hf s c hi
    generalize f s c = r at h1
    split
    · exact State.finishCmd_inv _ hi
    · split
      · exact ih _ h1
      · exact State.putCmd_inv _ h1
      · exact State.cmdFault_inv _ _ (State.putCmd_inv _ h1)

@[simp] theorem State.remoteStep_inv {s : State} (c : Cmd) (owner : Nat) (hi : s.Inv) :
    (State.remoteStep s c owner).Inv := by
  unfold State.remoteStep
  repeat' split
  all_goals simp [*]

@[simp] theorem State.plainStep_inv {s : State} (c : Cmd) (d : Desc) (idx : Option (List Int)) (n : Nat) (hi : s.Inv) :
    (State.plainStep s c d idx n).Inv := by
  unfold State.plainStep
  repeat' split
  all_goals first
    | exact State.cmdFault_inv _ _ hi
    | exact State.tryFinish_inv _ _ hi
    | exact State.sendWrites_inv _ _ _ _ hi
    | exact State.sendReads_inv _ _ _ _ hi
    | exact State.retryHeld_inv _ _ hi (by assumption)
    | exact State.walk_inv _ _ _ _ hi (fun t k ht => State.copyStep_inv _ _ _ ht)

@[simp] theorem State.fenceStep_inv {s : State} (id : Nat) (hi : s.Inv) :
    (State.fenceStep s id).Inv := by
  unfold State.fenceStep
  repeat' split
  all_goals simp [*]

@[simp] theorem State.closeTransfer_inv {s : State} (id core : Nat) (w : Word) (hi : s.Inv) : (State.closeTransfer s id core w).Inv := hi

@[simp] theorem State.writeStatus_inv {s : State} (c : Cmd) (t : Transfer) (hi : s.Inv) : (State.writeStatus s c t).Inv := by
  unfold State.writeStatus
  dsimp only
  split
  · exact State.finishCmd_inv _ (State.writeUnit_inv _ _ _ _ _ _ (State.forceFor_inv _ _ _ hi))
  · exact State.forceFor_inv _ _ _ hi

@[simp] theorem State.sxfrStep_inv {s : State} (c : Cmd) (d : Desc) (hi : s.Inv) :
    (State.sxfrStep s c d).Inv := by
  unfold State.sxfrStep
  repeat' split
  all_goals simp_all

@[simp] theorem State.cmdStep_inv {s : State} (id : Nat) (n : Nat) (hi : s.Inv) :
    (State.cmdStep s id n).Inv := by
  unfold State.cmdStep
  split
  · exact State.fenceStep_inv _ hi
  · split
    · exact hi
    · split
      · exact State.finishCmd_inv _ hi
      · split
        · exact State.plainStep_inv _ _ _ _ hi
        · exact State.plainStep_inv _ _ _ _ hi
        · split
          · exact State.finishCmd_inv _ hi
          · exact hi
        · exact State.walk_inv _ _ _ _ hi (fun t k ht => State.l2Step_inv _ _ ht)
        · exact State.walk_inv _ _ _ _ hi (fun t k ht => State.l2Step_inv _ _ ht)
        · exact State.walk_inv _ _ _ _ hi (fun t k ht => State.l2Step_inv _ _ ht)
        · exact State.sxfrStep_inv _ _ hi
        · exact State.remoteStep_inv _ _ hi
        · exact State.remoteStep_inv _ _ hi
        · exact State.remoteStep_inv _ _ hi
        · exact State.walk_inv _ _ _ _ hi (fun t k ht => State.saccStep_inv _ _ _ ht)
        · split
          · exact State.recordAtom_inv _ _ _ _ _ hi
          · exact State.atomStep_inv _ _ _ hi
        · exact State.signalStep_inv _ _ _ _ _ hi

@[simp] theorem State.answerSaved_inv {s : State} (ctx key : Nat) (c : Cmd) (status : Nat) (old : Word) (serial : Nat)
    (cause : BitVec 6) (hi : s.Inv) : (State.answerSaved s ctx key c status old serial cause).Inv := by
  have hf (u : State) (hu : u.Inv) (f : Ctx → Ctx) : (if c.discard then u else u.modCtx ctx f).Inv := by
    split
    · exact hu
    · exact hu
  unfold State.answerSaved
  refine State.asSaved_inv _ _ hi (fun u hu => ?_)
  split
  · rename_i b _
    have h1 := State.forceFor_inv c.origin (spadBase u.cur + b.result) 16 hu
    dsimp only
    split
    · exact hf _ (State.dropCmd_inv _ (State.writeUnit_inv _ _ _ _ _ _ h1)) _
    · exact State.putCmd_inv _ h1
  · have ht := hf _ (State.dropCmd_inv c.id hu) (fun x => { x with savedFlags := x.savedFlags ++ (c.flag.map (fun f => (key, f))).toList })
    dsimp only
    split
    · exact ht
    · split
      · exact State.lateTrapOf_inv _ _ _ ht
      · exact State.lateTrapOf_inv _ _ _ ht

@[simp] theorem State.recordOp_inv {s : State} (ctx : Nat) (o : RemOp) (status : Nat) (old : Word) (cause : BitVec 6)
    (hi : s.Inv) : (s.recordOp ctx o status old cause).Inv := by
  unfold State.recordOp
  split
  · split
    · exact State.answerSaved_inv _ _ _ _ _ _ _ hi
    · exact hi
  · refine State.onCore_inv _ hi (fun u hu => ?_)
    split
    · exact State.finishAnswer_inv _ _ _ _ _ hu
    · exact hu

@[simp] theorem State.completeOp_inv {s : State} (ctx owner : Nat) (o : RemOp) (status : Nat) (old : Word) (cause : BitVec 6)
    (hi : s.Inv) : (s.completeOp ctx owner o status old cause).Inv := by
  unfold State.completeOp
  exact State.recordOp_inv _ _ _ _ _ (State.advanceAck_inv _ _ (State.putSide_inv _ _ hi))

@[simp] theorem State.opReply_inv {s : State} (r : RemRep) (hi : s.Inv) :
    (State.opReply s r).Inv := by
  have hd : ∀ (t : State) (c o : Nat) (x : RemOp) (st : Nat) (old : Word) (k : BitVec 6), t.Inv →
      (t.completeOp c o x st old k).Inv := fun t c o x st old k ht => State.completeOp_inv _ _ _ _ _ _ ht
  have hp : ∀ (c : Nat) (w : OwnerSt), (s.putSide c w).Inv := fun c w => State.putSide_inv _ _ hi
  have hc : ∀ (c : Nat) (f : ErrRegs → ErrRegs), (s.countErr c f).Inv := fun c f => State.countErr_inv _ _ hi
  unfold State.opReply
  dsimp only
  split
  · exact hi
  · rename_i o _
    by_cases hq : (s.side r.ctx r.owner).inc ≠ some r.inc ∨ r.body = .indeterminate
    · rw [if_pos hq]
      exact hd _ _ _ _ _ _ _ ((State.inv_bump _).2 (hp _ _))
    · rw [if_neg hq]
      cases r.body with
      | ok dup old => cases dup with
        | true => exact hd _ _ _ _ _ _ _ (hc _ _)
        | false => exact hd _ _ _ _ _ _ _ hi
      | fault k t => exact hd _ _ _ _ _ _ _ hi
      | busy =>
        by_cases h : 256 ≤ o.busy + 1
        · simp only [if_pos h]
          exact hd _ _ _ _ _ _ _ ((State.inv_bump _).2 hi)
        · simp only [if_neg h]
          exact hp _ _
      | _ => exact hi

@[simp] theorem State.plainReply_inv {s : State} (r : RemRep) (hi : s.Inv) :
    (State.plainReply s r).Inv := by
  unfold State.plainReply
  split
  · exact hi
  · dsimp only
    refine State.onCore_inv _ (State.modOut_inv _ _ hi) (fun t ht => ?_)
    repeat' split
    all_goals first
      | exact ht
      | exact State.modOut_inv _ _ ht
      | exact State.tryFinish_inv _ _ (State.putCmd_inv _ ht)
      | exact State.placeHeld_inv _ _ _ _ _ ht
      | exact State.cmdFault_inv _ _ (State.putCmd_inv _ ht)

@[simp] theorem State.takeAck_inv {s : State} (pkg : Nat) (ctx : Nat) (n : Nat) (hi : s.Inv) :
    (State.takeAck s pkg ctx n).Inv := by
  simp [State.takeAck, *]

@[simp] theorem State.useReply_inv {s : State} (r : RemRep) (hi : s.Inv) : (State.useReply s r).Inv := by
  unfold State.useReply
  repeat' split
  all_goals simp [*]

@[simp] theorem State.takeReply_inv {s : State} (r : RemRep) (hi : s.Inv) :
    (State.takeReply s r).Inv := by
  unfold State.takeReply
  split
  · exact hi
  · exact State.takeAck_inv _ _ _ (State.useReply_inv _ hi)

@[simp] theorem State.noteRetx_inv {s : State} (o : RemOp) (q : RemReq) (hi : s.Inv) :
    (State.noteRetx s o q).Inv := by
  simp [State.noteRetx, *]

@[simp] theorem State.resend_inv {s : State} (ctx : Nat) (owner : Nat) (o : RemOp) (count : Bool) (hi : s.Inv) :
    (State.resend s ctx owner o count).Inv := by
  unfold State.resend
  split
  · exact hi
  · extract_lets t a q2
    have ht : t.Inv := by
      unfold t
      split
      · exact State.countErr_inv _ _ hi
      · exact hi
    exact State.send_inv _ (State.noteRetx_inv _ _ (State.modSide_inv _ _ _ (State.carryAck_inv _ _ ht)))

@[simp] theorem State.homeRead_inv {s : State} (ctx : Nat) (bit : Nat) (n : Nat) (alloc : Bool) (hi : s.Inv) :
    (State.homeRead s ctx bit n alloc).1.Inv := by
  unfold State.homeRead
  exact foldl_inv_fst _ (fun _ _ ht => State.cacheHome_inv _ _ _ (State.drawLine_inv _ _ _ _ _ ht)) _ hi

@[simp] theorem State.homeWrite_inv {s : State} (bit : Nat) (n : Nat) (v : Nat) (mark alloc : Bool) (hi : s.Inv) :
    (State.homeWrite s bit n v mark alloc).Inv := by
  unfold State.homeWrite
  extract_lets f0 f w a k t u
  have ht : t.Inv := State.writeMain_inv _ _ _ hi
  have hu : u.Inv := by
    unfold u
    split
    · exact foldl_inv _ (fun x b hx => State.setMark_inv _ _ hx) _ ht
    · exact ht
  exact State.publish_inv _ hu

@[simp] theorem State.portPlace_inv {s : State} (ctx : Nat) (tid : Nat) (e : Nat) (f : Option Fmt) (write : Bool) (hi : s.Inv) :
    (State.portPlace s ctx tid e f write).1.Inv := by
  have h1 := State.tensorPlace_inv ctx tid e f true write hi
  unfold State.portPlace
  dsimp only
  split <;> exact h1

@[simp] theorem State.clearWhole_inv {s : State} (ws : List BitWrite) (hi : s.Inv) :
    (State.clearWhole s ws).Inv := by
  unfold State.clearWhole
  split
  · exact hi
  · exact foldl_inv _ (fun t b ht => State.setMark_inv _ _ ht) _ hi

@[simp] theorem State.portExec_inv {s : State} (r : RemReq) (hi : s.Inv) :
    (State.portExec s r).1.Inv := by
  unfold State.portExec
  split
  · exact State.takeSignal_inv _ _ _ _ _ hi
  · dsimp only
    split
    · exact State.portPlace_inv _ _ _ _ _ hi
    · exact State.homeWrite_inv _ _ _ _ _ (State.homeRead_inv _ _ _ _ (State.portPlace_inv _ _ _ _ _ hi))
  · split
    · exact hi
    · refine foldl_inv_fst _ (fun x e hx => ?_) _ hi
      dsimp only
      repeat' split
      all_goals first
        | exact hx
        | exact State.portPlace_inv _ _ _ _ _ hx
        | exact State.countTri2For_inv _ _
            (State.homeWrite_inv _ _ _ _ _ (State.homeRead_inv _ _ _ _ (State.portPlace_inv _ _ _ _ _ hx)))
  · split
    · exact hi
    · refine State.clearWhole_inv _ (foldl_inv_fst _ (fun x e hx => ?_) _ hi)
      dsimp only
      repeat' split
      all_goals first
        | exact hx
        | exact State.portPlace_inv _ _ _ _ _ hx
        | exact State.homeWrite_inv _ _ _ _ _ (State.portPlace_inv _ _ _ _ _ hx)
  · split
    · exact hi
    · refine foldl_inv_fst _ (fun x e hx => ?_) _ hi
      split
      · exact hx
      · dsimp only
        split
        · exact State.portPlace_inv _ _ _ _ _ hx
        · exact State.homeRead_inv _ _ _ _ (State.portPlace_inv _ _ _ _ _ hx)

@[simp] theorem State.answer_inv {s : State} (r : RemReq) (inc : Nat) (b : RepBody) (hi : s.Inv) :
    (State.answer s r inc b).Inv := by
  unfold State.answer
  split
  · exact hi
  · exact State.send_inv _ (State.carryAck_inv _ _ hi)

@[simp] theorem State.tellFault_inv {s : State} (ctx : Nat) (w : Option EngFault) (hi : s.Inv) :
    (State.tellFault s ctx w).Inv := by
  unfold State.tellFault
  dsimp only
  repeat' split
  all_goals exact hi

@[simp] theorem State.portRun_inv {s : State} (die : Bool) (r : RemReq) (hi : s.Inv) :
    (State.portRun s die r).Inv := by
  unfold State.portRun
  dsimp only
  have h1 := State.portExec_inv r hi
  split
  · exact State.tellFault_inv _ _ h1
  · exact State.answer_inv _ _ _ h1

@[simp] theorem State.takeRequest_inv {s : State} (r : RemReq) (hi : s.Inv) :
    (State.takeRequest s r).Inv := by
  unfold State.takeRequest
  extract_lets die p t
  have ht : t.Inv := by
    unfold t
    repeat' split
    all_goals first
      | exact hi
      | exact State.answer_inv _ _ _ hi
      | exact State.portRun_inv _ _ ((State.inv_modPort _ _ _).2 hi)
  split
  · exact State.takeAck_inv _ _ _ (State.portRun_inv _ _ hi)
  · exact State.takeAck_inv _ _ _ ht

@[simp] theorem State.hostTry_inv {s : State} (a : HostAccess) (hi : s.Inv) : (State.hostTry s a).1.Inv := by
  unfold State.hostTry
  split
  · exact hi
  · rename_i c _
    have h1 := State.portPlace_inv c.id a.tid a.elem none a.data.isSome hi
    dsimp only
    repeat' split
    all_goals first
      | exact h1
      | exact State.homeRead_inv _ _ _ _ h1
      | exact State.homeWrite_inv _ _ _ _ _ h1

@[simp] theorem State.hostAccess_inv {s : State} (a : HostAccess) (hi : s.Inv) : (State.hostAccess s a).Inv := by
  have h1 := State.hostTry_inv a hi
  unfold State.hostAccess
  dsimp only
  repeat' split
  all_goals first | exact hi | exact h1 | exact State.tellFault_inv _ _ h1

@[simp] theorem State.retryHost_inv {s : State} (hi : s.Inv) : s.retryHost.Inv :=
  foldl_inv _ (fun _ _ ht => State.hostAccess_inv _ ht) _ hi

@[simp] theorem State.retryPorts_inv {s : State} (hi : s.Inv) : s.retryPorts.Inv :=
  State.retryHost_inv (foldl_inv _ (fun _ _ ht => foldl_inv _ (fun _ _ hu => State.portRun_inv _ _ hu) _ ht) _ hi)

@[simp] theorem State.denyPorts_inv {s : State} (ctx : Nat) (f : EngFault) (cause : BitVec 6) (tile : Nat) (hi : s.Inv) :
    (State.denyPorts s ctx f cause tile).Inv := by
  unfold State.denyPorts
  refine State.retryHost_inv ?_
  refine (State.inv_modMalt _ _).2 (foldl_inv _ (fun t die ht => foldl_inv _ (fun u r hu => ?_) _ ht) _ hi)
  split
  · exact State.answer_inv _ _ _ hu
  · exact hu

end Sys2Proof.Machine
end

