-- ==== Sys2Proof/Laws/KeepCtl.lean ====
section
/-! SUPPORT. The operations of Machine/Ctl.lean keep memory in its canonical form. -/

namespace Sys2Proof.Machine

@[simp] theorem State.transfer_keeps {s : State} (target : Word) (hi : s.Inv) :
    (State.transfer s target).Keeps := by
  unfold State.transfer
  repeat' split
  all_goals simp [*]

@[simp] theorem State.pushLoop_keeps {s : State} (n : Word32) (len : Nat) (hi : s.Inv) :
    (State.pushLoop s n len).Keeps := by
  unfold State.pushLoop
  dsimp only
  repeat' split
  all_goals simp_all

@[simp] theorem State.endAt_inv {s : State} (succ : List Word) (hi : s.Inv) :
    (State.endAt s succ).Inv := by
  unfold State.endAt
  repeat' split
  all_goals simp [*]

@[simp] theorem State.launchAt_keeps {s : State} (i : Instr) (d : XReg) (a : XReg) (graph : Bool) (hi : s.Inv) :
    (State.launchAt s i d a graph).Keeps := by
  unfold State.launchAt
  repeat' split
  all_goals simp [*]

@[simp] theorem State.invalidate_inv {s : State} (code : Option (Nat × Nat)) (kind : InvKind) (sc : Scope) (flag : Option FlagNo) (hi : s.Inv) :
    (State.invalidate s code kind sc flag).Inv := by
  simp [State.invalidate, *]

end Sys2Proof.Machine
end

