-- ==== Sys2Proof/Laws/KeepSlot.lean ====
section
/-! SUPPORT. The effect of every slot instruction keeps memory in its canonical form. -/

namespace Sys2Proof.Machine

theorem effNop_keeps {s : State} (hi : s.Inv) :
    (effNop s).Keeps := by
  simp [effNop, hi]

theorem effAdd_keeps (d : XReg) (a : XReg) (b : XReg) {s : State} (hi : s.Inv) :
    (effAdd d a b s).Keeps := by
  simp [effAdd, hi]

theorem effAddImm_keeps (d : XReg) (a : XReg) (imm : BitVec 15) {s : State} (hi : s.Inv) :
    (effAddImm d a imm s).Keeps := by
  simp [effAddImm, hi]

theorem effAddLit_keeps (d : XReg) (a : XReg) (l : Lit) {s : State} (hi : s.Inv) :
    (effAddLit d a l s).Keeps := by
  simp [effAddLit, hi]

theorem effSub_keeps (d : XReg) (a : XReg) (b : XReg) {s : State} (hi : s.Inv) :
    (effSub d a b s).Keeps := by
  simp [effSub, hi]

theorem effSubImm_keeps (d : XReg) (a : XReg) (imm : BitVec 15) {s : State} (hi : s.Inv) :
    (effSubImm d a imm s).Keeps := by
  simp [effSubImm, hi]

theorem effSubLit_keeps (d : XReg) (a : XReg) (l : Lit) {s : State} (hi : s.Inv) :
    (effSubLit d a l s).Keeps := by
  simp [effSubLit, hi]

theorem effMul_keeps (d : XReg) (a : XReg) (b : XReg) {s : State} (hi : s.Inv) :
    (effMul d a b s).Keeps := by
  simp [effMul, hi]

theorem effMulImm_keeps (d : XReg) (a : XReg) (imm : BitVec 15) {s : State} (hi : s.Inv) :
    (effMulImm d a imm s).Keeps := by
  simp [effMulImm, hi]

theorem effMulLit_keeps (d : XReg) (a : XReg) (l : Lit) {s : State} (hi : s.Inv) :
    (effMulLit d a l s).Keeps := by
  simp [effMulLit, hi]

theorem effMulh_keeps (d : XReg) (a : XReg) (b : XReg) {s : State} (hi : s.Inv) :
    (effMulh d a b s).Keeps := by
  simp [effMulh, hi]

theorem effMulhImm_keeps (d : XReg) (a : XReg) (imm : BitVec 15) {s : State} (hi : s.Inv) :
    (effMulhImm d a imm s).Keeps := by
  simp [effMulhImm, hi]

theorem effMulhLit_keeps (d : XReg) (a : XReg) (l : Lit) {s : State} (hi : s.Inv) :
    (effMulhLit d a l s).Keeps := by
  simp [effMulhLit, hi]

theorem effMulhu_keeps (d : XReg) (a : XReg) (b : XReg) {s : State} (hi : s.Inv) :
    (effMulhu d a b s).Keeps := by
  simp [effMulhu, hi]

theorem effMulhuImm_keeps (d : XReg) (a : XReg) (imm : BitVec 15) {s : State} (hi : s.Inv) :
    (effMulhuImm d a imm s).Keeps := by
  simp [effMulhuImm, hi]

theorem effMulhuLit_keeps (d : XReg) (a : XReg) (l : Lit) {s : State} (hi : s.Inv) :
    (effMulhuLit d a l s).Keeps := by
  simp [effMulhuLit, hi]

theorem effDiv_keeps (d : XReg) (a : XReg) (b : XReg) {s : State} (hi : s.Inv) :
    (effDiv d a b s).Keeps := by
  simp [effDiv, hi]

theorem effDivImm_keeps (d : XReg) (a : XReg) (imm : BitVec 15) {s : State} (hi : s.Inv) :
    (effDivImm d a imm s).Keeps := by
  simp [effDivImm, hi]

theorem effDivLit_keeps (d : XReg) (a : XReg) (l : Lit) {s : State} (hi : s.Inv) :
    (effDivLit d a l s).Keeps := by
  simp [effDivLit, hi]

theorem effDivu_keeps (d : XReg) (a : XReg) (b : XReg) {s : State} (hi : s.Inv) :
    (effDivu d a b s).Keeps := by
  simp [effDivu, hi]

theorem effDivuImm_keeps (d : XReg) (a : XReg) (imm : BitVec 15) {s : State} (hi : s.Inv) :
    (effDivuImm d a imm s).Keeps := by
  simp [effDivuImm, hi]

theorem effDivuLit_keeps (d : XReg) (a : XReg) (l : Lit) {s : State} (hi : s.Inv) :
    (effDivuLit d a l s).Keeps := by
  simp [effDivuLit, hi]

theorem effRem_keeps (d : XReg) (a : XReg) (b : XReg) {s : State} (hi : s.Inv) :
    (effRem d a b s).Keeps := by
  simp [effRem, hi]

theorem effRemImm_keeps (d : XReg) (a : XReg) (imm : BitVec 15) {s : State} (hi : s.Inv) :
    (effRemImm d a imm s).Keeps := by
  simp [effRemImm, hi]

theorem effRemLit_keeps (d : XReg) (a : XReg) (l : Lit) {s : State} (hi : s.Inv) :
    (effRemLit d a l s).Keeps := by
  simp [effRemLit, hi]

theorem effRemu_keeps (d : XReg) (a : XReg) (b : XReg) {s : State} (hi : s.Inv) :
    (effRemu d a b s).Keeps := by
  simp [effRemu, hi]

theorem effRemuImm_keeps (d : XReg) (a : XReg) (imm : BitVec 15) {s : State} (hi : s.Inv) :
    (effRemuImm d a imm s).Keeps := by
  simp [effRemuImm, hi]

theorem effRemuLit_keeps (d : XReg) (a : XReg) (l : Lit) {s : State} (hi : s.Inv) :
    (effRemuLit d a l s).Keeps := by
  simp [effRemuLit, hi]

theorem effAnd_keeps (d : XReg) (a : XReg) (b : XReg) {s : State} (hi : s.Inv) :
    (effAnd d a b s).Keeps := by
  simp [effAnd, hi]

theorem effAndImm_keeps (d : XReg) (a : XReg) (imm : BitVec 15) {s : State} (hi : s.Inv) :
    (effAndImm d a imm s).Keeps := by
  simp [effAndImm, hi]

theorem effAndLit_keeps (d : XReg) (a : XReg) (l : Lit) {s : State} (hi : s.Inv) :
    (effAndLit d a l s).Keeps := by
  simp [effAndLit, hi]

theorem effOr_keeps (d : XReg) (a : XReg) (b : XReg) {s : State} (hi : s.Inv) :
    (effOr d a b s).Keeps := by
  simp [effOr, hi]

theorem effOrImm_keeps (d : XReg) (a : XReg) (imm : BitVec 15) {s : State} (hi : s.Inv) :
    (effOrImm d a imm s).Keeps := by
  simp [effOrImm, hi]

theorem effOrLit_keeps (d : XReg) (a : XReg) (l : Lit) {s : State} (hi : s.Inv) :
    (effOrLit d a l s).Keeps := by
  simp [effOrLit, hi]

theorem effXor_keeps (d : XReg) (a : XReg) (b : XReg) {s : State} (hi : s.Inv) :
    (effXor d a b s).Keeps := by
  simp [effXor, hi]

theorem effXorImm_keeps (d : XReg) (a : XReg) (imm : BitVec 15) {s : State} (hi : s.Inv) :
    (effXorImm d a imm s).Keeps := by
  simp [effXorImm, hi]

theorem effXorLit_keeps (d : XReg) (a : XReg) (l : Lit) {s : State} (hi : s.Inv) :
    (effXorLit d a l s).Keeps := by
  simp [effXorLit, hi]

theorem effAndn_keeps (d : XReg) (a : XReg) (b : XReg) {s : State} (hi : s.Inv) :
    (effAndn d a b s).Keeps := by
  simp [effAndn, hi]

theorem effAndnImm_keeps (d : XReg) (a : XReg) (imm : BitVec 15) {s : State} (hi : s.Inv) :
    (effAndnImm d a imm s).Keeps := by
  simp [effAndnImm, hi]

theorem effAndnLit_keeps (d : XReg) (a : XReg) (l : Lit) {s : State} (hi : s.Inv) :
    (effAndnLit d a l s).Keeps := by
  simp [effAndnLit, hi]

theorem effShl_keeps (d : XReg) (a : XReg) (b : XReg) {s : State} (hi : s.Inv) :
    (effShl d a b s).Keeps := by
  simp [effShl, hi]

theorem effShlImm_keeps (d : XReg) (a : XReg) (imm : BitVec 15) {s : State} (hi : s.Inv) :
    (effShlImm d a imm s).Keeps := by
  simp [effShlImm, hi]

theorem effShlLit_keeps (d : XReg) (a : XReg) (l : Lit) {s : State} (hi : s.Inv) :
    (effShlLit d a l s).Keeps := by
  simp [effShlLit, hi]

theorem effShr_keeps (d : XReg) (a : XReg) (b : XReg) {s : State} (hi : s.Inv) :
    (effShr d a b s).Keeps := by
  simp [effShr, hi]

theorem effShrImm_keeps (d : XReg) (a : XReg) (imm : BitVec 15) {s : State} (hi : s.Inv) :
    (effShrImm d a imm s).Keeps := by
  simp [effShrImm, hi]

theorem effShrLit_keeps (d : XReg) (a : XReg) (l : Lit) {s : State} (hi : s.Inv) :
    (effShrLit d a l s).Keeps := by
  simp [effShrLit, hi]

theorem effSra_keeps (d : XReg) (a : XReg) (b : XReg) {s : State} (hi : s.Inv) :
    (effSra d a b s).Keeps := by
  simp [effSra, hi]

theorem effSraImm_keeps (d : XReg) (a : XReg) (imm : BitVec 15) {s : State} (hi : s.Inv) :
    (effSraImm d a imm s).Keeps := by
  simp [effSraImm, hi]

theorem effSraLit_keeps (d : XReg) (a : XReg) (l : Lit) {s : State} (hi : s.Inv) :
    (effSraLit d a l s).Keeps := by
  simp [effSraLit, hi]

theorem effRotl_keeps (d : XReg) (a : XReg) (b : XReg) {s : State} (hi : s.Inv) :
    (effRotl d a b s).Keeps := by
  simp [effRotl, hi]

theorem effRotlImm_keeps (d : XReg) (a : XReg) (imm : BitVec 15) {s : State} (hi : s.Inv) :
    (effRotlImm d a imm s).Keeps := by
  simp [effRotlImm, hi]

theorem effRotlLit_keeps (d : XReg) (a : XReg) (l : Lit) {s : State} (hi : s.Inv) :
    (effRotlLit d a l s).Keeps := by
  simp [effRotlLit, hi]

theorem effMin_keeps (d : XReg) (a : XReg) (b : XReg) {s : State} (hi : s.Inv) :
    (effMin d a b s).Keeps := by
  simp [effMin, hi]

theorem effMinImm_keeps (d : XReg) (a : XReg) (imm : BitVec 15) {s : State} (hi : s.Inv) :
    (effMinImm d a imm s).Keeps := by
  simp [effMinImm, hi]

theorem effMinLit_keeps (d : XReg) (a : XReg) (l : Lit) {s : State} (hi : s.Inv) :
    (effMinLit d a l s).Keeps := by
  simp [effMinLit, hi]

theorem effMax_keeps (d : XReg) (a : XReg) (b : XReg) {s : State} (hi : s.Inv) :
    (effMax d a b s).Keeps := by
  simp [effMax, hi]

theorem effMaxImm_keeps (d : XReg) (a : XReg) (imm : BitVec 15) {s : State} (hi : s.Inv) :
    (effMaxImm d a imm s).Keeps := by
  simp [effMaxImm, hi]

theorem effMaxLit_keeps (d : XReg) (a : XReg) (l : Lit) {s : State} (hi : s.Inv) :
    (effMaxLit d a l s).Keeps := by
  simp [effMaxLit, hi]

theorem effMinu_keeps (d : XReg) (a : XReg) (b : XReg) {s : State} (hi : s.Inv) :
    (effMinu d a b s).Keeps := by
  simp [effMinu, hi]

theorem effMinuImm_keeps (d : XReg) (a : XReg) (imm : BitVec 15) {s : State} (hi : s.Inv) :
    (effMinuImm d a imm s).Keeps := by
  simp [effMinuImm, hi]

theorem effMinuLit_keeps (d : XReg) (a : XReg) (l : Lit) {s : State} (hi : s.Inv) :
    (effMinuLit d a l s).Keeps := by
  simp [effMinuLit, hi]

theorem effMaxu_keeps (d : XReg) (a : XReg) (b : XReg) {s : State} (hi : s.Inv) :
    (effMaxu d a b s).Keeps := by
  simp [effMaxu, hi]

theorem effMaxuImm_keeps (d : XReg) (a : XReg) (imm : BitVec 15) {s : State} (hi : s.Inv) :
    (effMaxuImm d a imm s).Keeps := by
  simp [effMaxuImm, hi]

theorem effMaxuLit_keeps (d : XReg) (a : XReg) (l : Lit) {s : State} (hi : s.Inv) :
    (effMaxuLit d a l s).Keeps := by
  simp [effMaxuLit, hi]

theorem effSel_keeps (d : XReg) (a : XReg) (b : XReg) (p : PReg) {s : State} (hi : s.Inv) :
    (effSel d a b p s).Keeps := by
  simp [effSel, hi]

theorem effMov_keeps (d : XReg) (a : XReg) {s : State} (hi : s.Inv) :
    (effMov d a s).Keeps := by
  simp [effMov, hi]

theorem effMovImm_keeps (d : XReg) (imm : BitVec 15) {s : State} (hi : s.Inv) :
    (effMovImm d imm s).Keeps := by
  simp [effMovImm, hi]

theorem effMovLit_keeps (d : XReg) (l : Lit) {s : State} (hi : s.Inv) :
    (effMovLit d l s).Keeps := by
  simp [effMovLit, hi]

theorem effExt_keeps (d : XReg) (a : XReg) (b : XReg) (sg : Bool) {s : State} (hi : s.Inv) :
    (effExt d a b sg s).Keeps := by
  simp [effExt, hi]

theorem effBitClz_keeps (d : XReg) (a : XReg) {s : State} (hi : s.Inv) :
    (effBitClz d a s).Keeps := by
  simp [effBitClz, hi]

theorem effBitCtz_keeps (d : XReg) (a : XReg) {s : State} (hi : s.Inv) :
    (effBitCtz d a s).Keeps := by
  simp [effBitCtz, hi]

theorem effBitPopc_keeps (d : XReg) (a : XReg) {s : State} (hi : s.Inv) :
    (effBitPopc d a s).Keeps := by
  simp [effBitPopc, hi]

theorem effBitBrev_keeps (d : XReg) (a : XReg) {s : State} (hi : s.Inv) :
    (effBitBrev d a s).Keeps := by
  simp [effBitBrev, hi]

theorem effCmp_keeps (c : CmpCond) (d : PReg) (a : XReg) (b : XReg) {s : State} (hi : s.Inv) :
    (effCmp c d a b s).Keeps := by
  simp [effCmp, hi]

theorem effPlog_keeps (o : PLogOp) (d : PReg) (a : PReg) (b : PReg) {s : State} (hi : s.Inv) :
    (effPlog o d a b s).Keeps := by
  simp [effPlog, hi]

theorem effFaddS_keeps (d : XReg) (a : XReg) (b : XReg) {s : State} (hi : s.Inv) :
    (effFaddS d a b s).Keeps := by
  simp [effFaddS, hi]

theorem effFaddSLit_keeps (d : XReg) (a : XReg) (_k : Fin 4) (v : BitVec 32) {s : State} (hi : s.Inv) :
    (effFaddSLit d a _k v s).Keeps := by
  simp [effFaddSLit, hi]

theorem effFsubS_keeps (d : XReg) (a : XReg) (b : XReg) {s : State} (hi : s.Inv) :
    (effFsubS d a b s).Keeps := by
  simp [effFsubS, hi]

theorem effFsubSLit_keeps (d : XReg) (a : XReg) (_k : Fin 4) (v : BitVec 32) {s : State} (hi : s.Inv) :
    (effFsubSLit d a _k v s).Keeps := by
  simp [effFsubSLit, hi]

theorem effFmulS_keeps (d : XReg) (a : XReg) (b : XReg) {s : State} (hi : s.Inv) :
    (effFmulS d a b s).Keeps := by
  simp [effFmulS, hi]

theorem effFmulSLit_keeps (d : XReg) (a : XReg) (_k : Fin 4) (v : BitVec 32) {s : State} (hi : s.Inv) :
    (effFmulSLit d a _k v s).Keeps := by
  simp [effFmulSLit, hi]

theorem effFfmaS_keeps (d : XReg) (a : XReg) (b : XReg) {s : State} (hi : s.Inv) :
    (effFfmaS d a b s).Keeps := by
  simp [effFfmaS, hi]

theorem effFfmaSLit_keeps (d : XReg) (a : XReg) (_k : Fin 4) (v : BitVec 32) {s : State} (hi : s.Inv) :
    (effFfmaSLit d a _k v s).Keeps := by
  simp [effFfmaSLit, hi]

theorem effFminS_keeps (d : XReg) (a : XReg) (b : XReg) {s : State} (hi : s.Inv) :
    (effFminS d a b s).Keeps := by
  simp [effFminS, hi]

theorem effFminSLit_keeps (d : XReg) (a : XReg) (_k : Fin 4) (v : BitVec 32) {s : State} (hi : s.Inv) :
    (effFminSLit d a _k v s).Keeps := by
  simp [effFminSLit, hi]

theorem effFmaxS_keeps (d : XReg) (a : XReg) (b : XReg) {s : State} (hi : s.Inv) :
    (effFmaxS d a b s).Keeps := by
  simp [effFmaxS, hi]

theorem effFmaxSLit_keeps (d : XReg) (a : XReg) (_k : Fin 4) (v : BitVec 32) {s : State} (hi : s.Inv) :
    (effFmaxSLit d a _k v s).Keeps := by
  simp [effFmaxSLit, hi]

theorem effFcmp_keeps (c : FCmpCond) (d : PReg) (a : XReg) (b : XReg) {s : State} (hi : s.Inv) :
    (effFcmp c d a b s).Keeps := by
  simp [effFcmp, hi]

theorem effFcvtTo_keeps (f : Fmt) (d : XReg) (a : XReg) (r : Rnd) {s : State} (hi : s.Inv) :
    (effFcvtTo f d a r s).Keeps := by
  simp [effFcvtTo, hi]

theorem effFcvtFrom_keeps (f : Fmt) (d : XReg) (a : XReg) (r : Rnd) {s : State} (hi : s.Inv) :
    (effFcvtFrom f d a r s).Keeps := by
  simp [effFcvtFrom, hi]

theorem effMfs_keeps (d : XReg) (r : SysReg) {s : State} (hi : s.Inv) :
    (effMfs d r s).Keeps := by
  simp [effMfs, hi]

theorem effMts_keeps (r : SysReg) (a : XReg) {s : State} (hi : s.Inv) :
    (effMts r a s).Keeps := by
  unfold effMts
  repeat' split
  all_goals simp [*]

theorem effRsvWrite_keeps (n : Fin 16) (a : XReg) {s : State} (hi : s.Inv) :
    (effRsvWrite n a s).Keeps := by
  unfold effRsvWrite
  repeat' split
  all_goals simp [*]

theorem effInjDropreplyArm_keeps (a : XReg) {s : State} (hi : s.Inv) :
    (effInjDropreplyArm a s).Keeps := by
  simp [effInjDropreplyArm, hi]

theorem effCmpt_keeps (a : XReg) (b : XReg) {s : State} (hi : s.Inv) :
    (effCmpt a b s).Keeps := by
  unfold effCmpt
  repeat' split
  all_goals simp [*]

theorem effCrd_keeps (d : XReg) (k : CtrNo) {s : State} (hi : s.Inv) :
    (effCrd d k s).Keeps := by
  simp [effCrd, hi]

theorem effCwr_keeps (k : CtrNo) (inc : Bool) (a : XReg) (b : XReg) {s : State} (hi : s.Inv) :
    (effCwr k inc a b s).Keeps := by
  simp [effCwr, hi]

theorem effCwrImm_keeps (k : CtrNo) (inc : Bool) (a : XReg) (imm : BitVec 15) {s : State} (hi : s.Inv) :
    (effCwrImm k inc a imm s).Keeps := by
  simp [effCwrImm, hi]

theorem effLcr_keeps (d : XReg) (k : LoopNo) {s : State} (hi : s.Inv) :
    (effLcr d k s).Keeps := by
  simp [effLcr, hi]

theorem effLdB_keeps (d : XReg) (a : XReg) (disp : BitVec 15) {s : State} (hi : s.Inv) :
    (effLdB d a disp s).Keeps := by
  simp [effLdB, hi]

theorem effLdBu_keeps (d : XReg) (a : XReg) (disp : BitVec 15) {s : State} (hi : s.Inv) :
    (effLdBu d a disp s).Keeps := by
  simp [effLdBu, hi]

theorem effLdH_keeps (d : XReg) (a : XReg) (disp : BitVec 15) {s : State} (hi : s.Inv) :
    (effLdH d a disp s).Keeps := by
  simp [effLdH, hi]

theorem effLdHu_keeps (d : XReg) (a : XReg) (disp : BitVec 15) {s : State} (hi : s.Inv) :
    (effLdHu d a disp s).Keeps := by
  simp [effLdHu, hi]

theorem effLdW_keeps (d : XReg) (a : XReg) (disp : BitVec 15) {s : State} (hi : s.Inv) :
    (effLdW d a disp s).Keeps := by
  simp [effLdW, hi]

theorem effLdWu_keeps (d : XReg) (a : XReg) (disp : BitVec 15) {s : State} (hi : s.Inv) :
    (effLdWu d a disp s).Keeps := by
  simp [effLdWu, hi]

theorem effLdD_keeps (d : XReg) (a : XReg) (disp : BitVec 15) {s : State} (hi : s.Inv) :
    (effLdD d a disp s).Keeps := by
  simp [effLdD, hi]

theorem effStB_keeps (src : XReg) (a : XReg) (disp : BitVec 15) {s : State} (hi : s.Inv) :
    (effStB src a disp s).Keeps := by
  simp [effStB, hi]

theorem effStH_keeps (src : XReg) (a : XReg) (disp : BitVec 15) {s : State} (hi : s.Inv) :
    (effStH src a disp s).Keeps := by
  simp [effStH, hi]

theorem effStW_keeps (src : XReg) (a : XReg) (disp : BitVec 15) {s : State} (hi : s.Inv) :
    (effStW src a disp s).Keeps := by
  simp [effStW, hi]

theorem effStD_keeps (src : XReg) (a : XReg) (disp : BitVec 15) {s : State} (hi : s.Inv) :
    (effStD src a disp s).Keeps := by
  simp [effStD, hi]

theorem effVld_keeps (d : VReg) (a : XReg) (disp : BitVec 15) {s : State} (hi : s.Inv) :
    (effVld d a disp s).Keeps := by
  simp [effVld, hi]

theorem effVst_keeps (src : VReg) (a : XReg) (disp : BitVec 15) {s : State} (hi : s.Inv) :
    (effVst src a disp s).Keeps := by
  simp [effVst, hi]

theorem effVlds_keeps (d : VReg) (a : XReg) (stride : XReg) (disp : BitVec 9) {s : State} (hi : s.Inv) :
    (effVlds d a stride disp s).Keeps := by
  simp [effVlds, hi]

theorem effVsts_keeps (src : VReg) (a : XReg) (stride : XReg) (disp : BitVec 9) {s : State} (hi : s.Inv) :
    (effVsts src a stride disp s).Keeps := by
  simp [effVsts, hi]

theorem effVgth_keeps (d : VReg) (a : XReg) (idx : VReg) {s : State} (hi : s.Inv) :
    (effVgth d a idx s).Keeps := by
  simp [effVgth, hi]

theorem effVsct_keeps (src : VReg) (a : XReg) (idx : VReg) {s : State} (hi : s.Inv) :
    (effVsct src a idx s).Keeps := by
  simp [effVsct, hi]

theorem effVadd_keeps (c : VCtl) (d : VReg) (a : VReg) (b : VReg) (sat : Bool) {s : State} (hi : s.Inv) :
    (effVadd c d a b sat s).Keeps := by
  simp [effVadd, hi]

theorem effVsub_keeps (c : VCtl) (d : VReg) (a : VReg) (b : VReg) (sat : Bool) {s : State} (hi : s.Inv) :
    (effVsub c d a b sat s).Keeps := by
  simp [effVsub, hi]

theorem effVmul_keeps (c : VCtl) (d : VReg) (a : VReg) (b : VReg) (sat : Bool) {s : State} (hi : s.Inv) :
    (effVmul c d a b sat s).Keeps := by
  simp [effVmul, hi]

theorem effVfma_keeps (c : VCtl) (d : VReg) (a : VReg) (b : VReg) (e : VReg) {s : State} (hi : s.Inv) :
    (effVfma c d a b e s).Keeps := by
  simp [effVfma, hi]

theorem effVfms_keeps (c : VCtl) (d : VReg) (a : VReg) (b : VReg) (e : VReg) {s : State} (hi : s.Inv) :
    (effVfms c d a b e s).Keeps := by
  simp [effVfms, hi]

theorem effVmin_keeps (c : VCtl) (d : VReg) (a : VReg) (b : VReg) {s : State} (hi : s.Inv) :
    (effVmin c d a b s).Keeps := by
  simp [effVmin, hi]

theorem effVmax_keeps (c : VCtl) (d : VReg) (a : VReg) (b : VReg) {s : State} (hi : s.Inv) :
    (effVmax c d a b s).Keeps := by
  simp [effVmax, hi]

theorem effVabs_keeps (c : VCtl) (d : VReg) (a : VReg) (sat : Bool) {s : State} (hi : s.Inv) :
    (effVabs c d a sat s).Keeps := by
  simp [effVabs, hi]

theorem effVneg_keeps (c : VCtl) (d : VReg) (a : VReg) (sat : Bool) {s : State} (hi : s.Inv) :
    (effVneg c d a sat s).Keeps := by
  simp [effVneg, hi]

theorem effVand_keeps (c : VCtl) (d : VReg) (a : VReg) (b : VReg) {s : State} (hi : s.Inv) :
    (effVand c d a b s).Keeps := by
  simp [effVand, hi]

theorem effVor_keeps (c : VCtl) (d : VReg) (a : VReg) (b : VReg) {s : State} (hi : s.Inv) :
    (effVor c d a b s).Keeps := by
  simp [effVor, hi]

theorem effVxor_keeps (c : VCtl) (d : VReg) (a : VReg) (b : VReg) {s : State} (hi : s.Inv) :
    (effVxor c d a b s).Keeps := by
  simp [effVxor, hi]

theorem effVshl_keeps (c : VCtl) (d : VReg) (a : VReg) (b : VReg) {s : State} (hi : s.Inv) :
    (effVshl c d a b s).Keeps := by
  simp [effVshl, hi]

theorem effVshr_keeps (c : VCtl) (d : VReg) (a : VReg) (b : VReg) {s : State} (hi : s.Inv) :
    (effVshr c d a b s).Keeps := by
  simp [effVshr, hi]

theorem effVsra_keeps (c : VCtl) (d : VReg) (a : VReg) (b : VReg) {s : State} (hi : s.Inv) :
    (effVsra c d a b s).Keeps := by
  simp [effVsra, hi]

theorem effVcmp_keeps (q : QReg) (z : Bool) (fmt : Fmt) (d : QReg) (a : VReg) (b : VReg) (cond : VCmpCond) {s : State} (hi : s.Inv) :
    (effVcmp q z fmt d a b cond s).Keeps := by
  simp [effVcmp, hi]

theorem effVsel_keeps (c : VCtl) (d : VReg) (a : VReg) (b : VReg) (qs : QReg) {s : State} (hi : s.Inv) :
    (effVsel c d a b qs s).Keeps := by
  simp [effVsel, hi]

theorem effVcvt_keeps (c : VCtl) (d : VReg) (a : VReg) (t : Fmt) (r : Rnd) (sat : Bool) {s : State} (hi : s.Inv) :
    (effVcvt c d a t r sat s).Keeps := by
  unfold effVcvt
  refine State.vecIssue_keeps _ hi (fun t ht => foldl_inv _ (fun u b hu => ?_) _ ht)
  exact (State.inv_put _ _ _ _).2 hu

theorem effVfun_keeps (c : VCtl) (d : VReg) (a : VReg) (fn : FunCode) {s : State} (hi : s.Inv) :
    (effVfun c d a fn s).Keeps := by
  simp [effVfun, hi]

theorem effVred_keeps (c : VCtl) (d : VReg) (a : VReg) (op : RedOp) {s : State} (hi : s.Inv) :
    (effVred c d a op s).Keeps := by
  simp [effVred, hi]

theorem effVscn_keeps (c : VCtl) (d : VReg) (a : VReg) {s : State} (hi : s.Inv) :
    (effVscn c d a s).Keeps := by
  simp [effVscn, hi]

theorem effVperm_keeps (c : VCtl) (d : VReg) (a : VReg) (b : VReg) {s : State} (hi : s.Inv) :
    (effVperm c d a b s).Keeps := by
  simp [effVperm, hi]

theorem effVshf_keeps (c : VCtl) (d : VReg) (a : VReg) (b : VReg) (m : ShfMode) {s : State} (hi : s.Inv) :
    (effVshf c d a b m s).Keeps := by
  simp [effVshf, hi]

theorem effVbcs_keeps (c : VCtl) (d : VReg) (src : XReg) {s : State} (hi : s.Inv) :
    (effVbcs c d src s).Keeps := by
  simp [effVbcs, hi]

theorem effVmvx_keeps (fmt : Fmt) (d : XReg) (b : VReg) (i : Fin 512) {s : State} (hi : s.Inv) :
    (effVmvx fmt d b i s).Keeps := by
  unfold effVmvx
  dsimp only
  repeat' split
  all_goals simp_all

theorem effVins_keeps (fmt : Fmt) (d : VReg) (src : XReg) (i : Fin 512) {s : State} (hi : s.Inv) :
    (effVins fmt d src i s).Keeps := by
  simp [effVins, hi]

theorem effVrng_keeps (c : VCtl) (d : VReg) (a : VReg) (n : RngRounds) (hiArg : Bool) {s : State} (hi : s.Inv) :
    (effVrng c d a n hiArg s).Keeps := by
  simp [effVrng, hi]

theorem effViota_keeps (c : VCtl) (d : VReg) {s : State} (hi : s.Inv) :
    (effViota c d s).Keeps := by
  simp [effViota, hi]

theorem effVdot_keeps (c : VCtl) (d : VReg) (a : VReg) (b : VReg) (e : VReg) {s : State} (hi : s.Inv) :
    (effVdot c d a b e s).Keeps := by
  unfold effVdot
  dsimp only
  repeat' split
  all_goals simp_all

theorem effVmov_keeps (c : VCtl) (d : VReg) (a : VReg) {s : State} (hi : s.Inv) :
    (effVmov c d a s).Keeps := by
  simp [effVmov, hi]

theorem effVlit_keeps (c : VCtl) (d : VReg) (_k : Fin 4) (v : BitVec 32) {s : State} (hi : s.Inv) :
    (effVlit c d _k v s).Keeps := by
  simp [effVlit, hi]

theorem effTld_keeps (xt : XReg) (xo : XReg) (f : TldFmt) (tr : Bool) (nt : Bool) {s : State} (hi : s.Inv) :
    (effTld xt xo f tr nt s).Keeps := by
  refine State.readTab_keeps _ hi (fun t b ht => ?_)
  simp [ht]

theorem effTzer_keeps (f : Fmt) (xs : XReg) {s : State} (hi : s.Inv) :
    (effTzer f xs s).Keeps := by
  simp [effTzer, hi]

theorem effTfil_keeps (f : Fmt) (xs : XReg) (xv : XReg) {s : State} (hi : s.Inv) :
    (effTfil f xs xv s).Keeps := by
  simp [effTfil, hi]

theorem effTdup_keeps {s : State} (hi : s.Inv) :
    (effTdup s).Keeps := by
  simp [effTdup, hi]

theorem effTdrp_keeps {s : State} (hi : s.Inv) :
    (effTdrp s).Keeps := by
  simp [effTdrp, hi]

theorem effTswp_keeps {s : State} (hi : s.Inv) :
    (effTswp s).Keeps := by
  simp [effTswp, hi]

theorem effTpk_keeps (n : Fin 64) {s : State} (hi : s.Inv) :
    (effTpk n s).Keeps := by
  simp [effTpk, hi]

theorem effTrot_keeps (n : Fin 64) {s : State} (hi : s.Inv) :
    (effTrot n s).Keeps := by
  simp [effTrot, hi]

theorem effTrtd_keeps (n : Fin 64) {s : State} (hi : s.Inv) :
    (effTrtd n s).Keeps := by
  simp [effTrtd, hi]

theorem effTmma_keeps (m : TMode) {s : State} (hi : s.Inv) :
    (effTmma m s).Keeps := by
  simp [effTmma, hi]

theorem effTmmaD_keeps (m : TMode) {s : State} (hi : s.Inv) :
    (effTmmaD m s).Keeps := by
  simp [effTmmaD, hi]

theorem effTmac_keeps (m : TMode) {s : State} (hi : s.Inv) :
    (effTmac m s).Keeps := by
  simp [effTmac, hi]

theorem effTmacD_keeps (m : TMode) {s : State} (hi : s.Inv) :
    (effTmacD m s).Keeps := by
  simp [effTmacD, hi]

theorem effTadd_keeps (m : TMode) {s : State} (hi : s.Inv) :
    (effTadd m s).Keeps := by
  simp [effTadd, hi]

theorem effTaddD_keeps (m : TMode) {s : State} (hi : s.Inv) :
    (effTaddD m s).Keeps := by
  simp [effTaddD, hi]

theorem effTsub_keeps (m : TMode) {s : State} (hi : s.Inv) :
    (effTsub m s).Keeps := by
  simp [effTsub, hi]

theorem effTmul_keeps (m : TMode) {s : State} (hi : s.Inv) :
    (effTmul m s).Keeps := by
  simp [effTmul, hi]

theorem effTmax_keeps (m : TMode) {s : State} (hi : s.Inv) :
    (effTmax m s).Keeps := by
  simp [effTmax, hi]

theorem effTmin_keeps (m : TMode) {s : State} (hi : s.Inv) :
    (effTmin m s).Keeps := by
  simp [effTmin, hi]

theorem effTscl_keeps (m : TMode) (xs : XReg) (int : Bool) {s : State} (hi : s.Inv) :
    (effTscl m xs int s).Keeps := by
  simp [effTscl, hi]

theorem effTbia_keeps (m : TMode) (fn : Option FunCode) {s : State} (hi : s.Inv) :
    (effTbia m fn s).Keeps := by
  simp [effTbia, hi]

theorem effTfun_keeps (m : TMode) (fn : FunCode) {s : State} (hi : s.Inv) :
    (effTfun m fn s).Keeps := by
  simp [effTfun, hi]

theorem effTred_keeps (m : TMode) (op : RedOp) (cols : Bool) {s : State} (hi : s.Inv) :
    (effTred m op cols s).Keeps := by
  simp [effTred, hi]

theorem effTsmx_keeps (m : TMode) {s : State} (hi : s.Inv) :
    (effTsmx m s).Keeps := by
  simp [effTsmx, hi]

theorem effTtrn_keeps (m : TMode) {s : State} (hi : s.Inv) :
    (effTtrn m s).Keeps := by
  simp [effTtrn, hi]

theorem effTcvt_keeps (m : TMode) {s : State} (hi : s.Inv) :
    (effTcvt m s).Keeps := by
  simp [effTcvt, hi]

theorem effTslc_keeps (m : TMode) (xs : XReg) {s : State} (hi : s.Inv) :
    (effTslc m xs s).Keeps := by
  simp [effTslc, hi]

theorem effTcat_keeps (m : TMode) (cols : Bool) {s : State} (hi : s.Inv) :
    (effTcat m cols s).Keeps := by
  simp [effTcat, hi]

theorem effTbcs_keeps (m : TMode) (xs : XReg) {s : State} (hi : s.Inv) :
    (effTbcs m xs s).Keeps := by
  simp [effTbcs, hi]

theorem effTmsk_keeps (m : TMode) (xv : Option XReg) {s : State} (hi : s.Inv) :
    (effTmsk m xv s).Keeps := by
  simp [effTmsk, hi]

theorem effTchk_keeps {s : State} (hi : s.Inv) :
    (effTchk s).Keeps := by
  simp [effTchk, hi]

theorem effTst_keeps (xt : XReg) (xr : XReg) (flag : Option FlagNo) {s : State} (hi : s.Inv) :
    (effTst xt xr flag s).Keeps := by
  unfold effTst
  refine State.readTab_keeps _ hi (fun t b ht => ?_)
  dsimp only
  repeat' split
  all_goals first
    | trivial
    | exact State.appendStore_inv _ _ _ _ _ ((State.inv_modMash _ _).2 (State.aliasForce_inv _ (State.makeRoom_inv _ _ _ ht)))

theorem effTfrc_keeps (n : Fin 64) (xr : XReg) (flag : FlagNo) {s : State} (hi : s.Inv) :
    (effTfrc n xr flag s).Keeps := by
  unfold effTfrc
  dsimp only
  repeat' split
  all_goals simp_all

theorem effScpy_keeps (a : XReg) (flag : Option FlagNo) (cls : Fin 4) (x : Bool) {s : State} (hi : s.Inv) :
    (effScpy a flag cls x s).Keeps := by
  exact State.readDesc_keeps _ _ hi (fun t d ht => State.enter_keeps _ _ _ _ ht)

theorem effSacc_keeps (a : XReg) (flag : Option FlagNo) (cls : Fin 4) (x : Bool) {s : State} (hi : s.Inv) :
    (effSacc a flag cls x s).Keeps := by
  unfold effSacc
  refine State.guarded_keeps _ hi (State.readDesc_keeps _ _ hi (fun t d ht => ?_))
  split
  · trivial
  · exact State.enterGated_keeps _ _ _ _ ht

theorem effSatmFadd_keeps (a : XReg) (flag : Option FlagNo) (cls : Fin 4) {s : State} (hi : s.Inv) :
    (effSatmFadd a flag cls s).Keeps := by
  simp [effSatmFadd, hi]

theorem effSatmFmin_keeps (a : XReg) (flag : Option FlagNo) (cls : Fin 4) {s : State} (hi : s.Inv) :
    (effSatmFmin a flag cls s).Keeps := by
  simp [effSatmFmin, hi]

theorem effSatmFmax_keeps (a : XReg) (flag : Option FlagNo) (cls : Fin 4) {s : State} (hi : s.Inv) :
    (effSatmFmax a flag cls s).Keeps := by
  simp [effSatmFmax, hi]

theorem effSatmSwap_keeps (a : XReg) (flag : Option FlagNo) (cls : Fin 4) {s : State} (hi : s.Inv) :
    (effSatmSwap a flag cls s).Keeps := by
  simp [effSatmSwap, hi]

theorem effSatmCas_keeps (a : XReg) (flag : Option FlagNo) (cls : Fin 4) {s : State} (hi : s.Inv) :
    (effSatmCas a flag cls s).Keeps := by
  simp [effSatmCas, hi]

theorem effSatmIadd_keeps (a : XReg) (flag : Option FlagNo) (cls : Fin 4) {s : State} (hi : s.Inv) :
    (effSatmIadd a flag cls s).Keeps := by
  simp [effSatmIadd, hi]

theorem effSatmAnd_keeps (a : XReg) (flag : Option FlagNo) (cls : Fin 4) {s : State} (hi : s.Inv) :
    (effSatmAnd a flag cls s).Keeps := by
  simp [effSatmAnd, hi]

theorem effSatmOr_keeps (a : XReg) (flag : Option FlagNo) (cls : Fin 4) {s : State} (hi : s.Inv) :
    (effSatmOr a flag cls s).Keeps := by
  simp [effSatmOr, hi]

theorem effSatmXor_keeps (a : XReg) (flag : Option FlagNo) (cls : Fin 4) {s : State} (hi : s.Inv) :
    (effSatmXor a flag cls s).Keeps := by
  simp [effSatmXor, hi]

theorem effSsig_keeps (a : XReg) (b : XReg) (flag : Option FlagNo) (cls : Fin 4) (x : Bool) {s : State} (hi : s.Inv) :
    (effSsig a b flag cls x s).Keeps := by
  simp [effSsig, hi]

theorem effSsigRel_keeps (a : XReg) (b : XReg) (flag : Option FlagNo) (cls : Fin 4) (x : Bool) (scope : Scope) {s : State} (hi : s.Inv) :
    (effSsigRel a b flag cls x scope s).Keeps := by
  simp [effSsigRel, hi]

theorem effSgth_keeps (a : XReg) (b : XReg) (flag : Option FlagNo) (cls : Fin 4) (x : Bool) {s : State} (hi : s.Inv) :
    (effSgth a b flag cls x s).Keeps := by
  unfold effSgth
  refine State.readDesc_keeps _ _ hi (fun t d ht => ?_)
  exact State.readBlock_keeps _ _ _ ht (fun _ _ => State.controlNow_inv _ _ ht) (fun u bs hu => State.enter_keeps _ _ _ _ hu)

theorem effSbar_keeps (a : KindMask) (b : KindMask) (flag : Option FlagNo) {s : State} (hi : s.Inv) :
    (effSbar a b flag s).Keeps := by
  simp [effSbar, hi]

theorem effSdrn_keeps (flag : Option FlagNo) {s : State} (hi : s.Inv) :
    (effSdrn flag s).Keeps := by
  simp [effSdrn, hi]

theorem effFenceAcq_keeps (scope : Scope) (flag : Option FlagNo) {s : State} (hi : s.Inv) :
    (effFenceAcq scope flag s).Keeps := by
  simp [effFenceAcq, hi]

theorem effFenceRel_keeps (scope : Scope) (flag : Option FlagNo) {s : State} (hi : s.Inv) :
    (effFenceRel scope flag s).Keeps := by
  unfold effFenceRel
  repeat' split
  all_goals simp [*]

theorem effFenceSc_keeps (scope : Scope) (flag : Option FlagNo) {s : State} (hi : s.Inv) :
    (effFenceSc scope flag s).Keeps := by
  simp [effFenceSc, hi]

theorem effL2wb_keeps (a : XReg) (flag : Option FlagNo) {s : State} (hi : s.Inv) :
    (effL2wb a flag s).Keeps := by
  exact State.readDesc_keeps _ _ hi (fun t d ht => State.enter_keeps _ _ _ _ ht)

theorem effL2inv_keeps (a : XReg) (flag : Option FlagNo) {s : State} (hi : s.Inv) :
    (effL2inv a flag s).Keeps := by
  exact State.readDesc_keeps _ _ hi (fun t d ht => State.enter_keeps _ _ _ _ ht)

theorem effL2pf_keeps (a : XReg) (retained : Bool) (flag : Option FlagNo) {s : State} (hi : s.Inv) :
    (effL2pf a retained flag s).Keeps := by
  exact State.readDesc_keeps _ _ hi (fun t d ht => State.enter_keeps _ _ _ _ ht)

theorem effSxfr_keeps (a : XReg) (b : XReg) (flag : Option FlagNo) {s : State} (hi : s.Inv) :
    (effSxfr a b flag s).Keeps := by
  unfold effSxfr
  refine State.guarded_keeps _ hi (State.readDesc_keeps _ _ hi (fun t d ht => ?_))
  have he : ∀ slot addr, (t.enter (.sxfr d slot addr) flag 0 false).Keeps := fun _ _ => State.enter_keeps _ _ _ _ ht
  dsimp only
  repeat' split
  all_goals first
    | trivial
    | (rename_i h
       have := he (t.x b).toNat (t.x a).toNat
       rw [h] at this
       exact this)
    | exact he _ _

theorem effBr_keeps (off : BitVec 25) {s : State} (hi : s.Inv) :
    (effBr off s).Keeps := by
  simp [effBr, hi]

theorem effCall_keeps (off : BitVec 25) {s : State} (hi : s.Inv) :
    (effCall off s).Keeps := by
  have h := State.transfer_keeps (s.ahead off.toInt) hi
  unfold effCall
  generalize s.transfer (s.ahead off.toInt) = e at h ⊢
  cases e with
  | ok t => exact State.putX_inv _ _ _ _ h
  | _ => trivial

theorem effRet_keeps {s : State} (hi : s.Inv) :
    (effRet s).Keeps := by
  simp [effRet, hi]

theorem effJmpr_keeps (a : XReg) {s : State} (hi : s.Inv) :
    (effJmpr a s).Keeps := by
  simp [effJmpr, hi]

theorem effLoop_keeps (n : BitVec 14) (len : Fin 64) {s : State} (hi : s.Inv) :
    (effLoop n len s).Keeps := by
  simp [effLoop, hi]

theorem effLoopr_keeps (a : XReg) (len : Fin 64) {s : State} (hi : s.Inv) :
    (effLoopr a len s).Keeps := by
  simp [effLoopr, hi]

theorem effLbrk_keeps {s : State} (hi : s.Inv) :
    (effLbrk s).Keeps := by
  unfold effLbrk
  split
  · exact hi
  · rename_i e rest _
    have h := State.transfer_keeps (e.last.setWidth 64 + 64) hi
    generalize s.transfer (e.last.setWidth 64 + 64) = x at h ⊢
    cases x with
    | ok t => exact h
    | _ => trivial

theorem effCkpt_keeps {s : State} (hi : s.Inv) :
    (effCkpt s).Keeps := by
  simp [effCkpt, hi]

theorem effRdv_keeps (n : BitVec 8) {s : State} (hi : s.Inv) :
    (effRdv n s).Keeps := by
  unfold effRdv
  repeat' split
  all_goals simp [*]

theorem effSlack_keeps (n : BitVec 8) {s : State} (hi : s.Inv) :
    (effSlack n s).Keeps := by
  simp [effSlack, hi]

theorem effSstep_keeps (d : XReg) (dom : Fin 16) {s : State} (hi : s.Inv) :
    (effSstep d dom s).Keeps := by
  unfold effSstep
  repeat' split
  all_goals simp [*]

theorem effExit_keeps (s0 : ExitSrc) (s1 : ExitSrc) (s2 : ExitSrc) (s3 : ExitSrc) {s : State} (hi : s.Inv) :
    (effExit s0 s1 s2 s3 s).Keeps := by
  simp [effExit, hi]

theorem effHalt_keeps {s : State} (hi : s.Inv) :
    (effHalt s).Keeps := by
  simp [effHalt, hi]

theorem effLaunch_keeps (d : XReg) (a : XReg) {s : State} (hi : s.Inv) :
    (effLaunch d a s).Keeps := by
  simp [effLaunch, hi]

theorem effLaunchGraph_keeps (d : XReg) (a : XReg) {s : State} (hi : s.Inv) :
    (effLaunchGraph d a s).Keeps := by
  simp [effLaunchGraph, hi]

theorem effFset_keeps (k : FlagNo) {s : State} (hi : s.Inv) :
    (effFset k s).Keeps := by
  simp [effFset, hi]

theorem effFclr_keeps (k : FlagNo) {s : State} (hi : s.Inv) :
    (effFclr k s).Keeps := by
  simp [effFclr, hi]

theorem effCset_keeps (k : CtrNo) (n : BitVec 20) {s : State} (hi : s.Inv) :
    (effCset k n s).Keeps := by
  simp [effCset, hi]

theorem effBrk_keeps (k : BitVec 16) {s : State} (hi : s.Inv) :
    (effBrk k s).Keeps := by
  simp [effBrk, hi]

theorem effTrap_keeps (k : BitVec 16) {s : State} (hi : s.Inv) :
    (effTrap k s).Keeps := by
  simp [effTrap, hi]

theorem effRte_keeps {s : State} (hi : s.Inv) :
    (effRte s).Keeps := by
  simp [effRte, hi]

theorem effXbnd_keeps (a : XReg) {s : State} (hi : s.Inv) :
    (effXbnd a s).Keeps := by
  unfold effXbnd
  dsimp only
  repeat' split
  all_goals simp_all

theorem effIcinv_keeps (a : XReg) (b : XReg) (flag : Option FlagNo) (scope : Scope) {s : State} (hi : s.Inv) :
    (effIcinv a b flag scope s).Keeps := by
  unfold effIcinv
  dsimp only
  repeat' split
  all_goals simp_all

theorem effTlbiAll_keeps (flag : Option FlagNo) (pod : Bool) {s : State} (hi : s.Inv) :
    (effTlbiAll flag pod s).Keeps := by
  simp [effTlbiAll, hi]

theorem effTlbiTensor_keeps (a : XReg) (b : XReg) (flag : Option FlagNo) (pod : Bool) {s : State} (hi : s.Inv) :
    (effTlbiTensor a b flag pod s).Keeps := by
  simp [effTlbiTensor, hi]

theorem effTlbiRange_keeps (a : XReg) (b : XReg) (flag : Option FlagNo) (pod : Bool) {s : State} (hi : s.Inv) :
    (effTlbiRange a b flag pod s).Keeps := by
  unfold effTlbiRange
  dsimp only
  repeat' split
  all_goals simp_all

theorem effMode_keeps (value : BitVec 8) (mask : BitVec 8) {s : State} (hi : s.Inv) :
    (effMode value mask s).Keeps := by
  simp [effMode, hi]

theorem effYield_keeps {s : State} (hi : s.Inv) :
    (effYield s).Keeps := by
  unfold effYield
  repeat' split
  all_goals simp [*]

/-- The effect of a slot instruction keeps the form. -/
theorem slotEff_keeps (i : Instr) {s : State} (hi : s.Inv) : (slotEff i s).Keeps := by
  cases i with
  | nop => exact effNop_keeps  hi
  | add a0 a1 a2 => exact effAdd_keeps a0 a1 a2 hi
  | addImm a0 a1 a2 => exact effAddImm_keeps a0 a1 a2 hi
  | addLit a0 a1 a2 => exact effAddLit_keeps a0 a1 a2 hi
  | sub a0 a1 a2 => exact effSub_keeps a0 a1 a2 hi
  | subImm a0 a1 a2 => exact effSubImm_keeps a0 a1 a2 hi
  | subLit a0 a1 a2 => exact effSubLit_keeps a0 a1 a2 hi
  | mul a0 a1 a2 => exact effMul_keeps a0 a1 a2 hi
  | mulImm a0 a1 a2 => exact effMulImm_keeps a0 a1 a2 hi
  | mulLit a0 a1 a2 => exact effMulLit_keeps a0 a1 a2 hi
  | mulh a0 a1 a2 => exact effMulh_keeps a0 a1 a2 hi
  | mulhImm a0 a1 a2 => exact effMulhImm_keeps a0 a1 a2 hi
  | mulhLit a0 a1 a2 => exact effMulhLit_keeps a0 a1 a2 hi
  | mulhu a0 a1 a2 => exact effMulhu_keeps a0 a1 a2 hi
  | mulhuImm a0 a1 a2 => exact effMulhuImm_keeps a0 a1 a2 hi
  | mulhuLit a0 a1 a2 => exact effMulhuLit_keeps a0 a1 a2 hi
  | div a0 a1 a2 => exact effDiv_keeps a0 a1 a2 hi
  | divImm a0 a1 a2 => exact effDivImm_keeps a0 a1 a2 hi
  | divLit a0 a1 a2 => exact effDivLit_keeps a0 a1 a2 hi
  | divu a0 a1 a2 => exact effDivu_keeps a0 a1 a2 hi
  | divuImm a0 a1 a2 => exact effDivuImm_keeps a0 a1 a2 hi
  | divuLit a0 a1 a2 => exact effDivuLit_keeps a0 a1 a2 hi
  | rem a0 a1 a2 => exact effRem_keeps a0 a1 a2 hi
  | remImm a0 a1 a2 => exact effRemImm_keeps a0 a1 a2 hi
  | remLit a0 a1 a2 => exact effRemLit_keeps a0 a1 a2 hi
  | remu a0 a1 a2 => exact effRemu_keeps a0 a1 a2 hi
  | remuImm a0 a1 a2 => exact effRemuImm_keeps a0 a1 a2 hi
  | remuLit a0 a1 a2 => exact effRemuLit_keeps a0 a1 a2 hi
  | and a0 a1 a2 => exact effAnd_keeps a0 a1 a2 hi
  | andImm a0 a1 a2 => exact effAndImm_keeps a0 a1 a2 hi
  | andLit a0 a1 a2 => exact effAndLit_keeps a0 a1 a2 hi
  | or a0 a1 a2 => exact effOr_keeps a0 a1 a2 hi
  | orImm a0 a1 a2 => exact effOrImm_keeps a0 a1 a2 hi
  | orLit a0 a1 a2 => exact effOrLit_keeps a0 a1 a2 hi
  | xor a0 a1 a2 => exact effXor_keeps a0 a1 a2 hi
  | xorImm a0 a1 a2 => exact effXorImm_keeps a0 a1 a2 hi
  | xorLit a0 a1 a2 => exact effXorLit_keeps a0 a1 a2 hi
  | andn a0 a1 a2 => exact effAndn_keeps a0 a1 a2 hi
  | andnImm a0 a1 a2 => exact effAndnImm_keeps a0 a1 a2 hi
  | andnLit a0 a1 a2 => exact effAndnLit_keeps a0 a1 a2 hi
  | shl a0 a1 a2 => exact effShl_keeps a0 a1 a2 hi
  | shlImm a0 a1 a2 => exact effShlImm_keeps a0 a1 a2 hi
  | shlLit a0 a1 a2 => exact effShlLit_keeps a0 a1 a2 hi
  | shr a0 a1 a2 => exact effShr_keeps a0 a1 a2 hi
  | shrImm a0 a1 a2 => exact effShrImm_keeps a0 a1 a2 hi
  | shrLit a0 a1 a2 => exact effShrLit_keeps a0 a1 a2 hi
  | sra a0 a1 a2 => exact effSra_keeps a0 a1 a2 hi
  | sraImm a0 a1 a2 => exact effSraImm_keeps a0 a1 a2 hi
  | sraLit a0 a1 a2 => exact effSraLit_keeps a0 a1 a2 hi
  | rotl a0 a1 a2 => exact effRotl_keeps a0 a1 a2 hi
  | rotlImm a0 a1 a2 => exact effRotlImm_keeps a0 a1 a2 hi
  | rotlLit a0 a1 a2 => exact effRotlLit_keeps a0 a1 a2 hi
  | min a0 a1 a2 => exact effMin_keeps a0 a1 a2 hi
  | minImm a0 a1 a2 => exact effMinImm_keeps a0 a1 a2 hi
  | minLit a0 a1 a2 => exact effMinLit_keeps a0 a1 a2 hi
  | max a0 a1 a2 => exact effMax_keeps a0 a1 a2 hi
  | maxImm a0 a1 a2 => exact effMaxImm_keeps a0 a1 a2 hi
  | maxLit a0 a1 a2 => exact effMaxLit_keeps a0 a1 a2 hi
  | minu a0 a1 a2 => exact effMinu_keeps a0 a1 a2 hi
  | minuImm a0 a1 a2 => exact effMinuImm_keeps a0 a1 a2 hi
  | minuLit a0 a1 a2 => exact effMinuLit_keeps a0 a1 a2 hi
  | maxu a0 a1 a2 => exact effMaxu_keeps a0 a1 a2 hi
  | maxuImm a0 a1 a2 => exact effMaxuImm_keeps a0 a1 a2 hi
  | maxuLit a0 a1 a2 => exact effMaxuLit_keeps a0 a1 a2 hi
  | sel a0 a1 a2 a3 => exact effSel_keeps a0 a1 a2 a3 hi
  | mov a0 a1 => exact effMov_keeps a0 a1 hi
  | movImm a0 a1 => exact effMovImm_keeps a0 a1 hi
  | movLit a0 a1 => exact effMovLit_keeps a0 a1 hi
  | ext a0 a1 a2 a3 => exact effExt_keeps a0 a1 a2 a3 hi
  | bitClz a0 a1 => exact effBitClz_keeps a0 a1 hi
  | bitCtz a0 a1 => exact effBitCtz_keeps a0 a1 hi
  | bitPopc a0 a1 => exact effBitPopc_keeps a0 a1 hi
  | bitBrev a0 a1 => exact effBitBrev_keeps a0 a1 hi
  | cmp a0 a1 a2 a3 => exact effCmp_keeps a0 a1 a2 a3 hi
  | plog a0 a1 a2 a3 => exact effPlog_keeps a0 a1 a2 a3 hi
  | faddS a0 a1 a2 => exact effFaddS_keeps a0 a1 a2 hi
  | faddSLit a0 a1 a2 a3 => exact effFaddSLit_keeps a0 a1 a2 a3 hi
  | fsubS a0 a1 a2 => exact effFsubS_keeps a0 a1 a2 hi
  | fsubSLit a0 a1 a2 a3 => exact effFsubSLit_keeps a0 a1 a2 a3 hi
  | fmulS a0 a1 a2 => exact effFmulS_keeps a0 a1 a2 hi
  | fmulSLit a0 a1 a2 a3 => exact effFmulSLit_keeps a0 a1 a2 a3 hi
  | ffmaS a0 a1 a2 => exact effFfmaS_keeps a0 a1 a2 hi
  | ffmaSLit a0 a1 a2 a3 => exact effFfmaSLit_keeps a0 a1 a2 a3 hi
  | fminS a0 a1 a2 => exact effFminS_keeps a0 a1 a2 hi
  | fminSLit a0 a1 a2 a3 => exact effFminSLit_keeps a0 a1 a2 a3 hi
  | fmaxS a0 a1 a2 => exact effFmaxS_keeps a0 a1 a2 hi
  | fmaxSLit a0 a1 a2 a3 => exact effFmaxSLit_keeps a0 a1 a2 a3 hi
  | fcmp a0 a1 a2 a3 => exact effFcmp_keeps a0 a1 a2 a3 hi
  | fcvtTo a0 a1 a2 a3 => exact effFcvtTo_keeps a0 a1 a2 a3 hi
  | fcvtFrom a0 a1 a2 a3 => exact effFcvtFrom_keeps a0 a1 a2 a3 hi
  | mfs a0 a1 => exact effMfs_keeps a0 a1 hi
  | mts a0 a1 => exact effMts_keeps a0 a1 hi
  | rsvWrite a0 a1 => exact effRsvWrite_keeps a0 a1 hi
  | injDropreplyArm a0 => exact effInjDropreplyArm_keeps a0 hi
  | cmpt a0 a1 => exact effCmpt_keeps a0 a1 hi
  | crd a0 a1 => exact effCrd_keeps a0 a1 hi
  | cwr a0 a1 a2 a3 => exact effCwr_keeps a0 a1 a2 a3 hi
  | cwrImm a0 a1 a2 a3 => exact effCwrImm_keeps a0 a1 a2 a3 hi
  | lcr a0 a1 => exact effLcr_keeps a0 a1 hi
  | ldB a0 a1 a2 => exact effLdB_keeps a0 a1 a2 hi
  | ldBu a0 a1 a2 => exact effLdBu_keeps a0 a1 a2 hi
  | ldH a0 a1 a2 => exact effLdH_keeps a0 a1 a2 hi
  | ldHu a0 a1 a2 => exact effLdHu_keeps a0 a1 a2 hi
  | ldW a0 a1 a2 => exact effLdW_keeps a0 a1 a2 hi
  | ldWu a0 a1 a2 => exact effLdWu_keeps a0 a1 a2 hi
  | ldD a0 a1 a2 => exact effLdD_keeps a0 a1 a2 hi
  | stB a0 a1 a2 => exact effStB_keeps a0 a1 a2 hi
  | stH a0 a1 a2 => exact effStH_keeps a0 a1 a2 hi
  | stW a0 a1 a2 => exact effStW_keeps a0 a1 a2 hi
  | stD a0 a1 a2 => exact effStD_keeps a0 a1 a2 hi
  | vld a0 a1 a2 => exact effVld_keeps a0 a1 a2 hi
  | vst a0 a1 a2 => exact effVst_keeps a0 a1 a2 hi
  | vlds a0 a1 a2 a3 => exact effVlds_keeps a0 a1 a2 a3 hi
  | vsts a0 a1 a2 a3 => exact effVsts_keeps a0 a1 a2 a3 hi
  | vgth a0 a1 a2 => exact effVgth_keeps a0 a1 a2 hi
  | vsct a0 a1 a2 => exact effVsct_keeps a0 a1 a2 hi
  | vadd a0 a1 a2 a3 a4 => exact effVadd_keeps a0 a1 a2 a3 a4 hi
  | vsub a0 a1 a2 a3 a4 => exact effVsub_keeps a0 a1 a2 a3 a4 hi
  | vmul a0 a1 a2 a3 a4 => exact effVmul_keeps a0 a1 a2 a3 a4 hi
  | vfma a0 a1 a2 a3 a4 => exact effVfma_keeps a0 a1 a2 a3 a4 hi
  | vfms a0 a1 a2 a3 a4 => exact effVfms_keeps a0 a1 a2 a3 a4 hi
  | vmin a0 a1 a2 a3 => exact effVmin_keeps a0 a1 a2 a3 hi
  | vmax a0 a1 a2 a3 => exact effVmax_keeps a0 a1 a2 a3 hi
  | vabs a0 a1 a2 a3 => exact effVabs_keeps a0 a1 a2 a3 hi
  | vneg a0 a1 a2 a3 => exact effVneg_keeps a0 a1 a2 a3 hi
  | vand a0 a1 a2 a3 => exact effVand_keeps a0 a1 a2 a3 hi
  | vor a0 a1 a2 a3 => exact effVor_keeps a0 a1 a2 a3 hi
  | vxor a0 a1 a2 a3 => exact effVxor_keeps a0 a1 a2 a3 hi
  | vshl a0 a1 a2 a3 => exact effVshl_keeps a0 a1 a2 a3 hi
  | vshr a0 a1 a2 a3 => exact effVshr_keeps a0 a1 a2 a3 hi
  | vsra a0 a1 a2 a3 => exact effVsra_keeps a0 a1 a2 a3 hi
  | vcmp a0 a1 a2 a3 a4 a5 a6 => exact effVcmp_keeps a0 a1 a2 a3 a4 a5 a6 hi
  | vsel a0 a1 a2 a3 a4 => exact effVsel_keeps a0 a1 a2 a3 a4 hi
  | vcvt a0 a1 a2 a3 a4 a5 => exact effVcvt_keeps a0 a1 a2 a3 a4 a5 hi
  | vfun a0 a1 a2 a3 => exact effVfun_keeps a0 a1 a2 a3 hi
  | vred a0 a1 a2 a3 => exact effVred_keeps a0 a1 a2 a3 hi
  | vscn a0 a1 a2 => exact effVscn_keeps a0 a1 a2 hi
  | vperm a0 a1 a2 a3 => exact effVperm_keeps a0 a1 a2 a3 hi
  | vshf a0 a1 a2 a3 a4 => exact effVshf_keeps a0 a1 a2 a3 a4 hi
  | vbcs a0 a1 a2 => exact effVbcs_keeps a0 a1 a2 hi
  | vmvx a0 a1 a2 a3 => exact effVmvx_keeps a0 a1 a2 a3 hi
  | vins a0 a1 a2 a3 => exact effVins_keeps a0 a1 a2 a3 hi
  | vrng a0 a1 a2 a3 a4 => exact effVrng_keeps a0 a1 a2 a3 a4 hi
  | viota a0 a1 => exact effViota_keeps a0 a1 hi
  | vdot a0 a1 a2 a3 a4 => exact effVdot_keeps a0 a1 a2 a3 a4 hi
  | vmov a0 a1 a2 => exact effVmov_keeps a0 a1 a2 hi
  | vlit a0 a1 a2 a3 => exact effVlit_keeps a0 a1 a2 a3 hi
  | tld a0 a1 a2 a3 a4 => exact effTld_keeps a0 a1 a2 a3 a4 hi
  | tzer a0 a1 => exact effTzer_keeps a0 a1 hi
  | tfil a0 a1 a2 => exact effTfil_keeps a0 a1 a2 hi
  | tdup => exact effTdup_keeps  hi
  | tdrp => exact effTdrp_keeps  hi
  | tswp => exact effTswp_keeps  hi
  | tpk a0 => exact effTpk_keeps a0 hi
  | trot a0 => exact effTrot_keeps a0 hi
  | trtd a0 => exact effTrtd_keeps a0 hi
  | tmma a0 => exact effTmma_keeps a0 hi
  | tmmaD a0 => exact effTmmaD_keeps a0 hi
  | tmac a0 => exact effTmac_keeps a0 hi
  | tmacD a0 => exact effTmacD_keeps a0 hi
  | tadd a0 => exact effTadd_keeps a0 hi
  | taddD a0 => exact effTaddD_keeps a0 hi
  | tsub a0 => exact effTsub_keeps a0 hi
  | tmul a0 => exact effTmul_keeps a0 hi
  | tmax a0 => exact effTmax_keeps a0 hi
  | tmin a0 => exact effTmin_keeps a0 hi
  | tscl a0 a1 a2 => exact effTscl_keeps a0 a1 a2 hi
  | tbia a0 a1 => exact effTbia_keeps a0 a1 hi
  | tfun a0 a1 => exact effTfun_keeps a0 a1 hi
  | tred a0 a1 a2 => exact effTred_keeps a0 a1 a2 hi
  | tsmx a0 => exact effTsmx_keeps a0 hi
  | ttrn a0 => exact effTtrn_keeps a0 hi
  | tcvt a0 => exact effTcvt_keeps a0 hi
  | tslc a0 a1 => exact effTslc_keeps a0 a1 hi
  | tcat a0 a1 => exact effTcat_keeps a0 a1 hi
  | tbcs a0 a1 => exact effTbcs_keeps a0 a1 hi
  | tmsk a0 a1 => exact effTmsk_keeps a0 a1 hi
  | tchk => exact effTchk_keeps  hi
  | tst a0 a1 a2 => exact effTst_keeps a0 a1 a2 hi
  | tfrc a0 a1 a2 => exact effTfrc_keeps a0 a1 a2 hi
  | scpy a0 a1 a2 a3 => exact effScpy_keeps a0 a1 a2 a3 hi
  | sacc a0 a1 a2 a3 => exact effSacc_keeps a0 a1 a2 a3 hi
  | satmFadd a0 a1 a2 => exact effSatmFadd_keeps a0 a1 a2 hi
  | satmFmin a0 a1 a2 => exact effSatmFmin_keeps a0 a1 a2 hi
  | satmFmax a0 a1 a2 => exact effSatmFmax_keeps a0 a1 a2 hi
  | satmSwap a0 a1 a2 => exact effSatmSwap_keeps a0 a1 a2 hi
  | satmCas a0 a1 a2 => exact effSatmCas_keeps a0 a1 a2 hi
  | satmIadd a0 a1 a2 => exact effSatmIadd_keeps a0 a1 a2 hi
  | satmAnd a0 a1 a2 => exact effSatmAnd_keeps a0 a1 a2 hi
  | satmOr a0 a1 a2 => exact effSatmOr_keeps a0 a1 a2 hi
  | satmXor a0 a1 a2 => exact effSatmXor_keeps a0 a1 a2 hi
  | ssig a0 a1 a2 a3 a4 => exact effSsig_keeps a0 a1 a2 a3 a4 hi
  | ssigRel a0 a1 a2 a3 a4 a5 => exact effSsigRel_keeps a0 a1 a2 a3 a4 a5 hi
  | sgth a0 a1 a2 a3 a4 => exact effSgth_keeps a0 a1 a2 a3 a4 hi
  | sbar a0 a1 a2 => exact effSbar_keeps a0 a1 a2 hi
  | sdrn a0 => exact effSdrn_keeps a0 hi
  | fenceAcq a0 a1 => exact effFenceAcq_keeps a0 a1 hi
  | fenceRel a0 a1 => exact effFenceRel_keeps a0 a1 hi
  | fenceSc a0 a1 => exact effFenceSc_keeps a0 a1 hi
  | l2wb a0 a1 => exact effL2wb_keeps a0 a1 hi
  | l2inv a0 a1 => exact effL2inv_keeps a0 a1 hi
  | l2pf a0 a1 a2 => exact effL2pf_keeps a0 a1 a2 hi
  | sxfr a0 a1 a2 => exact effSxfr_keeps a0 a1 a2 hi
  | br a0 => exact effBr_keeps a0 hi
  | call a0 => exact effCall_keeps a0 hi
  | ret => exact effRet_keeps  hi
  | jmpr a0 => exact effJmpr_keeps a0 hi
  | loop a0 a1 => exact effLoop_keeps a0 a1 hi
  | loopr a0 a1 => exact effLoopr_keeps a0 a1 hi
  | lbrk => exact effLbrk_keeps  hi
  | ckpt => exact effCkpt_keeps  hi
  | rdv a0 => exact effRdv_keeps a0 hi
  | slack a0 => exact effSlack_keeps a0 hi
  | sstep a0 a1 => exact effSstep_keeps a0 a1 hi
  | exit a0 a1 a2 a3 => exact effExit_keeps a0 a1 a2 a3 hi
  | halt => exact effHalt_keeps  hi
  | launch a0 a1 => exact effLaunch_keeps a0 a1 hi
  | launchGraph a0 a1 => exact effLaunchGraph_keeps a0 a1 hi
  | fset a0 => exact effFset_keeps a0 hi
  | fclr a0 => exact effFclr_keeps a0 hi
  | cset a0 a1 => exact effCset_keeps a0 a1 hi
  | brk a0 => exact effBrk_keeps a0 hi
  | trap a0 => exact effTrap_keeps a0 hi
  | rte => exact effRte_keeps  hi
  | xbnd a0 => exact effXbnd_keeps a0 hi
  | icinv a0 a1 a2 a3 => exact effIcinv_keeps a0 a1 a2 a3 hi
  | tlbiAll a0 a1 => exact effTlbiAll_keeps a0 a1 hi
  | tlbiTensor a0 a1 a2 a3 => exact effTlbiTensor_keeps a0 a1 a2 a3 hi
  | tlbiRange a0 a1 a2 a3 => exact effTlbiRange_keeps a0 a1 a2 a3 hi
  | mode a0 a1 => exact effMode_keeps a0 a1 hi
  | yield => exact effYield_keeps  hi
  | _ => exact hi

end Sys2Proof.Machine
end

