-- ==== Sys2Proof/Laws/KeepBundle.lean ====
section
/-! SUPPORT. The operations of Machine/Bundle.lean keep memory in its canonical form. -/

namespace Sys2Proof.Machine

@[simp] theorem State.fetchFresh_inv {s : State} (hi : s.Inv) :
    (State.fetchFresh s).1.Inv := by
  have h1 := State.controlAt_inv s.ctxNo s.core.pc.toNat false hi
  unfold State.fetchFresh
  dsimp only
  repeat' split
  all_goals first
    | exact hi
    | exact h1
    | exact State.readMain_inv _ _ _ _ h1
    | exact (State.inv_bump _).2 (State.readMain_inv _ _ _ _ h1)

@[simp] theorem State.fetch_inv {s : State} (hi : s.Inv) :
    (State.fetch s).1.Inv := by
  unfold State.fetch
  dsimp only
  repeat' split
  all_goals simp_all

@[simp] theorem State.passSync_inv {s : State} (w : Nat) (hi : s.Inv) :
    (State.passSync s w).Inv := by
  unfold State.passSync
  split
  · exact (State.inv_modCore s _).2 hi
  · exact hi

@[simp] theorem State.settleReads_inv {s : State} (rs : List Res) (n1 : Nat) (hi : s.Inv) :
    (State.settleReads s rs n1).1.Inv := by
  induction n1 generalizing s with
  | zero => exact hi
  | succ n ih =>
    unfold State.settleReads
    repeat' split
    all_goals first | exact hi | exact ih (State.arriveLoads_inv hi) | exact ih (State.passPosition_inv hi)

@[simp] theorem State.runSlot_keeps {s : State} (i : SlotInstr) (hi : s.Inv) :
    (State.runSlot s i).Keeps := by
  unfold State.runSlot
  dsimp only
  split
  · exact slotEff_keeps _ hi
  · exact hi

@[simp] theorem Run.slot_inv {r : Run} (i : SlotInstr) (hr : r.s.Inv) :
    (Run.slot r i).s.Inv := by
  have h := State.runSlot_keeps i hr
  unfold Run.slot
  split
  · exact hr
  · split
    · rename_i t ht
      rw [ht] at h
      exact h
    · exact hr
    · exact hr

@[simp] theorem Run.settle_inv {r : Run} (rs : List Res) (hr : r.s.Inv) : (Run.settle r rs).s.Inv := by
  have h := State.settleReads_inv rs 600 hr
  unfold Run.settle
  dsimp only
  repeat' split
  all_goals first | exact hr | exact h

@[simp] theorem Run.group_inv {r : Run} (g : List SlotInstr) (hr : r.s.Inv) :
    (Run.group r g).s.Inv := by
  have key : ∀ (l : List SlotInstr) (q : Run), q.s.Inv → (l.foldl Run.slot q).s.Inv := by
    intro l
    induction l with
    | nil => exact fun q hq => hq
    | cons i l ih => exact fun q hq => ih _ (Run.slot_inv i hq)
  exact key _ _ (Run.settle_inv _ hr)

@[simp] theorem State.learn_inv {s : State} (t : State) (hi : s.Inv) : (State.learn s t).Inv := by
  unfold State.learn
  exact foldl_inv (fun (u : State) b => (u.touchBlocks s.ctxNo true [b]).1) (fun _ _ hu => State.touchBlocks_inv _ _ _ hu) _ hi

@[simp] theorem State.runBundle_keeps {s : State} (b : Bundle) (hi : s.Inv) :
    (State.runBundle s b).Keeps := by
  have key : ∀ (l : List (List SlotInstr)) (q : Run), q.s.Inv → (l.foldl Run.group q).s.Inv := by
    intro l
    induction l with
    | nil => exact fun q hq => hq
    | cons g l ih => exact fun q hq => ih _ (Run.group_inv g hq)
  have h := key (bundleGroups b) { s := s.modCore (fun c => { c with issue := { Issue.none with before := some s.before } }),
                                   ilk := s.core.interlocked, raises := [], stall := none, stop := false } hi
  unfold State.runBundle
  dsimp only
  split
  · refine (Trial.keeps_raised _ _).2 ?_
    split
    · exact State.learn_inv _ hi
    · exact hi
  · split
    · exact hi
    · split
      · exact hi
      · exact h

@[simp] theorem State.tryWord_keeps {s : State} (w : Nat) (hi : s.Inv) :
    (State.tryWord s w).Keeps := by
  unfold State.tryWord
  split
  · trivial
  · split
    · exact hi
    · split
      · exact hi
      · split
        · exact hi
        · have h := State.runBundle_keeps ‹Bundle› (State.passSync_inv w hi)
          split
          · exact hi
          · exact (Trial.keeps_raised _ _).2 (State.learn_inv _ hi)
          · exact h

@[simp] theorem State.tryBundle_keeps {s : State} (hi : s.Inv) :
    (State.tryBundle s).Keeps := by
  have h := State.fetch_inv hi
  unfold State.tryBundle
  dsimp only
  split
  · exact State.tryWord_keeps _ h
  · exact hi
  · exact h

@[simp] theorem State.issueBundle_inv {s : State} (hi : s.Inv) :
    (State.issueBundle s).Inv := by
  have h := State.tryBundle_keeps hi
  unfold State.issueBundle
  split
  · rename_i t ht
    rw [ht] at h
    exact h
  · exact hi
  · rename_i t r ht
    rw [ht] at h
    exact State.takeRaise_inv _ h
  · rename_i t w ht
    rw [ht] at h
    exact State.takeStall_inv _ h

@[simp] theorem execBundleIssue_keeps {s : State} (hi : s.Inv) :
    Keeps (execBundleIssue s) := by
  unfold execBundleIssue
  repeat' split
  all_goals simp [*]

@[simp] theorem execSyncPass_keeps {s : State} (hi : s.Inv) :
    Keeps (execSyncPass s) := by
  unfold execSyncPass
  repeat' split
  all_goals simp [*]

@[simp] theorem State.settleDone_inv {s : State} (hi : s.Inv) : s.settleDone.Inv := by
  unfold State.settleDone
  split
  · exact State.nextCycle_inv hi
  · exact hi

@[simp] theorem State.landStep_inv {s : State} (hi : s.Inv) :
    (State.landStep s).Inv := by
  unfold State.landStep
  repeat' split
  all_goals first | exact State.advance_inv hi | exact State.settleDone_inv ((State.inv_modCore _ _).2 (State.advance_inv hi))

@[simp] theorem execResultLand_keeps {s : State} (hi : s.Inv) :
    Keeps (execResultLand s) := by
  simp [execResultLand, *]

@[simp] theorem State.toBoundary_inv {s : State} (n1 : Nat) (hi : s.Inv) :
    (State.toBoundary s n1).Inv := by
  induction n1 generalizing s with
  | zero => exact hi
  | succ n ih =>
    unfold State.toBoundary
    split
    · exact hi
    · exact ih (State.landStep_inv hi)

end Sys2Proof.Machine
end

