-- ==== Sys2Proof/Laws/KeepCoreEv.lean ====
section
/-! SUPPORT. The operations of Machine/CoreEv.lean keep memory in its canonical form. -/

namespace Sys2Proof.Machine

@[simp] theorem execRemoteLoadArrive_keeps (id : Nat) {s : State} (hi : s.Inv) :
    Keeps (execRemoteLoadArrive id s) := by
  simp [execRemoteLoadArrive, *]

@[simp] theorem execRemoteStoreArrive_keeps (id : Nat) {s : State} (hi : s.Inv) :
    Keeps (execRemoteStoreArrive id s) := by
  simp [execRemoteStoreArrive, *]

@[simp] theorem State.ackStore_inv {s : State} (id : Nat) (hi : s.Inv) :
    (State.ackStore s id).Inv := by
  simp [State.ackStore, *]

@[simp] theorem execRemoteStoreAck_keeps (id : Nat) {s : State} (hi : s.Inv) :
    Keeps (execRemoteStoreAck id s) := by
  simp [execRemoteStoreAck, *]

@[simp] theorem State.runDemands_inv {s : State} (n1 : List Demand) (hi : s.Inv) :
    (State.runDemands s n1).Inv := by
  induction n1 with
  | nil => exact hi
  | cons d rest ih =>
    unfold State.runDemands
    dsimp only
    repeat' split
    all_goals first | exact ih | exact State.runDemand_inv _ hi

@[simp] theorem execDemandEvaluation_keeps {s : State} (hi : s.Inv) :
    Keeps (execDemandEvaluation s) := by
  unfold execDemandEvaluation
  repeat' split
  all_goals simp [*]

@[simp] theorem execEvalAheadOfDemand_keeps (node : Nat) (row : Nat) (col : Nat) {s : State} (hi : s.Inv) :
    Keeps (execEvalAheadOfDemand node row col s) := by
  unfold execEvalAheadOfDemand
  rw [keeps_next]
  repeat' split
  all_goals first | exact hi | exact State.gc_inv (State.demand_inv _ _ _ _ _ hi)

@[simp] theorem State.storeStep_inv {s : State} (n : StoreNode) (k : Nat) (hi : s.Inv) :
    (State.storeStep s n k).Inv := by
  unfold State.storeStep
  repeat' split
  all_goals simp [*]

@[simp] theorem execStoreNodePerform_keeps (node : Nat) (n : Nat) {s : State} (hi : s.Inv) :
    Keeps (execStoreNodePerform node n s) := by
  unfold execStoreNodePerform
  repeat' split
  all_goals simp [*]

@[simp] theorem State.finishForce_inv {s : State} (d : Demand) (hi : s.Inv) :
    (State.finishForce s d).Inv := by
  unfold State.finishForce
  repeat' split
  all_goals simp [*]

@[simp] theorem execTfrcComplete_keeps (id : Nat) {s : State} (hi : s.Inv) :
    Keeps (execTfrcComplete id s) := by
  unfold execTfrcComplete
  repeat' split
  all_goals simp [*]

@[simp] theorem execValueMovement_keeps {s : State} (hi : s.Inv) :
    Keeps (execValueMovement s) := by
  simp [execValueMovement, *]

@[simp] theorem State.writeEvalRegs_inv {s : State} (f : EvalFault) (hi : s.Inv) :
    (State.writeEvalRegs s f).Inv := by
  simp [State.writeEvalRegs, *]

@[simp] theorem State.takeEvalFault_inv {s : State} (f : EvalFault) (hi : s.Inv) :
    (State.takeEvalFault s f).Inv := by
  unfold State.takeEvalFault
  repeat' split
  all_goals simp [*]

@[simp] theorem execEvaluationFault_keeps {s : State} (hi : s.Inv) :
    Keeps (execEvaluationFault s) := by
  unfold execEvaluationFault
  repeat' split
  all_goals simp [*]

@[simp] theorem execCopyCommandComplete_keeps (id : Nat) (n : Nat) {s : State} (hi : s.Inv) :
    Keeps (execCopyCommandComplete id n s) := by
  simp [execCopyCommandComplete, *]

@[simp] theorem execCopyCommandFault_keeps (id : Nat) {s : State} (hi : s.Inv) :
    Keeps (execCopyCommandFault id s) := by
  unfold execCopyCommandFault
  repeat' split
  all_goals simp [*]

@[simp] theorem execSignalIncrement_keeps (id : Nat) {s : State} (hi : s.Inv) :
    Keeps (execSignalIncrement id s) := by
  unfold execSignalIncrement
  repeat' split
  all_goals simp [*]

@[simp] theorem State.takePageFault_inv {s : State} (hi : s.Inv) :
    (State.takePageFault s).Inv := by
  have h := State.tryBundle_keeps hi
  unfold State.takePageFault
  repeat' split
  all_goals first
    | exact hi
    | exact State.takeEvalFault_inv _ hi
    | exact State.takeCmdFault_inv _ hi
    | (rename_i ht
       rw [ht] at h
       exact State.takeStall_inv _ h)

@[simp] theorem execPageFault_keeps {s : State} (hi : s.Inv) :
    Keeps (execPageFault s) := by
  unfold execPageFault
  repeat' split
  all_goals simp [*]

@[simp] theorem execImplicitCheckpoint_keeps {s : State} (hi : s.Inv) :
    Keeps (execImplicitCheckpoint s) := by
  have h := State.tryBundle_keeps hi
  unfold execImplicitCheckpoint
  rw [keeps_next]
  repeat' split
  all_goals first
    | exact hi
    | (rename_i ht
       rw [ht] at h
       exact State.takeStall_inv _ h)

@[simp] theorem State.takeKernel_inv {s : State} (hi : s.Inv) : s.takeKernel.Inv := by
  unfold State.takeKernel
  split
  · exact hi
  · exact State.takeTrap_inv _ _ _ hi

@[simp] theorem State.deliverTrap_inv {s : State} (cause : BitVec 6) (info : Word) (hi : s.Inv) :
    (State.deliverTrap s cause info).Inv := by
  have h : ((s.modCore (fun c => c.postTrap cause info)).toBoundary 16).Inv := State.toBoundary_inv _ hi
  unfold State.deliverTrap
  dsimp only
  repeat' split
  all_goals first | exact hi | exact h | exact State.takeKernel_inv h

@[simp] theorem execTrapEntry_keeps (cause : BitVec 6) (info : Word) {s : State} (hi : s.Inv) :
    Keeps (execTrapEntry cause info s) := by
  simp [execTrapEntry, *]

@[simp] theorem State.takeLate_inv {s : State} (hi : s.Inv) :
    (State.takeLate s).Inv := by
  unfold State.takeLate
  repeat' split
  all_goals simp [*]

@[simp] theorem execLateTrap_keeps {s : State} (hi : s.Inv) :
    Keeps (execLateTrap s) := by
  unfold execLateTrap
  repeat' split
  all_goals simp [*]

@[simp] theorem State.writePageRegs_inv {s : State} (w : PageRegs) (hi : s.Inv) :
    (State.writePageRegs s w).Inv := by
  simp [State.writePageRegs, *]

@[simp] theorem State.deliverPage_inv {s : State} (w : PageRegs) (cause : BitVec 6) (hi : s.Inv) :
    (State.deliverPage s w cause).Inv := by
  simp [State.deliverPage, *]

@[simp] theorem State.writeTile_inv {s : State} (ctx : Nat) (tid : Nat) (tile : Nat) (e : Word) (hi : s.Inv) :
    (State.writeTile s ctx tid tile e).Inv := by
  unfold State.writeTile
  repeat' split
  all_goals simp [*]

@[simp] theorem State.applyUpdate_inv {s : State} (u : TableUpdate) (hi : s.Inv) : (State.applyUpdate s u).Inv := by
  cases u with
  | tensor ctx tid e => exact hi
  | tile ctx tid tile e => exact State.writeTile_inv _ _ _ _ hi

@[simp] theorem State.multicast_inv {s : State} (u : TableUpdate) (hi : s.Inv) : (State.multicast s u).Inv :=
  State.send_inv _ (State.applyUpdate_inv u hi)

@[simp] theorem State.changeTile_inv {s : State} (ctx tid tile e : Nat) (hi : s.Inv) :
    (State.changeTile s ctx tid tile e).Inv := State.dropEntries_inv _ _ (State.multicast_inv _ hi)

@[simp] theorem State.homeBlocks_inv {s : State} (a : Nat) (bs : List (Nat × BitVec 512)) (hi : s.Inv) :
    (State.homeBlocks s a bs).Inv :=
  foldl_inv _ (fun _ _ ht => State.setMark_inv _ _ (State.homeCells_inv _ ht)) _ hi

@[simp] theorem State.pageIn_inv {s : State} (ctx tid tile : Nat) (e : Word) (data : List (Nat × BitVec 512)) (hi : s.Inv) :
    (State.pageIn s ctx tid tile e data).Inv := by
  unfold State.pageIn
  split
  · exact State.changeTile_inv _ _ _ _ (State.homeBlocks_inv _ _ hi)
  · exact State.changeTile_inv _ _ _ _ hi

@[simp] theorem State.failAtoms_inv {s : State} (p : EngFault → Bool) (cause : BitVec 6) (hi : s.Inv) :
    (State.failAtoms s p cause).Inv := by
  unfold State.failAtoms
  refine foldl_inv _ (fun t b ht => ?_) _ hi
  repeat' split
  all_goals simp_all

@[simp] theorem State.failCmds_inv {s : State} (p : EngFault → Bool) (cause : BitVec 6) (hi : s.Inv) :
    (State.failCmds s p cause).Inv :=
  (State.inv_modCore _ _).2 (State.failAtoms_inv p cause hi)

@[simp] theorem State.resolvePort_inv {s : State} (r : Resolution) (hi : s.Inv) : (State.resolvePort s r).Inv := by
  unfold State.resolvePort
  split
  · split
    · exact State.retryPorts_inv (State.pageIn_inv _ _ _ _ _ hi)
    · exact State.denyPorts_inv _ _ _ _ hi
  · exact hi

@[simp] theorem execPageFaultResolved_keeps (r : Resolution) {s : State} (hi : s.Inv) :
    Keeps (execPageFaultResolved r s) := by
  have hf : ∀ p (k : BitVec 6), (s.failCmds p k).Inv := fun p k => State.failCmds_inv p k hi
  unfold execPageFaultResolved
  rw [keeps_next]
  split
  · exact State.resolvePort_inv _ hi
  · split
    · exact State.retryPorts_inv ((State.inv_modCore _ _).2 (State.pageIn_inv _ _ _ _ _ hi))
    · dsimp only
      split
      · exact State.deliverPage_inv _ _ (hf _ _)
      · exact hf _ _

@[simp] theorem State.writeGranule_inv {s : State} (ctx : Nat) (gpa : Nat) (e : Word) (hi : s.Inv) :
    (State.writeGranule s ctx gpa e).Inv := by
  unfold State.writeGranule
  repeat' split
  all_goals simp [*]

@[simp] theorem State.mapGranule_inv {s : State} (ctx gpa : Nat) (e : Word) (hi : s.Inv) :
    (State.mapGranule s ctx gpa e).Inv := State.dropEntries_inv _ _ (State.writeGranule_inv _ _ _ hi)

@[simp] theorem State.resolveStage_inv {s : State} (r : Resolution) (hi : s.Inv) : (State.resolveStage s r).Inv := by
  unfold State.resolveStage
  split
  · split
    · exact State.retryPorts_inv (State.mapGranule_inv _ _ _ hi)
    · exact State.denyPorts_inv _ _ _ _ hi
  · exact hi

@[simp] theorem execSecondStageFault_keeps (r : Resolution) {s : State} (hi : s.Inv) :
    Keeps (execSecondStageFault r s) := by
  have hf : ∀ p (k : BitVec 6), (s.failCmds p k).Inv := fun p k => State.failCmds_inv p k hi
  unfold execSecondStageFault
  rw [keeps_next]
  split
  · exact State.resolveStage_inv _ hi
  · split
    · exact State.retryPorts_inv ((State.inv_modCore _ _).2 (State.mapGranule_inv _ _ _ hi))
    · dsimp only
      split
      · exact State.deliverPage_inv _ _ (hf _ _)
      · exact hf _ _

@[simp] theorem execFeatureMaskedHypervisorResume_keeps (deliver : Bool) {s : State} (hi : s.Inv) :
    Keeps (execFeatureMaskedHypervisorResume deliver s) := by
  unfold execFeatureMaskedHypervisorResume
  repeat' split
  all_goals simp [*]

@[simp] theorem State.dropCodeIn_inv {s : State} (sc : Scope) (lo : Nat) (hiArg : Nat) (hi : s.Inv) :
    (State.dropCodeIn s sc lo hiArg).Inv := hi

@[simp] theorem State.completeInval_inv {s : State} (i : Inval) (hi : s.Inv) :
    (State.completeInval s i).Inv := by
  unfold State.completeInval
  repeat' split
  all_goals simp [*]

@[simp] theorem execInvalidationComplete_keeps (id : Nat) {s : State} (hi : s.Inv) :
    Keeps (execInvalidationComplete id s) := by
  unfold execInvalidationComplete
  repeat' split
  all_goals simp [*]

end Sys2Proof.Machine
end

