-- ==== Sys2Proof/Laws/KeepLaunch.lean ====
section
/-! SUPPORT. The operations of Machine/Launch.lean keep memory in its canonical form. -/

namespace Sys2Proof.Machine

@[simp] theorem State.reportNew_inv {s : State} (r : Report) (hi : s.Inv) :
    (State.reportNew s r).Inv := by
  unfold State.reportNew
  repeat' split
  all_goals simp [*]

@[simp] theorem State.readCtl_inv {s : State} (ctx : Nat) (addr : Nat) (n : Nat) (hi : s.Inv) :
    (State.readCtl s ctx addr n).1.Inv := by
  unfold State.readCtl
  split
  · exact hi
  · split
    · exact hi
    · refine foldl_inv_fst _ (fun x p hx => ?_) _ hi
      have h1 := State.controlAt_inv ctx p.1 false hx
      dsimp only
      repeat' split
      all_goals first
        | exact hx
        | exact h1
        | exact State.reportNew_inv _ h1
        | exact State.touchBlocks_inv _ _ _ h1

@[simp] theorem State.writeCtl_inv {s : State} (ctx : Nat) (addr : Nat) (bs : List Byte) (hi : s.Inv) :
    (State.writeCtl s ctx addr bs).Inv := by
  unfold State.writeCtl
  refine foldl_inv _ (fun t b ht => ?_) _ ?_
  rotate_left
  simp_all
  dsimp only
  repeat' split
  all_goals first | exact ht | simp_all

@[simp] theorem State.loadBlocks_inv {s : State} (ctx : Nat) (addr : Nat) (plain : Bool) (kernel : Bool) (hi : s.Inv) :
    (State.loadBlocks s ctx addr plain kernel).1.Inv := by
  unfold State.loadBlocks
  dsimp only
  repeat' split
  all_goals simp_all

@[simp] theorem State.enqueue_inv {s : State} (b : LaunchBlock) (p : ParamBlock) (graph : Option (Nat × Nat)) (hi : s.Inv) :
    (State.enqueue s b p graph).Inv := by
  simp [State.enqueue, *]

@[simp] theorem State.settleWaiting_inv {s : State} (hi : s.Inv) :
    (State.settleWaiting s).Inv := by
  simp [State.settleWaiting, *]

@[simp] theorem State.readNodes_inv {s : State} (ctx : Nat) (addr : Nat) (n : Nat) (kernel : Bool) (n1 : List Nat) (hi : s.Inv) :
    (State.readNodes s ctx addr n kernel n1).1.Inv := by
  induction n1 generalizing s with
  | nil => exact hi
  | cons k ks ih =>
    have h1 := State.readCtl_inv ctx (addr + 32 + 32 * k) 32 hi
    have h2 : ∀ e : List Byte, (((s.readCtl ctx (addr + 32 + 32 * k) 32).1.loadBlocks ctx (field e 0 8) false kernel).1).Inv :=
      fun e => State.loadBlocks_inv _ _ _ _ h1
    unfold State.readNodes
    dsimp only
    repeat' split
    all_goals first
      | exact h1
      | exact h2 _
      | exact ih (h2 _)

@[simp] theorem State.beginGraph_inv {s : State} (ctx : Nat) (addr : Nat) (h : List Byte) (ns : List GraphNode) (hi : s.Inv) :
    (State.beginGraph s ctx addr h ns).Inv := by
  unfold State.beginGraph
  extract_lets gen s1 s2 ns2 id s3
  have h1 : s1.Inv := State.writeCtl_inv _ _ _ hi
  have h2 : s2.Inv := by
    unfold s2
    split
    · exact foldl_inv _ (fun t b ht => State.writeCtl_inv _ _ _ ht) _ h1
    · exact h1
  refine foldl_inv _ (fun t b ht => ?_) _ h2
  split
  · exact State.enqueue_inv _ _ _ ht
  · exact ht

@[simp] theorem State.endGraphs_inv {s : State} (hi : s.Inv) :
    (State.endGraphs s).Inv := by
  unfold State.endGraphs
  refine foldl_inv _ (fun t b ht => ?_) _ hi
  repeat' split
  all_goals simp_all

@[simp] theorem State.submitGraph_inv {s : State} (ctx : Nat) (addr : Nat) (kernel : Bool) (hi : s.Inv) :
    (State.submitGraph s ctx addr kernel).1.Inv := by
  have h1 := State.readCtl_inv ctx addr 32 hi
  unfold State.submitGraph
  generalize s.readCtl ctx addr 32 = r at h1 ⊢
  have h2 : ∀ n l, (r.1.readNodes ctx addr n kernel l).1.Inv := fun _ _ => State.readNodes_inv _ _ _ _ _ h1
  dsimp only
  repeat' split
  all_goals first
    | exact hi
    | exact h1
    | exact h2 _ _
    | exact State.endGraphs_inv (State.beginGraph_inv _ _ _ _ (h2 _ _))

@[simp] theorem State.submit_inv {s : State} (ctx : Nat) (addr : Nat) (graph : Bool) (kernel : Bool) (hi : s.Inv) :
    (State.submit s ctx addr graph kernel).1.Inv := by
  unfold State.submit
  dsimp only
  repeat' split
  all_goals simp_all

@[simp] theorem State.arriveNode_inv {s : State} (gid : Nat) (k : Nat) (hi : s.Inv) :
    (State.arriveNode s gid k).Inv := by
  unfold State.arriveNode
  dsimp only
  repeat' split
  all_goals simp_all

@[simp] theorem State.startStep_inv {s : State} (core : Nat) (t : Task) (g : Nat) (n : Nat) (hi : s.Inv) :
    (State.startStep s core t g n).Inv := by
  simp [State.startStep, *]

@[simp] theorem State.keepCore_inv {s : State} (core : Nat) (hi : s.Inv) :
    (State.keepCore s core).Inv := by
  simp [State.keepCore, *]

@[simp] theorem State.settleGang_inv {s : State} (id : Nat) (hi : s.Inv) :
    (State.settleGang s id).Inv := by
  unfold State.settleGang
  dsimp only
  repeat' split
  all_goals first
    | exact hi
    | (refine foldl_inv (s := s) _ (fun t b ht => ?_) _ hi
       split
       · exact State.setCore_inv _ _ ht
       · exact ht)

@[simp] theorem State.endCore_inv {s : State} (core : Nat) (id : Nat) (g : Nat) (hi : s.Inv) :
    (State.endCore s core id g).Inv := by
  exact State.advanceAcks_inv _ (State.settleGang_inv _ (State.modTask_inv _ _ (State.setCore_inv _ _ hi)))

@[simp] theorem State.stepEnd_inv {s : State} (succ : List Word) (hi : s.Inv) :
    (State.stepEnd s succ).Inv := by
  unfold State.stepEnd
  split
  · exact State.setCore_inv _ _ hi
  · rename_i st _
    have h1 : ∀ f, ((s.keepCore s.cur).modTask st.task f).Inv := fun f => State.modTask_inv _ _ (State.keepCore_inv _ hi)
    dsimp only
    split
    · exact State.setCore_inv _ _ (h1 _)
    · split
      · exact State.endCore_inv _ _ _ (h1 _)
      · split
        · exact State.advanceAcks_inv _ (State.settleGang_inv _ (State.setCore_inv _ _ (h1 _)))
        · exact State.advanceAcks_inv _ (State.startStep_inv _ _ _ _ (h1 _))

@[simp] theorem State.writeSave_inv {s : State} (yield : Bool) (hi : s.Inv) : (State.writeSave s yield).Inv := by
  unfold State.writeSave
  split
  · exact State.homeCells_inv _ hi
  · exact hi

@[simp] theorem State.switchOut_inv {s : State} (yield : Bool) (hi : s.Inv) :
    (State.switchOut s yield).Inv := by
  unfold State.switchOut
  split
  · exact hi
  · exact State.settleGang_inv _ (State.setCore_inv _ _ ((State.inv_modCtx _ _ _).2 (State.writeSave_inv _ hi)))

@[simp] theorem execPreemptHorizon_keeps {s : State} (hi : s.Inv) :
    Keeps (execPreemptHorizon s) := by
  unfold execPreemptHorizon
  dsimp only
  repeat' split
  all_goals simp_all

@[simp] theorem execContextRestore_keeps {s : State} (hi : s.Inv) :
    Keeps (execContextRestore s) := by
  unfold execContextRestore
  rw [keeps_next]
  dsimp only
  repeat' split
  all_goals first
    | exact hi
    | exact foldl_inv _ (fun t b ht => State.raiseFlag_inv _ _ ht) _
        (foldl_inv _ (fun t b ht => State.increment_inv _ _ _ _ ht) _
          (foldl_inv (fun (t : State) (g : Nat × XReg × Word) => t.modCore (fun k => k.writeBoth g.2.1 g.2.2))
            (fun t b ht => (State.inv_modCore t _).2 ht) _ ((State.inv_modCtx _ _ _).2 (State.setCore_inv _ _ hi))))

@[simp] theorem State.dispatch_inv {s : State} (t : Task) (credits : Vector Int 8) (hi : s.Inv) :
    (State.dispatch s t credits).Inv := by
  unfold State.dispatch
  refine foldl_inv _ (fun t b ht => ?_) _ ?_
  rotate_left
  simp_all
  dsimp only
  repeat' split
  all_goals first | exact ht | simp_all

@[simp] theorem execTaskDispatch_keeps {s : State} (hi : s.Inv) :
    Keeps (execTaskDispatch s) := by
  unfold execTaskDispatch
  repeat' split
  all_goals simp [*]

@[simp] theorem State.age_inv {s : State} (id : Nat) (hi : s.Inv) :
    (State.age s id).Inv := by
  simp [State.age, *]

@[simp] theorem execTaskAging_keeps (task : Nat) {s : State} (hi : s.Inv) :
    Keeps (execTaskAging task s) := by
  simp [execTaskAging, *]

@[simp] theorem State.markGang_inv {s : State} (r : Task) (hi : s.Inv) :
    (State.markGang s r).Inv := by
  unfold State.markGang
  refine foldl_inv _ (fun t b ht => ?_) _ hi
  simp_all

@[simp] theorem State.markFor_inv {s : State} (t : Task) (hi : s.Inv) :
    (State.markFor s t).Inv := by
  unfold State.markFor
  refine foldl_inv _ (fun t b ht => ?_) _ hi
  simp_all

@[simp] theorem execPreemptionMark_keeps (task : Nat) {s : State} (hi : s.Inv) :
    Keeps (execPreemptionMark task s) := by
  unfold execPreemptionMark
  repeat' split
  all_goals simp [*]

@[simp] theorem State.modStepCore_inv {s : State} (t : Task) (core : Nat) (f : Core → Core) (hi : s.Inv) :
    (State.modStepCore s t core f).Inv := by
  unfold State.modStepCore
  dsimp only
  repeat' split
  all_goals simp_all

@[simp] theorem State.passStep_inv {s : State} (t : Task) (core : Nat) (gen : Word32) (hi : s.Inv) :
    (State.passStep s t core gen).Inv := by
  unfold State.passStep
  dsimp only
  split
  · exact hi
  · exact State.modCoreAt_inv _ _ hi

@[simp] theorem State.openBarrier_inv {s : State} (dom : Nat) (d : Domain) (t : Task) (hi : s.Inv) :
    (State.openBarrier s dom d t).Inv := by
  have h0 : ∀ f, ((s.modLaunch f).applyInbox false).Inv := fun f => State.applyInbox_inv _ ((State.inv_modLaunch _ _).2 hi)
  unfold State.openBarrier
  dsimp only
  refine foldl_inv _ (fun u c hu => State.passStep_inv _ _ _ ?_) _ ?_
  · repeat' split
    all_goals first
      | exact hu
      | exact State.modTask_inv _ _ hu
  · split
    · exact State.applyInbox_inv _ (h0 _)
    · exact hi

@[simp] theorem execStepBarrier_keeps (dom : Fin 16) {s : State} (hi : s.Inv) :
    Keeps (execStepBarrier dom s) := by
  unfold execStepBarrier
  repeat' split
  all_goals simp [*]

@[simp] theorem State.releaseRdv_inv {s : State} (t : Task) (die : Bool) (hi : s.Inv) :
    (State.releaseRdv s t die).Inv := by
  unfold State.releaseRdv
  dsimp only
  split
  · exact hi
  · exact foldl_inv _ (fun t b ht => State.modStepCore_inv _ _ _ ht) _ hi

@[simp] theorem execRendezvousRelease_keeps (task : Nat) (die : Bool) {s : State} (hi : s.Inv) :
    Keeps (execRendezvousRelease task die s) := by
  unfold execRendezvousRelease
  repeat' split
  all_goals simp [*]

@[simp] theorem State.readSuccessors_inv {s : State} (ctx : Nat) (run : Option GraphRun) (n1 : List Nat) (hi : s.Inv) :
    (State.readSuccessors s ctx run n1).1.Inv := by
  induction n1 generalizing s with
  | nil => exact hi
  | cons a l ih =>
    have h1 := State.loadBlocks_inv ctx a true false hi
    unfold State.readSuccessors
    dsimp only
    repeat' split
    all_goals first
      | exact ih hi
      | exact h1
      | exact ih h1

@[simp] theorem State.passOn_inv {s : State} (t : Task) (run : Option (GraphRun × Nat)) (as : List Nat) (xs : List (Nat × Except Nat (LaunchBlock × ParamBlock))) (hi : s.Inv) :
    (State.passOn s t run as xs).Inv := by
  unfold State.passOn
  extract_lets s1 s2
  have h1 : s1.Inv := by
    refine foldl_inv _ (fun t a ht => ?_) _ hi
    split
    · exact foldl_inv _ (fun t k ht => State.arriveNode_inv _ _ ht) _ ht
    · exact ht
  have h2 : s2.Inv := by
    refine foldl_inv _ (fun t x ht => ?_) _ h1
    split
    · exact State.enqueue_inv _ _ _ ht
    · exact (State.inv_report _ _).2 ht
  split
  · exact foldl_inv _ (fun t k ht => State.arriveNode_inv _ _ ht) _ h2
  · exact h2

@[simp] theorem State.retireTask_inv {s : State} (id : Nat) (hi : s.Inv) :
    (State.retireTask s id).Inv := by
  simp [State.retireTask, *]

@[simp] theorem State.completeTask_inv {s : State} (t : Task) (hi : s.Inv) :
    (State.completeTask s t).Inv := by
  have h0 : ∀ f, (s.modLaunch f).Inv := fun _ => hi
  have h1 : ∀ f c r l, ((s.modLaunch f).readSuccessors c r l).1.Inv := fun f c r l => State.readSuccessors_inv _ _ _ (h0 f)
  unfold State.completeTask
  dsimp only
  repeat' split
  all_goals first
    | exact h1 _ _ _ _
    | exact State.endGraphs_inv (State.settleWaiting_inv (State.retireTask_inv _ (State.passOn_inv _ _ _ _ (h1 _ _ _ _))))
    | exact State.endGraphs_inv (State.settleWaiting_inv (State.retireTask_inv _ (State.passOn_inv _ _ _ _
        ((State.inv_report _ _).2 (h1 _ _ _ _)))))
    | exact State.endGraphs_inv (State.settleWaiting_inv ((State.inv_report _ _).2 (State.retireTask_inv _ hi)))

@[simp] theorem execTaskCompletion_keeps (task : Nat) {s : State} (hi : s.Inv) :
    Keeps (execTaskCompletion task s) := by
  unfold execTaskCompletion
  repeat' split
  all_goals simp [*]

@[simp] theorem State.clearSuspect_inv {s : State} (core : Nat) (hi : s.Inv) : (State.clearSuspect s core).Inv := hi

@[simp] theorem State.dropSaved_inv {s : State} (t : Task) (core : Nat) (hi : s.Inv) : (State.dropSaved s t core).Inv := hi

@[simp] theorem State.leaveStep_inv {s : State} (t : Task) (core : Nat) (hi : s.Inv) : (State.leaveStep s t core).Inv := by
  unfold State.leaveStep
  dsimp only
  split
  · exact hi
  · exact State.keepCore_inv core hi

@[simp] theorem State.failStep_inv {s : State} (core : Nat) (t : Task) (st : StepRec) (hi : s.Inv) :
    (State.failStep s core t st).Inv :=
  State.endCore_inv _ _ _ (State.modTask_inv _ _ (State.leaveStep_inv _ _ hi))

@[simp] theorem State.replaySaved_inv {s : State} (core : Nat) (act : ReplayAct) (hi : s.Inv) :
    (State.replaySaved s core act).Inv := by
  have h (t : Task) (f : Task → Task) : (((s.clearSuspect core).leaveStep t core).modTask t.id f).Inv :=
    State.modTask_inv _ _ (State.leaveStep_inv _ _ hi)
  unfold State.replaySaved
  dsimp only
  repeat' split
  all_goals first | exact hi | exact h _ _

@[simp] theorem State.replayStep_inv {s : State} (core : Nat) (act : ReplayAct) (hi : s.Inv) :
    (State.replayStep s core act).Inv := by
  have hc : (s.clearSuspect core).Inv := hi
  unfold State.replayStep
  split
  · exact State.replaySaved_inv _ _ hi
  · split
    · exact hi
    · split
      · exact hi
      · split
        · exact State.failStep_inv _ _ _ hc
        · split
          · exact State.failStep_inv _ _ _ hc
          · split
            · exact State.startStep_inv _ _ _ _ (State.leaveStep_inv _ _ hc)
            · exact hi
          · split
            · exact State.startStep_inv _ _ _ _ (State.setCore_inv _ _ (State.modTask_inv _ _ (State.leaveStep_inv _ _ hc)))
            · exact hi

@[simp] theorem execStepReplay_keeps (core : Nat) (act : ReplayAct) {s : State} (hi : s.Inv) :
    Keeps (execStepReplay core act s) := by
  simp [execStepReplay, *]

@[simp] theorem State.killTask_inv {s : State} (id : Nat) (hi : s.Inv) :
    (State.killTask s id).Inv := by
  unfold State.killTask
  split
  · exact hi
  · refine foldl_inv _ (fun t p ht => ?_) _ (State.modTask_inv _ _ hi)
    split
    · exact ht
    · exact State.endCore_inv _ _ _ (State.keepCore_inv _ ht)

@[simp] theorem State.noteQuiet_inv {s : State} (hi : s.Inv) : s.noteQuiet.Inv := hi

@[simp] theorem State.unquiet_inv {s : State} (hi : s.Inv) : s.unquiet.Inv := hi

@[simp] theorem execWatchdog_keeps (act : WatchdogAct) {s : State} (hi : s.Inv) :
    Keeps (execWatchdog act s) := by
  have h1 := State.reportNew_inv .watchdog hi
  unfold execWatchdog
  rw [keeps_next]
  split
  · exact hi
  · dsimp only
    split
    · exact State.killTask_inv _ h1
    · exact State.onCore_inv _ ((State.inv_bump _).2 h1) (fun u hu => State.deliverTrap_inv _ _ hu)
    · exact h1

/-- What is written, where it is written at all, keeps the form. -/
theorem State.storeData_inv {s t : State} {ctx : Nat} {p : Placement} {bs : List Byte} (hi : s.Inv)
    (h : s.storeData ctx p bs = some t) : t.Inv := by
  unfold State.storeData at h
  split at h <;> simp only [Option.some.injEq, reduceCtorEq] at h
  all_goals subst h
  · exact State.inv_writeCells hi _
  · exact State.homeCells_inv _ hi
  · exact hi

theorem State.doPiece_inv {s t : State} {p : LoadPiece} (hi : s.Inv) (h : s.doPiece p = some t) : t.Inv := by
  cases p with
  | code ctx addr b => exact State.storeData_inv hi h
  | data ctx p bs => exact State.storeData_inv hi h
  | inval lo hi' =>
    simp only [State.doPiece, Option.some.injEq] at h
    subst h
    exact hi

@[simp] theorem State.putPiece_inv {s : State} (p : LoadPiece) (hi : s.Inv) : (State.putPiece s p).Inv := by
  unfold State.putPiece
  cases h : s.doPiece p with
  | none => exact hi
  | some t => exact State.doPiece_inv hi h

@[simp] theorem State.writeBundle_inv {s : State} (ctx addr : Nat) (b : BitVec 512) (hi : s.Inv) :
    (State.writeBundle s ctx addr b).Inv := State.putPiece_inv _ hi

@[simp] theorem State.loadStep_inv {s : State} (hi : s.Inv) : s.loadStep.Inv := by
  unfold State.loadStep
  split
  · exact hi
  · split
    · rename_i t h
      exact (State.inv_modMalt t _).2 (State.doPiece_inv hi h)
    · exact hi

@[simp] theorem execKernelCommandPortLaunch_keeps (ctx : Nat) (addr : Word) (graph : Bool) {s : State} (hi : s.Inv) :
    Keeps (execKernelCommandPortLaunch ctx addr graph s) := by
  unfold execKernelCommandPortLaunch
  dsimp only
  repeat' split
  all_goals simp_all

@[simp] theorem State.launchWork_inv {s : State} (hi : s.Inv) :
    (State.launchWork s).Inv := by
  unfold State.launchWork
  repeat' split
  all_goals simp [*]

end Sys2Proof.Machine
end

