-- ==== Sys2Proof/Laws/KeepHold.lean ====
section
/-! SUPPORT. The operations of Machine/Hold.lean keep memory in its canonical form. -/

namespace Sys2Proof.Machine

/-- Every action of a list keeps the form. -/
def AllKeep (l : List (State → State)) : Prop := ∀ f ∈ l, ∀ t : State, t.Inv → (f t).Inv

theorem AllKeep.nil : AllKeep [] := fun _ h => absurd h List.not_mem_nil
theorem AllKeep.cons {f : State → State} {l : List (State → State)} (hf : ∀ t, t.Inv → (f t).Inv) (hl : AllKeep l) :
    AllKeep (f :: l) := by
  intro g hg
  rcases List.mem_cons.1 hg with h | h
  · exact h ▸ hf
  · exact hl g h
theorem AllKeep.append {l m : List (State → State)} (hl : AllKeep l) (hm : AllKeep m) : AllKeep (l ++ m) := by
  intro g hg
  rcases List.mem_append.1 hg with h | h
  · exact hl g h
  · exact hm g h
theorem AllKeep.map {α : Type} {f : α → State → State} (l : List α) (hf : ∀ a t, t.Inv → (f a t).Inv) :
    AllKeep (l.map f) := by
  intro g hg
  obtain ⟨a, -, rfl⟩ := List.mem_map.1 hg
  exact hf a

theorem State.firstChange_inv {s : State} (l : List (State → State)) (hi : s.Inv) (hl : AllKeep l) :
    (s.firstChange l).Inv := by
  induction l with
  | nil => exact hi
  | cons f fs ih =>
    unfold State.firstChange
    dsimp only
    split
    · exact ih (fun g hg => hl g (List.mem_cons_of_mem _ hg))
    · exact hl f List.mem_cons_self _ hi

theorem State.accessWork_keep (s : State) : AllKeep s.accessWork :=
  .append (.cons (fun _ ht => State.performReady_inv _ ht) .nil) (.map _ (fun _ _ ht => State.ackStore_inv _ ht))

theorem State.mashWork_keep (s : State) : AllKeep s.mashWork :=
  .append (.append (.cons (fun _ ht => State.runDemands_inv _ ht) (.cons (fun _ ht => State.readClosings_inv ht) .nil))
    (.map _ (fun _ _ ht => State.finishForce_inv _ ht))) (.map _ (fun _ _ ht => State.storeStep_inv _ _ ht))

theorem State.engineWork_keep (s : State) : AllKeep s.engineWork :=
  .append (.append (.map _ (fun _ _ ht => State.fenceStep_inv _ ht)) (.map _ (fun _ _ ht => State.cmdStep_inv _ _ ht)))
    (.map _ (fun _ _ ht => State.completeInval_inv _ ht))

theorem State.savedWork_keep (s : State) : AllKeep s.savedWork :=
  .map _ (fun _ _ ht => State.asSaved_inv _ _ ht (fun _ hu => State.cmdStep_inv _ _ hu))

theorem State.launchWork_keep : AllKeep [State.loadStep, State.launchWork] :=
  .cons (fun _ ht => State.loadStep_inv ht) (.cons (fun _ ht => State.launchWork_inv ht) .nil)

@[simp] theorem State.progress_inv {s : State} (hi : s.Inv) :
    (State.progress s).Inv := by
  exact State.firstChange_inv _ hi (.append (.append (.append (.append (State.accessWork_keep s) (State.mashWork_keep s))
    (State.engineWork_keep s)) (State.savedWork_keep s)) State.launchWork_keep)

@[simp] theorem State.doCommit_inv {s : State} (a : After) (hi : s.Inv) :
    (State.doCommit s a).Inv := by
  unfold State.doCommit
  split
  · split
    · exact State.recoveryFault_inv _ _ hi
    · exact hi
  · refine (State.inv_holdFor _ _).2 (State.assignSerials_inv (State.gc_inv (State.commit_inv ?_)))
    split
    · exact State.countErr_inv _ _ hi
    · exact hi

@[simp] theorem State.commitStep_inv {s : State} (a : After) (hi : s.Inv) :
    (State.commitStep s a).Inv := by
  unfold State.commitStep
  split
  · exact State.doCommit_inv _ hi
  · exact State.firstChange_inv _ hi (.append (.append (.append (.append (.append
      (.cons (fun _ ht => State.arriveLoads_inv ht) .nil) (State.accessWork_keep s)) (State.mashWork_keep s))
      (State.engineWork_keep s)) (State.savedWork_keep s)) State.launchWork_keep)

@[simp] theorem State.arriveBarrier_inv {s : State} (d : XReg) (dom : Fin 16) (hi : s.Inv) :
    (State.arriveBarrier s d dom).Inv := by
  unfold State.arriveBarrier
  repeat' split
  all_goals simp [*]

@[simp] theorem State.finishLaunch_inv {s : State} (d : XReg) (addr : Word) (graph : Bool) (hi : s.Inv) :
    (State.finishLaunch s d addr graph).Inv := by
  unfold State.finishLaunch
  dsimp only
  repeat' split
  all_goals simp_all

@[simp] theorem State.finishStep_inv {s : State} (succ : List Word) (hi : s.Inv) :
    (State.finishStep s succ).Inv := by
  unfold State.finishStep
  repeat' split
  all_goals simp [*]

@[simp] theorem State.finishDrain_inv {s : State} (k : DrainKind) (sc : Scope) (flag : Option FlagNo) (next : Hold) (hi : s.Inv) :
    (State.finishDrain s k sc flag next).Inv := by
  unfold State.finishDrain
  refine (State.inv_holdFor _ _).2 (State.raiseFlag?_inv _ _ ?_)
  split
  · exact hi
  · exact State.acquire_inv _ hi
  · exact State.acquire_inv _ (State.release_inv _ hi)

@[simp] theorem State.drainStep_inv {s : State} (k : DrainKind) (sc : Scope) (flag : Option FlagNo) (next : Hold) (hi : s.Inv) :
    (State.drainStep s k sc flag next).Inv := by
  unfold State.drainStep
  split
  · exact State.finishDrain_inv _ _ _ _ hi
  · exact State.progress_inv hi

@[simp] theorem State.aliasWait_inv {s : State} (hi : s.Inv) :
    (State.aliasWait s).Inv := by
  unfold State.aliasWait
  split
  · exact (State.inv_holdFor _ _).2 (State.progress_inv hi)
  · exact hi

@[simp] theorem execAliasStoreWait_keeps {s : State} (hi : s.Inv) :
    Keeps (execAliasStoreWait s) := by
  simp [execAliasStoreWait, *]

@[simp] theorem State.takeHeld_inv {s : State} (hi : s.Inv) : (State.takeHeld s).Inv := by
  unfold State.takeHeld
  split
  · exact hi
  · exact State.takeLate_inv hi

@[simp] theorem State.finishReturn_inv {s : State} (e : Option (BitVec 512)) (hi : s.Inv) :
    (State.finishReturn s e).Inv := by
  unfold State.finishReturn
  have h1 := State.arriveLoads_inv hi
  dsimp only
  repeat' split
  all_goals first
    | exact State.progress_inv h1
    | exact State.stopCore_inv _ h1
    | exact State.takeHeld_inv ((State.inv_modCore _ _).2 (State.leaveHandler_inv h1))

@[simp] theorem State.enterStep_inv {s : State} (cause : BitVec 6) (info : Word) (pc : CodeAddr) (parked : Hold) (back : Bool) (hi : s.Inv) :
    (State.enterStep s cause info pc parked back).Inv := by
  unfold State.enterStep
  dsimp only
  split
  · exact State.firstChange_inv _ hi (.cons (fun _ ht => State.arriveLoads_inv ht) (.cons (fun _ ht => State.progress_inv ht) .nil))
  · split
    · exact State.rollbackEnter_inv _ _ ((State.inv_holdFor _ _).2 (State.arriveLoads_inv hi))
    · exact State.arriveLoads_inv hi

@[simp] theorem State.holdStep_inv {s : State} (hi : s.Inv) :
    (State.holdStep s).Inv := by
  have hp := State.progress_inv hi
  unfold State.holdStep
  split
  · exact hi
  · exact State.commitStep_inv _ hi
  · split
    · exact State.arriveBarrier_inv _ _ hi
    · exact hp
  · repeat' split
    all_goals first
      | exact State.openBarrier_inv _ _ _ hi
      | exact hp
  · split
    · exact State.firstChange_inv _ hi (.cons (fun _ ht => State.releaseRdv_inv _ _ ht) (.cons (fun _ ht => State.progress_inv ht) .nil))
    · exact hp
  · exact State.drainStep_inv _ _ _ _ hi
  · split
    · exact State.finishStep_inv _ hi
    · exact hp
  · split
    · have h1 : ((s.release .package).holdFor .none).Inv := (State.inv_holdFor _ _).2 (State.release_inv _ hi)
      dsimp only
      split
      · exact State.switchOut_inv _ h1
      · exact h1
    · exact hp
  · exact hp
  · exact hp
  · exact hp
  · exact State.aliasWait_inv hi
  · split
    · exact hi
    · exact hp
  · split
    · exact hi
    · exact hp
  · exact State.enterStep_inv _ _ _ _ _ hi
  · exact State.firstChange_inv _ hi (.cons (fun _ ht => State.finishLaunch_inv _ _ _ ht) (.cons (fun _ ht => State.progress_inv ht) .nil))
  · exact State.finishReturn_inv _ hi

@[simp] theorem State.otherwise_inv {s : State} (hi : s.Inv) :
    (State.otherwise s).Inv := by
  unfold State.otherwise
  repeat' split
  all_goals simp [*]

@[simp] theorem State.takeEvent_keeps {s : State} (a : CoreAct) (hi : s.Inv) :
    Keeps (State.takeEvent s a) := by
  unfold State.takeEvent
  repeat' split
  all_goals simp [*]

end Sys2Proof.Machine
end

