-- ==== Sys2Proof/Laws/KeepLoader.lean ====
section
/-! SUPPORT. The operations of Machine/Loader.lean keep memory in its canonical form. -/

namespace Sys2Proof.Machine

@[simp] theorem execLoadImage_keeps (ctx : Nat) (objects : List LoadObject) {s : State} (hi : s.Inv) :
    Keeps (execLoadImage ctx objects s) := by
  unfold execLoadImage
  rw [keeps_next]
  split
  · exact hi
  · refine foldl_inv _ (fun t x ht => ?_) _ hi
    split
    · exact ht
    · exact State.putPiece_inv _ ht

@[simp] theorem execKernelCodeWrite_keeps (ctx : Nat) (addr : CodeAddr) (bundle : BitVec 512) {s : State} (hi : s.Inv) :
    Keeps (execKernelCodeWrite ctx addr bundle s) := by
  unfold execKernelCodeWrite
  repeat' split
  all_goals simp [*]

end Sys2Proof.Machine
end

