-- ==== Sys2Proof/Laws/KeepRemoteEv.lean ====
section
/-! SUPPORT. The operations of Machine/RemoteEv.lean keep memory in its canonical form. -/

namespace Sys2Proof.Machine

@[simp] theorem State.fromFabric_keeps {s t : State} (hi : s.Inv) (ht : t.Inv) : Keeps (s.fromFabric t) := by
  unfold State.fromFabric
  split
  · exact ht
  · exact hi

@[simp] theorem execRemoteRequest_keeps (r : RemReq) {s : State} (hi : s.Inv) :
    Keeps (execRemoteRequest r s) := by
  simp [execRemoteRequest, *]

@[simp] theorem execRemoteReply_keeps (r : RemRep) {s : State} (hi : s.Inv) :
    Keeps (execRemoteReply r s) := by
  simp [execRemoteReply, *]

@[simp] theorem State.timeOut_inv {s : State} (ctx : Nat) (owner : Nat) (serial : Nat) (hi : s.Inv) :
    (State.timeOut s ctx owner serial).Inv := by
  unfold State.timeOut
  repeat' split
  all_goals simp [*]

@[simp] theorem execRemoteTimeout_keeps (ctx : Nat) (owner : Nat) (serial : Nat) {s : State} (hi : s.Inv) :
    Keeps (execRemoteTimeout ctx owner serial s) := by
  simp [execRemoteTimeout, *]

@[simp] theorem execBusyBackoffExpiry_keeps (ctx : Nat) (owner : Nat) (serial : Nat) {s : State} (hi : s.Inv) :
    Keeps (execBusyBackoffExpiry ctx owner serial s) := by
  unfold execBusyBackoffExpiry
  rw [keeps_next]
  repeat' split
  all_goals simp [*]

@[simp] theorem execAckAlone_keeps (ctx : Nat) (owner : Nat) {s : State} (hi : s.Inv) :
    Keeps (execAckAlone ctx owner s) := by
  unfold execAckAlone
  dsimp only
  repeat' split
  all_goals simp_all

@[simp] theorem execAckArrival_keeps (pkg : Nat) (ctx : Nat) (serial : Nat) {s : State} (hi : s.Inv) :
    Keeps (execAckArrival pkg ctx serial s) := by
  simp [execAckArrival, *]

@[simp] theorem execIncarnationQuery_keeps (pkg : Nat) (ctx : Nat) {s : State} (hi : s.Inv) :
    Keeps (execIncarnationQuery pkg ctx s) :=
  State.fromFabric_keeps hi (State.send_inv _ (State.carryAck_inv _ _ hi))

@[simp] theorem execIncarnationQueryTimeout_keeps (ctx : Nat) (owner : Nat) {s : State} (hi : s.Inv) :
    Keeps (execIncarnationQueryTimeout ctx owner s) := by
  unfold execIncarnationQueryTimeout
  repeat' split
  all_goals simp [*]

@[simp] theorem execContextDestroyedNotice_keeps (pkg : Nat) (ctx : Nat) {s : State} (hi : s.Inv) :
    Keeps (execContextDestroyedNotice pkg ctx s) := by
  simp [execContextDestroyedNotice, *]

@[simp] theorem execOwnerRestart_keeps (inc : Nat) {s : State} (hi : s.Inv) :
    Keeps (execOwnerRestart inc s) := by
  unfold execOwnerRestart
  repeat' split
  all_goals exact hi

@[simp] theorem execPacketRetransmissionTimeout_keeps (tag : Nat) {s : State} (hi : s.Inv) :
    Keeps (execPacketRetransmissionTimeout tag s) := by
  unfold execPacketRetransmissionTimeout
  rw [keeps_next]
  repeat' split
  all_goals exact hi

@[simp] theorem execPacketAgeExpiry_keeps (tag : Nat) {s : State} (hi : s.Inv) :
    Keeps (execPacketAgeExpiry tag s) := by
  simp [execPacketAgeExpiry, *]

@[simp] theorem State.putTransfer_inv {s : State} (t : Transfer) (hi : s.Inv) :
    (State.putTransfer s t).Inv := by
  simp [State.putTransfer, *]

@[simp] theorem State.transferData_inv {s : State} (t : Transfer) (hi : s.Inv) :
    (State.transferData s t).1.Inv := by
  unfold State.transferData
  split
  · exact hi
  · exact State.readConverted_inv _ _ _ _ _ _ hi

@[simp] theorem State.writeArrived_inv {s : State} (ctx tid : Nat) (fmt : Option Fmt) (es : List PktElem) (hi : s.Inv) :
    (State.writeArrived s ctx tid fmt es).Inv :=
  State.portRun_inv _ _ hi

@[simp] theorem State.sendTransfer_inv {s : State} (t : Transfer) (acked : Bool) (hi : s.Inv) :
    (State.sendTransfer s t acked).Inv := by
  unfold State.sendTransfer
  refine State.onCore_inv _ hi (fun u hu => ?_)
  have h1 := State.transferData_inv t hu
  dsimp only
  split
  · split
    · exact State.cmdFault_inv _ _ h1
    · exact h1
  · exact h1
  · split
    · exact State.writeArrived_inv _ _ _ _ (State.send_inv _ h1)
    · exact State.send_inv _ h1

@[simp] theorem execSxfrSlotSend_keeps (id : Nat) (acked : Bool) {s : State} (hi : s.Inv) :
    Keeps (execSxfrSlotSend id acked s) := by
  unfold execSxfrSlotSend
  repeat' split
  all_goals simp [*]

@[simp] theorem execSxfrRetrySend_keeps (id : Nat) (acked : Bool) {s : State} (hi : s.Inv) :
    Keeps (execSxfrRetrySend id acked s) := by
  unfold execSxfrRetrySend
  repeat' split
  all_goals simp [*]

@[simp] theorem State.deliverTo_inv {s : State} (ctx core : Nat) (cause : BitVec 6) (info : Word) (hi : s.Inv) :
    (State.deliverTo s ctx core cause info).Inv := by
  unfold State.deliverTo
  split
  · exact hi
  · exact State.onCore_inv _ hi (fun v hv => State.deliverTrap_inv _ _ hv)

@[simp] theorem State.loseSlot_inv {s : State} (r : Reservation) (hi : s.Inv) : (State.loseSlot s r).Inv := by
  unfold State.loseSlot
  exact foldl_inv _ (fun u n hu => State.deliverTo_inv _ _ _ _ hu) _
    ((State.inv_modL2 _ _).2 (foldl_inv _ (fun u e hu => State.writeArrived_inv _ _ _ _ hu) _ hi))

@[simp] theorem State.noteLapse_inv {s : State} (r : Reservation) (hi : s.Inv) : (State.noteLapse s r).Inv := hi

@[simp] theorem State.sendMissed_inv {s : State} (t : Transfer) (hi : s.Inv) : (State.sendMissed s t).Inv := by
  have h := State.sendTransfer_inv t false hi
  unfold State.sendMissed
  dsimp only
  split <;> exact h

@[simp] theorem State.sendPassed_inv {s : State} (hi : s.Inv) : s.sendPassed.Inv :=
  foldl_inv _ (fun _ _ ht => State.sendMissed_inv _ ht) _ (foldl_inv _ (fun _ _ ht => State.sendMissed_inv _ ht) _ hi)

@[simp] theorem State.lapse_inv {s : State} (hi : s.Inv) : s.lapse.Inv :=
  foldl_inv _ (fun _ _ ht => State.noteLapse_inv _ (State.loseSlot_inv _ ht)) _ (State.sendPassed_inv hi)

@[simp] theorem State.endTransfer_inv {s : State} (t : Transfer) (arrive : Nat) (hi : s.Inv) :
    (State.endTransfer s t arrive).Inv := by
  unfold State.endTransfer
  split
  · exact hi
  · split
    · exact hi
    · refine State.onCore_inv _ (State.closeTransfer_inv _ _ _ hi) (fun u hu => ?_)
      split
      · split
        · exact hu
        · exact State.writeStatus_inv _ _ hu
      · exact hu

@[simp] theorem execSxfrDeadline_keeps (id : Nat) (arrive : Nat) {s : State} (hi : s.Inv) :
    Keeps (execSxfrDeadline id arrive s) := by
  unfold execSxfrDeadline
  repeat' split
  all_goals simp [*]

@[simp] theorem execReservationAbandon_keeps (ctx : Nat) {s : State} (hi : s.Inv) :
    Keeps (execReservationAbandon ctx s) := by
  simp [execReservationAbandon, *]

@[simp] theorem execFlitReceive_keeps (bytes : List Byte) {s : State} (hi : s.Inv) :
    Keeps (execFlitReceive bytes s) := by
  simp [execFlitReceive, *]

@[simp] theorem execPodTimeLoss_keeps {s : State} (hi : s.Inv) :
    Keeps (execPodTimeLoss s) := by
  simp [execPodTimeLoss, *]

@[simp] theorem execPodTimeAgainInStep_keeps {s : State} (hi : s.Inv) :
    Keeps (execPodTimeAgainInStep s) := by
  simp [execPodTimeAgainInStep, *]

end Sys2Proof.Machine
end

