-- ==== Sys2Proof/Laws/KeepKernel.lean ====
section
/-! SUPPORT. The operations of Machine/Kernel.lean keep memory in its canonical form. -/

namespace Sys2Proof.Machine

@[simp] theorem execMemoryScrub_keeps {s : State} (hi : s.Inv) :
    Keeps (execMemoryScrub s) :=
  foldl_inv _ (fun _ _ ht => State.scrubBlock_inv _ _ ht) _ hi

@[simp] theorem execL2DirtyEviction_keeps (line : Nat) {s : State} (hi : s.Inv) :
    Keeps (execL2DirtyEviction line s) := by
  unfold execL2DirtyEviction
  rw [keeps_next]
  split
  · exact State.evict_inv _ hi
  · exact hi

@[simp] theorem State.copyFrame_inv {s : State} (ctx : Nat) (src : Nat) (dst : Nat) (hi : s.Inv) :
    (State.copyFrame s ctx src dst).Inv := by
  unfold State.copyFrame
  split
  · exact foldl_inv _ (fun t k ht => State.setMark_inv _ _ ht) _ (State.homeCells_inv _ (State.touchBlocks_inv _ _ _ hi))
  · exact hi

@[simp] theorem execFrameMigration_keeps (ctx : Nat) (tid : Nat) (tile : Nat) (frame : Nat) (st : MigrationStep) {s : State} (hi : s.Inv) :
    Keeps (execFrameMigration ctx tid tile frame st s) := by
  have hc : ∀ v, (s.changeTile ctx tid tile v).Inv := fun v => State.changeTile_inv _ _ _ _ hi
  unfold execFrameMigration
  rw [keeps_next]
  split
  · exact hi
  · cases st <;> dsimp only <;> split
    · exact hc _
    · exact hi
    · exact State.copyFrame_inv _ _ _ hi
    · exact hi
    · exact State.retryPorts_inv (hc _)
    · exact hi
    · exact State.retryPorts_inv (hc _)
    · exact hi

@[simp] theorem execTableUpdateMulticast_keeps (seq : Nat) (u : TableUpdate) {s : State} (hi : s.Inv) :
    Keeps (execTableUpdateMulticast seq u s) := by
  unfold execTableUpdateMulticast
  rw [keeps_next]
  split
  · exact State.send_inv _ (State.applyUpdate_inv _ hi)
  · exact hi

@[simp] theorem execKernelInvalidate_keeps (ctx : Nat) (k : InvKind) {s : State} (hi : s.Inv) :
    Keeps (execKernelInvalidate ctx k s) := by
  simp [execKernelInvalidate, *]

@[simp] theorem State.discard_inv {s : State} (lo hi : Nat) (hs : s.Inv) : (s.discard lo hi).Inv := by
  exact Memory.wf_filter hs _

@[simp] theorem execStagingReconfigure_keeps (slice : Nat) (pairs : Nat) {s : State} (hi : s.Inv) :
    Keeps (execStagingReconfigure slice pairs s) := by
  unfold execStagingReconfigure
  rw [keeps_next]
  split
  · split
    · exact (State.inv_modL2 _ _).2 (State.discard_inv _ _ (foldl_inv _ (fun _ _ ht => State.evict_inv _ ht) _ hi))
    · exact hi
  · exact hi

@[simp] theorem State.resetCores_inv {s : State} (inService : List Nat) (hi : s.Inv) :
    (State.resetCores s inService).Inv := hi

@[simp] theorem State.renumber_inv (s : State) : s.renumber.Inv := by
  exact Memory.wf_writeAll Memory.wf_nil _

@[simp] theorem execLogicalCoreMapRenumber_keeps {s : State} (hi : s.Inv) :
    Keeps (execLogicalCoreMapRenumber s) := by
  unfold execLogicalCoreMapRenumber
  repeat' split
  all_goals simp [*]

@[simp] theorem execScanTest_keeps (core : Nat) (matched : Bool) (aborted : Bool) {s : State} (hi : s.Inv) :
    Keeps (execScanTest core matched aborted s) := by
  unfold execScanTest
  repeat' split
  all_goals simp [*]

@[simp] theorem State.bootUp_inv {s : State} (b : BootInput) (hi : s.Inv) :
    (State.bootUp s b).Inv := by
  unfold State.bootUp
  repeat' split
  all_goals simp [*]

@[simp] theorem execBoot_keeps (b : BootInput) {s : State} (hi : s.Inv) :
    Keeps (execBoot b s) := by
  unfold execBoot
  repeat' split
  all_goals simp [*]

@[simp] theorem execImageVerification_keeps (im : Image) {s : State} (hi : s.Inv) :
    Keeps (execImageVerification im s) := by
  simp [execImageVerification, *]

@[simp] theorem State.fromHost_keeps {s t : State} (hi : s.Inv) (ht : t.Inv) : Keeps (s.fromHost t) := by
  unfold State.fromHost
  split
  · exact ht
  · exact hi

@[simp] theorem State.answerSpdm_inv {s : State} (a : SpdmAnswer) (hi : s.Inv) :
    (State.answerSpdm s a).Inv := by
  simp [State.answerSpdm, *]

@[simp] theorem execGetVersion_keeps {s : State} (hi : s.Inv) :
    Keeps (execGetVersion s) := by
  simp [execGetVersion, *]

@[simp] theorem execGetCapabilities_keeps {s : State} (hi : s.Inv) :
    Keeps (execGetCapabilities s) := by
  simp [execGetCapabilities, *]

@[simp] theorem execNegotiateAlgorithms_keeps {s : State} (hi : s.Inv) :
    Keeps (execNegotiateAlgorithms s) := by
  simp [execNegotiateAlgorithms, *]

@[simp] theorem execGetDigests_keeps (slot : Nat) {s : State} (hi : s.Inv) :
    Keeps (execGetDigests slot s) := by
  simp [execGetDigests, *]

@[simp] theorem execGetCertificate_keeps (slot : Nat) (offset : Nat) (length : Nat) {s : State} (hi : s.Inv) :
    Keeps (execGetCertificate slot offset length s) := by
  simp [execGetCertificate, *]

@[simp] theorem execChallenge_keeps (slot : Nat) (nonce : BitVec 256) {s : State} (hi : s.Inv) :
    Keeps (execChallenge slot nonce s) := by
  simp [execChallenge, *]

@[simp] theorem execGetMeasurements_keeps (signed : Bool) (nonce : BitVec 256) {s : State} (hi : s.Inv) :
    Keeps (execGetMeasurements signed nonce s) := by
  simp [execGetMeasurements, *]

@[simp] theorem execSpdmUnsupportedRequest_keeps (code : Byte) {s : State} (hi : s.Inv) :
    Keeps (execSpdmUnsupportedRequest code s) := by
  simp [execSpdmUnsupportedRequest, *]

@[simp] theorem execDebugAuthorisation_keeps (t : DebugToken) {s : State} (hi : s.Inv) :
    Keeps (execDebugAuthorisation t s) := by
  unfold execDebugAuthorisation
  repeat' split
  all_goals simp [*]

@[simp] theorem execHostMailboxWrite_keeps (fn : Fin 17) (off : BitVec 16) (v : Word) {s : State} (hi : s.Inv) :
    Keeps (execHostMailboxWrite fn off v s) := by
  simp [execHostMailboxWrite, *]

@[simp] theorem execHostBar2Access_keeps (fn : Fin 17) (tid : Nat) (elem : Nat) (data : Option (BitVec 512)) {s : State} (hi : s.Inv) :
    Keeps (execHostBar2Access fn tid elem data s) :=
  State.fromHost_keeps hi (State.hostAccess_inv _ hi)

@[simp] theorem execPermitAudit_keeps (die : Bool) (lost : Nat) (duplicated : Nat) {s : State} (hi : s.Inv) :
    Keeps (execPermitAudit die lost duplicated s) := by
  unfold execPermitAudit
  rw [keeps_next]
  repeat' split
  all_goals exact hi

@[simp] theorem execThermalThrottle_keeps (cycles : Nat) {s : State} (hi : s.Inv) :
    Keeps (execThermalThrottle cycles s) := by
  simp [execThermalThrottle, *]

@[simp] theorem execThermalShutdown_keeps {s : State} (hi : s.Inv) :
    Keeps (execThermalShutdown s) := by
  simp [execThermalShutdown, *]

@[simp] theorem State.zeroSpads_inv {s : State} (cores : List Nat) (hi : s.Inv) : (s.zeroSpads cores).Inv :=
  foldl_inv _ (fun _ _ ht => State.discard_inv _ _ ht) _ hi

@[simp] theorem execContextCreation_keeps (c : CtxInput) {s : State} (hi : s.Inv) :
    Keeps (execContextCreation c s) := by
  unfold execContextCreation
  rw [keeps_next]
  split
  · exact State.zeroSpads_inv _ hi
  · exact hi

@[simp] theorem State.assign_inv {s : State} (core : Nat) (fn : Option (Fin 17)) (hi : s.Inv) : (s.assign core fn).Inv := by
  unfold State.assign
  split <;> exact hi

@[simp] theorem State.foreignLoss_inv {s : State} (port start : Nat) (hi : s.Inv) : (s.foreignLoss port start).Inv := by
  unfold State.foreignLoss
  split
  · exact State.noteLapse_inv _ (State.loseSlot_inv _ hi)
  · exact hi

@[simp] theorem State.passFocus_inv {s : State} (hi : s.Inv) : s.passFocus.Inv := by
  unfold State.passFocus
  split
  · exact State.focus_inv _ hi
  · exact hi

@[simp] theorem State.coreTurn_keeps {s : State} (hi : s.Inv) :
    Keeps (State.coreTurn s) := by
  unfold State.coreTurn
  repeat' split
  all_goals simp [*]

@[simp] theorem State.turn_keeps {s : State} (hi : s.Inv) :
    Keeps (State.turn s) := by
  unfold State.turn
  dsimp only
  repeat' split
  all_goals simp_all


@[simp] theorem State.goOn_inv {s : State} (core : Nat) (hi : s.Inv) : (s.goOn core).Inv := by
  have h := State.turn_keeps (State.focus_inv core hi)
  unfold State.goOn
  split
  · rename_i t ht
    rw [ht] at h
    exact h
  · exact hi

@[simp] theorem State.outer_inv {s : State} (a : OuterAct) (hi : s.Inv) : (s.outer a).Inv := by
  cases a <;> unfold State.outer <;> dsimp only <;> (repeat' split) <;> first
    | exact hi
    | exact State.modCoreAt_inv _ _ hi
    | exact State.assign_inv _ _ hi
    | exact State.homeCells_inv _ hi
    | exact State.foreignLoss_inv _ _ hi
    | exact State.goOn_inv _ hi

@[simp] theorem State.outerUp_inv {s : State} (a : OuterAct) (hi : s.Inv) : (s.outerUp a).Inv := by
  unfold State.outerUp
  split
  · exact hi
  · exact State.outer_inv _ hi

end Sys2Proof.Machine
end

