-- ==== Sys2Proof/Laws/KeepPlace.lean ====
section
/-! SUPPORT. The operations of Machine/Place.lean keep memory in its canonical form. -/

namespace Sys2Proof.Machine

@[simp] theorem State.passTime_inv {s : State} (dt : Nat) (hi : s.Inv) : (s.passTime dt).Inv :=
  State.lapse_inv (s := { s.noteQuiet with podTime := s.noteQuiet.podTime + BitVec.ofNat 64 dt }) (State.noteQuiet_inv hi)

@[simp] theorem State.begin_inv {s : State} (a : AgendaItem) (rest : List AgendaItem) (hi : s.Inv) :
    (State.begin s a rest).Inv :=
  State.focus_inv _ (foldl_inv _ (fun _ _ ht => State.outerUp_inv _ ht) _
    (State.passTime_inv (s := { s with agenda := rest }) _ hi))

@[simp] theorem State.installCode_inv {s : State} (hi : s.Inv) :
    (State.installCode s).Inv := by
  have key : ∀ t : State, t.Inv → ∀ cs, (t.writeCells cs).Inv := fun t ht cs => State.inv_writeCells ht cs
  unfold State.installCode
  dsimp only
  split
  · exact key _ hi _
  · exact key _ hi _

@[simp] theorem State.storeCode_inv {s : State} (w : Nat) (hi : s.Inv) :
    (State.storeCode s w).Inv := by
  unfold State.storeCode
  repeat' split
  all_goals simp [*]

@[simp] theorem State.placeCode_inv {s : State} (w : Nat) (hi : s.Inv) :
    (State.placeCode s w).Inv := by
  have key : ∀ (t : State) (b : Bool), t.Inv → (if b then t else t.installCode).Inv := by
    intro t b ht
    split
    · exact ht
    · exact State.installCode_inv ht
  unfold State.placeCode
  exact State.storeCode_inv _ (key _ _ hi)

end Sys2Proof.Machine
end

