-- ==== Sys2Proof/Laws/Ops.lean ====
section
/-! SUPPORT. What the operations that many meanings share do: how an instruction settles, how a trap is taken, and the operations
that do nothing where there is nothing to do. -/

namespace Sys2Proof.Machine

/-! ### An instruction settles (R46) -/

theorem settle_ok (s t : State) : settle s (.ok t) = .next t := rfl
theorem settle_raise (s : State) (r : Raise) : settle s (.raise r) = .next (s.takeRaise r) := rfl
theorem settle_stall (s : State) (w : Stall) : settle s (.stall w) = .next (s.takeStall w) := rfl

/-- An instruction never faults and never refuses: it settles in a next state. -/
theorem settle_next (s : State) (e : Eff) : ∃ t, settle s e = .next t := by
  cases e <;> exact ⟨_, rfl⟩

/-! ### Loads that a trap waits for (R371) -/

theorem State.arriveLoads_quiet (s : State) (h : s.core.remote = []) : s.arriveLoads = s := by
  simp [State.arriveLoads, h, State.performReady]

/-! ### Taking a trap (R370, R372) -/

/-- In handler mode a trap stops the core. -/
theorem State.takeTrap_handler (s : State) (c : BitVec 6) (i : Word) (pc : CodeAddr) (h : s.core.sys.hnd = true) :
    s.takeTrap c i pc = s.stopCore c := by
  simp [State.takeTrap, h]

/-- Outside handler mode a trap with no remote access out and no data awaited enters the handler, and nothing else changes. -/
theorem State.takeTrap_program (s : State) (c : BitVec 6) (i : Word) (h : s.core.sys.hnd = false) (h2 : s.core.remote = [])
    (h3 : s.core.awaitsData = false) : s.takeTrap c i s.core.pc = s.entered c i := by
  simp only [State.takeTrap, h, State.arriveLoads_quiet s h2, h3, Bool.false_eq_true, if_false]
  rfl

/-! ### Marks of memory (R68) -/

/-- Memory without marks reports no error. -/
theorem State.touchBlocks_unmarked (s : State) (n : Nat) (b : Bool) (bs : List Nat) (h : s.marks = []) :
    s.touchBlocks n b bs = (s, none) := by
  unfold State.touchBlocks
  induction bs with
  | nil => rfl
  | cons x xs ih => simpa [h, lookupNat] using ih

/-! ### Requests that wait at the ports (R81, R83) -/

theorem State.retryPorts_idle (s : State) (h : s.portsIdle) : s.retryPorts = s := by
  have h0 : ∀ i : Fin 2, s.ports[i].waiting = [] := fun i => h.1 _ (by simp)
  have a := h0 0
  have b := h0 1
  have e : (s.modMalt fun m => { m with hostWaiting := [] }) = s := by
    have h2 := h.2
    cases s with | mk core cur others mem marks ctxs l2 launch ports fabric malt podTime agenda tick =>
    cases malt
    simp_all [State.modMalt]
  simp [State.retryPorts, State.retryHost, dieNo] at *
  simp [a, b, h.2, e]

/-! ### Contexts that have no core switched out (R348) -/

theorem State.saved_none (s : State) (h : ∀ c ∈ s.ctxs, c.saved = []) (n key : Nat) :
    ((s.ctx? n).bind (fun c => lookupNat key c.saved)) = none := by
  cases hx : s.ctx? n with
  | none => rfl
  | some c =>
    have := h c (List.mem_of_find?_eq_some hx)
    simp [this, lookupNat]

end Sys2Proof.Machine
end

