-- ==== Sys2Proof/Laws/PerInstr.lean ====
section
/-! SUPPORT. The family Word40: the encoder gives every instruction a slot word of 40 bits (R56), one lemma per constructor. -/

namespace Sys2Proof

theorem bit_lt (b : Bool) : bit b < 2 := by cases b <;> decide
theorem Fmt.code_lt (c : Fmt) : c.code < 32 := by cases c <;> decide
theorem Rnd.code_lt (c : Rnd) : c.code < 8 := by cases c <;> decide
theorem CmpCond.code_lt (c : CmpCond) : c.code < 8 := by cases c <;> decide
theorem PLogOp.code_lt (c : PLogOp) : c.code < 4 := by cases c <;> decide
theorem FCmpCond.code_lt (c : FCmpCond) : c.code < 8 := by cases c <;> decide
theorem VCmpCond.code_lt (c : VCmpCond) : c.code < 8 := by cases c <;> decide
theorem RedOp.code_lt (c : RedOp) : c.code < 4 := by cases c <;> decide
theorem ShfMode.code_lt (c : ShfMode) : c.code < 8 := by cases c <;> decide
theorem RngRounds.code_lt (c : RngRounds) : c.code < 4 := by cases c <;> decide
theorem FunCode.code_lt (c : FunCode) : c.code < 32 := by cases c <;> decide
theorem Ovm.code_lt (c : Ovm) : c.code < 4 := by cases c <;> decide
theorem Scope.code_lt (c : Scope) : c.code < 4 := by cases c <;> decide
theorem SysReg.number_lt (r : SysReg) : r.number < 4096 := by
  cases r <;> simp only [SysReg.number] <;> omega
theorem Lit.bits_lt (l : Lit) : l.bits < 2 ^ 15 := by
  match l with
  | .word k _ => simp only [Lit.bits]; omega
  | .pair true _ => simp only [Lit.bits]; omega
  | .pair false _ => simp only [Lit.bits]; omega
theorem ctr3Bits_lt (k : Option LoopNo) : ctr3Bits k < 8 := by
  cases k with
  | none => decide
  | some k => simp only [ctr3Bits]; omega
theorem TMode.bits_lt (m : TMode) : m.bits < 2 ^ 26 := by
  match m with
  | .direct o f r =>
    have := o.code_lt; have := f.code_lt; have := r.code_lt
    have ho : o.code < 3 := by cases o <;> decide
    simp only [TMode.bits]; omega
  | .table b k => have := ctr3Bits_lt k; simp only [TMode.bits]; omega
theorem VCtl.bits_lt (c : VCtl) : c.bits < 2 ^ 32 := by
  have := bit_lt c.z; have := c.fmt.code_lt
  simp only [VCtl.bits]; omega
theorem flagBits_lt (f : Option FlagNo) : flagBits f < 2 ^ 15 := by
  cases f with
  | none => decide
  | some f => simp only [flagBits]; omega
theorem KindMask.bits_lt (m : KindMask) : m.bits < 8 := by
  have := bit_lt m.r; have := bit_lt m.w; have := bit_lt m.m
  simp only [KindMask.bits]; omega
theorem ExitSrc.bits_lt (x : ExitSrc) : x.bits < 64 := by
  match x with
  | .none => decide
  | .reg r => simp only [ExitSrc.bits]; omega
  | .pair true _ => simp only [ExitSrc.bits]; omega
  | .pair false _ => simp only [ExitSrc.bits]; omega

theorem encReg_lt {op : Nat} {d a b : XReg} {fn : Nat} (h : op < 64) (hf : fn < 512) : (encReg op d a b fn).word < 2 ^ 40 := by
  simp only [encReg]; omega
theorem encImm_lt {op : Nat} {d a : XReg} {imm : Nat} (h : op < 64) (hi : imm < 2 ^ 15) : (encImm op d a imm).word < 2 ^ 40 := by
  simp only [encImm]; omega
theorem encLit_lt {op : Nat} {d a : XReg} {l : Lit} (h : op < 64) : (encLit op d a l).word < 2 ^ 40 := by
  have := l.bits_lt
  simp only [encLit]; omega
theorem encMem_lt {opc d a imm : Nat} (h : opc < 256) (hd : d < 64) (ha : a < 64) (hi : imm < 2 ^ 15) :
    (encMem opc d a imm).word < 2 ^ 40 := by
  simp only [encMem]; omega
theorem encVec_lt {opc : Nat} {c : VCtl} {d a b fn : Nat} {pool : List (Fin 4 × BitVec 32)} (h : opc < 64) (hd : d < 32)
    (ha : a < 32) (hb : b < 32) (hf : fn < 32) : (encVec opc c d a b fn pool).word < 2 ^ 40 := by
  have := c.bits_lt
  simp only [encVec]; omega
theorem encArith_lt {opc : Nat} {m : TMode} {fields : Nat} (h : opc < 128) (hf : fields < 2 ^ 16) :
    (encArith opc m fields).word < 2 ^ 40 := by
  have := m.bits_lt
  simp only [encArith]; omega
theorem encTile_lt {opc low : Nat} (h : opc < 128) (hl : low < 2 ^ 32) : (encTile opc low).word < 2 ^ 40 := by
  simp only [encTile]; omega
theorem encCopy_lt {opc a b : Nat} {f : Option FlagNo} {cls x sub : Nat} (h : opc < 128) (ha : a < 64) (hb : b < 64)
    (hc : cls < 4) (hx : x < 2) (hs : sub < 64) : (encCopy opc a b f cls x sub).word < 2 ^ 40 := by
  have := flagBits_lt f
  simp only [encCopy]; omega
theorem encCtl_lt {opc low : Nat} {pool : List (Fin 4 × BitVec 32)} (h : opc < 128) (hl : low < 2 ^ 32) :
    (encCtl opc low pool).word < 2 ^ 40 := by
  simp only [encCtl]; omega

namespace Laws.Word40

/-- The slot word of an instruction has 40 bits. -/
def Statement (i : Instr) : Prop := (encode i).word < 2 ^ 40

theorem nop : Statement (.nop) := by
  exact Nat.two_pow_pos 40
theorem add (a0 : XReg) (a1 : XReg) (a2 : XReg) : Statement (.add a0 a1 a2) := by
  exact encReg_lt (by omega) (by omega)
theorem addImm (a0 : XReg) (a1 : XReg) (a2 : BitVec 15) : Statement (.addImm a0 a1 a2) := by
  have := a2.isLt
  exact encImm_lt (by omega) (by omega)
theorem addLit (a0 : XReg) (a1 : XReg) (a2 : Lit) : Statement (.addLit a0 a1 a2) := by
  exact encLit_lt (by omega)
theorem sub (a0 : XReg) (a1 : XReg) (a2 : XReg) : Statement (.sub a0 a1 a2) := by
  exact encReg_lt (by omega) (by omega)
theorem subImm (a0 : XReg) (a1 : XReg) (a2 : BitVec 15) : Statement (.subImm a0 a1 a2) := by
  have := a2.isLt
  exact encImm_lt (by omega) (by omega)
theorem subLit (a0 : XReg) (a1 : XReg) (a2 : Lit) : Statement (.subLit a0 a1 a2) := by
  exact encLit_lt (by omega)
theorem mul (a0 : XReg) (a1 : XReg) (a2 : XReg) : Statement (.mul a0 a1 a2) := by
  exact encReg_lt (by omega) (by omega)
theorem mulImm (a0 : XReg) (a1 : XReg) (a2 : BitVec 15) : Statement (.mulImm a0 a1 a2) := by
  have := a2.isLt
  exact encImm_lt (by omega) (by omega)
theorem mulLit (a0 : XReg) (a1 : XReg) (a2 : Lit) : Statement (.mulLit a0 a1 a2) := by
  exact encLit_lt (by omega)
theorem mulh (a0 : XReg) (a1 : XReg) (a2 : XReg) : Statement (.mulh a0 a1 a2) := by
  exact encReg_lt (by omega) (by omega)
theorem mulhImm (a0 : XReg) (a1 : XReg) (a2 : BitVec 15) : Statement (.mulhImm a0 a1 a2) := by
  have := a2.isLt
  exact encImm_lt (by omega) (by omega)
theorem mulhLit (a0 : XReg) (a1 : XReg) (a2 : Lit) : Statement (.mulhLit a0 a1 a2) := by
  exact encLit_lt (by omega)
theorem mulhu (a0 : XReg) (a1 : XReg) (a2 : XReg) : Statement (.mulhu a0 a1 a2) := by
  exact encReg_lt (by omega) (by omega)
theorem mulhuImm (a0 : XReg) (a1 : XReg) (a2 : BitVec 15) : Statement (.mulhuImm a0 a1 a2) := by
  have := a2.isLt
  exact encImm_lt (by omega) (by omega)
theorem mulhuLit (a0 : XReg) (a1 : XReg) (a2 : Lit) : Statement (.mulhuLit a0 a1 a2) := by
  exact encLit_lt (by omega)
theorem div (a0 : XReg) (a1 : XReg) (a2 : XReg) : Statement (.div a0 a1 a2) := by
  exact encReg_lt (by omega) (by omega)
theorem divImm (a0 : XReg) (a1 : XReg) (a2 : BitVec 15) : Statement (.divImm a0 a1 a2) := by
  have := a2.isLt
  exact encImm_lt (by omega) (by omega)
theorem divLit (a0 : XReg) (a1 : XReg) (a2 : Lit) : Statement (.divLit a0 a1 a2) := by
  exact encLit_lt (by omega)
theorem divu (a0 : XReg) (a1 : XReg) (a2 : XReg) : Statement (.divu a0 a1 a2) := by
  exact encReg_lt (by omega) (by omega)
theorem divuImm (a0 : XReg) (a1 : XReg) (a2 : BitVec 15) : Statement (.divuImm a0 a1 a2) := by
  have := a2.isLt
  exact encImm_lt (by omega) (by omega)
theorem divuLit (a0 : XReg) (a1 : XReg) (a2 : Lit) : Statement (.divuLit a0 a1 a2) := by
  exact encLit_lt (by omega)
theorem rem (a0 : XReg) (a1 : XReg) (a2 : XReg) : Statement (.rem a0 a1 a2) := by
  exact encReg_lt (by omega) (by omega)
theorem remImm (a0 : XReg) (a1 : XReg) (a2 : BitVec 15) : Statement (.remImm a0 a1 a2) := by
  have := a2.isLt
  exact encImm_lt (by omega) (by omega)
theorem remLit (a0 : XReg) (a1 : XReg) (a2 : Lit) : Statement (.remLit a0 a1 a2) := by
  exact encLit_lt (by omega)
theorem remu (a0 : XReg) (a1 : XReg) (a2 : XReg) : Statement (.remu a0 a1 a2) := by
  exact encReg_lt (by omega) (by omega)
theorem remuImm (a0 : XReg) (a1 : XReg) (a2 : BitVec 15) : Statement (.remuImm a0 a1 a2) := by
  have := a2.isLt
  exact encImm_lt (by omega) (by omega)
theorem remuLit (a0 : XReg) (a1 : XReg) (a2 : Lit) : Statement (.remuLit a0 a1 a2) := by
  exact encLit_lt (by omega)
theorem and (a0 : XReg) (a1 : XReg) (a2 : XReg) : Statement (.and a0 a1 a2) := by
  exact encReg_lt (by omega) (by omega)
theorem andImm (a0 : XReg) (a1 : XReg) (a2 : BitVec 15) : Statement (.andImm a0 a1 a2) := by
  have := a2.isLt
  exact encImm_lt (by omega) (by omega)
theorem andLit (a0 : XReg) (a1 : XReg) (a2 : Lit) : Statement (.andLit a0 a1 a2) := by
  exact encLit_lt (by omega)
theorem or (a0 : XReg) (a1 : XReg) (a2 : XReg) : Statement (.or a0 a1 a2) := by
  exact encReg_lt (by omega) (by omega)
theorem orImm (a0 : XReg) (a1 : XReg) (a2 : BitVec 15) : Statement (.orImm a0 a1 a2) := by
  have := a2.isLt
  exact encImm_lt (by omega) (by omega)
theorem orLit (a0 : XReg) (a1 : XReg) (a2 : Lit) : Statement (.orLit a0 a1 a2) := by
  exact encLit_lt (by omega)
theorem xor (a0 : XReg) (a1 : XReg) (a2 : XReg) : Statement (.xor a0 a1 a2) := by
  exact encReg_lt (by omega) (by omega)
theorem xorImm (a0 : XReg) (a1 : XReg) (a2 : BitVec 15) : Statement (.xorImm a0 a1 a2) := by
  have := a2.isLt
  exact encImm_lt (by omega) (by omega)
theorem xorLit (a0 : XReg) (a1 : XReg) (a2 : Lit) : Statement (.xorLit a0 a1 a2) := by
  exact encLit_lt (by omega)
theorem andn (a0 : XReg) (a1 : XReg) (a2 : XReg) : Statement (.andn a0 a1 a2) := by
  exact encReg_lt (by omega) (by omega)
theorem andnImm (a0 : XReg) (a1 : XReg) (a2 : BitVec 15) : Statement (.andnImm a0 a1 a2) := by
  have := a2.isLt
  exact encImm_lt (by omega) (by omega)
theorem andnLit (a0 : XReg) (a1 : XReg) (a2 : Lit) : Statement (.andnLit a0 a1 a2) := by
  exact encLit_lt (by omega)
theorem shl (a0 : XReg) (a1 : XReg) (a2 : XReg) : Statement (.shl a0 a1 a2) := by
  exact encReg_lt (by omega) (by omega)
theorem shlImm (a0 : XReg) (a1 : XReg) (a2 : BitVec 15) : Statement (.shlImm a0 a1 a2) := by
  have := a2.isLt
  exact encImm_lt (by omega) (by omega)
theorem shlLit (a0 : XReg) (a1 : XReg) (a2 : Lit) : Statement (.shlLit a0 a1 a2) := by
  exact encLit_lt (by omega)
theorem shr (a0 : XReg) (a1 : XReg) (a2 : XReg) : Statement (.shr a0 a1 a2) := by
  exact encReg_lt (by omega) (by omega)
theorem shrImm (a0 : XReg) (a1 : XReg) (a2 : BitVec 15) : Statement (.shrImm a0 a1 a2) := by
  have := a2.isLt
  exact encImm_lt (by omega) (by omega)
theorem shrLit (a0 : XReg) (a1 : XReg) (a2 : Lit) : Statement (.shrLit a0 a1 a2) := by
  exact encLit_lt (by omega)
theorem sra (a0 : XReg) (a1 : XReg) (a2 : XReg) : Statement (.sra a0 a1 a2) := by
  exact encReg_lt (by omega) (by omega)
theorem sraImm (a0 : XReg) (a1 : XReg) (a2 : BitVec 15) : Statement (.sraImm a0 a1 a2) := by
  have := a2.isLt
  exact encImm_lt (by omega) (by omega)
theorem sraLit (a0 : XReg) (a1 : XReg) (a2 : Lit) : Statement (.sraLit a0 a1 a2) := by
  exact encLit_lt (by omega)
theorem rotl (a0 : XReg) (a1 : XReg) (a2 : XReg) : Statement (.rotl a0 a1 a2) := by
  exact encReg_lt (by omega) (by omega)
theorem rotlImm (a0 : XReg) (a1 : XReg) (a2 : BitVec 15) : Statement (.rotlImm a0 a1 a2) := by
  have := a2.isLt
  exact encImm_lt (by omega) (by omega)
theorem rotlLit (a0 : XReg) (a1 : XReg) (a2 : Lit) : Statement (.rotlLit a0 a1 a2) := by
  exact encLit_lt (by omega)
theorem min (a0 : XReg) (a1 : XReg) (a2 : XReg) : Statement (.min a0 a1 a2) := by
  exact encReg_lt (by omega) (by omega)
theorem minImm (a0 : XReg) (a1 : XReg) (a2 : BitVec 15) : Statement (.minImm a0 a1 a2) := by
  have := a2.isLt
  exact encImm_lt (by omega) (by omega)
theorem minLit (a0 : XReg) (a1 : XReg) (a2 : Lit) : Statement (.minLit a0 a1 a2) := by
  exact encLit_lt (by omega)
theorem max (a0 : XReg) (a1 : XReg) (a2 : XReg) : Statement (.max a0 a1 a2) := by
  exact encReg_lt (by omega) (by omega)
theorem maxImm (a0 : XReg) (a1 : XReg) (a2 : BitVec 15) : Statement (.maxImm a0 a1 a2) := by
  have := a2.isLt
  exact encImm_lt (by omega) (by omega)
theorem maxLit (a0 : XReg) (a1 : XReg) (a2 : Lit) : Statement (.maxLit a0 a1 a2) := by
  exact encLit_lt (by omega)
theorem minu (a0 : XReg) (a1 : XReg) (a2 : XReg) : Statement (.minu a0 a1 a2) := by
  exact encReg_lt (by omega) (by omega)
theorem minuImm (a0 : XReg) (a1 : XReg) (a2 : BitVec 15) : Statement (.minuImm a0 a1 a2) := by
  have := a2.isLt
  exact encImm_lt (by omega) (by omega)
theorem minuLit (a0 : XReg) (a1 : XReg) (a2 : Lit) : Statement (.minuLit a0 a1 a2) := by
  exact encLit_lt (by omega)
theorem maxu (a0 : XReg) (a1 : XReg) (a2 : XReg) : Statement (.maxu a0 a1 a2) := by
  exact encReg_lt (by omega) (by omega)
theorem maxuImm (a0 : XReg) (a1 : XReg) (a2 : BitVec 15) : Statement (.maxuImm a0 a1 a2) := by
  have := a2.isLt
  exact encImm_lt (by omega) (by omega)
theorem maxuLit (a0 : XReg) (a1 : XReg) (a2 : Lit) : Statement (.maxuLit a0 a1 a2) := by
  exact encLit_lt (by omega)
theorem sel (a0 : XReg) (a1 : XReg) (a2 : XReg) (a3 : PReg) : Statement (.sel a0 a1 a2 a3) := by
  exact encReg_lt (by omega) (by omega)
theorem mov (a0 : XReg) (a1 : XReg) : Statement (.mov a0 a1) := by
  exact encReg_lt (by omega) (by omega)
theorem movImm (a0 : XReg) (a1 : BitVec 15) : Statement (.movImm a0 a1) := by
  have := a1.isLt
  exact encImm_lt (by omega) (by omega)
theorem movLit (a0 : XReg) (a1 : Lit) : Statement (.movLit a0 a1) := by
  exact encLit_lt (by omega)
theorem ext (a0 : XReg) (a1 : XReg) (a2 : XReg) (a3 : Bool) : Statement (.ext a0 a1 a2 a3) := by
  have := bit_lt a3
  exact encReg_lt (by omega) (by omega)
theorem bitClz (a0 : XReg) (a1 : XReg) : Statement (.bitClz a0 a1) := by
  exact encReg_lt (by omega) (by omega)
theorem bitCtz (a0 : XReg) (a1 : XReg) : Statement (.bitCtz a0 a1) := by
  exact encReg_lt (by omega) (by omega)
theorem bitPopc (a0 : XReg) (a1 : XReg) : Statement (.bitPopc a0 a1) := by
  exact encReg_lt (by omega) (by omega)
theorem bitBrev (a0 : XReg) (a1 : XReg) : Statement (.bitBrev a0 a1) := by
  exact encReg_lt (by omega) (by omega)
theorem cmp (a0 : CmpCond) (a1 : PReg) (a2 : XReg) (a3 : XReg) : Statement (.cmp a0 a1 a2 a3) := by
  have := a0.code_lt
  exact encReg_lt (by omega) (by omega)
theorem plog (a0 : PLogOp) (a1 : PReg) (a2 : PReg) (a3 : PReg) : Statement (.plog a0 a1 a2 a3) := by
  have := a0.code_lt
  exact encReg_lt (by omega) (by omega)
theorem faddS (a0 : XReg) (a1 : XReg) (a2 : XReg) : Statement (.faddS a0 a1 a2) := by
  exact encReg_lt (by omega) (by omega)
theorem faddSLit (a0 : XReg) (a1 : XReg) (a2 : Fin 4) (a3 : BitVec 32) : Statement (.faddSLit a0 a1 a2 a3) := by
  have := a3.isLt
  exact encLit_lt (by omega)
theorem fsubS (a0 : XReg) (a1 : XReg) (a2 : XReg) : Statement (.fsubS a0 a1 a2) := by
  exact encReg_lt (by omega) (by omega)
theorem fsubSLit (a0 : XReg) (a1 : XReg) (a2 : Fin 4) (a3 : BitVec 32) : Statement (.fsubSLit a0 a1 a2 a3) := by
  have := a3.isLt
  exact encLit_lt (by omega)
theorem fmulS (a0 : XReg) (a1 : XReg) (a2 : XReg) : Statement (.fmulS a0 a1 a2) := by
  exact encReg_lt (by omega) (by omega)
theorem fmulSLit (a0 : XReg) (a1 : XReg) (a2 : Fin 4) (a3 : BitVec 32) : Statement (.fmulSLit a0 a1 a2 a3) := by
  have := a3.isLt
  exact encLit_lt (by omega)
theorem ffmaS (a0 : XReg) (a1 : XReg) (a2 : XReg) : Statement (.ffmaS a0 a1 a2) := by
  exact encReg_lt (by omega) (by omega)
theorem ffmaSLit (a0 : XReg) (a1 : XReg) (a2 : Fin 4) (a3 : BitVec 32) : Statement (.ffmaSLit a0 a1 a2 a3) := by
  have := a3.isLt
  exact encLit_lt (by omega)
theorem fminS (a0 : XReg) (a1 : XReg) (a2 : XReg) : Statement (.fminS a0 a1 a2) := by
  exact encReg_lt (by omega) (by omega)
theorem fminSLit (a0 : XReg) (a1 : XReg) (a2 : Fin 4) (a3 : BitVec 32) : Statement (.fminSLit a0 a1 a2 a3) := by
  have := a3.isLt
  exact encLit_lt (by omega)
theorem fmaxS (a0 : XReg) (a1 : XReg) (a2 : XReg) : Statement (.fmaxS a0 a1 a2) := by
  exact encReg_lt (by omega) (by omega)
theorem fmaxSLit (a0 : XReg) (a1 : XReg) (a2 : Fin 4) (a3 : BitVec 32) : Statement (.fmaxSLit a0 a1 a2 a3) := by
  have := a3.isLt
  exact encLit_lt (by omega)
theorem fcmp (a0 : FCmpCond) (a1 : PReg) (a2 : XReg) (a3 : XReg) : Statement (.fcmp a0 a1 a2 a3) := by
  have := a0.code_lt
  exact encReg_lt (by omega) (by omega)
theorem fcvtTo (a0 : Fmt) (a1 : XReg) (a2 : XReg) (a3 : Rnd) : Statement (.fcvtTo a0 a1 a2 a3) := by
  have := a0.code_lt
  have := a3.code_lt
  exact encReg_lt (by omega) (by omega)
theorem fcvtFrom (a0 : Fmt) (a1 : XReg) (a2 : XReg) (a3 : Rnd) : Statement (.fcvtFrom a0 a1 a2 a3) := by
  have := a0.code_lt
  have := a3.code_lt
  exact encReg_lt (by omega) (by omega)
theorem mfs (a0 : XReg) (a1 : SysReg) : Statement (.mfs a0 a1) := by
  have := a1.number_lt
  exact encImm_lt (by omega) (by omega)
theorem mts (a0 : SysReg) (a1 : XReg) : Statement (.mts a0 a1) := by
  have := a0.number_lt
  exact encImm_lt (by omega) (by omega)
theorem rsvWrite (a0 : Fin 16) (a1 : XReg) : Statement (.rsvWrite a0 a1) := by
  have := (SysReg.rsv a0).number_lt
  exact encImm_lt (by omega) (by omega)
theorem injDropreplyArm (a0 : XReg) : Statement (.injDropreplyArm a0) := by
  have := SysReg.injDropReply.number_lt
  exact encImm_lt (by omega) (by omega)
theorem cmpt (a0 : XReg) (a1 : XReg) : Statement (.cmpt a0 a1) := by
  exact encReg_lt (by omega) (by omega)
theorem crd (a0 : XReg) (a1 : CtrNo) : Statement (.crd a0 a1) := by
  exact encReg_lt (by omega) (by omega)
theorem cwr (a0 : CtrNo) (a1 : Bool) (a2 : XReg) (a3 : XReg) : Statement (.cwr a0 a1 a2 a3) := by
  have := bit_lt a1
  exact encReg_lt (by omega) (by omega)
theorem cwrImm (a0 : CtrNo) (a1 : Bool) (a2 : XReg) (a3 : BitVec 15) : Statement (.cwrImm a0 a1 a2 a3) := by
  have := bit_lt a1
  have := a3.isLt
  exact encImm_lt (by omega) (by omega)
theorem lcr (a0 : XReg) (a1 : LoopNo) : Statement (.lcr a0 a1) := by
  exact encReg_lt (by omega) (by omega)
theorem ldB (a0 : XReg) (a1 : XReg) (a2 : BitVec 15) : Statement (.ldB a0 a1 a2) := by
  have := a2.isLt
  exact encMem_lt (by omega) (by omega) (by omega) (by omega)
theorem ldBu (a0 : XReg) (a1 : XReg) (a2 : BitVec 15) : Statement (.ldBu a0 a1 a2) := by
  have := a2.isLt
  exact encMem_lt (by omega) (by omega) (by omega) (by omega)
theorem ldH (a0 : XReg) (a1 : XReg) (a2 : BitVec 15) : Statement (.ldH a0 a1 a2) := by
  have := a2.isLt
  exact encMem_lt (by omega) (by omega) (by omega) (by omega)
theorem ldHu (a0 : XReg) (a1 : XReg) (a2 : BitVec 15) : Statement (.ldHu a0 a1 a2) := by
  have := a2.isLt
  exact encMem_lt (by omega) (by omega) (by omega) (by omega)
theorem ldW (a0 : XReg) (a1 : XReg) (a2 : BitVec 15) : Statement (.ldW a0 a1 a2) := by
  have := a2.isLt
  exact encMem_lt (by omega) (by omega) (by omega) (by omega)
theorem ldWu (a0 : XReg) (a1 : XReg) (a2 : BitVec 15) : Statement (.ldWu a0 a1 a2) := by
  have := a2.isLt
  exact encMem_lt (by omega) (by omega) (by omega) (by omega)
theorem ldD (a0 : XReg) (a1 : XReg) (a2 : BitVec 15) : Statement (.ldD a0 a1 a2) := by
  have := a2.isLt
  exact encMem_lt (by omega) (by omega) (by omega) (by omega)
theorem stB (a0 : XReg) (a1 : XReg) (a2 : BitVec 15) : Statement (.stB a0 a1 a2) := by
  have := a2.isLt
  exact encMem_lt (by omega) (by omega) (by omega) (by omega)
theorem stH (a0 : XReg) (a1 : XReg) (a2 : BitVec 15) : Statement (.stH a0 a1 a2) := by
  have := a2.isLt
  exact encMem_lt (by omega) (by omega) (by omega) (by omega)
theorem stW (a0 : XReg) (a1 : XReg) (a2 : BitVec 15) : Statement (.stW a0 a1 a2) := by
  have := a2.isLt
  exact encMem_lt (by omega) (by omega) (by omega) (by omega)
theorem stD (a0 : XReg) (a1 : XReg) (a2 : BitVec 15) : Statement (.stD a0 a1 a2) := by
  have := a2.isLt
  exact encMem_lt (by omega) (by omega) (by omega) (by omega)
theorem vld (a0 : VReg) (a1 : XReg) (a2 : BitVec 15) : Statement (.vld a0 a1 a2) := by
  have := a2.isLt
  exact encMem_lt (by omega) (by omega) (by omega) (by omega)
theorem vst (a0 : VReg) (a1 : XReg) (a2 : BitVec 15) : Statement (.vst a0 a1 a2) := by
  have := a2.isLt
  exact encMem_lt (by omega) (by omega) (by omega) (by omega)
theorem vlds (a0 : VReg) (a1 : XReg) (a2 : XReg) (a3 : BitVec 9) : Statement (.vlds a0 a1 a2 a3) := by
  have := a3.isLt
  exact encMem_lt (by omega) (by omega) (by omega) (by omega)
theorem vsts (a0 : VReg) (a1 : XReg) (a2 : XReg) (a3 : BitVec 9) : Statement (.vsts a0 a1 a2 a3) := by
  have := a3.isLt
  exact encMem_lt (by omega) (by omega) (by omega) (by omega)
theorem vgth (a0 : VReg) (a1 : XReg) (a2 : VReg) : Statement (.vgth a0 a1 a2) := by
  exact encMem_lt (by omega) (by omega) (by omega) (by omega)
theorem vsct (a0 : VReg) (a1 : XReg) (a2 : VReg) : Statement (.vsct a0 a1 a2) := by
  exact encMem_lt (by omega) (by omega) (by omega) (by omega)
theorem vadd (a0 : VCtl) (a1 : VReg) (a2 : VReg) (a3 : VReg) (a4 : Bool) : Statement (.vadd a0 a1 a2 a3 a4) := by
  have := bit_lt a4
  exact encVec_lt (by omega) (by omega) (by omega) (by omega) (by omega)
theorem vsub (a0 : VCtl) (a1 : VReg) (a2 : VReg) (a3 : VReg) (a4 : Bool) : Statement (.vsub a0 a1 a2 a3 a4) := by
  have := bit_lt a4
  exact encVec_lt (by omega) (by omega) (by omega) (by omega) (by omega)
theorem vmul (a0 : VCtl) (a1 : VReg) (a2 : VReg) (a3 : VReg) (a4 : Bool) : Statement (.vmul a0 a1 a2 a3 a4) := by
  have := bit_lt a4
  exact encVec_lt (by omega) (by omega) (by omega) (by omega) (by omega)
theorem vfma (a0 : VCtl) (a1 : VReg) (a2 : VReg) (a3 : VReg) (a4 : VReg) : Statement (.vfma a0 a1 a2 a3 a4) := by
  exact encVec_lt (by omega) (by omega) (by omega) (by omega) (by omega)
theorem vfms (a0 : VCtl) (a1 : VReg) (a2 : VReg) (a3 : VReg) (a4 : VReg) : Statement (.vfms a0 a1 a2 a3 a4) := by
  exact encVec_lt (by omega) (by omega) (by omega) (by omega) (by omega)
theorem vmin (a0 : VCtl) (a1 : VReg) (a2 : VReg) (a3 : VReg) : Statement (.vmin a0 a1 a2 a3) := by
  exact encVec_lt (by omega) (by omega) (by omega) (by omega) (by omega)
theorem vmax (a0 : VCtl) (a1 : VReg) (a2 : VReg) (a3 : VReg) : Statement (.vmax a0 a1 a2 a3) := by
  exact encVec_lt (by omega) (by omega) (by omega) (by omega) (by omega)
theorem vabs (a0 : VCtl) (a1 : VReg) (a2 : VReg) (a3 : Bool) : Statement (.vabs a0 a1 a2 a3) := by
  have := bit_lt a3
  exact encVec_lt (by omega) (by omega) (by omega) (by omega) (by omega)
theorem vneg (a0 : VCtl) (a1 : VReg) (a2 : VReg) (a3 : Bool) : Statement (.vneg a0 a1 a2 a3) := by
  have := bit_lt a3
  exact encVec_lt (by omega) (by omega) (by omega) (by omega) (by omega)
theorem vand (a0 : VCtl) (a1 : VReg) (a2 : VReg) (a3 : VReg) : Statement (.vand a0 a1 a2 a3) := by
  exact encVec_lt (by omega) (by omega) (by omega) (by omega) (by omega)
theorem vor (a0 : VCtl) (a1 : VReg) (a2 : VReg) (a3 : VReg) : Statement (.vor a0 a1 a2 a3) := by
  exact encVec_lt (by omega) (by omega) (by omega) (by omega) (by omega)
theorem vxor (a0 : VCtl) (a1 : VReg) (a2 : VReg) (a3 : VReg) : Statement (.vxor a0 a1 a2 a3) := by
  exact encVec_lt (by omega) (by omega) (by omega) (by omega) (by omega)
theorem vshl (a0 : VCtl) (a1 : VReg) (a2 : VReg) (a3 : VReg) : Statement (.vshl a0 a1 a2 a3) := by
  exact encVec_lt (by omega) (by omega) (by omega) (by omega) (by omega)
theorem vshr (a0 : VCtl) (a1 : VReg) (a2 : VReg) (a3 : VReg) : Statement (.vshr a0 a1 a2 a3) := by
  exact encVec_lt (by omega) (by omega) (by omega) (by omega) (by omega)
theorem vsra (a0 : VCtl) (a1 : VReg) (a2 : VReg) (a3 : VReg) : Statement (.vsra a0 a1 a2 a3) := by
  exact encVec_lt (by omega) (by omega) (by omega) (by omega) (by omega)
theorem vcmp (a0 : QReg) (a1 : Bool) (a2 : Fmt) (a3 : QReg) (a4 : VReg) (a5 : VReg) (a6 : VCmpCond) : Statement (.vcmp a0 a1 a2 a3 a4 a5 a6) := by
  have := bit_lt a1
  have := a2.code_lt
  have := a6.code_lt
  exact encVec_lt (by omega) (by omega) (by omega) (by omega) (by omega)
theorem vsel (a0 : VCtl) (a1 : VReg) (a2 : VReg) (a3 : VReg) (a4 : QReg) : Statement (.vsel a0 a1 a2 a3 a4) := by
  exact encVec_lt (by omega) (by omega) (by omega) (by omega) (by omega)
theorem vcvt (a0 : VCtl) (a1 : VReg) (a2 : VReg) (a3 : Fmt) (a4 : Rnd) (a5 : Bool) : Statement (.vcvt a0 a1 a2 a3 a4 a5) := by
  have := a3.code_lt
  have := a4.code_lt
  have := bit_lt a5
  exact encVec_lt (by omega) (by omega) (by omega) (by omega) (by omega)
theorem vfun (a0 : VCtl) (a1 : VReg) (a2 : VReg) (a3 : FunCode) : Statement (.vfun a0 a1 a2 a3) := by
  have := a3.code_lt
  exact encVec_lt (by omega) (by omega) (by omega) (by omega) (by omega)
theorem vred (a0 : VCtl) (a1 : VReg) (a2 : VReg) (a3 : RedOp) : Statement (.vred a0 a1 a2 a3) := by
  have := a3.code_lt
  exact encVec_lt (by omega) (by omega) (by omega) (by omega) (by omega)
theorem vscn (a0 : VCtl) (a1 : VReg) (a2 : VReg) : Statement (.vscn a0 a1 a2) := by
  exact encVec_lt (by omega) (by omega) (by omega) (by omega) (by omega)
theorem vperm (a0 : VCtl) (a1 : VReg) (a2 : VReg) (a3 : VReg) : Statement (.vperm a0 a1 a2 a3) := by
  exact encVec_lt (by omega) (by omega) (by omega) (by omega) (by omega)
theorem vshf (a0 : VCtl) (a1 : VReg) (a2 : VReg) (a3 : VReg) (a4 : ShfMode) : Statement (.vshf a0 a1 a2 a3 a4) := by
  have := a4.code_lt
  exact encVec_lt (by omega) (by omega) (by omega) (by omega) (by omega)
theorem vbcs (a0 : VCtl) (a1 : VReg) (a2 : XReg) : Statement (.vbcs a0 a1 a2) := by
  exact encVec_lt (by omega) (by omega) (by omega) (by omega) (by omega)
theorem vmvx (a0 : Fmt) (a1 : XReg) (a2 : VReg) (a3 : Fin 512) : Statement (.vmvx a0 a1 a2 a3) := by
  have := a0.code_lt
  exact encVec_lt (by omega) (by omega) (by omega) (by omega) (by omega)
theorem vins (a0 : Fmt) (a1 : VReg) (a2 : XReg) (a3 : Fin 512) : Statement (.vins a0 a1 a2 a3) := by
  have := a0.code_lt
  exact encVec_lt (by omega) (by omega) (by omega) (by omega) (by omega)
theorem vrng (a0 : VCtl) (a1 : VReg) (a2 : VReg) (a3 : RngRounds) (a4 : Bool) : Statement (.vrng a0 a1 a2 a3 a4) := by
  have := a3.code_lt
  have := bit_lt a4
  exact encVec_lt (by omega) (by omega) (by omega) (by omega) (by omega)
theorem viota (a0 : VCtl) (a1 : VReg) : Statement (.viota a0 a1) := by
  exact encVec_lt (by omega) (by omega) (by omega) (by omega) (by omega)
theorem vdot (a0 : VCtl) (a1 : VReg) (a2 : VReg) (a3 : VReg) (a4 : VReg) : Statement (.vdot a0 a1 a2 a3 a4) := by
  exact encVec_lt (by omega) (by omega) (by omega) (by omega) (by omega)
theorem vmov (a0 : VCtl) (a1 : VReg) (a2 : VReg) : Statement (.vmov a0 a1 a2) := by
  exact encVec_lt (by omega) (by omega) (by omega) (by omega) (by omega)
theorem vlit (a0 : VCtl) (a1 : VReg) (a2 : Fin 4) (a3 : BitVec 32) : Statement (.vlit a0 a1 a2 a3) := by
  have := a3.isLt
  exact encVec_lt (by omega) (by omega) (by omega) (by omega) (by omega)
theorem tld (a0 : XReg) (a1 : XReg) (a2 : TldFmt) (a3 : Bool) (a4 : Bool) : Statement (.tld a0 a1 a2 a3 a4) := by
  have := bit_lt a3
  have := bit_lt a4
  cases a2 with
  | code f => have := f.code_lt; exact encTile_lt (by omega) (by simp only; omega)
  | table k => have := ctr3Bits_lt k; exact encTile_lt (by omega) (by simp only; omega)
theorem tzer (a0 : Fmt) (a1 : XReg) : Statement (.tzer a0 a1) := by
  have := a0.code_lt
  exact encTile_lt (by omega) (by omega)
theorem tfil (a0 : Fmt) (a1 : XReg) (a2 : XReg) : Statement (.tfil a0 a1 a2) := by
  have := a0.code_lt
  exact encTile_lt (by omega) (by omega)
theorem tdup : Statement (.tdup) := by
  exact encTile_lt (by omega) (by omega)
theorem tdrp : Statement (.tdrp) := by
  exact encTile_lt (by omega) (by omega)
theorem tswp : Statement (.tswp) := by
  exact encTile_lt (by omega) (by omega)
theorem tpk (a0 : Fin 64) : Statement (.tpk a0) := by
  exact encTile_lt (by omega) (by omega)
theorem trot (a0 : Fin 64) : Statement (.trot a0) := by
  exact encTile_lt (by omega) (by omega)
theorem trtd (a0 : Fin 64) : Statement (.trtd a0) := by
  exact encTile_lt (by omega) (by omega)
theorem tmma (a0 : TMode) : Statement (.tmma a0) := by
  exact encArith_lt (by omega) (by omega)
theorem tmmaD (a0 : TMode) : Statement (.tmmaD a0) := by
  exact encArith_lt (by omega) (by omega)
theorem tmac (a0 : TMode) : Statement (.tmac a0) := by
  exact encArith_lt (by omega) (by omega)
theorem tmacD (a0 : TMode) : Statement (.tmacD a0) := by
  exact encArith_lt (by omega) (by omega)
theorem tadd (a0 : TMode) : Statement (.tadd a0) := by
  exact encArith_lt (by omega) (by omega)
theorem taddD (a0 : TMode) : Statement (.taddD a0) := by
  exact encArith_lt (by omega) (by omega)
theorem tsub (a0 : TMode) : Statement (.tsub a0) := by
  exact encArith_lt (by omega) (by omega)
theorem tmul (a0 : TMode) : Statement (.tmul a0) := by
  exact encArith_lt (by omega) (by omega)
theorem tmax (a0 : TMode) : Statement (.tmax a0) := by
  exact encArith_lt (by omega) (by omega)
theorem tmin (a0 : TMode) : Statement (.tmin a0) := by
  exact encArith_lt (by omega) (by omega)
theorem tscl (a0 : TMode) (a1 : XReg) (a2 : Bool) : Statement (.tscl a0 a1 a2) := by
  have := bit_lt a2
  exact encArith_lt (by omega) (by omega)
theorem tbia (a0 : TMode) (a1 : Option FunCode) : Statement (.tbia a0 a1) := by
  cases a1 with
  | none => exact encArith_lt (by omega) (by omega)
  | some k =>
    have := k.code_lt
    exact encArith_lt (by omega) (by omega)
theorem tfun (a0 : TMode) (a1 : FunCode) : Statement (.tfun a0 a1) := by
  have := a1.code_lt
  exact encArith_lt (by omega) (by omega)
theorem tred (a0 : TMode) (a1 : RedOp) (a2 : Bool) : Statement (.tred a0 a1 a2) := by
  have := a1.code_lt
  have := bit_lt a2
  exact encArith_lt (by omega) (by omega)
theorem tsmx (a0 : TMode) : Statement (.tsmx a0) := by
  exact encArith_lt (by omega) (by omega)
theorem ttrn (a0 : TMode) : Statement (.ttrn a0) := by
  exact encArith_lt (by omega) (by omega)
theorem tcvt (a0 : TMode) : Statement (.tcvt a0) := by
  exact encArith_lt (by omega) (by omega)
theorem tslc (a0 : TMode) (a1 : XReg) : Statement (.tslc a0 a1) := by
  exact encArith_lt (by omega) (by omega)
theorem tcat (a0 : TMode) (a1 : Bool) : Statement (.tcat a0 a1) := by
  have := bit_lt a1
  exact encArith_lt (by omega) (by omega)
theorem tbcs (a0 : TMode) (a1 : XReg) : Statement (.tbcs a0 a1) := by
  exact encArith_lt (by omega) (by omega)
theorem tmsk (a0 : TMode) (a1 : Option XReg) : Statement (.tmsk a0 a1) := by
  cases a1 with
  | none => exact encArith_lt (by omega) (by omega)
  | some k =>
    exact encArith_lt (by omega) (by omega)
theorem tchk : Statement (.tchk) := by
  exact encTile_lt (by omega) (by omega)
theorem tst (a0 : XReg) (a1 : XReg) (a2 : Option FlagNo) : Statement (.tst a0 a1 a2) := by
  have := flagBits_lt a2
  exact encTile_lt (by omega) (by omega)
theorem tfrc (a0 : Fin 64) (a1 : XReg) (a2 : FlagNo) : Statement (.tfrc a0 a1 a2) := by
  exact encTile_lt (by omega) (by omega)
theorem scpy (a0 : XReg) (a1 : Option FlagNo) (a2 : Fin 4) (a3 : Bool) : Statement (.scpy a0 a1 a2 a3) := by
  have := flagBits_lt a1
  have := bit_lt a3
  exact encCopy_lt (by omega) (by omega) (by omega) (by omega) (by omega) (by omega)
theorem sacc (a0 : XReg) (a1 : Option FlagNo) (a2 : Fin 4) (a3 : Bool) : Statement (.sacc a0 a1 a2 a3) := by
  have := flagBits_lt a1
  have := bit_lt a3
  exact encCopy_lt (by omega) (by omega) (by omega) (by omega) (by omega) (by omega)
theorem satmFadd (a0 : XReg) (a1 : Option FlagNo) (a2 : Fin 4) : Statement (.satmFadd a0 a1 a2) := by
  have := flagBits_lt a1
  exact encCopy_lt (by omega) (by omega) (by omega) (by omega) (by omega) (by omega)
theorem satmFmin (a0 : XReg) (a1 : Option FlagNo) (a2 : Fin 4) : Statement (.satmFmin a0 a1 a2) := by
  have := flagBits_lt a1
  exact encCopy_lt (by omega) (by omega) (by omega) (by omega) (by omega) (by omega)
theorem satmFmax (a0 : XReg) (a1 : Option FlagNo) (a2 : Fin 4) : Statement (.satmFmax a0 a1 a2) := by
  have := flagBits_lt a1
  exact encCopy_lt (by omega) (by omega) (by omega) (by omega) (by omega) (by omega)
theorem satmSwap (a0 : XReg) (a1 : Option FlagNo) (a2 : Fin 4) : Statement (.satmSwap a0 a1 a2) := by
  have := flagBits_lt a1
  exact encCopy_lt (by omega) (by omega) (by omega) (by omega) (by omega) (by omega)
theorem satmCas (a0 : XReg) (a1 : Option FlagNo) (a2 : Fin 4) : Statement (.satmCas a0 a1 a2) := by
  have := flagBits_lt a1
  exact encCopy_lt (by omega) (by omega) (by omega) (by omega) (by omega) (by omega)
theorem satmIadd (a0 : XReg) (a1 : Option FlagNo) (a2 : Fin 4) : Statement (.satmIadd a0 a1 a2) := by
  have := flagBits_lt a1
  exact encCopy_lt (by omega) (by omega) (by omega) (by omega) (by omega) (by omega)
theorem satmAnd (a0 : XReg) (a1 : Option FlagNo) (a2 : Fin 4) : Statement (.satmAnd a0 a1 a2) := by
  have := flagBits_lt a1
  exact encCopy_lt (by omega) (by omega) (by omega) (by omega) (by omega) (by omega)
theorem satmOr (a0 : XReg) (a1 : Option FlagNo) (a2 : Fin 4) : Statement (.satmOr a0 a1 a2) := by
  have := flagBits_lt a1
  exact encCopy_lt (by omega) (by omega) (by omega) (by omega) (by omega) (by omega)
theorem satmXor (a0 : XReg) (a1 : Option FlagNo) (a2 : Fin 4) : Statement (.satmXor a0 a1 a2) := by
  have := flagBits_lt a1
  exact encCopy_lt (by omega) (by omega) (by omega) (by omega) (by omega) (by omega)
theorem ssig (a0 : XReg) (a1 : XReg) (a2 : Option FlagNo) (a3 : Fin 4) (a4 : Bool) : Statement (.ssig a0 a1 a2 a3 a4) := by
  have := flagBits_lt a2
  have := bit_lt a4
  exact encCopy_lt (by omega) (by omega) (by omega) (by omega) (by omega) (by omega)
theorem ssigRel (a0 : XReg) (a1 : XReg) (a2 : Option FlagNo) (a3 : Fin 4) (a4 : Bool) (a5 : Scope) : Statement (.ssigRel a0 a1 a2 a3 a4 a5) := by
  have := flagBits_lt a2
  have := bit_lt a4
  have := a5.code_lt
  exact encCopy_lt (by omega) (by omega) (by omega) (by omega) (by omega) (by omega)
theorem sgth (a0 : XReg) (a1 : XReg) (a2 : Option FlagNo) (a3 : Fin 4) (a4 : Bool) : Statement (.sgth a0 a1 a2 a3 a4) := by
  have := flagBits_lt a2
  have := bit_lt a4
  exact encCopy_lt (by omega) (by omega) (by omega) (by omega) (by omega) (by omega)
theorem sbar (a0 : KindMask) (a1 : KindMask) (a2 : Option FlagNo) : Statement (.sbar a0 a1 a2) := by
  have := a0.bits_lt
  have := a1.bits_lt
  have := flagBits_lt a2
  exact encCopy_lt (by omega) (by omega) (by omega) (by omega) (by omega) (by omega)
theorem sdrn (a0 : Option FlagNo) : Statement (.sdrn a0) := by
  have := flagBits_lt a0
  exact encCopy_lt (by omega) (by omega) (by omega) (by omega) (by omega) (by omega)
theorem fenceAcq (a0 : Scope) (a1 : Option FlagNo) : Statement (.fenceAcq a0 a1) := by
  have := a0.code_lt
  have := flagBits_lt a1
  exact encCopy_lt (by omega) (by omega) (by omega) (by omega) (by omega) (by omega)
theorem fenceRel (a0 : Scope) (a1 : Option FlagNo) : Statement (.fenceRel a0 a1) := by
  have := a0.code_lt
  have := flagBits_lt a1
  exact encCopy_lt (by omega) (by omega) (by omega) (by omega) (by omega) (by omega)
theorem fenceSc (a0 : Scope) (a1 : Option FlagNo) : Statement (.fenceSc a0 a1) := by
  have := a0.code_lt
  have := flagBits_lt a1
  exact encCopy_lt (by omega) (by omega) (by omega) (by omega) (by omega) (by omega)
theorem l2wb (a0 : XReg) (a1 : Option FlagNo) : Statement (.l2wb a0 a1) := by
  have := flagBits_lt a1
  exact encCopy_lt (by omega) (by omega) (by omega) (by omega) (by omega) (by omega)
theorem l2inv (a0 : XReg) (a1 : Option FlagNo) : Statement (.l2inv a0 a1) := by
  have := flagBits_lt a1
  exact encCopy_lt (by omega) (by omega) (by omega) (by omega) (by omega) (by omega)
theorem l2pf (a0 : XReg) (a1 : Bool) (a2 : Option FlagNo) : Statement (.l2pf a0 a1 a2) := by
  have := bit_lt a1
  have := flagBits_lt a2
  exact encCopy_lt (by omega) (by omega) (by omega) (by omega) (by omega) (by omega)
theorem sxfr (a0 : XReg) (a1 : XReg) (a2 : Option FlagNo) : Statement (.sxfr a0 a1 a2) := by
  have := flagBits_lt a2
  exact encCopy_lt (by omega) (by omega) (by omega) (by omega) (by omega) (by omega)
theorem br (a0 : BitVec 25) : Statement (.br a0) := by
  have := a0.isLt
  exact encCtl_lt (by omega) (by omega)
theorem call (a0 : BitVec 25) : Statement (.call a0) := by
  have := a0.isLt
  exact encCtl_lt (by omega) (by omega)
theorem ret : Statement (.ret) := by
  exact encCtl_lt (by omega) (by omega)
theorem jmpr (a0 : XReg) : Statement (.jmpr a0) := by
  exact encCtl_lt (by omega) (by omega)
theorem loop (a0 : BitVec 14) (a1 : Fin 64) : Statement (.loop a0 a1) := by
  have := a0.isLt
  exact encCtl_lt (by omega) (by omega)
theorem loopr (a0 : XReg) (a1 : Fin 64) : Statement (.loopr a0 a1) := by
  exact encCtl_lt (by omega) (by omega)
theorem lbrk : Statement (.lbrk) := by
  exact encCtl_lt (by omega) (by omega)
theorem ckpt : Statement (.ckpt) := by
  exact encCtl_lt (by omega) (by omega)
theorem rdv (a0 : BitVec 8) : Statement (.rdv a0) := by
  have := a0.isLt
  exact encCtl_lt (by omega) (by omega)
theorem slack (a0 : BitVec 8) : Statement (.slack a0) := by
  have := a0.isLt
  exact encCtl_lt (by omega) (by omega)
theorem sstep (a0 : XReg) (a1 : Fin 16) : Statement (.sstep a0 a1) := by
  exact encCtl_lt (by omega) (by omega)
theorem exit (a0 : ExitSrc) (a1 : ExitSrc) (a2 : ExitSrc) (a3 : ExitSrc) : Statement (.exit a0 a1 a2 a3) := by
  have := a0.bits_lt
  have := a1.bits_lt
  have := a2.bits_lt
  have := a3.bits_lt
  exact encCtl_lt (by omega) (by omega)
theorem halt : Statement (.halt) := by
  exact encCtl_lt (by omega) (by omega)
theorem launch (a0 : XReg) (a1 : XReg) : Statement (.launch a0 a1) := by
  exact encCtl_lt (by omega) (by omega)
theorem launchGraph (a0 : XReg) (a1 : XReg) : Statement (.launchGraph a0 a1) := by
  exact encCtl_lt (by omega) (by omega)
theorem fset (a0 : FlagNo) : Statement (.fset a0) := by
  exact encCtl_lt (by omega) (by omega)
theorem fclr (a0 : FlagNo) : Statement (.fclr a0) := by
  exact encCtl_lt (by omega) (by omega)
theorem cset (a0 : CtrNo) (a1 : BitVec 20) : Statement (.cset a0 a1) := by
  have := a1.isLt
  exact encCtl_lt (by omega) (by omega)
theorem brk (a0 : BitVec 16) : Statement (.brk a0) := by
  have := a0.isLt
  exact encCtl_lt (by omega) (by omega)
theorem trap (a0 : BitVec 16) : Statement (.trap a0) := by
  have := a0.isLt
  exact encCtl_lt (by omega) (by omega)
theorem rte : Statement (.rte) := by
  exact encCtl_lt (by omega) (by omega)
theorem xbnd (a0 : XReg) : Statement (.xbnd a0) := by
  exact encCtl_lt (by omega) (by omega)
theorem icinv (a0 : XReg) (a1 : XReg) (a2 : Option FlagNo) (a3 : Scope) : Statement (.icinv a0 a1 a2 a3) := by
  have := flagBits_lt a2
  have := a3.code_lt
  exact encCtl_lt (by omega) (by omega)
theorem tlbiAll (a0 : Option FlagNo) (a1 : Bool) : Statement (.tlbiAll a0 a1) := by
  have := flagBits_lt a0
  have := bit_lt a1
  exact encCtl_lt (by omega) (by omega)
theorem tlbiTensor (a0 : XReg) (a1 : XReg) (a2 : Option FlagNo) (a3 : Bool) : Statement (.tlbiTensor a0 a1 a2 a3) := by
  have := flagBits_lt a2
  have := bit_lt a3
  exact encCtl_lt (by omega) (by omega)
theorem tlbiRange (a0 : XReg) (a1 : XReg) (a2 : Option FlagNo) (a3 : Bool) : Statement (.tlbiRange a0 a1 a2 a3) := by
  have := flagBits_lt a2
  have := bit_lt a3
  exact encCtl_lt (by omega) (by omega)
theorem mode (a0 : BitVec 8) (a1 : BitVec 8) : Statement (.mode a0 a1) := by
  have := a0.isLt
  have := a1.isLt
  exact encCtl_lt (by omega) (by omega)
theorem yield : Statement (.yield) := by
  exact encCtl_lt (by omega) (by omega)
theorem bundleIssue : Statement (.bundleIssue) := by
  exact Nat.two_pow_pos 40
theorem syncPass : Statement (.syncPass) := by
  exact Nat.two_pow_pos 40
theorem resultLand : Statement (.resultLand) := by
  exact Nat.two_pow_pos 40
theorem remoteLoadArrive (a0 : Nat) : Statement (.remoteLoadArrive a0) := by
  exact Nat.two_pow_pos 40
theorem aliasStoreWait : Statement (.aliasStoreWait) := by
  exact Nat.two_pow_pos 40
theorem remoteStoreArrive (a0 : Nat) : Statement (.remoteStoreArrive a0) := by
  exact Nat.two_pow_pos 40
theorem remoteStoreAck (a0 : Nat) : Statement (.remoteStoreAck a0) := by
  exact Nat.two_pow_pos 40
theorem demandEvaluation : Statement (.demandEvaluation) := by
  exact Nat.two_pow_pos 40
theorem evalAheadOfDemand (a0 : Nat) (a1 : Nat) (a2 : Nat) : Statement (.evalAheadOfDemand a0 a1 a2) := by
  exact Nat.two_pow_pos 40
theorem storeNodePerform (a0 : Nat) (a1 : Nat) : Statement (.storeNodePerform a0 a1) := by
  exact Nat.two_pow_pos 40
theorem tfrcComplete (a0 : Nat) : Statement (.tfrcComplete a0) := by
  exact Nat.two_pow_pos 40
theorem valueMovement : Statement (.valueMovement) := by
  exact Nat.two_pow_pos 40
theorem evaluationFault : Statement (.evaluationFault) := by
  exact Nat.two_pow_pos 40
theorem copyCommandComplete (a0 : Nat) (a1 : Nat) : Statement (.copyCommandComplete a0 a1) := by
  exact Nat.two_pow_pos 40
theorem copyCommandFault (a0 : Nat) : Statement (.copyCommandFault a0) := by
  exact Nat.two_pow_pos 40
theorem signalIncrement (a0 : Nat) : Statement (.signalIncrement a0) := by
  exact Nat.two_pow_pos 40
theorem implicitCheckpoint : Statement (.implicitCheckpoint) := by
  exact Nat.two_pow_pos 40
theorem invalidationComplete (a0 : Nat) : Statement (.invalidationComplete a0) := by
  exact Nat.two_pow_pos 40
theorem trapEntry (a0 : BitVec 6) (a1 : Word) : Statement (.trapEntry a0 a1) := by
  exact Nat.two_pow_pos 40
theorem lateTrap : Statement (.lateTrap) := by
  exact Nat.two_pow_pos 40
theorem pageFault : Statement (.pageFault) := by
  exact Nat.two_pow_pos 40
theorem pageFaultResolved (a0 : Resolution) : Statement (.pageFaultResolved a0) := by
  exact Nat.two_pow_pos 40
theorem secondStageFault (a0 : Resolution) : Statement (.secondStageFault a0) := by
  exact Nat.two_pow_pos 40
theorem featureMaskedHypervisorResume (a0 : Bool) : Statement (.featureMaskedHypervisorResume a0) := by
  exact Nat.two_pow_pos 40
theorem preemptHorizon : Statement (.preemptHorizon) := by
  exact Nat.two_pow_pos 40
theorem contextRestore : Statement (.contextRestore) := by
  exact Nat.two_pow_pos 40
theorem remoteRequest (a0 : RemReq) : Statement (.remoteRequest a0) := by
  exact Nat.two_pow_pos 40
theorem remoteReply (a0 : RemRep) : Statement (.remoteReply a0) := by
  exact Nat.two_pow_pos 40
theorem remoteTimeout (a0 : Nat) (a1 : Nat) (a2 : Nat) : Statement (.remoteTimeout a0 a1 a2) := by
  exact Nat.two_pow_pos 40
theorem busyBackoffExpiry (a0 : Nat) (a1 : Nat) (a2 : Nat) : Statement (.busyBackoffExpiry a0 a1 a2) := by
  exact Nat.two_pow_pos 40
theorem ackAlone (a0 : Nat) (a1 : Nat) : Statement (.ackAlone a0 a1) := by
  exact Nat.two_pow_pos 40
theorem ackArrival (a0 : Nat) (a1 : Nat) (a2 : Nat) : Statement (.ackArrival a0 a1 a2) := by
  exact Nat.two_pow_pos 40
theorem incarnationQuery (a0 : Nat) (a1 : Nat) : Statement (.incarnationQuery a0 a1) := by
  exact Nat.two_pow_pos 40
theorem incarnationQueryTimeout (a0 : Nat) (a1 : Nat) : Statement (.incarnationQueryTimeout a0 a1) := by
  exact Nat.two_pow_pos 40
theorem contextDestroyedNotice (a0 : Nat) (a1 : Nat) : Statement (.contextDestroyedNotice a0 a1) := by
  exact Nat.two_pow_pos 40
theorem ownerRestart (a0 : Nat) : Statement (.ownerRestart a0) := by
  exact Nat.two_pow_pos 40
theorem sxfrSlotSend (a0 : Nat) (a1 : Bool) : Statement (.sxfrSlotSend a0 a1) := by
  exact Nat.two_pow_pos 40
theorem sxfrRetrySend (a0 : Nat) (a1 : Bool) : Statement (.sxfrRetrySend a0 a1) := by
  exact Nat.two_pow_pos 40
theorem sxfrDeadline (a0 : Nat) (a1 : Nat) : Statement (.sxfrDeadline a0 a1) := by
  exact Nat.two_pow_pos 40
theorem reservationAbandon (a0 : Nat) : Statement (.reservationAbandon a0) := by
  exact Nat.two_pow_pos 40
theorem flitReceive (a0 : List Byte) : Statement (.flitReceive a0) := by
  exact Nat.two_pow_pos 40
theorem podTimeLoss : Statement (.podTimeLoss) := by
  exact Nat.two_pow_pos 40
theorem podTimeAgainInStep : Statement (.podTimeAgainInStep) := by
  exact Nat.two_pow_pos 40
theorem packetRetransmissionTimeout (a0 : Nat) : Statement (.packetRetransmissionTimeout a0) := by
  exact Nat.two_pow_pos 40
theorem packetAgeExpiry (a0 : Nat) : Statement (.packetAgeExpiry a0) := by
  exact Nat.two_pow_pos 40
theorem rendezvousRelease (a0 : Nat) (a1 : Bool) : Statement (.rendezvousRelease a0 a1) := by
  exact Nat.two_pow_pos 40
theorem stepBarrier (a0 : Fin 16) : Statement (.stepBarrier a0) := by
  exact Nat.two_pow_pos 40
theorem taskDispatch : Statement (.taskDispatch) := by
  exact Nat.two_pow_pos 40
theorem taskCompletion (a0 : Nat) : Statement (.taskCompletion a0) := by
  exact Nat.two_pow_pos 40
theorem taskAging (a0 : Nat) : Statement (.taskAging a0) := by
  exact Nat.two_pow_pos 40
theorem preemptionMark (a0 : Nat) : Statement (.preemptionMark a0) := by
  exact Nat.two_pow_pos 40
theorem stepReplay (a0 : Nat) (a1 : ReplayAct) : Statement (.stepReplay a0 a1) := by
  exact Nat.two_pow_pos 40
theorem watchdog (a0 : WatchdogAct) : Statement (.watchdog a0) := by
  exact Nat.two_pow_pos 40
theorem frameMigration (a0 : Nat) (a1 : Nat) (a2 : Nat) (a3 : Nat) (a4 : MigrationStep) : Statement (.frameMigration a0 a1 a2 a3 a4) := by
  exact Nat.two_pow_pos 40
theorem tableUpdateMulticast (a0 : Nat) (a1 : TableUpdate) : Statement (.tableUpdateMulticast a0 a1) := by
  exact Nat.two_pow_pos 40
theorem kernelInvalidate (a0 : Nat) (a1 : InvKind) : Statement (.kernelInvalidate a0 a1) := by
  exact Nat.two_pow_pos 40
theorem stagingReconfigure (a0 : Nat) (a1 : Nat) : Statement (.stagingReconfigure a0 a1) := by
  exact Nat.two_pow_pos 40
theorem memoryScrub : Statement (.memoryScrub) := by
  exact Nat.two_pow_pos 40
theorem l2DirtyEviction (a0 : Nat) : Statement (.l2DirtyEviction a0) := by
  exact Nat.two_pow_pos 40
theorem boot (a0 : BootInput) : Statement (.boot a0) := by
  exact Nat.two_pow_pos 40
theorem getVersion : Statement (.getVersion) := by
  exact Nat.two_pow_pos 40
theorem getCapabilities : Statement (.getCapabilities) := by
  exact Nat.two_pow_pos 40
theorem negotiateAlgorithms : Statement (.negotiateAlgorithms) := by
  exact Nat.two_pow_pos 40
theorem getDigests (a0 : Nat) : Statement (.getDigests a0) := by
  exact Nat.two_pow_pos 40
theorem getCertificate (a0 : Nat) (a1 : Nat) (a2 : Nat) : Statement (.getCertificate a0 a1 a2) := by
  exact Nat.two_pow_pos 40
theorem challenge (a0 : Nat) (a1 : BitVec 256) : Statement (.challenge a0 a1) := by
  exact Nat.two_pow_pos 40
theorem getMeasurements (a0 : Bool) (a1 : BitVec 256) : Statement (.getMeasurements a0 a1) := by
  exact Nat.two_pow_pos 40
theorem spdmUnsupportedRequest (a0 : Byte) : Statement (.spdmUnsupportedRequest a0) := by
  exact Nat.two_pow_pos 40
theorem hostMailboxWrite (a0 : Fin 17) (a1 : BitVec 16) (a2 : Word) : Statement (.hostMailboxWrite a0 a1 a2) := by
  exact Nat.two_pow_pos 40
theorem hostBar2Access (a0 : Fin 17) (a1 : Nat) (a2 : Nat) (a3 : Option (BitVec 512)) : Statement (.hostBar2Access a0 a1 a2 a3) := by
  exact Nat.two_pow_pos 40
theorem debugAuthorisation (a0 : DebugToken) : Statement (.debugAuthorisation a0) := by
  exact Nat.two_pow_pos 40
theorem permitAudit (a0 : Bool) (a1 : Nat) (a2 : Nat) : Statement (.permitAudit a0 a1 a2) := by
  exact Nat.two_pow_pos 40
theorem scanTest (a0 : Nat) (a1 : Bool) (a2 : Bool) : Statement (.scanTest a0 a1 a2) := by
  exact Nat.two_pow_pos 40
theorem thermalThrottle (a0 : Nat) : Statement (.thermalThrottle a0) := by
  exact Nat.two_pow_pos 40
theorem thermalShutdown : Statement (.thermalShutdown) := by
  exact Nat.two_pow_pos 40
theorem loadImage (a0 : Nat) (a1 : List LoadObject) : Statement (.loadImage a0 a1) := by
  exact Nat.two_pow_pos 40
theorem kernelCommandPortLaunch (a0 : Nat) (a1 : Word) (a2 : Bool) : Statement (.kernelCommandPortLaunch a0 a1 a2) := by
  exact Nat.two_pow_pos 40
theorem contextCreation (a0 : CtxInput) : Statement (.contextCreation a0) := by
  exact Nat.two_pow_pos 40
theorem logicalCoreMapRenumber : Statement (.logicalCoreMapRenumber) := by
  exact Nat.two_pow_pos 40
theorem imageVerification (a0 : Image) : Statement (.imageVerification a0) := by
  exact Nat.two_pow_pos 40
theorem kernelCodeWrite (a0 : Nat) (a1 : CodeAddr) (a2 : BitVec 512) : Statement (.kernelCodeWrite a0 a1 a2) := by
  exact Nat.two_pow_pos 40

end Laws.Word40

end Sys2Proof
end

