-- ==== Sys2Proof/Tests/Slice0.lean ====
section
/-! SUPPORT. Tests: ill-formed terms, words written out from the encodings of spec/, single steps on small states, and states
that meet the hypotheses of the statements. -/

namespace Sys2Proof.Tests

set_option Elab.async false

open Sys2Proof.Machine

/-! ### Ill-formed instructions, one for each check of WellFormed -/

/-- Merging, one beat, all lanes. -/
def lanes (f : Fmt) : VCtl := { q := 0, z := false, beats := 0, fmt := f }
/-- A run of two registers. -/
def twoBeats (f : Fmt) : VCtl := { q := 0, z := false, beats := 1, fmt := f }

theorem test_wf_vec_format : Instr.wf (.vadd (lanes .tri2) 1 2 3 false) = false := by decide
theorem test_wf_vec_format_in_range : Instr.wf (.vadd (lanes .fp32) 1 2 3 false) = true := by decide
theorem test_wf_run_destination : Instr.wf (.vadd (twoBeats .fp32) 31 2 3 false) = false := by decide
theorem test_wf_run_first_source : Instr.wf (.vsub (twoBeats .fp32) 1 31 3 false) = false := by decide
theorem test_wf_run_second_source : Instr.wf (.vmul (twoBeats .fp32) 1 2 31 false) = false := by decide
theorem test_wf_run_third_source : Instr.wf (.vfma (twoBeats .fp32) 1 2 3 31) = false := by decide
theorem test_wf_run_reaches_v31 : Instr.wf (.vfms (twoBeats .fp32) 1 2 3 30) = true := by decide
theorem test_wf_run_logic : Instr.wf (.vand (twoBeats .int8) 1 2 31) = false := by decide
theorem test_wf_run_select : Instr.wf (.vsel (twoBeats .int8) 31 2 3 1) = false := by decide
theorem test_wf_shift_of_floats : Instr.wf (.vshl (lanes .fp16) 1 2 3) = false := by decide
theorem test_wf_run_abs : Instr.wf (.vabs (twoBeats .int8) 31 1 false) = false := by decide
theorem test_wf_run_scan : Instr.wf (.vscn (twoBeats .int8) 1 31) = false := by decide
theorem test_wf_function_of_integers : Instr.wf (.vfun (lanes .int32) 1 2 .relu) = false := by decide
theorem test_wf_vcmp_format : Instr.wf (.vcmp 0 false .bool1 1 2 3 .eq) = false := by decide
theorem test_wf_vcvt_target : Instr.wf (.vcvt (lanes .fp32) 1 2 .fp4 .rne false) = false := by decide
theorem test_wf_vcvt_destination_run : Instr.wf (.vcvt { q := 0, z := false, beats := 3, fmt := .fp32 } 31 2 .fp32 .rne false) = false := by
  decide
theorem test_wf_vcvt_source_run : Instr.wf (.vcvt { q := 0, z := false, beats := 3, fmt := .fp32 } 2 31 .fp32 .rne false) = false := by
  decide
theorem test_wf_reduction_run : Instr.wf (.vred (twoBeats .fp32) 1 31 .sum) = false := by decide
theorem test_wf_reversal_has_one_source : Instr.wf (.vshf (lanes .int8) 1 2 3 .rev) = false := by decide
theorem test_wf_broadcast_run : Instr.wf (.vbcs (twoBeats .fp32) 31 5) = false := by decide
theorem test_wf_element_index : Instr.wf (.vmvx .fp32 1 2 32) = false := by decide
theorem test_wf_insert_index : Instr.wf (.vins .int16 1 2 64) = false := by decide
theorem test_wf_random_format : Instr.wf (.vrng (lanes .int8) 1 2 .n4 false) = false := by decide
theorem test_wf_iota_run : Instr.wf (.viota (twoBeats .int8) 31) = false := by decide
theorem test_wf_literal_run : Instr.wf (.vlit (twoBeats .int8) 31 0 7) = false := by decide
theorem test_wf_fcvt_block_format : Instr.wf (.fcvtTo .mxfp4 1 2 .rne) = false := by decide
theorem test_wf_fcvt_stochastic : Instr.wf (.fcvtFrom .fp16 1 2 .sr) = false := by decide
theorem test_wf_rsv_has_its_own_row : Instr.wf (.mts (.rsv 3) 1) = false := by decide
theorem test_wf_copy_class_zero : Instr.wf (.scpy 1 none 0 false) = false := by decide
theorem test_wf_atomic_class_zero : Instr.wf (.satmXor 1 none 0) = false := by decide
theorem test_wf_release_scope_core : Instr.wf (.ssigRel 1 2 none 2 false .core) = false := by decide
theorem test_wf_barrier_mask_empty : Instr.wf (.sbar ⟨false, false, false⟩ ⟨true, false, false⟩ none) = false := by decide
theorem test_wf_exit_register_zero : Instr.wf (.exit (.reg 0) .none .none .none) = false := by decide
theorem test_wf_exit_one_pair_two_values : Instr.wf (.exit (.pair true 64) (.pair true 128) .none .none) = false := by decide
theorem test_wf_icinv_scope_pod : Instr.wf (.icinv 1 2 none .pod) = false := by decide
theorem test_wf_mode_reserved_bits : Instr.wf (.mode 0 2) = false := by decide

/-! ### Words of the encodings of spec/ -/

/-- The 40-bit word of an alu instruction in a register form: opcode, xd, xa, xb, fn (R57). -/
def regWord (op d a b fn : Nat) : Nat := op <<< 32 ||| d <<< 21 ||| a <<< 15 ||| b <<< 9 ||| fn

theorem test_decode_add : decodeKind .alu ⟨0, 0, 0, 0⟩ (regWord 0x04 5 6 7 0) = .ok (.add 5 6 7) := by decide +kernel
/-- The two alu words and the mem word of R37's worked bundle. -/
theorem test_decode_add_literal : decodeKind .alu ⟨0x12345678, 0, 0, 0⟩ 0x0600A00000 = .ok (.addLit 5 0 (.word 0 0x12345678)) := by
  decide +kernel
theorem test_decode_add_immediate : decodeKind .alu ⟨0, 0, 0, 0⟩ 0x0500C28001 = .ok (.addImm 6 5 1) := by decide +kernel
theorem test_decode_load_double : decodeKind .mem ⟨0, 0, 0, 0⟩ 0x0700E30010 = .ok (.ldD 7 6 16) := by decide +kernel
/-- The last form of the last operation of R58. -/
theorem test_decode_maxu_literal : decodeKind .alu ⟨1, 2, 3, 4⟩ (0x56 <<< 32 ||| 1 <<< 21 ||| 2 <<< 15 ||| 2 <<< 13 ||| 1 <<< 12) =
    .ok (.maxuLit 1 2 (.pair true 0x0000000400000003)) := by decide +kernel
theorem test_decode_negative_immediate : decodeKind .alu ⟨0, 0, 0, 0⟩ (0x09 <<< 32 ||| 1 <<< 21 ||| 2 <<< 15 ||| 0x7FFF) =
    .ok (.subImm 1 2 (-1)) := by decide +kernel
theorem test_decode_reserved_form : decodeKind .alu ⟨0, 0, 0, 0⟩ (regWord 0x07 5 6 7 0) ≠ .ok (.add 5 6 7) := by decide +kernel
theorem test_decode_select : decodeKind .alu ⟨0, 0, 0, 0⟩ (regWord 0x58 1 2 3 9) = .ok (.sel 1 2 3 9) := by decide +kernel
theorem test_decode_ext_signed : decodeKind .alu ⟨0, 0, 0, 0⟩ (regWord 0x60 1 2 3 1) = .ok (.ext 1 2 3 true) := by decide +kernel
theorem test_decode_brev : decodeKind .alu ⟨0, 0, 0, 0⟩ (regWord 0x64 1 2 0 3) = .ok (.bitBrev 1 2) := by decide +kernel
theorem test_decode_plog : decodeKind .alu ⟨0, 0, 0, 0⟩ (regWord 0x6C 1 2 3 3) = .ok (.plog .andn 1 2 3) := by decide +kernel
theorem test_decode_mfs_stk_depth : decodeKind .alu ⟨0, 0, 0, 0⟩ 0x9100A00200 = .ok (.mfs 5 .stkDepth) := by decide +kernel
theorem test_decode_mts_mode : decodeKind .alu ⟨0, 0, 0, 0⟩ 0x9500030010 = .ok (.mts .mode 6) := by decide +kernel

theorem test_decode_load_word : decodeKind .mem ⟨0, 0, 0, 0⟩ 0x0501220100 = .ok (.ldW 9 4 0x100) := by decide +kernel
theorem test_decode_store_word : decodeKind .mem ⟨0, 0, 0, 0⟩ 0x0B00A20000 = .ok (.stW 5 4 0) := by decide +kernel
theorem test_decode_strided_load : decodeKind .mem ⟨0, 0, 0, 0⟩ (0x12 <<< 32 ||| 3 <<< 21 ||| 4 <<< 15 ||| 5 <<< 9 ||| 0x1FF) =
    .ok (.vlds 3 4 5 (-1)) := by decide +kernel
theorem test_decode_scatter : decodeKind .mem ⟨0, 0, 0, 0⟩ (0x15 <<< 32 ||| 3 <<< 21 ||| 4 <<< 15 ||| 31 <<< 10) =
    .ok (.vsct 3 4 31) := by decide +kernel
theorem test_decode_vector_register_bit : decodeKind .mem ⟨0, 0, 0, 0⟩ (0x10 <<< 32 ||| 1 <<< 26) ≠ .ok (.vld 0 0 0) := by
  decide +kernel

/-- The word of a vec instruction: opcode, lane mask, Z, beats − 1, vd, va, vb, vc or fn, format code (R60). -/
def vecWord (op q z b d a e fn f : Nat) : Nat :=
  op <<< 32 ||| q <<< 29 ||| z <<< 28 ||| b <<< 25 ||| d <<< 20 ||| a <<< 15 ||| e <<< 10 ||| fn <<< 5 ||| f

theorem test_decode_vadd : decodeKind .vec ⟨0, 0, 0, 0⟩ (vecWord 0x01 3 1 7 8 16 24 1 15) =
    .ok (.vadd ⟨3, true, 7, .fp32⟩ 8 16 24 true) := by decide +kernel
theorem test_decode_vfma : decodeKind .vec ⟨0, 0, 0, 0⟩ (vecWord 0x04 0 0 0 1 2 3 4 14) =
    .ok (.vfma ⟨0, false, 0, .bf16⟩ 1 2 3 4) := by decide +kernel
theorem test_decode_vcmp : decodeKind .vec ⟨0, 0, 0, 0⟩ (vecWord 0x10 1 0 0 2 3 4 6 15) =
    .ok (.vcmp 1 false .fp32 2 3 4 .uo) := by decide +kernel
theorem test_decode_vmov : decodeKind .vec ⟨0, 0, 0, 0⟩ (vecWord 0x1E 0 0 1 4 6 0 0 2) =
    .ok (.vmov ⟨0, false, 1, .int8⟩ 4 6) := by decide +kernel
theorem test_decode_vec_format : decodeKind .vec ⟨0, 0, 0, 0⟩ (vecWord 0x1E 0 0 0 4 6 0 0 6) ≠
    .ok (.vmov ⟨0, false, 0, .tri2⟩ 4 6) := by decide +kernel

theorem test_decode_tpk : decodeKind .tile ⟨0, 0, 0, 0⟩ 0x0700000003 = .ok (.tpk 3) := by decide +kernel
theorem test_decode_tld : decodeKind .tile ⟨0, 0, 0, 0⟩ 0x0102801C00 = .ok (.tld 20 0 (.code .bf16) false false) := by
  decide +kernel
theorem test_decode_tld_offset : decodeKind .tile ⟨0, 0, 0, 0⟩ 0x01028A9C00 = .ok (.tld 20 21 (.code .bf16) false false) := by
  decide +kernel
theorem test_decode_tzer : decodeKind .tile ⟨0, 0, 0, 0⟩ 0x0200705800 = .ok (.tzer .bf16 22) := by decide +kernel
theorem test_decode_tfil : decodeKind .tile ⟨0, 0, 0, 0⟩ 0x0300105970 = .ok (.tfil .int8 22 23) := by decide +kernel
theorem test_decode_tst_flag : decodeKind .tile ⟨0, 0, 0, 0⟩ 0x30028A8E00 = .ok (.tst 20 21 (some 3)) := by decide +kernel
theorem test_decode_tst : decodeKind .tile ⟨0, 0, 0, 0⟩ 0x3002800000 = .ok (.tst 20 0 none) := by decide +kernel
theorem test_decode_tfrc : decodeKind .tile ⟨0, 0, 0, 0⟩ 0x3100005542 = .ok (.tfrc 2 21 5) := by decide +kernel
/-- tmma, duplicate mode, saturating, FP32, rounding RUP (R61, R203). -/
theorem test_decode_tmma_dup : decodeKind .tile ⟨0, 0, 0, 0⟩ (0x10 <<< 32 ||| 1 <<< 24 ||| 15 <<< 19 ||| 3 <<< 16 ||| 1) =
    .ok (.tmmaD (.direct .sat .fp32 .rup)) := by decide +kernel
/-- tred of the columns, maximum, modes from the format table at 9 + lc2 (R229, R244). -/
theorem test_decode_tred_table : decodeKind .tile ⟨0, 0, 0, 0⟩ (0x1A <<< 32 ||| 3 <<< 24 ||| 9 <<< 19 ||| 2 <<< 16 ||| 1 <<< 4 ||| 1 <<< 3) =
    .ok (.tred (.table 9 (some 2)) .max true) := by decide +kernel

theorem test_decode_scpy : decodeKind .copy ⟨0, 0, 0, 0⟩ 0x0102801300 = .ok (.scpy 20 (some 4) 2 false) := by decide +kernel
/-- sbar a = r, w; b = m, without a flag (R115). -/
theorem test_decode_sbar : decodeKind .copy ⟨0, 0, 0, 0⟩ (0x08 <<< 32 ||| 4 <<< 3 ||| 3) =
    .ok (.sbar ⟨true, true, false⟩ ⟨false, false, true⟩ none) := by decide +kernel
/-- fence.sc package, f2 (R117). -/
theorem test_decode_fence : decodeKind .copy ⟨0, 0, 0, 0⟩ (0x0A <<< 32 ||| 2 <<< 10 ||| 1 <<< 9 ||| 2 <<< 2 ||| 2) =
    .ok (.fenceSc .package (some 2)) := by decide +kernel
theorem test_decode_l2pf_retained : decodeKind .copy ⟨0, 0, 0, 0⟩ (0x0D <<< 32 ||| 9 <<< 21 ||| 1) =
    .ok (.l2pf 9 true none) := by decide +kernel

theorem test_decode_sstep : decodeKind .ctl ⟨0, 0, 0, 0⟩ 0x0B01800003 = .ok (.sstep 12 3) := by decide +kernel
theorem test_decode_rdv : decodeKind .ctl ⟨0, 0, 0, 0⟩ 0x0900000005 = .ok (.rdv 5) := by decide +kernel
theorem test_decode_br_backward : decodeKind .ctl ⟨0, 0, 0, 0⟩ 0x0101FFFFFD = .ok (.br (-3)) := by
  decide +kernel
theorem test_decode_exit : decodeKind .ctl ⟨0, 0, 0, 0⟩ 0x0C00000185 = .ok (.exit (.reg 5) (.reg 6) .none .none) := by
  decide +kernel
theorem test_decode_tlbi_range : decodeKind .ctl ⟨0, 0, 0, 0⟩ 0x1600829E0B = .ok (.tlbiRange 4 5 (some 7) true) := by
  decide +kernel
theorem test_decode_mode : decodeKind .ctl ⟨0, 0, 0, 0⟩ 0x1700008080 = .ok (.mode 0x80 0x80) := by decide +kernel
theorem test_decode_ckpt : decodeKind .ctl ⟨0, 0, 0, 0⟩ 0x0800000000 = .ok .ckpt := by decide +kernel
theorem test_decode_rte : decodeKind .ctl ⟨0, 0, 0, 0⟩ 0x1300000000 = .ok .rte := by decide +kernel
theorem test_decode_xbnd : decodeKind .ctl ⟨0, 0, 0, 0⟩ 0x1400180000 = .ok (.xbnd 48) := by decide +kernel

/-- The eight words of the bundle at label spin (spec/03). -/
def spinWord : Nat :=
  0x0000_0000_0008_8707 ||| 0xC280_0106_00A0_0000 <<< 64 ||| 0x0007_00E3_0010_0500 <<< 128 ||| 0x0100_0000_0000_0000 <<< 320 |||
    0x0000_0000_1234_5678 <<< 384

theorem test_decode_spin_slots : (decodeBundle spinWord).map (fun b => b.slots) = .ok
    [⟨0, 0, false, .addLit 5 0 (.word 0 0x12345678)⟩, ⟨1, 0, false, .addImm 6 5 1⟩, ⟨2, 0, false, .ldD 7 6 16⟩,
     ⟨7, 0, false, .br 0⟩] := by decide +kernel
theorem test_decode_spin_header : (decodeBundle spinWord).map (fun b => (b.sync, b.w, b.stops)) = .ok (8, true, 3) := by
  decide +kernel
/-- The guard of a branch under p1 (R280). -/
theorem test_decode_guard : (decodeBundle (0x8000 ||| 0x0111FFFFFD <<< 344)).map (fun b => b.slots) =
    .ok [⟨7, 1, false, .br (-3)⟩] := by decide +kernel

/-- A word of each slot kind round-trips through the encoder. -/
theorem test_encode_spec_words : (encode (.tfil .int8 22 23)).word = 0x0300105970 ∧ (encode (.tst 20 21 (some 3))).word = 0x30028A8E00 ∧
    (encode (.scpy 20 (some 4) 2 false)).word = 0x0102801300 ∧ (encode (.tlbiRange 4 5 (some 7) true)).word = 0x1600829E0B ∧
    (encode (.cmp .lt 1 3 4)).word = 0x6800218802 ∧ (encode (.ldW 9 4 0x100)).word = 0x0501220100 := by decide +kernel

/-! ### States that meet the hypotheses of the statements

One theorem for each statement with hypotheses, one witness in it for each clause. -/

/-- A package that is up, with one context on logical cores 0 and 1, and core 0 at a bundle boundary. -/
def base : State :=
  { State.reset with core := { Core.reset 0 with run := .running },
                     ctxs := [{ codeContext 0 0 with cores := [0, 1] }], malt := { Maltings.reset with boot := .up } }
/-- The same with another state of core 0. -/
def on (f : Core → Core) : State := base.modCore f
/-- Core 0 with a scalar register at a value. -/
def atX (r : XReg) (v : Word) : State := on (fun c => { c with regs := { c.regs with x := c.regs.x.set r v } })
/-- The same in handler mode. -/
def inHandler (s : State) : State := s.modCore (fun c => { c with sys := { c.sys with hnd := true } })
/-- A package in which a bundle stands at the pc of core 0. -/
def placed (w : Nat) : State := base.placeCode w
/-- A bundle of one alu0 word. -/
def aluBundle (w : Nat) : Nat := 0x0100 ||| w <<< 64

/-- Core 0 with two scalar registers. -/
def withX (a b : Word) : State := on (fun c => { c with regs := { c.regs with x := (c.regs.x.set 3 a).set 4 b } })
theorem issued_of (t : Trial) (h : (match t with | .issued _ => true | _ => false) = true) : ∃ s, t = .issued s := by
  cases t <;> simp_all
theorem effect_of (e : Eff) (p : State → Bool) (h : (match e with | .ok t => p t | _ => false) = true) :
    ∃ t, e = .ok t ∧ p t = true := by
  cases e <;> simp_all

theorem test_wit_scalar_slots : (Instr.addImm 63 63 0x4000).wf = true ∧ (Instr.addImm 63 63 0x4000).fits .alu = true ∧
    (Instr.vsct 31 63 31).wf = true ∧ (Instr.vsct 31 63 31).fits .mem = true ∧
    (Instr.br 0x1000000).wf = true ∧ (Instr.br 0x1000000).fits .ctl = true := by decide
theorem test_wit_data_slots : (Instr.vadd ⟨7, true, 7, .fp32⟩ 24 24 24 true).wf = true ∧
    (Instr.vadd ⟨7, true, 7, .fp32⟩ 24 24 24 true).fits .vec = true ∧
    (Instr.tpk 63).wf = true ∧ (Instr.tpk 63).fits .tile = true ∧
    (Instr.scpy 63 (some 31) 3 true).wf = true ∧ (Instr.scpy 63 (some 31) 3 true).fits .copy = true := by decide
theorem test_wit_slot_instruction : (Instr.add 1 2 3).inSlot = true ∧ Instr.bundleIssue.inSlot = false := by decide
theorem test_wit_off : State.off { base with malt := { base.malt with boot := .shutDown } } = true ∧
    State.off { base with malt := { base.malt with boot := .failed 1 } } = true ∧ base.off = false ∧ State.reset.off = false := by
  decide
theorem test_wit_agenda : State.off { base with agenda := [⟨0, 5, .memoryScrub, []⟩] } = false ∧
    ({ base with agenda := [⟨0, 5, .memoryScrub, []⟩] } : State).agenda = ⟨0, 5, .memoryScrub, []⟩ :: [] ∧
    Instr.memoryScrub.inSlot = false ∧ kernelEvent .memoryScrub = true ∧ base.malt.root.started = false ∧
    kernelEvent .resultLand = false ∧ (placed 0).malt.root.started = true ∧
    base.fabric.reservations = [] ∧ base.launch.resident = [] := by decide +kernel

/-- add x5, x0, x0 at the pc. -/
def addAtPc : State := placed (aluBundle (regWord 0x04 5 0 0 0))
theorem test_wit_issues_bundle : addAtPc.off = false ∧ addAtPc.agenda = [] ∧ addAtPc.progress = addAtPc ∧
    addAtPc.core.run = .running ∧ addAtPc.core.due = 0 ∧ addAtPc.core.hold = .none ∧ addAtPc.core.evalDue = false ∧
    addAtPc.core.faultedCmd = none ∧ addAtPc.core.kTraps = [] ∧ addAtPc.core.lateTraps = [] ∧ addAtPc.preemptDue = false ∧
    ∃ t, addAtPc.unquiet.tryBundle = .issued t := by
  and_intros
  all_goals first | decide +kernel | exact issued_of _ (by decide +kernel)
/-- The one instruction of that bundle, with the guard p0 or its negation. -/
def addSlot (neg : Bool) : SlotInstr := { slot := 0, pred := 0, neg := neg, op := .add 5 0 0 }
/-- The state after the fetch of a placed bundle. -/
def fetched (w : Nat) : State := (placed w).fetch.1
theorem test_wit_runs_decoded : let w := aluBundle (regWord 0x04 5 0 0 0)
    (placed w).core.run = .running ∧ (placed w).core.due = 0 ∧ (placed w).core.hold = .none ∧
    (placed w).fetch = (fetched w, .word w) ∧ (fetched w).core.regs.synced w = true ∧
    decodeBundle w = .ok ⟨0, false, 0, [addSlot false]⟩ ∧ (fetched w).staticRaise ⟨0, false, 0, [addSlot false]⟩ = none ∧
    (fetched w).core.sys.modeBits.getLsbD 7 = false ∧ ((fetched w).issuing w (addSlot false)).guard (addSlot false) = true ∧
    ∃ t, slotEff (.add 5 0 0) ((fetched w).issuing w (addSlot false)) = .ok t ∧ decide (t.core.flight.length ≤ 64) = true := by
  intro w
  and_intros
  all_goals first | decide +kernel | exact effect_of _ _ (by decide +kernel)
theorem test_wit_false_guard : let w := aluBundle (regWord 0x04 5 0 0 0 ||| 1 <<< 27)
    (placed w).fetch = (fetched w, .word w) ∧ (fetched w).core.regs.synced w = true ∧
    decodeBundle w = .ok ⟨0, false, 0, [addSlot true]⟩ ∧ (fetched w).staticRaise ⟨0, false, 0, [addSlot true]⟩ = none ∧
    (fetched w).core.sys.modeBits.getLsbD 7 = false ∧ ((fetched w).issuing w (addSlot true)).guard (addSlot true) = false ∧
    (fetched w).core.flight.length ≤ 64 := by
  intro w
  and_intros <;> decide +kernel

/-- A loop of n iterations over the bundles at 64 and 128, of which i have ended. -/
def loopAt (i n : Word32) : LoopEntry := { first := 64, last := 128, count := n, index := i }
theorem test_wit_transfer_bubbles :
    (on (fun c => { c with issue := { c.issue with taken := some 256 } })).core.issue.taken = some 256 ∧
    base.core.issue.taken = none ∧ base.core.loops.head? = none ∧
    (∀ e ∈ [loopAt 0 2].head?, e.last ≠ 64) ∧
    (loopAt 0 2).last = 128 ∧ (loopAt 0 2).index.toNat + 1 < (loopAt 0 2).count.toNat ∧
    (loopAt 1 2).count.toNat ≤ (loopAt 1 2).index.toNat + 1 := by decide

theorem test_wit_memory_invariant : base.Inv ∧ State.Inv addAtPc ∧ ∃ t, step addAtPc = .next t := by
  refine ⟨by unfold State.Inv; decide, by unfold State.Inv; decide +kernel, ?_⟩
  have : (match step addAtPc with | .next _ => true | _ => false) = true := by decide +kernel
  revert this
  cases step addAtPc <;> simp
theorem test_wit_memory_determined : Memory.wf [(5, 7), (6, 1)] = true ∧
    ∀ a, Memory.read [(5, 7), (6, 1)] a = Memory.read [(5, 7), (6, 1)] a := ⟨by decide, fun _ => rfl⟩

/-- Results in flight of core 0. -/
def flying (fs : List InFlight) : State := on (fun c => { c with flight := fs })
theorem test_wit_landing : (flying [fly (.x 5 7) 2]).nothingLands ∧
    (flying [fly (.x 5 7) 1, fly (.x 6 8) 2]).core.flight = fly (.x 5 7) 1 :: [fly (.x 6 8) 2] ∧ (Landing.x 5 7).system = false ∧
    (Landing.cset 3 0).system = false ∧ (∀ e ∈ [fly (.x 6 8) 2], e.mark = none ∧ e.wait = none ∧ 2 ≤ e.k) := by
  unfold State.nothingLands; decide
theorem test_wit_reads_back : (flying [fly (.sys .mode 0xFF) 1]).core.flight = [fly (.sys .mode 0xFF) 1] ∧
    (flying [fly (.sys .mode 0xFF) 1]).storedForm .mode 0xFF = some 0xC4 ∧ base.storedForm .mode 0x20 = some 0x20 ∧
    base.storedForm (.fmt 63) 0xFFF = some 0x71F ∧ base.storedForm (.fmt 0) 0xA0 = some 0xA0 ∧
    base.storedForm .trapPc 0xFFFF_FFFF_FFFF_FFFF = some 0x0000_FFFF_FFFF_FFC0 ∧
    base.storedForm .faultCause 0xFF = some 0x3F ∧ base.storedForm (.cntT 15) 0x1_0000_0001 = some 1 ∧
    base.storedForm .remopNext 0xFF05_0000_0000_0009 = some 0x0005_0000_0000_0001 ∧
    base.storedForm .injDropReply 0xFFFF_FFFF_FFFF_FFFF = some 0x8000_FF00_00FF_FFFF := by decide
theorem test_wit_integer : (atX 3 5).integerOne (.addImm 1 3 0x7FFF) = some (1, 4) ∧ base.integerOne (.add 0 1 2) = some (0, 0) ∧
    (atX 3 5).integerThree (.mulImm 1 3 3) = some (1, 15) ∧ (atX 3 5).integerThree (.mulhImm 1 3 0x7FFF) = some (1, 0xFFFF_FFFF_FFFF_FFFF) := by
  decide +kernel
theorem test_wit_division : (atX 3 5).integerDivide (.div 1 3 0) = some (1, 0xFFFF_FFFF_FFFF_FFFF) ∧
    (atX 3 5).integerDivide (.remImm 1 3 0) = some (1, 5) ∧ base.core.issue.slot = 0 ∧ base.core.busy.div0 = 0 ∧
    (on (fun c => { c with issue := { c.issue with slot := 1 } })).core.issue.slot ≠ 0 ∧ base.core.busy.div1 = 0 := by decide
theorem test_wit_moves : (atX 3 5).moveResult (.bitClz 1 3) = some (1, 61) ∧ (atX 3 8).moveResult (.bitCtz 1 3) = some (1, 3) ∧
    base.moveResult (.lcr 1 0) = some (1, 0) := by decide +kernel
theorem test_wit_predicates : (atX 3 5).predicateResult (.cmp .lt 1 0 3) = some (1, true) ∧
    base.predicateResult (.plog .or 0 1 2) = some (0, false) := by decide
theorem test_wit_cmpt : (atX 3 5).x 3 ≠ (atX 3 5).x 0 ∧ (atX 3 5).core.sys.hnd = false ∧ (atX 3 5).core.retry = false ∧
    base.x 1 = base.x 2 ∧ (atX 3 5).core.log = [] := by decide
theorem test_wit_scalar_float : (atX 3 0x3F800000).fpResult (.faddS 1 3 3) =
      some (1, ((atX 3 0x3F800000).fval ((atX 3 0x3F800000).x 3)).add ((atX 3 0x3F800000).fval ((atX 3 0x3F800000).x 3)) false) ∧
    ((atX 3 2).x 3).toNat % 4 = 2 ∧ ((atX 3 1).x 3).toNat % 4 ≠ 2 := by
  refine ⟨rfl, by decide, by decide⟩
theorem test_wit_system_moves : SysReg.mode.handlerOnly = false ∧ sysReadOnly .mode = false ∧ SysReg.mode.kernelOnly = false ∧
    sysReadOnly .timePod = true ∧ (inHandler base).core.sys.hnd = true ∧ base.rsvCode 3 (base.x 1) = none ∧
    (atX 3 (9 <<< 60)).rsvCode 3 ((atX 3 (9 <<< 60)).x 3) = some 2 := by decide

/-- An address in the scratchpad of logical core 1, as a cluster address (R131). -/
def farWord : Word := 0x400100
theorem test_wit_loads : (atX 3 0x100).loadPlan (.ldW 5 3 4) = some ((atX 3 0x100).scalarLoad 4 true 5 3 4) ∧
    (atX 3 0x100).lanes 4 4 ((atX 3 0x100).scalarLoad 4 true 5 3 4).eas = .ok [(spadBase 0 + 0x104, 4)] ∧
    inSpad 0 (spadBase 0 + 0x104) = true ∧ (atX 3 0x100).noRanges ∧ (atX 3 0x100).unmarked (spadBase 0 + 0x104) 4 ∧
    (atX 3 farWord).loadPlan (.ldW 5 3 0) = some ((atX 3 farWord).scalarLoad 4 true 5 3 0) ∧
    (atX 3 farWord).lanes 4 4 ((atX 3 farWord).scalarLoad 4 true 5 3 0).eas = .ok [(spadBase 1 + 0x100, 4)] ∧
    inSpad 0 (spadBase 1 + 0x100) = false ∧ (atX 3 farWord).core.sys.modeBits.getLsbD 7 = false := by
  refine ⟨rfl, by decide +kernel, by decide, ⟨rfl, by decide⟩, by unfold State.unmarked; decide, rfl, by decide +kernel, by decide, by decide⟩
/-- A store of the register x4 at the address in x3. -/
def storeOf (s : State) : StorePlan := { size := 4, eas := [s.x 3 + (0 : BitVec 15).signExtend 64], data := (s.x 4).toNat }
theorem test_wit_stores : (atX 3 0x100).storePlan (.stW 4 3 0) = some (storeOf (atX 3 0x100)) ∧
    (atX 3 0x100).lanes 4 4 (storeOf (atX 3 0x100)).eas = .ok [(spadBase 0 + 0x100, 4)] ∧ (atX 3 0x100).noRanges ∧
    (atX 3 0x100).core.sys.hnd = false ∧ (atX 3 0x100).core.gate.length < 256 ∧ (inHandler (atX 3 0x100)).core.sys.hnd = true ∧
    (inHandler (atX 3 0x100)).lanes 4 4 (storeOf (inHandler (atX 3 0x100))).eas = .ok [(spadBase 0 + 0x100, 4)] ∧
    (inHandler (atX 3 0x100)).noRanges ∧ inSpad 0 (spadBase 0 + 0x100) = true ∧ (inHandler (atX 3 0x100)).core.eng.fences = [] ∧
    (inHandler (atX 3 0x100)).mem.wf = true := by
  unfold State.noRanges
  and_intros
  all_goals first | rfl | decide +kernel
/-- In handler mode with a fence.rel open. -/
def fenced : State := (inHandler (atX 3 0x100)).modCore (fun c => { c with eng := { c.eng with fences := [⟨2, .pod, [], [], none⟩] } })
theorem test_wit_fenced_store : fenced.core.eng.fences ≠ [] ∧ fenced.core.sys.hnd = true ∧ fenced.noRanges ∧
    fenced.storePlan (.stW 4 3 0) = some (storeOf fenced) ∧
    fenced.lanes 4 4 (storeOf fenced).eas = .ok [(spadBase 0 + 0x100, 4)] := by
  unfold State.noRanges
  and_intros
  all_goals first | rfl | decide +kernel
theorem test_wit_store_is_seen : ∃ t, exec (.stW 4 3 0) (atX 3 0x100) = .next t := ⟨_, rfl⟩
theorem test_wit_wrong_lanes : (atX 3 0x101).storePlan (.stW 4 3 0) = some (storeOf (atX 3 0x101)) ∧
    (atX 3 0x101).lanes 4 4 (storeOf (atX 3 0x101)).eas = .error Cause.alignment ∧
    (atX 3 0x101).loadPlan (.ldW 5 3 0) = some ((atX 3 0x101).scalarLoad 4 true 5 3 0) ∧
    (atX 3 0x101).lanes 4 4 ((atX 3 0x101).scalarLoad 4 true 5 3 0).eas = .error Cause.alignment :=
  ⟨rfl, by decide +kernel, rfl, by decide +kernel⟩
/-- The edges of the three ranges of a cluster address. -/
theorem test_wit_lane_ranges : 2 ^ 28 ≤ (0x10000000 : Word).toNat ∧ (0xC000000 : Word).toNat < 2 ^ 28 ∧
    48 ≤ (0xC000000 : Word).toNat / 2 ^ 22 ∧ (0xFBFFFFF : Word).toNat / 2 ^ 22 ≤ 62 ∧ (0xFC00001 : Word).toNat < 2 ^ 28 ∧
    (0xFC00001 : Word).toNat / 2 ^ 22 = 63 ∧ (0xFC00001 : Word).toNat % 2 ^ 22 % 4 ≠ 0 := by decide

theorem test_wit_vec_arithmetic : ∃ es, base.vecArith (.vadd (lanes .int32) 1 2 3 false) = some (lanes .int32, 1, 2, es) ∧
    base.core.busy.vec = 0 := ⟨_, rfl, rfl⟩
theorem test_wit_vec_bits : (∃ b, base.vecRunBits (.vxor (lanes .int32) 1 2 3) = some (lanes .int32, 1, b)) ∧
    (∃ es, base.vecElemBits (.vlit (lanes .int32) 1 0 7) = some (lanes .int32, 1, es)) ∧ (lanes .int32).fmt.isVec = true :=
  ⟨⟨_, rfl⟩, ⟨_, rfl⟩, rfl⟩
theorem test_wit_vec_movement : base.core.busy.vec = 0 ∧ (lanes .fp16).fmt = .fp16 ∧ (lanes .fp32).fmt.isVec = true ∧
    Fmt.fp8a.isVec = true ∧ (lanes .fp32).fmt ≠ .fp8a ∧ cvtCount (lanes .fp32) .fp8a = 32 ∧ base.featureMask.getLsbD 5 = false := by decide
theorem test_wit_busy_units : needsVec (.vmov (lanes .int8) 1 2) = true ∧
    (on (fun c => { c with busy := { c.busy with vec := 2 } })).core.busy.vec ≠ 0 ∧
    (on (fun c => { c with busy := { c.busy with vec := 2 } })).static67 (.vmov (lanes .int8) 1 2) = none ∧
    base.integerDivide (.div 1 2 3) ≠ none ∧ (on (fun c => { c with busy := { c.busy with div0 := 9 } })).core.busy.div0 ≠ 0 ∧
    (on (fun c => { c with sys := { c.sys with modeBits := 0x80 } })).core.sys.modeBits.getLsbD 7 = true := by decide

theorem some_of {α : Type} (o : Option α) (p : α → Bool) (h : (match o with | some a => p a | none => false) = true) :
    ∃ a, o = some a ∧ p a = true := by
  cases o <;> simp_all
theorem parsed_of {α ε : Type} (o : Except ε α) (p : α → Bool) (h : (match o with | .ok a => p a | .error _ => false) = true) :
    ∃ a, o = .ok a ∧ p a = true := by
  cases o <;> simp_all

/-- What an instruction leaves. -/
def after (s : State) (i : Instr) : State :=
  match exec i s with
  | .next t => t
  | _ => s
/-- Bytes in the own scratchpad of core 0 at an offset, whose address is in x3. -/
def holding (off : Nat) (bs : List Byte) : State := (atX 3 (BitVec.ofNat 64 off)).writeCells (cellsAt (spadBase 0 + off) bs)
/-- Handles on the tile stack, under a limit of two entries. -/
def stacked (hs : List Nat) : State :=
  on (fun c => { c with mash := { c.mash with spine := hs, nextId := 9 }, sys := { c.sys with stk := { c.sys.stk with limit := 2 } } })

theorem test_wit_stack : (∃ f, stackPlan .tdup = some (1, 1, f)) ∧ (∃ f, stackPlan (.trot 1) = some (2, 0, f)) ∧
    (stacked []).core.mash.spine.length < 1 ∧ 1 ≤ (stacked [1, 2]).core.mash.spine.length ∧
    (stacked [1, 2]).core.sys.stk.limit.toNat < (stacked [1, 2]).core.mash.spine.length + 1 ∧
    (stacked [1]).core.mash.spine.length + 1 ≤ (stacked [1]).core.sys.stk.limit.toNat :=
  ⟨⟨_, rfl⟩, ⟨_, rfl⟩, by decide, by decide, by decide, by decide⟩

/-- Two constants of 2 × 2 elements of FP32 on the stack. -/
def twoTiles : State :=
  let s := (atX 3 0x20002).modCore (fun c => { c with sys := { c.sys with stk := { c.sys.stk with limit := 8, win := 8 } } })
  after (after s (.tzer .fp32 3)) (.tzer .fp32 3)
theorem test_wit_append : ∃ f, twoTiles.appendPlan (.tadd (.direct .wrap .fp32 .rne)) = some (2, 0x12, f) ∧
    twoTiles.static67 (.tadd (.direct .wrap .fp32 .rne)) = none ∧ 2 ≤ twoTiles.core.mash.spine.length ∧
    ¬twoTiles.core.sys.stk.limit.toNat < twoTiles.core.mash.spine.length - 2 + 1 ∧
    (f (twoTiles.core.mash.tags (twoTiles.core.mash.top 2))).shapeBad = false ∧
    (f (twoTiles.core.mash.tags (twoTiles.core.mash.top 2))).fmtBad = false ∧
    (held (twoTiles.core.mash.top 2) 2 twoTiles.core).hasRoom true = true := by
  refine ⟨_, rfl, ?_⟩
  and_intros <;> decide +kernel
/-- A constant of 2 × 2 elements on one of 3 × 3, under a limit of n entries. -/
def unequalTiles (n : Nat) : State :=
  let s := (withX 0x20002 0x30003).modCore (fun c => { c with sys := { c.sys with stk := { c.sys.stk with limit := 8, win := 8 } } })
  (after (after s (.tzer .fp32 4)) (.tzer .fp32 3)).modCore (fun c =>
    { c with sys := { c.sys with stk := { c.sys.stk with limit := BitVec.ofNat 11 n } } })
/-- Too few operands, too many entries, shapes that do not fit, and a format that does not fit. -/
theorem test_wit_append_checks : base.core.mash.spine.length < 2 ∧
    (unequalTiles 0).core.sys.stk.limit.toNat < (unequalTiles 0).core.mash.spine.length - 2 + 1 ∧
    ((unequalTiles 8).appendPlan (.tadd (.direct .wrap .fp32 .rne))).map (fun p =>
      (p.2.2 ((unequalTiles 8).core.mash.tags ((unequalTiles 8).core.mash.top 2))).shapeBad) = some true ∧
    (twoTiles.appendPlan (.tadd (.direct .wrap .int8r .rne))).map (fun p =>
      let b := p.2.2 (twoTiles.core.mash.tags (twoTiles.core.mash.top 2)); (b.shapeBad, b.fmtBad)) = some (false, true) := by
  and_intros <;> decide +kernel

/-- A TAB (R163) of 2 × 2 elements of FP32 at scratchpad offset 0x1000, pitch 16, with the whole tile as its region. -/
def tabBytes : List Byte :=
  leBytes 64 (0xFFFF + 0x1000 * 2 ^ 32 + 2 * 2 ^ (8 * 0x28) + 2 * 2 ^ (8 * 0x2A) + 0xF0F * 2 ^ (8 * 0x2C) + 16 * 2 ^ (8 * 0x30) +
    0xFFFF * 2 ^ (8 * 0x34))
/-- That TAB at 0x200, with a constant of the same shape on the stack. -/
def withTab : State :=
  let s := (holding 0x200 tabBytes).modCore (fun c =>
    { c with regs := { c.regs with x := c.regs.x.set 4 0x20002 },
             sys := { c.sys with stk := { c.sys.stk with limit := 8, win := 8 } } })
  after s (.tzer .fp32 4)
/-- 32 computed values fill the value store. -/
def crowded : State := withTab.modCore (fun c => { c with mash := { c.mash with
  nodes := (List.replicate 32 (c.mash.nodes.map (fun n => { n with retired := true }))).flatten } })
theorem test_wit_node_table_full : (∃ f, crowded.appendPlan (.tzer .fp32 4) = some (0, 0x02, f) ∧
      (f (crowded.core.mash.tags (crowded.core.mash.top 0))).shapeBad = false ∧
      (f (crowded.core.mash.tags (crowded.core.mash.top 0))).fmtBad = false) ∧
    crowded.static67 (.tzer .fp32 4) = none ∧ ¬crowded.core.sys.stk.limit.toNat < crowded.core.mash.spine.length - 0 + 1 ∧
    (held (crowded.core.mash.top 0) 0 crowded.core).hasRoom true = false ∧
    (∀ n ∈ crowded.core.mash.nodes, crowded.core.mash.candidate n = false) := by
  and_intros
  · exact ⟨_, rfl, by decide +kernel, by decide +kernel⟩
  all_goals decide +kernel
theorem test_wit_tld : withTab.blockAt (withTab.x 3) 64 64 ∧
    ∃ b, parseTab (withTab.block (withTab.x 3) 64).2 = some b ∧
      (decide (withTab.memFmt b = some (some .fp32)) && decide (withTab.tileFmt (.code .fp32) b = some .fp32) &&
        decide (withTab.core.mash.spine.length + 1 ≤ withTab.core.sys.stk.limit.toNat) &&
        !(buildLd b (withTab.tabAccess b (withTab.x 0) (b.tr != false) (some .fp32) false) (some (some .fp32)) (some .fp32)).shapeBad &&
        !(buildLd b (withTab.tabAccess b (withTab.x 0) (b.tr != false) (some .fp32) false) (some (some .fp32)) (some .fp32)).fmtBad &&
        withTab.core.hasRoom true) = true :=
  ⟨by unfold State.blockAt; decide +kernel, some_of _ _ (by decide +kernel)⟩
theorem test_wit_tst : withTab.core.mash.spine = [0] ∧ (∀ m ∈ withTab.core.mash.nodes, m.pendingLoad = false) ∧
    ∃ b, parseTab (withTab.block (withTab.x 3) 64).2 = some b ∧
      (decide (withTab.memFmt b = some (some .fp32)) && !b.l2 && withTab.core.hasRoom false &&
        decide ((withTab.tabAccess b 0 b.tr (some .fp32) false).mfmt = some .fp32) &&
        !badPair (withTab.tabAccess b 0 b.tr (some .fp32) false) .fp32 .fp32 &&
        (match withTab.core.mash.node? 0 with
          | some n => decide (n.tag.fmt = .fp32) && decide (storeRegion b n.tag (some .fp32) b.region = some ⟨0, 1, 0, 1⟩)
          | none => false)) = true :=
  ⟨by decide +kernel, by decide +kernel, some_of _ _ (by decide +kernel)⟩
theorem test_wit_tfrc : withTab.core.mash.spine[0]? = some 0 ∧ ∃ n, withTab.core.mash.node? 0 = some n ∧
    decide (regionOf 0xFFFF n.tag.rows n.tag.cols = some ⟨0, 1, 0, 1⟩) = true :=
  ⟨by decide +kernel, some_of _ _ (by decide +kernel)⟩

/-- A stream descriptor (R100): kinds, formats, bases, PKG, SUBOP, and one dimension. -/
def descBytes (sk dk sf df sb db pkg sub n ss ds : Nat) : List Byte :=
  leBytes 128 (sk + dk * 2 ^ 8 + sf * 2 ^ 16 + df * 2 ^ 24 + sb * 2 ^ 64 + db * 2 ^ 128 + 2 ^ (8 * 0x18) + pkg * 2 ^ (8 * 0x1A) +
    sub * 2 ^ (8 * 0x1C) + n * 2 ^ (8 * 0x20) + ss * 2 ^ (8 * 0x24) + ds * 2 ^ (8 * 0x28))
/-- A copy of n bytes from scratchpad offset 0x1000 to 0x2000. -/
def copying (n : Nat) : State := holding 0x400 (descBytes 0 0 2 2 0x1000 0x2000 0 0 n 1 1)
/-- Lines of tensor 0 for l2wb, l2inv and l2pf. -/
def lines2 : State := holding 0x400 (descBytes 1 0 2 0 0 0 0 0 64 1 0)

theorem entersScpy : ∃ u d, EntersAs (copying 4) (.scpy 3 none 2 false) u (.scpy d) none 2 false := by
  obtain ⟨d, h, -⟩ := parsed_of (parseDesc .scpy ((copying 4).block ((copying 4).x 3) 128).2) (fun _ => true) (by decide +kernel)
  exact ⟨_, d, .scpy 3 none 2 false d ⟨by unfold State.blockAt; decide +kernel, h⟩⟩
theorem test_wit_commands : (∃ u d, EntersAs (copying 4) (.scpy 3 none 2 false) u (.scpy d) none 2 false) ∧
    (∃ u d, EntersAs lines2 (.l2wb 3 none) u (.l2wb d) none 0 false) ∧ (∃ u d, EntersAs lines2 (.l2inv 3 none) u (.l2inv d) none 0 false) ∧
    (∃ u d, EntersAs lines2 (.l2pf 3 true none) u (.l2pf d true) none 0 false) ∧
    (copying 4).core.eng.cmds.length + (copying 4).core.eng.fences.length < 64 := by
  refine ⟨entersScpy, ?_, ?_, ?_, by decide +kernel⟩
  all_goals
    obtain ⟨d, h, -⟩ := parsed_of (parseDesc .l2 (lines2.block (lines2.x 3) 128).2) (fun _ => true) (by decide +kernel)
    have hd : lines2.descAt .l2 (lines2.x 3) d := ⟨by unfold State.blockAt; decide +kernel, h⟩
  · exact ⟨_, d, .l2wb 3 none d hd⟩
  · exact ⟨_, d, .l2inv 3 none d hd⟩
  · exact ⟨_, d, .l2pf 3 true none d hd⟩
/-- sgth with its one index at the start of an empty scratchpad, and without elements. -/
theorem test_wit_gather : (∃ d, parseDesc .sgth ((copying 1).block ((copying 1).x 3) 128).2 = .ok d ∧ decide (d.listLen = 1) = true) ∧ (copying 1).blockAt ((copying 1).x 0) 4 4 ∧
    (∃ d, parseDesc .sgth ((copying 0).block ((copying 0).x 3) 128).2 = .ok d ∧ decide (d.listLen = 0) = true) :=
  ⟨parsed_of _ _ (by decide +kernel), by unfold State.blockAt; decide +kernel, parsed_of _ _ (by decide +kernel)⟩
/-- An engine with 64 commands. -/
def fullEngine : State := (copying 4).modCore (fun c => { c with eng := { c.eng with
  cmds := List.replicate 64 (base.newCmd (.sbar ⟨true, false, false⟩ ⟨true, false, false⟩) none 0 false) } })
theorem test_wit_full_engine : 64 ≤ fullEngine.core.eng.cmds.length + fullEngine.core.eng.fences.length ∧
    (∀ n ∈ fullEngine.core.mash.nodes, n.pendingLoad = false) ∧
    EntersAs fullEngine (.sbar ⟨true, false, false⟩ ⟨true, false, false⟩ none) fullEngine (.sbar ⟨true, false, false⟩ ⟨true, false, false⟩) none 0 false :=
  ⟨by decide +kernel, by decide +kernel, .sbar _ _ _⟩

/-- An atomic block (R109): iadd of 5 to the INT32 at scratchpad offset 0x1000, its result at r. -/
def atomBytes (r : Nat) : List Byte := leBytes 48 (5 * 2 ^ 8 + 0x1000 * 2 ^ 64 + 5 * 2 ^ 128 + r * 2 ^ (8 * 0x20))
def atomic (r : Nat) : State := holding 0x400 (atomBytes r)
/-- The same with one spill slot that covers the first 16 bytes of the scratchpad. -/
def spilling : State := (atomic 0).modCore (fun c => { c with task := some ⟨0, 0, 0, 0, []⟩, sys := { c.sys with stk := { c.sys.stk with spillSlots := 1 } } })
theorem test_wit_gated : (∃ d, parseDesc .sacc ((copying 4).block ((copying 4).x 3) 128).2 = .ok d) ∧
    (∃ b, parseAtom .iadd ((atomic 0x2000).atomBytes 3) (fun r => (atomic 0x2000).core.inSpill r 16) = .ok b) ∧
    (atomic 0x2000).blockAt ((atomic 0x2000).x 3) 16 48 ∧ (atomic 0x2000).static67 (.satmIadd 3 none 2) = none ∧
    (∃ c k p, sigTarget ((atX 3 0xFFFF0201).x 3) = some (c, k, p)) ∧ (atomic 0x2000).replaySafe = false ∧
    (atomic 0x2000).core.gateCmds.length < 32 ∧ (inHandler (atomic 0x2000)).static67 (.satmIadd 3 none 2) = none ∧
    (inHandler (atomic 0x2000)).core.eng.cmds.length + (inHandler (atomic 0x2000)).core.eng.fences.length < 64 := by
  refine ⟨?_, ?_, by unfold State.blockAt; decide +kernel, by decide +kernel, ⟨1, 2, 0xFFFF, by decide⟩, by decide +kernel,
    by decide +kernel, by decide +kernel, by decide +kernel⟩
  · obtain ⟨d, h, -⟩ := parsed_of (parseDesc .sacc ((copying 4).block ((copying 4).x 3) 128).2) (fun _ => true) (by decide +kernel)
    exact ⟨d, h⟩
  · obtain ⟨d, h, -⟩ := parsed_of (parseAtom .iadd ((atomic 0x2000).atomBytes 3) (fun r => (atomic 0x2000).core.inSpill r 16))
      (fun _ => true) (by decide +kernel)
    exact ⟨d, h⟩
/-- A gate with 32 commands. -/
def fullGate : State := (atomic 0x2000).modCore (fun c =>
  { c with gateCmds := List.replicate 32 (base.newCmd (.sbar ⟨true, false, false⟩ ⟨true, false, false⟩) none 0 false) })
theorem test_wit_full_gate : 32 ≤ fullGate.core.gateCmds.length ∧ fullGate.core.sys.hnd = false ∧
    fullGate.static67 (.satmIadd 3 none 2) = none := by decide +kernel
/-- RESULT fields at the edges of the three checks. -/
theorem test_wit_atom_results : (∃ b, parseAtom .iadd (((atomic 0x2008).atomBytes 3).take 0x20 ++ leBytes 4 0 ++
      ((atomic 0x2008).atomBytes 3).drop 0x24) (fun _ => false) = .ok b) ∧
    resultField ((atomic 0x2008).atomBytes 3) % 16 ≠ 0 ∧ resultField ((atomic 0x400000).atomBytes 3) = 2 ^ 22 ∧
    resultField (spilling.atomBytes 3) = 0 ∧ spilling.core.inSpill 0 16 = true := by
  refine ⟨?_, by decide +kernel, by decide +kernel, by decide +kernel, by decide +kernel⟩
  obtain ⟨d, h, -⟩ := parsed_of (parseAtom .iadd (((atomic 0x2008).atomBytes 3).take 0x20 ++ leBytes 4 0 ++
    ((atomic 0x2008).atomBytes 3).drop 0x24) (fun _ => false)) (fun _ => true) (by decide +kernel)
  exact ⟨d, h⟩

/-- A sxfr of 4 bytes to package 1, its status word at 0x3000, and a reserved slot of context 0 at 128 ns. -/
def sending (slot : Word) : State :=
  let s := (holding 0x400 (descBytes 0 3 2 2 0x1000 0 1 0x3000 4 1 1)).modCore (fun c =>
    { c with regs := { c.regs with x := c.regs.x.set 4 slot } })
  { s with fabric := { s.fabric with reservations := [⟨⟨0, s.fabric.self, 0, 128, 1, 320, 1, 0, [0], 3, 0, 4⟩, false, false, false⟩],
                                     pods := [0, 1] } }
/-- That transfer is recorded, and its segment was rolled back. -/
def sendAgain : State := (sending 128).modCore (fun c => { c with eng := { c.eng with sxfrs := [⟨128, 0x400, 5, true⟩] } })
theorem test_wit_sxfr : (∃ d, parseDesc .sxfr ((sending 128).block ((sending 128).x 3) 128).2 = .ok d ∧
      (decide (d.subop % 8 = 0) && decide (d.subop < 2 ^ 22) && !(sending 128).core.inSpill d.subop 8 && decide (d.srcBytes ≤ 12488)) = true) ∧
    (sending 128).blockAt ((sending 128).x 3) 64 128 ∧
    (sending 128).static67 (.sxfr 3 4 none) = none ∧ (sending 128).core.eng.sxfrs = [] ∧
    ((sending 128).x 4).toNat % 64 = 0 ∧ (sending 128).podTime.toNat < ((sending 128).x 4).toNat ∧ (sending 128).fabric.inStep = true ∧
    (∃ r ∈ (sending 128).fabric.reservations, r.slot.sender = (sending 128).fabric.self ∧ r.slot.ctx = (sending 128).ctxNo ∧
      r.slot.start = ((sending 128).x 4).toNat) ∧
    (sending 128).core.eng.cmds.length + (sending 128).core.eng.fences.length < 64 ∧
    ((sending 129).x 4).toNat % 64 ≠ 0 ∧
    (∀ r ∈ (sending 192).fabric.reservations, r.slot.sender = (sending 192).fabric.self → r.slot.ctx = (sending 192).ctxNo →
      r.slot.start ≠ ((sending 192).x 4).toNat) ∧
    sendAgain.core.eng.sxfrs = [SxfrRec.mk (sendAgain.x 4).toNat (sendAgain.x 3).toNat 5 true] := by
  unfold State.blockAt
  and_intros
  all_goals first | decide +kernel | exact parsed_of _ _ (by decide +kernel)

/-- Core 0 with another pc. -/
def atPc (pc : CodeAddr) : State := on (fun c => { c with pc := pc })
theorem test_wit_transfers : (atPc 64).core.pc.toNat % 64 = 0 ∧
    0 ≤ ((atPc 64).core.pc.toNat : Int) + 64 * (0x1FFFFFF : BitVec 25).toInt ∧
    ((atPc 64).core.pc.toNat : Int) + 64 * (0x1FFFFFF : BitVec 25).toInt < 2 ^ 48 ∧
    ((atPc 64).core.pc.toNat : Int) + 64 * (0x1FFFFFE : BitVec 25).toInt < 0 ∧
    2 ^ 48 ≤ ((atPc 0xFFFF_FFFF_FFC0).core.pc.toNat : Int) + 64 * (1 : BitVec 25).toInt ∧
    ((atX 63 128).x 63).toNat % 64 = 0 ∧ ((atX 63 128).x 63).toNat < 2 ^ 48 ∧ ((atX 5 129).x 5).toNat % 64 ≠ 0 ∧
    2 ^ 48 ≤ ((atX 5 0x1_0000_0000_0000).x 5).toNat ∧ ((atX 5 0x1_0000_0000_0000).x 5).toNat % 64 = 0 := by decide

/-- Core 0 inside loops. -/
def looping (ls : List LoopEntry) : State := on (fun c => { c with loops := ls })
theorem test_wit_loops : (∃ k : BitVec 14, Instr.loop 0 3 = .loop k 3 ∧ (0 : Word32) = k.setWidth 32) ∧
    (∃ k : BitVec 14, Instr.loop 9 3 = .loop k 3 ∧ (9 : Word32) = k.setWidth 32) ∧ base.core.pc.toNat % 64 = 0 ∧
    base.core.pc.toNat + 64 * ((3 : Fin 64).val + 2) < 2 ^ 48 ∧
    6 ≤ (looping (List.replicate 6 (loopAt 0 2))).core.loops.length ∧
    (looping [loopAt 0 2]).core.loops.length < 6 ∧
    (loopAt 0 2).last.toNat < (looping [loopAt 0 2]).core.pc.toNat + 64 * ((3 : Fin 64).val + 1) ∧
    (looping [loopAt 0 2]).core.pc.toNat + 64 * ((1 : Fin 64).val + 1) ≤ (loopAt 0 2).last.toNat ∧
    (∀ e ∈ base.core.loops.head?, base.core.pc.toNat + 64 * ((3 : Fin 64).val + 1) ≤ e.last.toNat) ∧
    (loopAt 0 2).last.toNat % 64 = 0 ∧ (loopAt 0 2).last.toNat + 64 < 2 ^ 48 ∧ base.core.loops = [] :=
  ⟨⟨0, rfl, by decide⟩, ⟨9, rfl, by decide⟩, by decide, by decide, by decide, by decide, by decide, by decide, by decide, by decide,
    by decide, by decide⟩

/-- A launch block: entry 64, one core, class 3, domain 2. -/
def block : LaunchBlock :=
  { addr := 0, entry := 64, opb := 0, first := 0, gang := 1, place := 0, prio := 3, hw := 0, flags := 0, limit := 4, spill := 0,
    spSlots := 0, l2Slots := 0, l2Slice := 0, domain := 2, rvGroup := 0, ctx := 0 }
/-- A task of one step on core 0. -/
def task (lb : LaunchBlock) : Task :=
  { id := 7, lb := lb, pb := { ndims := 1, pdim := 0, bounds := [1], params := [] }, cores := [0], enqueued := 0, aged := false,
    graph := none, next := [0], ended := [], succ := [], failed := false, preempted := false, replays := [] }
/-- Core 0 runs a step of a resident task. -/
def stepping (lb : LaunchBlock) : State :=
  { on (fun c => { c with task := some ⟨7, 0, 0, 0, []⟩ }) with launch := { Launch.reset with resident := [task lb] } }
theorem test_wit_segments : base.core.sys.hnd = false ∧ base.core.preempt = none ∧
    (on (fun c => { c with preempt := some 5 })).core.preempt ≠ none ∧ base.myTask = none ∧
    (stepping block).myTask = some (task block) ∧ (task block).lb.rvGroup = 0 ∧ (task block).lb.domain = (2 : Fin 16).val ∧
    (task block).lb.domain ≠ (3 : Fin 16).val ∧ (stepping { block with rvGroup := 1 }).myTask = some (task { block with rvGroup := 1 }) ∧
    (stepping block).replaySafe = false ∧ (stepping { block with flags := 1 }).replaySafe = true ∧
    (stepping block).featureMask.getLsbD 4 = false ∧ (∀ n ∈ base.core.mash.nodes, n.pendingLoad = false) := by decide
/-- A core that is held as the statements about its next step ask. -/
def heldWell (s : State) (h : Hold) : Prop :=
  s.off = false ∧ s.agenda = [] ∧ s.progress = s ∧ s.core.run = .running ∧ s.core.due = 0 ∧ s.core.hold = h ∧
    s.core.evalDue = false ∧ s.core.faultedCmd = none ∧ s.core.kTraps = [] ∧ s.preemptDue = false
theorem heldWell.holding {s : State} {h : Hold} (p : heldWell s h) : s.holding h :=
  ⟨p.1, p.2.1, p.2.2.1, p.2.2.2.1, p.2.2.2.2.1, p.2.2.2.2.2.1, p.2.2.2.2.2.2.1, p.2.2.2.2.2.2.2.1, p.2.2.2.2.2.2.2.2.1,
    p.2.2.2.2.2.2.2.2.2⟩
/-- Core 0 before a commit, with a gated store of one byte. -/
def committing (a : After) (fs : List InFlight) : State :=
  on (fun c => { c with hold := .commit a, gate := [⟨[(spadBase 0, 7)], [], 0, 0⟩], flight := fs })
/-- A result whose data bears a mark. -/
def markedLoad : InFlight := { what := .x 5 0, k := 3, mark := some ⟨false, 0⟩, wait := none }
theorem test_wit_commit : (committing .ckpt []).holding (.commit .ckpt) ∧ (committing .ckpt []).core.commitReady = true ∧
    (∀ e ∈ (committing .ckpt []).core.flight, e.mark = none) ∧ (committing .implicit []).holding (.commit .implicit) ∧
    (committing .implicit []).core.commitReady = true ∧ (committing .implicit []).core.gateCmds = [] ∧
    (committing .implicit []).core.eng.cmds = [] := by
  refine ⟨heldWell.holding (by unfold heldWell; decide +kernel), ?_⟩
  refine ⟨by decide +kernel, by decide, heldWell.holding (by unfold heldWell; decide +kernel), ?_⟩
  decide +kernel
theorem test_wit_marked_commit : (committing .ckpt [markedLoad]).holding (.commit .ckpt) ∧
    (committing .ckpt [markedLoad]).core.commitReady = true ∧ (committing .ckpt [markedLoad]).core.sys.hnd = false ∧
    (committing .ckpt [markedLoad]).core.retry = false ∧ (committing .ckpt [markedLoad]).core.flight = markedLoad :: [] ∧
    markedLoad.mark.isSome = true :=
  ⟨heldWell.holding (by unfold heldWell; decide +kernel), by decide +kernel⟩
/-- The one step of its task ends on core 0. -/
def endingStep : State :=
  { stepping block with core := { (stepping block).core with hold := .endStep [64] } }
theorem test_wit_step_ends : endingStep.holding (.endStep [64]) ∧ endingStep.core.settled = true ∧ endingStep.core.lateTraps = [] ∧
    endingStep.core.task = some ⟨7, 0, 0, 0, []⟩ ∧ endingStep.task? 7 = some (task block) ∧
    (task block).pb.total ≤ ((task block).next[0]?).getD (task block).pb.total + 1 :=
  ⟨heldWell.holding (by unfold heldWell; decide +kernel), by decide +kernel⟩

/-- Core 0 in the entry of a trap, with nothing that it waits for. -/
def enteringTrap : State := on (fun c => { c with hold := .entering Cause.software 5 0 .none false })
/-- A remote load of core 0 that a store of its own, held by a fence.rel, keeps from its data. -/
def loadBehind : State := on (fun c => { c with
  remote := [⟨2, true, [(spadBase 1, 1)], [7], .scalar 1 false 0 false, false, 0, [1], false⟩,
             ⟨3, false, [(spadBase 1, 1)], [], .scalar 1 false 5 false, false, 0, [], false⟩],
  flight := [{ what := .x 5 0, k := 16, mark := none, wait := some ⟨3, 0, false⟩ }],
  eng := { c.eng with fences := [⟨1, .pod, [], [], none⟩] } })
theorem test_wit_traps : base.core.sys.hnd = false ∧ base.core.remote = [] ∧ base.core.awaitsData = false ∧
    (inHandler base).core.sys.hnd = true ∧ base.arriveLoads.core.awaitsData = false ∧
    loadBehind.core.sys.hnd = false ∧ loadBehind.arriveLoads.core.awaitsData = true ∧
    enteringTrap.off = false ∧ enteringTrap.agenda = [] ∧ enteringTrap.progress = enteringTrap ∧ enteringTrap.core.run = .running ∧
    enteringTrap.core.due = 0 ∧ enteringTrap.core.hold = .entering Cause.software 5 enteringTrap.core.pc .none false ∧
    enteringTrap.core.remote = [] ∧ enteringTrap.core.awaitsData = false := by
  and_intros <;> decide +kernel

/-- Core 0 waits for the return from its handler. -/
def returning : State := inHandler (on (fun c => { c with hold := .ret none }))
theorem test_wit_returns : heldWell returning (.ret none) ∧ returning.core.flight = [] ∧ returning.core.remote = [] ∧
    returning.core.lateTraps = [] ∧ (inHandler (atX 3 0x40)).core.sys.hnd = true ∧ ((inHandler (atX 3 0x40)).x 3).toNat < 2 ^ 22 ∧
    ((inHandler (atX 3 0x40)).x 3).toNat % 64 = 0 ∧ (inHandler (atX 3 0x40)).core.inSpill 0x40 64 = false ∧
    spilling.core.inSpill 0 64 = true := by
  unfold heldWell; decide +kernel

/-- The same with a late trap that is held. -/
def heldLate : State := { returning with core := { returning.core with lateTraps := [⟨Cause.remoteIndeterminate, 2, none⟩] } }
theorem test_wit_held_late : heldWell heldLate (.ret none) ∧ heldLate.core.eng.cmds = [] ∧ heldLate.core.flight = [] ∧
    (∀ e ∈ heldLate.core.late, e.waits = false) ∧ heldLate.core.remote = [] ∧
    heldLate.core.lateTraps = [⟨Cause.remoteIndeterminate, 2, none⟩] := by
  unfold heldWell; decide +kernel

/-- An invalidation under way on core 0. -/
def invalidating (code : Option (Nat × Nat)) (f : Option FlagNo) : State := on (fun c => { c with eng := { c.eng with
  invals := [⟨4, 0, code, .all, .package, f, 0, false⟩] } })
theorem test_wit_invalidations : base.static67 (.icinv 1 2 none .package) = none ∧ (base.x 1).toNat < 2 ^ 48 ∧
    base.static67 (.tlbiAll (some 3) true) = none ∧ base.static67 (.tlbiTensor 1 2 none true) = none ∧
    base.static67 (.tlbiRange 1 4 none true) = none ∧ base.static67 (.tlbiRange 1 4 (some 3) true) = none ∧ (base.x 4).toNat / 2 ^ 32 % 2 ^ 20 = 0 ∧
    ((atX 4 0x1_0000_0000).x 4).toNat / 2 ^ 32 % 2 ^ 20 ≠ 0 ∧
    (invalidating none (some 3)).core.eng.invals = [⟨4, 0, none, .all, .package, some 3, 0, false⟩] ∧
    (invalidating (some (0, 64)) none).core.eng.invals = [⟨4, 0, some (0, 64), .all, .package, none, 0, false⟩] := by decide

/-- The context is virtual function 0's, and the hypervisor masks some features of it. -/
def masking (m : BitVec 9) (route : Bool) : State :=
  { on (fun c => { c with sys := { c.sys with dbgRoute := route } }) with
    ctxs := [{ codeContext 0 0 with cores := [0, 1], vf := some 0 }],
    malt := { base.malt with vfMasks := Vector.replicate 17 m } }
theorem test_wit_privilege : SysReg.trapVec.handlerOnly = true ∧ SysReg.dbgRoute.kernelOnly = true ∧
    (inHandler base).featureMask.getLsbD 4 = false ∧ (Instr.launch 1 2).inSlot = true ∧ (Instr.launch 1 2).feature = some 4 ∧
    (masking 0x10 false).featureMask.getLsbD 4 = true ∧ (masking 0x10 false).core.sys.hnd = false ∧
    (masking 0x10 false).core.sys.dbgRoute = false ∧ (masking 0x10 false).core.remote = [] ∧
    (masking 0x10 true).featureMask.getLsbD 4 = true ∧ (masking 0x10 true).core.sys.dbgRoute = true := by decide

/-- Cluster-remote accesses of core 0. -/
def far (as : List RemAccess) : State := on (fun c => { c with remote := as })
def farStore (id : Nat) : RemAccess :=
  { id := id, store := true, lanes := [(spadBase 1, 1)], data := [7], form := .scalar 1 false 0 false, performed := false, pc := 0,
    deps := [], handler := false }
def farLoad : RemAccess := { farStore 3 with store := false, data := [], form := .scalar 1 false 5 false }
theorem test_wit_accesses : (far [farStore 3]).core.remote = [farStore 3] ∧ (farStore 3).store = true ∧ (farStore 3).performed = false ∧
    (far [farStore 3]).core.eng.fences = [] ∧ (far [farStore 3]).marks = [] ∧
    (far [farStore 4, farStore 3]).core.remote = [farStore 4, farStore 3] ∧ (farStore 4).id ≠ (farStore 3).id ∧
    (farStore 4).meets (farStore 3) = true ∧ farLoad.store = false ∧ (∀ l ∈ farLoad.lanes, inSpad (far [farLoad]).cur l.1 = false) ∧
    (far [farLoad]).core.late = [] := by decide
/-- The load's result in flight. -/
def farFlight : InFlight := { what := .x 5 0, k := 16, mark := none, wait := some ⟨3, 0, false⟩ }
theorem test_wit_far_load : ((far [farLoad]).modCore (fun c => { c with flight := [farFlight] })).core.flight = [farFlight] ∧
    farFlight.wait = some ⟨3, 0, false⟩ ∧ farLoad.id = 3 := by decide
theorem test_wit_store_wait : (on (fun c => { c with hold := .store })).core.hold = .store ∧
    (on (fun c => { c with hold := .store })).progress = on (fun c => { c with hold := .store }) := by decide +kernel
/-- A store of a byte in a bundle that needs a full gate. -/
def gateFull : State := (placed (0x0400 ||| (0x09 <<< 32 ||| 4 <<< 21 ||| 3 <<< 15) <<< 144)).modCore (fun c =>
  { c with gate := List.replicate 256 ⟨[], [], 0, 0⟩ })
theorem stalled_of (t : Trial) (h : (match t with | .stalled _ .gate => true | _ => false) = true) : ∃ s, t = .stalled s .gate := by
  cases t with
  | stalled s w => cases w <;> simp_all
  | _ => simp_all
theorem test_wit_implicit : gateFull.atRest ∧ ∃ t, gateFull.tryBundle = .stalled t .gate :=
  ⟨by unfold State.atRest; decide +kernel, stalled_of _ (by decide +kernel)⟩
theorem test_wit_sync : let w := aluBundle (regWord 0x04 5 0 0 0) ||| 1 <<< 19
    (placed w).atRest ∧ (placed w).fetch.2 = .word w ∧ (placed w).core.regs.synced w = false ∧ addAtPc.atRest ∧
    addAtPc.fetch.2 = .word (aluBundle (regWord 0x04 5 0 0 0)) ∧ addAtPc.core.regs.synced (aluBundle (regWord 0x04 5 0 0 0)) = true := by
  unfold State.atRest; decide +kernel

/-- The constant on the stack of withTab is demanded at its element (0, 0). -/
def demanded : State := withTab.modCore (fun c => { c with mash := { c.mash with
  demands := [⟨5, 0, ⟨0, 0, 0, 0⟩, .sstep, ⟨0, 0, 0⟩, none, false, false⟩] } })
theorem test_wit_evaluation : demanded.core.faultOf false = none ∧
    demanded.core.mash.demands = [⟨5, 0, ⟨0, 0, 0, 0⟩, .sstep, ⟨0, 0, 0⟩, none, false, false⟩] ∧ 0 ∈ demanded.core.mash.spine ∧
    ∃ n, demanded.core.mash.node? 0 = some n ∧ (decide (n.op = .const ⟨0, 0, none⟩) && decide (n.st = .live) && !n.retired &&
      decide (n.vals = []) && decide (n.drows = []) && decide (n.dcols = []) && !n.tag.fmt.isBlock && decide (0 < n.tag.rows) &&
      decide (0 < n.tag.cols)) = true :=
  ⟨by decide +kernel, by decide +kernel, by decide +kernel, some_of _ _ (by decide +kernel)⟩
/-- A node of 1 × 1 FP32 of which nothing is computed. -/
def tileNode (id : Nat) (op : NodeOp) (args : List Nat) : TileNode :=
  { id := id, op := op, opcode := 0, args := args, tag := ⟨1, 1, .fp32, false⟩, mode := ⟨.fp32, .rne, false, false, false⟩,
    srCtr := 0, srKey := 0, origin := ⟨0, 0, 0⟩, st := .live, drows := [], dcols := [], vals := [], sectors := [], pinned := [], raw := [],
    rfmt := none, after := [], closing := none, retired := false, loc := .none }
/-- A materialised value of these elements. -/
def tileValue (id : Nat) (t : Tag) (es : List Nat) : TileNode :=
  { tileNode id (.const ⟨0, 0, none⟩) [] with tag := t, retired := true, vals := es.zipIdx.map (fun p => (p.2, ⟨p.1, 0, none⟩)) }
/-- The demand of the one element of node 2. -/
def demand2 : Demand := ⟨5, 2, ⟨0, 0, 0, 0⟩, .sstep, ⟨0, 0, 0⟩, none, false, false⟩
/-- Node 2 on the stack, demanded, over two operand values. -/
def demanding (a b n : TileNode) : State := base.modCore (fun c =>
  { c with mash := { c.mash with nodes := [a, b, n], spine := [2], nextId := 3, demands := [demand2] } })
/-- 1.0 + 2.0, the sum of 1.0 · 2.0 + 3.0 · 4.0, and (−2)(3) in INT8 × INT8. -/
def adding : State := demanding (tileValue 0 ⟨1, 1, .fp32, false⟩ [0x3F80_0000]) (tileValue 1 ⟨1, 1, .fp32, false⟩ [0x4000_0000])
  (tileNode 2 (.ew .add false) [0, 1])
def dotting : State := demanding (tileValue 0 ⟨1, 2, .fp32, false⟩ [0x3F80_0000, 0x4040_0000])
  (tileValue 1 ⟨2, 1, .fp32, false⟩ [0x4000_0000, 0x4080_0000]) (tileNode 2 (.mma false) [0, 1])
def dottingInt : State := demanding (tileValue 0 ⟨1, 1, .int8, false⟩ [0xFE]) (tileValue 1 ⟨1, 1, .int8, false⟩ [3])
  (tileNode 2 (.mma true) [0, 1])
/-- A load of the INT8 element −2 at offset 0x41 of the own scratchpad into FP32. -/
def tileLoad : TileAccess := ⟨.spad (spadBase 0 + 0x40), 16, 0, 1, false, some .int8, .rne, false, false, false, false⟩
def loadingTile : State := (demanding (tileValue 0 ⟨1, 1, .fp32, false⟩ [0]) (tileValue 1 ⟨1, 1, .fp32, false⟩ [0])
  (tileNode 2 (.load tileLoad) [])).writeCells [(spadBase 0 + 0x41, 0xFE)]
/-- What evaluation gives element (0, 0) of node 2. -/
def evaluated (s : State) : Option Elem := ((after s .demandEvaluation).core.mash.node? 2).bind (fun m => m.val? 0 0)
theorem demands_of (s : State) (n : TileNode) (h : (decide (s.core.faultOf false = none) && decide (s.core.mash.demands = [demand2]) &&
    decide (s.core.mash.node? 2 = some n) && decide (2 ∈ s.core.mash.spine) && decide (n.st = .live) && !n.retired &&
    (decide (n.vals = []) && decide (n.drows = []) && decide (n.dcols = [])) && (!n.tag.fmt.isBlock && !n.tag.fmt.isScaled) &&
    decide (0 < n.tag.rows) && decide (0 < n.tag.cols)) = true) : s.demands demand2 n 0 0 := by
  simp only [Bool.and_eq_true, decide_eq_true_eq, Bool.not_eq_true'] at h
  obtain ⟨⟨⟨⟨⟨⟨⟨⟨⟨h1, h2⟩, h3⟩, h4⟩, h5⟩, h6⟩, h7⟩, h8⟩, h9⟩, h10⟩ := h
  exact ⟨h1, h2, rfl, h3, h4, h5, h6, ⟨h7.1.1, h7.1.2, h7.2⟩, h8, h9, h10, rfl⟩
theorem test_wit_elementwise : adding.demands demand2 (tileNode 2 (.ew .add false) [0, 1]) 0 0 ∧
    ∃ va vb, adding.core.mash.given 0 false 0 0 = some va ∧ adding.core.mash.given 1 false 0 0 = some vb :=
  ⟨demands_of _ _ (by decide +kernel), _, _, rfl, rfl⟩
theorem test_wit_dot : dotting.demands demand2 (tileNode 2 (.mma false) [0, 1]) 0 0 ∧
    dottingInt.demands demand2 (tileNode 2 (.mma true) [0, 1]) 0 0 ∧
    (∀ k < 2, ∃ v, dotting.core.mash.given 0 false 0 k = some v) ∧ (∀ k < 2, ∃ v, dotting.core.mash.given 1 false k 0 = some v) ∧
    (∃ v, dottingInt.core.mash.given 0 false 0 0 = some v) ∧ (∃ v, dottingInt.core.mash.given 1 false 0 0 = some v) := by
  refine ⟨demands_of _ _ (by decide +kernel), demands_of _ _ (by decide +kernel), ?_, ?_, ⟨_, rfl⟩, ⟨_, rfl⟩⟩ <;>
    · intro k hk
      match k, hk with
      | 0, _ => exact ⟨_, rfl⟩
      | 1, _ => exact ⟨_, rfl⟩
theorem test_wit_load_value : loadingTile.demands demand2 (tileNode 2 (.load tileLoad) []) 0 0 ∧
    (tileNode 2 (.load tileLoad) []).loadsFrom tileLoad .int8 (spadBase 0 + 0x40) 0 0 0 1 ∧ inSpad loadingTile.cur (spadBase 0 + 0x40) = true ∧
    loadingTile.core.gate = [] ∧ loadingTile.marks = [] ∧ loadingTile.core.inSpill 0x41 1 = false :=
  ⟨demands_of _ _ (by decide +kernel), ⟨rfl, by decide, rfl, rfl, by decide, rfl, rfl⟩, by decide +kernel, by decide +kernel,
    by decide +kernel, by decide +kernel⟩
/-- By hand: 3.0, 14.0 and −2.0 in FP32 (R197, R216, R232, R167). -/
theorem test_values : evaluated adding = some ⟨0x4040_0000, 0, none⟩ ∧ evaluated dotting = some ⟨0x4160_0000, 0, none⟩ ∧
    evaluated loadingTile = some ⟨0xC000_0000, 0, none⟩ := by decide +kernel
/-- A tst of that constant whose demand has been evaluated. -/
def stored : State := after (after withTab (.tst 3 0 (some 3))) .demandEvaluation
theorem test_wit_store_node : ∃ o, stored.core.mash.stores.head? = some o ∧ (decide (stored.core.mash.stores = [o]) && !o.sent &&
      decide (o.done = 0) && decide (stored.core.mash.demands = []) && stored.storeReady o &&
      !badPair o.access .fp32 .fp32 && (match o.access.place with | .remote _ _ => false | _ => true) &&
      (match stored.core.mash.node? o.src with
        | some src => decide (src.tag.fmt = .fp32) && (storeCells o src .fp32).all (fun c => decide (c.ex = .none)) &&
            (match (stored.storePlaces o).2 with
              | (places, none) => decide ((stored.storePlaces o).1 = stored) && decide (places.head?.map (fun p => p.2.2.fmt) = some .fp32) &&
                  decide ((writeSectors (storeWrites .fp32 places (storeCells o src .fp32))).length ≤ 1)
              | _ => false)
        | none => false)) = true := some_of _ _ (by decide +kernel)
/-- A cluster-remote store whose sectors have gone out. -/
def storeSent : State := stored.modCore (fun c => { c with mash := { c.mash with stores := c.mash.stores.map (fun o => { o with sent := true }) } })
theorem test_wit_store_sent : storeSent.core.mash.stores.map (fun o => o.sent) = [true] ∧ storeSent.core.mash.demands = [] := by
  decide +kernel
/-- A tfrc of that constant, whose elements ahead-of-demand evaluation then computes. -/
def forced : State :=
  after (after (after (after (after withTab (.tfrc 0 0 5)) (.evalAheadOfDemand 0 0 0)) (.evalAheadOfDemand 0 0 1)) (.evalAheadOfDemand 0 1 0))
    (.evalAheadOfDemand 0 1 1)
theorem test_wit_force : ∃ d, forced.core.mash.demands.head? = some d ∧ (decide (forced.core.mash.demands = [d]) && d.flag.isSome &&
    forced.core.mash.computed d.node d.region && decide (forced.core.due = 0)) = true := some_of _ _ (by decide +kernel)
/-- An evaluation fault that waits for the boundary. -/
def faulting (w : EngFault) : State := on (fun c => { c with evalFault := some ⟨w, 1, 2, 3, 4, false⟩ })
theorem test_wit_eval_fault : (faulting (.cause Cause.address 0)).quiet ∧
    (faulting (.cause Cause.address 0)).core.evalFault = some ⟨.cause Cause.address 0, 1, 2, 3, 4, false⟩ ∧
    isRecovery Cause.address = false := by unfold State.quiet; decide
/-- An evaluation fault behind a remote load whose data cannot come yet, and the entry that has waited for it. -/
def faultBehind : State := loadBehind.modCore (fun c => { c with evalFault := some ⟨.cause Cause.address 0, 1, 2, 3, 4, false⟩ })
def enteringBack : State := on (fun c => { c with hold := .entering Cause.address 5 0 .none true })
theorem test_wit_eval_fault_waits : faultBehind.core.run = .running ∧ faultBehind.core.due = 0 ∧ faultBehind.core.sys.hnd = false ∧
    faultBehind.core.entering = false ∧ faultBehind.arriveLoads.core.awaitsData = true ∧ enteringBack.off = false ∧
    enteringBack.agenda = [] ∧ enteringBack.progress = enteringBack ∧ enteringBack.core.run = .running ∧ enteringBack.core.due = 0 ∧
    enteringBack.core.sys.hnd = false ∧ enteringBack.core.hold = .entering Cause.address 5 enteringBack.core.pc .none true ∧
    enteringBack.core.remote = [] ∧ enteringBack.core.awaitsData = false := by
  and_intros <;> decide +kernel

/-- One command in the engine of core 0, which stands in its context. -/
def engine (c : Cmd) : State := on (fun k => { k with eng := { k.eng with cmds := [c], nextId := 1 } })
def barrier : Cmd := base.newCmd (.sbar ⟨true, true, true⟩ ⟨true, true, true⟩) (some 4) 0 false
def signalCmd : Cmd := base.newCmd (.ssig 0 2 0 5 none) (some 4) 2 false
theorem test_wit_commands_end : (engine barrier).core.eng.cmds = [barrier] ∧ (engine barrier).core.eng.fences = [] ∧
    barrier.fault = none ∧ barrier.after = [] ∧ barrier.accs = [] ∧ barrier.discard = false ∧
    signalCmd.op = .ssig 0 2 (engine signalCmd).fabric.self 5 none ∧ (engine signalCmd).cur = 0 ∧ (engine signalCmd).core.run = .running ∧
    (engine signalCmd).ctxNo = 0 ∧ (engine signalCmd).core.sys.ctxId.toNat = 0 ∧
    (∃ x, (engine signalCmd).ctx? (engine signalCmd).ctxNo = some x ∧ (decide ((engine signalCmd).cur ∈ x.cores) && decide (x.saved = [])) = true) ∧
    signalCmd.fault = none ∧ signalCmd.after = [] ∧ signalCmd.accs = [] ∧ signalCmd.discard = false :=
  ⟨by decide, by decide, by decide, by decide, by decide, by decide, by decide, by decide, by decide, by decide, by decide,
    some_of _ _ (by decide), by decide, by decide, by decide, by decide⟩
/-- A write of counter 2 is in flight. -/
def counterFlying : State := (engine signalCmd).modCore (fun c => { c with flight := [fly (.ctr 2 7) 1] })
theorem test_wit_signal_increment : (engine signalCmd).noWriteOf 2 ∧ counterFlying.core.flight = [fly (.ctr 2 7) 1] ∧
    counterFlying.core.eng.cmds = [signalCmd] := by
  refine ⟨?_, rfl, rfl⟩
  intro e h
  exact absurd h (by decide +revert)
/-- A copy of one byte has entered the engine. -/
def copyOne : State := after (copying 1) (.scpy 3 (some 4) 2 false)
theorem test_wit_copy_ends : ∃ c, copyOne.core.eng.cmd? 0 = some c ∧ (decide (c.fault = none) && !copyOne.cmdBlocked c && decide (c.pos = 0) &&
    (match c.op with
      | .scpy d => decide (0 < d.total) && !copyOne.otherPkg d.src.kind d.pkg && !copyOne.otherPkg d.dst.kind d.pkg &&
          (match copyOne.copyStep c d none with
            | (_, k, .more) => decide (k.pos = d.total) && decide (k.id = c.id) && !k.discard && decide (k.flag = c.flag)
            | _ => false)
      | _ => false)) = true := some_of _ _ (by decide +kernel)
def faulted (committed : Bool) : Cmd := { barrier with fault := some (.cause Cause.address 0), committed := committed }
theorem test_wit_command_fault : (engine (faulted true)).quiet ∧ (faulted true).fault = some (.cause Cause.address 0) ∧
    (faulted true).committed = true ∧ (engine (faulted false)).quiet ∧ (faulted false).committed = false := by
  unfold State.quiet; decide
/-- The core that issues add has a late trap. -/
def lateAtPc : State := addAtPc.modCore (fun c => { c with lateTraps := [⟨Cause.software, 1, none⟩] })
theorem test_wit_late_trap : lateAtPc.quiet ∧ lateAtPc.core.lateTraps = ⟨Cause.software, 1, none⟩ :: [] ∧
    lateAtPc.rollbackDue = false ∧ lateAtPc.core.kTraps = [] ∧ lateAtPc.bundleFaults = false ∧ addAtPc.quiet ∧
    addAtPc.takesKernel Cause.watchdog 5 ∧ addAtPc.takesKernel Cause.fabricLoss 5 ∧
    Cause.software ≠ Cause.watchdog ∧ Cause.software ≠ Cause.fabricLoss := by
  unfold State.quiet State.takesKernel; decide +kernel

/-- Core 0 waits for the kernel or the hypervisor. -/
def waiting (h : Hold) : State := on (fun c => { c with hold := h })
theorem test_wit_page_faults : (faulting (.page 2 3)).quiet ∧
    (faulting (.page 2 3)).core.evalFault = some ⟨.page 2 3, 1, 2, 3, 4, false⟩ ∧ (waiting (.page 2 3 ⟨0, none, none⟩)).quiet ∧
    (waiting (.page 2 3 ⟨0, none, none⟩)).core.hold = .page 2 3 ⟨0, none, none⟩ ∧
    (waiting (.page 2 3 ⟨0, none, none⟩)).core.eng.cmds = [] ∧ (waiting (.stage2 0 2 3 false ⟨0, none, none⟩)).quiet ∧
    (waiting (.stage2 0 2 3 false ⟨0, none, none⟩)).core.hold = .stage2 0 2 3 false ⟨0, none, none⟩ ∧
    (waiting (.hypervisor 5)).core.hold = .hypervisor 5 ∧ (waiting (.hypervisor 5)).quiet ∧ base.portsIdle := by
  unfold State.quiet State.portsIdle; decide

/-- A signal from package 5, context 0, to counter 2 of core 0. -/
def signalReq (core serial : Nat) : RemReq :=
  { cls := 2, owner := 0, pkg := 5, ctx := 0, serial := serial, ack := 0, retx := false, inc := 1, tag := 9, body := .ssig core 2 3 }
/-- The ports of both dies with entries in the reply cache of die 0, and the fabric up. -/
def cached (es : List ReplyEntry) : State :=
  { base with ports := #v[⟨es, [], 1, []⟩, Port.reset], malt := { base.malt with links := ⟨true, true, true⟩ } }
/-- A known answer to signal 4. -/
def answered (b : RepBody) : ReplyEntry := ⟨5, 0, 4, b, 1, false⟩
theorem test_wit_signal_arrives : base.malt.links.fabric = false ∧ (cached []).malt.links.fabric = true ∧
    (signalReq 0 4).body = .ssig 0 2 3 ∧ (cached []).liveHere 0 0 ∧ (cached []).noWriteOf 2 ∧ (signalReq 0 4).cls ≠ 0 ∧
    (∀ q ∈ (cached []).ports.toList, q.cache = []) ∧ Port.reset.acks = [] ∧ (signalReq 0 4).retx = false ∧
    newer (signalReq 0 4).serial (signalReq 0 4).ack = true := by
  refine ⟨rfl, rfl, rfl, ⟨rfl, by decide, by decide, base.ctxs.head (by decide), by decide +kernel⟩, ?_, by decide⟩
  intro e h
  exact absurd h (by decide +revert)
theorem test_wit_signal_known : serialised (signalReq 0 4).body = true ∧
    (cached [answered (.ok false 8)]).ports[dieNo false] = ⟨[answered (.ok false 8)], [], 1, []⟩ ∧
    ((cached [answered (.ok false 8)]).ports[dieNo true]).cache = [] ∧ (answered (.ok false 8)).pkg = (signalReq 0 4).pkg ∧
    (answered (.ok false 8)).ctx = (signalReq 0 4).ctx ∧ (answered (.ok false 8)).serial = (signalReq 0 4).serial ∧
    (answered (.ok false 8)).pending = false ∧ (answered (.fault Cause.protection 0)).rep = .fault Cause.protection 0 := by
  and_intros <;> decide +kernel
/-- A signal of core 0 is out toward owner 5 with serial 1, after n transmissions and b busy answers. -/
def outCmd : Cmd := base.newCmd (.ssig 0 2 5 3 none) (some 4) 2 false
def outOps (n : Nat) (b : Option Nat) : OwnerSt :=
  { OwnerSt.fresh 5 with
    next := 2, inc := some 1,
    ops := [{ serial := 1, req := some (signalReq 0 1), core := 0, cmd := 0, busy := 0, tries := n, sentAt := 0, busyAt := b,
              completed := false }] }
def outState (n : Nat) (b : Option Nat) (now : Word) : State :=
  { engine outCmd with
    ctxs := [{ codeContext 0 0 with cores := [0, 1], owners := [outOps n b] }], podTime := now,
    malt := { base.malt with links := ⟨true, true, true⟩ } }
theorem test_wit_out : ∃ c, (outState 1 none 0).outOp 0 5 1 c (outOps 1 none)
      { serial := 1, req := some (signalReq 0 1), core := 0, cmd := 0, busy := 0, tries := 1, sentAt := 0, busyAt := none,
        completed := false } outCmd ∧ dropFires c.inj 5 1 = false ∧ 1 < tmoLimit c.tmo ∧ tmoLimit c.tmo ≤ 64 :=
  ⟨(outState 1 none 0).ctxs.head (by decide), ⟨rfl, rfl, by decide +kernel, rfl, rfl, rfl, rfl, by decide, rfl, rfl, rfl, rfl⟩,
    by decide, by decide, by decide⟩
/-- T2 is 20 µs (R129). -/
theorem test_wit_timeouts : outCmd.op = .ssig 0 2 5 3 none ∧ (outState 1 none 0).malt.links.fabric = true ∧
    (outState 1 none 19999).timedOut 0 2 0 = false ∧ (outState 1 none 20000).timedOut 0 2 0 = true ∧
    (outState 64 (some 0) 20000).timedOut 0 (signalReq 0 1).cls 0 = true := by
  and_intros <;> decide +kernel
/-- A query of the incarnation is out. -/
def asking : State := { base with ctxs := [{ codeContext 0 0 with owners := [{ OwnerSt.fresh 5 with query := some 0 }] }] }
theorem test_wit_query : (asking.side 0 5).query = some 0 ∧ asking.timedOut 0 1 0 = false ∧
    ({ asking with podTime := 5000 } : State).timedOut 0 1 0 = true ∧ (base.side 0 5).query = none := by
  and_intros <;> decide +kernel
/-- An acknowledgement has advanced, at a pod time. -/
def acking (now : Word) : State :=
  { base with ctxs := [{ codeContext 0 0 with owners := [{ OwnerSt.fresh 5 with acked := 3 }] }], podTime := now }
theorem test_wit_ack_alone : newer ((acking 0).side 0 5).acked ((acking 0).side 0 5).ackSent = true ∧
    (acking 49999).podTime.toNat < ((acking 49999).side 0 5).ackAt + 50000 ∧
    ((acking 50000).side 0 5).ackAt + 50000 ≤ (acking 50000).podTime.toNat ∧ base.ports[0].acks = [] := by decide +kernel
theorem test_wit_restart : 1 ≤ 2 ∧ 2 ≤ 65535 ∧ ∀ p ∈ base.ports.toList, p.inc ≠ 2 := by decide

/-- The sxfr of sending 128 is admitted, at a pod time. -/
def admitted (now : Word) (tries : Nat) (delivered : Bool) : State :=
  let s := after (sending 128) (.sxfr 3 4 (some 6))
  { s with podTime := now,
           fabric := { s.fabric with transfers := s.fabric.transfers.map (fun t => { t with tries := tries, delivered := delivered }) } }
/-- What the statements about a transfer ask of one. -/
def transferOk (s : State) : Bool :=
  match s.fabric.transfers with
  | [t] =>
    match s.core.eng.cmd? t.cmd, s.reservationOf t with
    | some c, some r => decide (s.transfer? t.id = some t) && decide (t.core = s.cur) && decide (t.ctx = s.ctxNo) && !r.abandoned && !r.peerAbandoned &&
        !s.ownPackage t.desc.pkg && (match s.transferData t with
          | (u, .ok _) => decide (u = s)
          | _ => false) && decide (s.core.eng.cmds = [c]) && decide (c.id = t.cmd) && decide (c.fault = none) && decide (c.after = []) &&
        decide (c.accs = []) && !c.discard && decide (r.slot.start = 128) && decide (r.slot.retry = 320)
    | _, _ => false
  | _ => false
theorem test_wit_transfer : transferOk (admitted 128 0 false) = true := by decide +kernel
theorem test_wit_transfer_retry : transferOk (admitted 320 1 false) = true := by decide +kernel
/-- The arrival lies between the slot's first and last nanosecond. -/
theorem test_wit_transfer_deadline : transferOk (admitted 192 1 true) = true ∧ 128 + 64 * 1 ≤ (192 : Word).toNat ∧ 128 ≤ 2 * 64 + 63 ∧
    2 * 64 ≤ 128 + 64 * 1 ∧ (admitted 192 1 true).core.eng.fences = [] ∧ (admitted 192 1 true).core.mash.stores = [] := by decide +kernel
/-- Times before and after the two slots, and marks. -/
theorem test_wit_transfer_waits : (admitted 127 0 false).podTime.toNat < 128 ∧ 128 + 64 ≤ (admitted 192 0 false).podTime.toNat ∧
    (admitted 319 1 false).podTime.toNat < 320 ∧ 320 + 64 ≤ (admitted 384 1 false).podTime.toNat ∧ (admitted 128 0 false).noRanges := by
  unfold State.noRanges; decide +kernel
/-- A packet of class 2 is out. -/
def outPacket (now : Word) : State :=
  { base with podTime := now, fabric := { base.fabric with out := [⟨3, 0, 0, 0, signalReq 0 0, false, false, 0, none⟩] } }
theorem test_wit_packet : (outPacket 0).fabric.out = [⟨3, 0, 0, 0, signalReq 0 0, false, false, 0, none⟩] ∧
    (outPacket 0).timedOut 0 2 0 = false ∧ (outPacket 20000).timedOut 0 2 0 = true := by
  and_intros <;> decide +kernel

/-- A queued task of core 0, which is in service. -/
def queued (lb : LaunchBlock) (rs : List Task) : State :=
  { base with malt := { base.malt with coreMap := [(0, 0), (1, 1)] }, launch := { Launch.reset with queue := [task lb], resident := rs } }
theorem test_wit_dispatch : ∃ q, (queued block []).pickTask = some q ∧ decide (q.1 = task block) = true ∧ (task block).cores = [(queued block []).cur] ∧
    (task block).ended = [] ∧ (∀ c ∈ (queued block []).ctxs, c.saved = []) ∧ (queued block []).launch.waiting = [] := by
  obtain ⟨q, h, h2⟩ := some_of (queued block []).pickTask (fun q => decide (q.1 = task block)) (by decide)
  exact ⟨q, h, h2, by decide, by decide, by decide, by decide⟩
theorem test_wit_preemption : preempts 7 3 = true ∧ (task { block with prio := 7 }).needs = [0] ∧
    (queued { block with prio := 7 } [task block]).launch.resident = [task block] ∧ base.core.preempt = none := by decide
/-- Core 0 is marked, at pod time 5. -/
def marked : State := { addAtPc with podTime := 5, core := { addAtPc.core with preempt := some 5, task := some ⟨7, 0, 0, 0, []⟩ } }
theorem test_wit_horizon : marked.core.preempt = some 5 ∧ 5 ≤ marked.podTime.toNat ∧ marked.core.atBoundary = true ∧
    marked.beforePreempt = false ∧ marked.core.remote = [] ∧
    marked.core.savable = true ∧ marked.core.task = some ⟨7, 0, 0, 0, []⟩ ∧
    (marked.ctx? marked.ctxNo).map (fun x => lookupNat marked.cur x.saves) = some none ∧
    ((marked.outer (.saveArea 0 0 64)).ctx? 0).map (fun x => lookupNat 0 x.saves) = some (some 64) := by decide +kernel
/-- Core 0 has been switched out; its state is in the context. -/
def switchedOut : State :=
  { on (fun c => { c with run := .switchedOut, task := some ⟨7, 0, 0, 0, []⟩ }) with
    ctxs := [{ codeContext 0 0 with cores := [0, 1], saved := [(savedKey 7 0, { Core.reset 0 with run := .running })] }] }
theorem test_wit_restore : switchedOut.core.run = .switchedOut ∧ switchedOut.core.task = some ⟨7, 0, 0, 0, []⟩ ∧
    switchedOut.core.preempt = none ∧ (switchedOut.ctxs.map (fun c => (lookupNat (savedKey 7 0) c.saved).isSome)) = [true] ∧
    (switchedOut.ctxs.map (fun c => (c.savedIncs, c.savedFlags))) = [([], [])] ∧
    (switchedOut.ctxs.map (fun c => c.savedGens)) = [[]] := by decide
/-- Core 0 has arrived at the barrier of domain 2. -/
def arrived : State :=
  { stepping block with core := { (stepping block).core with hold := .barrier 5 2 },
                        launch := { (stepping block).launch with domains := [(2, ⟨7, 3, [0]⟩)] } }
theorem test_wit_barrier : lookupNat (2 : Fin 16).val arrived.launch.domains = some ⟨7, 3, [0]⟩ ∧ arrived.task? 7 = some (task block) ∧
    (task block).needs = [arrived.cur] ∧ arrived.core.hold = .barrier 5 2 ∧ (task block).replaySafe = false ∧
    arrived.bothDies (task block) = false ∧ (∀ c ∈ arrived.ctxs, c.saved = []) := by decide
/-- The one member, or the first of two, of a group waits at a rendezvous. -/
def group : LaunchBlock := { block with rvGroup := 1, gang := 2 }
def meeting : State :=
  let s := stepping { block with rvGroup := 1 }
  { s with core := { s.core with hold := .rdv 5 } }
def meetingTwo : State :=
  let t := { task group with cores := [0, 1], next := [0, 0] }
  { base with core := { base.core with hold := .rdv 5, task := some ⟨7, 0, 0, 0, []⟩ },
              others := [(1, { Core.reset 1 with run := .running, hold := .rdv 6 })], launch := { Launch.reset with resident := [t] } }
theorem test_wit_rendezvous : (meeting.task? 7).map (fun t => (t.lb.rvGroup, meeting.members t false)) = some (1, [0]) ∧
    meeting.core.hold = .rdv 5 ∧ (∀ c ∈ meeting.ctxs, c.saved = []) ∧
    (meetingTwo.task? 7).map (fun t => (t.lb.rvGroup, meetingTwo.members t false)) = some (1, [0, 1]) ∧ meetingTwo.core.hold = .rdv 5 ∧
    (meetingTwo.getCore 1).hold = .rdv 6 := by decide
/-- A resident task whose last step has ended. -/
def ending : State := { base with launch := { Launch.reset with resident := [{ task block with ended := [0] }] } }
theorem test_wit_completion : ending.task? 7 = some { task block with ended := [0] } ∧ ({ task block with ended := [0] } : Task).done = true ∧
    ending.launch.waiting = [] ∧ ending.launch.graphs = [] := by decide
/-- A step of a replay-safe task has stopped. -/
def stoppedStep : State :=
  let s := stepping { block with flags := 1 }
  { s with core := { s.core with run := .stopped }, malt := { s.malt with coreMap := [(0, 0)] } }
theorem test_wit_replay : stoppedStep.core.run = .stopped ∧ stoppedStep.task? 7 = some (task { block with flags := 1 }) ∧
    (task { block with flags := 1 }).replaySafe = true ∧ stoppedStep.malt.coreMap.any (fun m => m.1 == stoppedStep.cur) = true := by decide
/-- The one resident task has held still for the interval of R353. -/
def still (told : Bool) : State :=
  { meeting with podTime := 10000000, launch := { meeting.launch with quiet := [(0, 0)] },
                 malt := { meeting.malt with reports := if told then [.watchdog] else [] } }
theorem test_wit_watchdog : base.allStill = false ∧ (still false).allStill = true ∧ (still false).malt.reports.contains .watchdog = false ∧
    (still true).allStill = true ∧ (still true).malt.reports.contains .watchdog = true ∧ (still true).quiet ∧
    (still true).bump.core.kTraps = [] ∧ ∀ w, (still true).bump.takesKernel Cause.watchdog w := by
  unfold State.quiet
  and_intros
  all_goals first | decide +kernel | exact fun w => ⟨rfl, rfl⟩
/-- A launch block at 0x100 and its parameter block at 0x200 of the control tensor of a placed context. -/
def launchable : State :=
  ((placed 0).writeCells (cellsAt 0x100 (leBytes 128 (64 + 0x200 * 2 ^ 64 + 2 ^ (8 * 0x12) + 3 * 2 ^ (8 * 0x15) + 8 * 2 ^ (8 * 0x16) + 4 * 2 ^ (8 * 0x18))))).writeCells
    (cellsAt 0x200 (leBytes 96 (1 + 2 ^ 64))) |>.modMalt (fun m => { m with coreMap := [(0, 0)] })
theorem test_wit_port : (0x101 : Word).toNat % 64 ≠ 0 ∧ (match launchable.loadBlocks 0 0x100 true true with
    | (t, .got (.ok (b, p))) => decide (t.launch.queue.length < 768) && decide (b.gang = 1) && decide (p.ndims = 1)
    | _ => false) = true := by decide +kernel

/-- The frame of a tile moves. -/
def moving : State := (placed 0).writeTile 0 0 0 (BitVec.ofNat 64 (2 ^ 63 + 2 ^ 62 + 2 ^ 61))
theorem test_wit_migration : (match (placed 0).tileEntry 0 0 0 with
      | some e => decide (e / 2 ^ 63 % 2 = 1) && decide (e / 2 ^ 62 % 2 = 0)
      | none => false) = true ∧ (match moving.tileEntry 0 0 0 with
      | some e => decide (e / 2 ^ 63 % 2 = 1) && decide (e / 2 ^ 62 % 2 = 1)
      | none => false) = true ∧ moving.portsIdle := by
  refine ⟨by decide +kernel, by decide +kernel, by unfold State.portsIdle; decide +kernel⟩
theorem test_wit_updates : 2 ≠ base.malt.updateSeq + 1 ∧ 1 = base.malt.updateSeq + 1 ∧
    base.ctxs = [{ codeContext 0 0 with cores := [0, 1] }] ∧ ({ codeContext 0 0 with cores := [0, 1] } : Ctx).id = 0 := by
  decide +kernel
theorem test_wit_staging : 5 ≤ 5 ∧ quotaSum base.ctxs 47 ≤ 10 - 2 * 5 ∧ ∀ c ∈ base.ctxs, ∀ w ∈ c.windows, w.1 = (47 : Fin 48).val → w.2.2 = 0 := by
  decide
/-- A dirty line in its home slice. -/
def dirtyLine : State := base.modL2 (fun l => { l with lines := [{ slice := homeSlice 5, line := 5, dirty := true, retained := none, copy := none, bad := 0 }] })
theorem test_wit_eviction : dirtyLine.marks = [] ∧ (dirtyLine.l2.lines.find? (fun x => x.line == 5 && x.dirty)).isSome = true ∧
    (∀ x ∈ base.l2.lines, x.line = 5 → x.dirty = false) := by decide +kernel
/-- A control tensor or a section has its places. -/
def got? {α : Type} (g : CtlGot α) : Bool :=
  match g with
  | .got _ => true
  | _ => false
/-- A load has one bundle to go. -/
def loading : State := (placed 0).modMalt (fun m => { m with loads := [.code 0 64 0] })
theorem test_wit_load_step : loading.malt.loads = .code 0 64 0 :: [] ∧ got? (loading.controlCells 0 64 (leBytes 64 (0 : BitVec 512).toNat)) = true := by
  decide +kernel
theorem test_wit_scrub : 2 ^ 33 - 1 < 2 ^ 33 ∧ base.malt.holder (2 ^ 33 - 1) = none ∧
    ({ base with marks := [(2 ^ 33 - 1, .latentUe)] } : State).marks = [(2 ^ 33 - 1, .latentUe)] ∧ base.marks = [] := by decide
/-- A KBO file (R390) of one section of n bytes that all are 7. -/
def kbo (kind align n : Nat) (target : PlaceTarget) : LoadObject :=
  { bytes := leBytes 104 (0x4F424B7F + 2 ^ 32 + 2 ^ 48 + 2 ^ 64 + 64 * 2 ^ 128 + 104 * 2 ^ 192 + 104 * 2 ^ 256 + 0xFFFFFFFF * 2 ^ (8 * 0x30) +
      kind * 2 ^ (8 * 0x44) + align * 2 ^ (8 * 0x45) + 104 * 2 ^ (8 * 0x48) + n * 2 ^ (8 * 0x50) + 104 * 2 ^ (8 * 0x58)) ++ List.replicate n 7,
    places := [{ sect := 0, base := 64, target := target }], tensors := [] }
theorem test_wit_images : base.link 0 [{ bytes := [], places := [], tensors := [] }] = none ∧
    (base.link 0 [kbo 1 0 8 (.spad 0 64)]).map (fun xs => xs.map (fun x => (x.1, x.2.2.length, got? (base.placeCells 0 x.2.1 x.2.2)))) =
      some [(false, 8, true)] ∧
    ((placed 0).link 0 [kbo 0 6 64 .control]).map (fun xs => xs.map (fun x => (x.1, x.2.2.length))) = some [(true, 64)] := by
  and_intros <;> decide +kernel
theorem test_wit_code_write : (65 : CodeAddr).toNat % 64 ≠ 0 ∧ (64 : CodeAddr).toNat % 64 = 0 ∧
    got? ((placed 0).controlCells 0 64 (leBytes 64 0)) = true := by
  refine ⟨by decide, by decide, by decide +kernel⟩
/-- A context of virtual function 2 on core 5. -/
def newContext (n : Nat) : CtxInput :=
  { ctx := n, vf := some 2, mask := 0, cores := [5], tensors := [], tableLen := 0, stage2 := none, windows := [], quotas := [],
    trapVec := 0, granules := [], exports := [], slots := [], saves := [] }
theorem test_wit_contexts : base.creates (newContext 0) = false ∧ base.creates (newContext 1) = true := by decide +kernel
/-- Tensor 0 of the placed context is exported to the physical function. -/
def hosted : State :=
  { placed 0 with ctxs := (placed 0).ctxs.map (fun c => { c with exports := [0] }),
                  malt := { (placed 0).malt with links := ⟨true, true, true⟩ } }
theorem test_wit_host : (hosted.exporter (0 : Fin 17).val 0).isSome = true ∧ hosted.marks = [] ∧
    hosted.malt.links.endpoint = true ∧ base.malt.links.endpoint = false ∧ (∀ a ∈ hosted.malt.hostWaiting, a.fn ≠ 0) ∧
    (match hosted.portPlace 0 0 5 none false with
      | (t, .ok x) => decide (t.marks = []) && decide (x.bit = 40)
      | _ => false) = true ∧
    (match hosted.portPlace 0 0 5 none true with
      | (t, .ok x) => decide (t.marks = []) && decide (x.bit = 40)
      | _ => false) = true := by
  and_intros <;> decide +kernel

theorem test_wit_boot : base.malt.boot ≠ .off ∧ State.reset.malt.boot = .off := by decide
/-- Core 0 without work, in service. -/
def scannable : State := { base with malt := { base.malt with coreMap := [(0, 0)] } }
theorem test_wit_scan : scannable.launch.busyCore scannable.cur = false ∧
    scannable.malt.coreMap.any (fun m => m.1 == scannable.cur) = true ∧ scannable.core.quiesced = true ∧
    (engine barrier).core.quiesced = false ∧ (∀ t ∈ scannable.launch.queue, t.lb.prio ≠ 0 → scannable.cur ∉ t.needs) ∧
    (∃ t ∈ (queued { block with prio := 7 } []).launch.queue, t.lb.prio = 7 ∧ (queued { block with prio := 7 } []).cur ∈ t.needs) := by
  decide +kernel
/-- The interval of the audits has passed; a slot, or a class-7 task, stands in the way. -/
def auditing (q : List Task) (r : List Reservation) : State :=
  { base with podTime := 2000000000, launch := { base.launch with queue := q }, fabric := { base.fabric with reservations := r } }
theorem test_wit_audit : base.auditDue true = false ∧ (auditing [] []).auditDue true = true ∧ (auditing [] []).auditMeetsSlot = false ∧
    (auditing [] [⟨⟨0, 0, 0, 2000000000, 1, 2000000192, 1, 0, [0], 3, 0, 4⟩, false, false, false⟩]).auditMeetsSlot = true ∧
    (∃ t ∈ (auditing [task { block with prio := 7 }] []).launch.queue, t.lb.prio = 7) ∧
    (∀ t ∈ (auditing [task block] []).launch.queue, t.lb.prio ≠ 7) := by
  and_intros <;> decide +kernel
theorem test_wit_outer : base.ctxs = [{ codeContext 0 0 with cores := [0, 1] }] ∧ 7 ≤ 7 ∧
    base.core.sys.ctxId.toNat ∉ base.malt.debugGrants ∧
    ({ base with malt := { base.malt with debugGrants := [0] } } : State).core.sys.ctxId.toNat ∈ ([0] : List Nat) ∧ (7 : Fin 8) ≠ 0 := by
  and_intros <;> decide +kernel
theorem test_wit_renumber : base.launch.resident = [] ∧ (stepping block).launch.resident ≠ [] := by decide

/-! ### Single steps, with results worked by hand from the rules -/

/-- The registers after the results of an instruction have landed. -/
def landed (s : State) (i : Instr) : State := after (after s i) .resultLand

/-- (a + b) mod 2^64 (R269). -/
theorem test_add_wraps : (landed (withX 0xFFFF_FFFF_FFFF_FFFF 2) (.add 5 3 4)).core.regs.x[5] = 1 := by decide +kernel
/-- x0 discards writes (R47). -/
theorem test_add_to_x0 : (landed (withX 1 2) (.add 0 3 4)).core.regs.x[0] = 0 := by decide +kernel
/-- The high half of (-1) × (-1) is 0, read as signed (R269). -/
theorem test_mulh_of_negatives : (after (withX 0xFFFF_FFFF_FFFF_FFFF 0xFFFF_FFFF_FFFF_FFFF) (.mulh 5 3 4)).core.flight.map
    (fun e => (e.what, e.k)) = [(.x 5 0, 3)] := by decide +kernel
/-- A shift by 64 shifts by 64 mod 64 = 0 (R269). -/
theorem test_shl_by_width : (landed (withX 9 64) (.shl 5 3 4)).core.regs.x[5] = 9 := by decide +kernel
/-- ext of 4 bits at bit 4, sign-extended: 0x80 gives 0b1000 = -8 (R271). -/
theorem test_ext_signed : (landed (withX 0x80 0x0404) (.ext 5 3 4 true)).core.regs.x[5] = 0xFFFF_FFFF_FFFF_FFF8 := by decide +kernel
/-- min is signed, minu is not (R269). -/
theorem test_min_is_signed : (landed (withX 0xFFFF_FFFF_FFFF_FFFF 1) (.min 5 3 4)).core.regs.x[5] = 0xFFFF_FFFF_FFFF_FFFF ∧
    (landed (withX 0xFFFF_FFFF_FFFF_FFFF 1) (.minu 5 3 4)).core.regs.x[5] = 1 := by decide +kernel
/-- 1.0 + 1.0 = 2.0 in FP32 (R273). -/
theorem test_fadd : (after (withX 0x3F800000 0x3F800000) (.faddS 5 3 4)).core.flight.map (fun e => (e.what, e.k)) =
    [(.x 5 0x40000000, 4)] := by decide +kernel
/-- fcvt from FP32 into FP32 keeps a NaN's sign and payload (R197, R210). -/
theorem test_fcvt_keeps_bits : (after (atX 3 0xFFC12345) (.fcvtFrom .fp32 5 3 .rne)).core.flight.map (fun e => e.what) = [.x 5 0xFFC12345] ∧
    (after (atX 3 0xFFC12345) (.fcvtTo .fp32 5 3 .rne)).core.flight.map (fun e => e.what) = [.x 5 0xFFC12345] := by decide +kernel
/-- A flag that an engine sets at the position of its clear stays set (R44). -/
theorem test_engine_flag_survives_clear : ((base.landAll [.done 3 false, .flag 3 false]).core.regs.f[3]) = true := by decide +kernel
/-- A counter write of 5 over the threshold 0 sets flag f18 of c2 (R277). -/
theorem test_counter_threshold : ((landed (on (fun c => { c with regs := { c.regs with t := c.regs.t.set 2 0 } }))
    (.cwrImm 2 false 0 5)).core.regs.f[18]) = true := by decide +kernel
/-- A byte store waits in the gate, and a signed load of it reads it there, sign-extended (R136, R139). -/
theorem test_store_then_load : ((after (after (withX 0x100 0x80) (.stB 4 3 0)) (.ldB 5 3 0)).core.flight.map (fun e => e.what)) =
    [.x 5 0xFFFF_FFFF_FFFF_FF80] := by decide +kernel
/-- st.w of 0x01020304 puts its low byte at the lowest address (R137). -/
theorem test_store_is_little_endian : ((after (withX 0x100 0x01020304) (.stW 4 3 0)).core.gate.map (fun e => e.cells.map (fun c => c.2))) =
    [[4, 3, 2, 1]] := by decide +kernel
/-- trot 2 on (top first) 1 2 3 gives 3 1 2, trtd 2 gives 2 3 1 (R162). -/
theorem test_rotations : (after (stacked [1, 2, 3]) (.trot 2)).core.mash.spine = [3, 1, 2] ∧
    (after (stacked [1, 2, 3]) (.trtd 2)).core.mash.spine = [2, 3, 1] := by decide +kernel
/-- A breakpoint with TRAP.VEC at 0x3000 enters at 0x3000 + cause × 64 with its number in FAULT.INFO (R288, R294, R370). -/
theorem test_breakpoint_entry : let s := on (fun c => { c with pc := 0x80, sys := { c.sys with trapVec := 0x3000 } })
    (after s (.brk 7)).core.sys.trapPc = 0x80 ∧ (after s (.brk 7)).core.sys.fInfo = 7 ∧ (after s (.brk 7)).core.sys.hnd = true ∧
    (after s (.brk 7)).core.pc = 0x3000 + Cause.breakpoint.setWidth 48 * 64 := by decide +kernel
/-- A loop of 2 over one bundle: the entry holds the body's first and last address (R281). -/
theorem test_loop_entry : (after (atPc 64) (.loop 2 0)).core.loops = [{ first := 128, last := 128, count := 2, index := 0 }] := by
  decide +kernel
/-- vadd.int8 of 0x7F and 0x01 wraps without sat and stays at 0x7F with it (R207, R254). -/
theorem test_vadd_saturates : let s := on (fun c => { c with regs := { c.regs with v := (c.regs.v.set 2 0x7F).set 3 1 } })
    (s.vecArith (.vadd (lanes .int8) 1 2 3 false)).map (fun r => r.2.2.2.head?) = some (some 0x80) ∧
    (s.vecArith (.vadd (lanes .int8) 1 2 3 true)).map (fun r => r.2.2.2.head?) = some (some 0x7F) := by decide +kernel
/-- vcvt of FP32 1.0 and 2.5 gives FP16 0x3C00 and 0x4100 in consecutive elements (R197, R206, R257). -/
theorem test_vcvt_halves : let s := on (fun c => { c with regs := { c.regs with v := c.regs.v.set 2 0x40200000_3F800000 } })
    (after s (.vcvt (lanes .fp32) 1 2 .fp16 .rne false)).core.flight.map (fun e => match e.what with
      | .v d b => (d.val, b.toNat % 2 ^ 32)
      | .vm d b m => (d.val, (b &&& m).toNat % 2 ^ 32)
      | _ => (0, 0)) = [(1, 0x4100_3C00)] := by decide +kernel
/-- The read of a descriptor that meets a latent correctable error corrects it and counts it (R67, R68, R130). -/
theorem test_block_corrects : let s : State := { (copying 1) with marks := [(spadBase 0 / 64 + 8, .latentCe)] }
    (s.block 0x200 128).1.marks = [] := by decide +kernel
/-- The add placed at the pc of a package that is up runs as its first step, and its result is in flight (R39, R46). -/
theorem test_first_step : (match step (State.reset.withFetchWord 512 (aluBundle (0x05 <<< 32 ||| 5 <<< 21 ||| 9))) with
    | .next t => t.core.flight.map (fun e => e.what)
    | _ => []) = [.x 5 9] := by decide +kernel

/-- Line 4097 lies in slice 16: 4097 XOR 1 is 4096, which is 170 × 24 + 16 (R86). -/
theorem test_slice_of_line : sliceOf 4097 = 16 ∧ sliceOf 23 = 23 ∧ sliceOf 24 = 0 := by decide +kernel
/-- TRAP.VEC[11:0] of a new context reads zero (R294). -/
theorem test_trap_vec_reserved : (newCtx { newContext 3 with trapVec := 0x5FFF }).trapVec = 0x5000 := by decide +kernel
/-- A byte of the root monitor's SRAM that core 0 has written reads zero to core 1, and the error log keeps the access (R395). -/
theorem test_filter_reads_zero : let s := (State.reset.outer (.rootWrite 0 8 7)).outer (.rootRead 1 (.sram 8))
    s.malt.root.reads = [0] ∧ s.malt.root.refused = [(1, .sram 8)] ∧
    (s.outer (.rootRead 0 (.sram 8))).malt.root.reads = [0, 7] := by decide +kernel
/-- The kernel sets REMOP.TMO of a context, whose byte 7 is reserved (R129). -/
theorem test_kernel_sets_tmo : ((({ State.reset with ctxs := [newCtx (newContext 3)] } : State).outer
    (.remopTmo 3 0xFF03_0001_0002_0004)).ctxs.map Ctx.tmo) = [0x0003_0001_0002_0004] := by decide +kernel

end Sys2Proof.Tests
end

section
/-! PROOFS. Canonical memories are determined by what they read (O13). -/

namespace Sys2Proof.Machine

theorem Memory.risingFrom_cons {lo a : Nat} {b : Byte} {m : Memory} :
    Memory.risingFrom lo ((a, b) :: m) = true ↔ lo ≤ a ∧ b ≠ 0 ∧ Memory.risingFrom (a + 1) m = true := by
  simp [Memory.risingFrom, Memory.rest, and_assoc]

/-- A rising memory reads nonzero at its first address, so a rising memory that reads the same begins no later. -/
theorem Memory.head_le_of_read_eq {lo lo' a c : Nat} {b d : Byte} {m n : Memory}
    (hm : Memory.risingFrom lo ((a, b) :: m) = true) (hn : Memory.risingFrom lo' ((c, d) :: n) = true)
    (h : ∀ k, Memory.read ((a, b) :: m) k = Memory.read ((c, d) :: n) k) : c ≤ a := by
  obtain ⟨_, hb, _⟩ := Memory.risingFrom_cons.1 hm
  obtain ⟨_, hd, hn'⟩ := Memory.risingFrom_cons.1 hn
  by_contra hlt
  have hlow : Memory.read ((c, d) :: n) a = 0 :=
    Memory.read_below (Memory.risingFrom_cons.2 ⟨Nat.le_refl c, hd, hn'⟩) (Nat.lt_of_not_le hlt)
  have hhead : b = Memory.read ((c, d) :: n) a := by simpa using h a
  exact hb (hhead.trans hlow)

/-- Where the first entries agree, the rest reads the same: at and below the shared address neither lists anything. -/
theorem Memory.tail_read_eq {a : Nat} {b : Byte} {m n : Memory} (hm : Memory.risingFrom (a + 1) m = true)
    (hn : Memory.risingFrom (a + 1) n = true)
    (h : ∀ k, Memory.read ((a, b) :: m) k = Memory.read ((a, b) :: n) k) (k : Nat) :
    Memory.read m k = Memory.read n k := by
  by_cases hk : a = k
  · rw [Memory.read_below hm (by omega), Memory.read_below hn (by omega)]
  · simpa [hk] using h k

/-- Rising memories that read the same are equal. -/
theorem Memory.eq_of_read_eq {m n : Memory} {lo lo' : Nat} (hm : Memory.risingFrom lo m = true)
    (hn : Memory.risingFrom lo' n = true) (h : ∀ k, Memory.read m k = Memory.read n k) : m = n := by
  induction m generalizing n lo lo' with
  | nil =>
    cases n with
    | nil => rfl
    | cons e n =>
      obtain ⟨a, b⟩ := e
      obtain ⟨_, hb, _⟩ := Memory.risingFrom_cons.1 hn
      exact absurd (by simpa using (h a).symm) hb
  | cons c m ih =>
    obtain ⟨a, b⟩ := c
    obtain ⟨_, hb, hm'⟩ := Memory.risingFrom_cons.1 hm
    cases n with
    | nil => exact absurd (by simpa using h a) hb
    | cons e n =>
      obtain ⟨a', b'⟩ := e
      obtain ⟨_, _, hn'⟩ := Memory.risingFrom_cons.1 hn
      obtain rfl : a = a' := Nat.le_antisymm (Memory.head_le_of_read_eq hn hm fun k => (h k).symm)
        (Memory.head_le_of_read_eq hm hn h)
      obtain rfl : b = b' := by simpa using h a
      rw [ih hm' hn' (Memory.tail_read_eq hm' hn' h)]

/-- Settles O13: two rising lists of nonzero bytes that read the same begin at the same entry, and so do their rests. -/
theorem canonicalMemoryIsDetermined : Obligations.CanonicalMemoryIsDetermined := by
  intro m n hm hn h
  exact Memory.eq_of_read_eq hm hn h

end Sys2Proof.Machine
end

section
/-! PROOFS. The events of the Maltings (O60): one lemma per event and per branch of its meaning. -/

namespace Sys2Proof.Machine

/-! ### Power-on and measurement (R396) -/

theorem exec_boot_started {s : State} (b : BootInput) (h : s.malt.boot ≠ .off) : exec (.boot b) s = .next s :=
  congrArg Host.Outcome.next (if_neg h)

theorem exec_boot_off {s : State} (b : BootInput) (h : s.malt.boot = .off) : exec (.boot b) s = .next (s.bootUp b) :=
  congrArg Host.Outcome.next (if_pos h)

theorem State.bootUp_monitor_unsigned (s : State) {b : BootInput} (h : imageSigned b.monitor = false) :
    s.bootUp b = { s with malt := { s.malt with boot := .failed 1 } } := by
  simp [State.bootUp, h, State.modMalt]

theorem State.bootUp_monitor_old {s : State} {b : BootInput} (h : imageSigned b.monitor = true)
    (hv : b.monitor.version < s.malt.rollback) : s.bootUp b = { s with malt := { s.malt with boot := .failed 2 } } := by
  simp [State.bootUp, h, hv, State.modMalt]

theorem State.bootUp_kernel_unsigned {s : State} {b : BootInput} (h : imageSigned b.monitor = true)
    (hv : ¬ b.monitor.version < s.malt.rollback) (hk : imageSigned b.kernel = false) :
    s.bootUp b = { s with malt := { s.malt with boot := .failed 3, log := s.malt.log ++ [measure b.kernel] } } := by
  simp [State.bootUp, h, hv, hk, State.modMalt]

/-- The state in which power-on leaves a package whose checks have passed. -/
theorem State.bootUp_passed {s : State} {b : BootInput} (h : imageSigned b.monitor = true)
    (hv : ¬ b.monitor.version < s.malt.rollback) (hk : imageSigned b.kernel = true) :
    s.bootUp b =
      (({ s.modMalt (fun m => { m with log := m.log ++ [measure b.kernel] }) with mem := [], marks := [] } :
        State).resetCores ((List.range 96).filter (fun p => !b.badCores.contains p))).modMalt (fun m => { m with
          boot := .up, images := [b.monitor, b.kernel], root := { m.root with started := true },
          links := { endpoint := true, nvme := true, fabric := true } }) := by
  simp [State.bootUp, h, hv, hk]

/-- A later image is measured always, and kept when its signature and its version pass. -/
theorem exec_imageVerification (im : Image) (s : State) : exec (.imageVerification im) s =
    .next { s with malt := { s.malt with
      log := s.malt.log ++ [measure im],
      images := if imageSigned im = true ∧ s.malt.rollback ≤ im.version then s.malt.images ++ [im]
        else s.malt.images } } := by
  change execImageVerification im s = _
  simp [execImageVerification, State.modMalt]

/-! ### Attestation and the host (R397 to R399) -/

/-- An answer leaves the package only after the kernel has brought up the endpoint. -/
theorem State.fromHost_answerSpdm (s : State) (a : SpdmAnswer) :
    s.fromHost (s.answerSpdm a) = .next (if s.malt.links.endpoint = true then s.answers a else s) := rfl

theorem exec_getDigests_other (s : State) {n : Nat} (h : n ≠ 0) : exec (.getDigests n) s =
    .next (if s.malt.links.endpoint = true then s.answers (.unsupported 0x81) else s) := by
  change s.fromHost (s.answerSpdm _) = _
  rw [if_neg h, State.fromHost_answerSpdm]
  rfl

theorem exec_hostMailboxWrite (fn : Fin 17) (off : BitVec 16) (v : Word) (s : State) :
    exec (.hostMailboxWrite fn off v) s = .next (if s.malt.links.endpoint = true then { s with malt := { s.malt with
      bar0 := insertNat (fn.val * 65536 + off.toNat) v s.malt.bar0,
      reports := s.malt.reports ++ [.mailbox fn.val off.toNat v] } } else s) := rfl

theorem exec_debugAuthorisation (k : DebugToken) (s : State) : exec (.debugAuthorisation k) s =
    .next (if k.package = s.fabric.self ∧ Config.ecdsaVerify (tokenBytes k ++ k.signature) Config.debugKey = true then
      { s with malt := { s.malt with debugGrants := s.malt.debugGrants ++ [k.ctx],
                                     log := s.malt.log ++ [Config.sha512 (tokenBytes k)] } }
    else s) := rfl

/-! ### Audits (R406) -/

theorem exec_permitAudit_held {s : State} {die : Bool} (lost dup : Nat)
    (h : s.auditDue die = false ∨ s.auditMeetsSlot = true) : exec (.permitAudit die lost dup) s = .next s := by
  change execPermitAudit die lost dup s = _
  have hc : (!s.auditDue die || s.auditMeetsSlot) = true := by simpa using h
  rw [execPermitAudit, if_pos hc]

/-- A queued class-7 task aborts an audit that is due, and it is due again. -/
theorem exec_permitAudit_aborted {s : State} {die : Bool} (lost dup : Nat) (hd : s.auditDue die = true)
    (hm : s.auditMeetsSlot = false) (h7 : ∃ t ∈ s.launch.queue, t.lb.prio = 7) : exec (.permitAudit die lost dup) s =
      .next (s.modMalt (fun m => { m with audit := { m.audit with again := m.audit.again.set (dieNo die) true } })) := by
  change execPermitAudit die lost dup s = _
  have hq : s.launch.queue.any (fun t => t.lb.prio == 7) = true := by simpa using h7
  simp [execPermitAudit, hd, hm, hq]

/-- An audit that nothing stands against restores the permits, resets the links and notes its end. -/
theorem exec_permitAudit_runs {s : State} {die : Bool} (lost dup : Nat) (hd : s.auditDue die = true)
    (hm : s.auditMeetsSlot = false) (h7 : ∀ t ∈ s.launch.queue, t.lb.prio ≠ 7) : exec (.permitAudit die lost dup) s =
      .next (s.modMalt (fun m => { m with
        permitsRestored := m.permitsRestored + BitVec.ofNat 32 lost, linksReset := m.linksReset + BitVec.ofNat 32 dup,
        audit := { m.audit with again := m.audit.again.set (dieNo die) false,
                                last := m.audit.last.set (dieNo die) s.podTime.toNat } })) := by
  change execPermitAudit die lost dup s = _
  have hq : s.launch.queue.any (fun t => t.lb.prio == 7) = false := by simpa using h7
  simp [execPermitAudit, hd, hm, hq]

/-! ### Scan tests (R407) -/

@[simp] theorem State.getCore_cur (s : State) : s.getCore s.cur = s.core := if_pos rfl

@[simp] theorem State.setCore_cur (s : State) (k : Core) : s.setCore s.cur k = { s with core := k } := if_pos rfl

/-- A core is wanted by a class when a queued task of that class still needs it. -/
theorem Launch.wants_iff (l : Launch) (core : Nat) (f : Nat → Bool) :
    l.wants core f = true ↔ ∃ t ∈ l.queue, f t.lb.prio = true ∧ core ∈ t.needs := by
  simp [Launch.wants, Launch.needed, and_assoc]

theorem exec_scanTest_undrained {s : State} (h : s.core.quiesced = false) (m ab : Bool) :
    exec (.scanTest s.cur m ab) s = .next s := by
  change execScanTest s.cur m ab s = _
  simp [execScanTest, h]

section
variable {s : State} (hfree : s.launch.busyCore s.cur = false) (hserv : s.inService s.cur = true)
  (hq : s.core.quiesced = true)
include hfree hserv hq

/-- A test that is stopped, or whose core a class-7 task needs, changes nothing but the count of such tests. -/
theorem exec_scanTest_aborted (m : Bool) {ab : Bool}
    (h : ab = true ∨ ∃ t ∈ s.launch.queue, t.lb.prio = 7 ∧ s.cur ∈ t.needs) : exec (.scanTest s.cur m ab) s =
      .next { s with malt := { s.malt with scansAborted := s.malt.scansAborted + 1 } } := by
  change execScanTest s.cur m ab s = _
  have hw : (ab || s.launch.wants s.cur (fun p => p == 7)) = true := by
    simpa [Launch.wants_iff] using h
  simp only [execScanTest, hfree, hserv, State.getCore_cur, hq, hw]
  rfl

/-- A test that no queued task above class 0 stands against resets the core; on a signature that differs the core leaves
service. -/
theorem exec_scanTest_completed (m : Bool) (h : ∀ t ∈ s.launch.queue, t.lb.prio ≠ 0 → s.cur ∉ t.needs) :
    ∃ k : Core, k.regs = Regs.reset ∧ k.sys = SysRegs.reset ∧ k.run = (if m then .idle else .outOfService) ∧
      exec (.scanTest s.cur m false) s = .next { s with
        core := k,
        malt := if m then s.malt else { s.malt with coreMap := s.malt.coreMap.filter (fun x => x.1 != s.cur) } } := by
  have h0 : s.launch.wants s.cur (fun p => p != 0) = false := by
    rw [← Bool.not_eq_true, Launch.wants_iff]
    rintro ⟨t, ht, hp, hn⟩
    exact h t ht (by simpa using hp) hn
  have h7 : s.launch.wants s.cur (fun p => p == 7) = false := by
    rw [← Bool.not_eq_true, Launch.wants_iff]
    rintro ⟨t, ht, hp, hn⟩
    have h7 : t.lb.prio = 7 := by simpa using hp
    exact h t ht (by omega) hn
  refine ⟨{ Core.reset s.cur with
    die := s.core.die, pos := s.core.pos, nextAcc := s.core.nextAcc,
    eng := { Engine.empty with nextId := s.core.eng.nextId }, run := if m then .idle else .outOfService },
    rfl, rfl, rfl, ?_⟩
  change execScanTest s.cur m false s = _
  cases m <;> simp [execScanTest, hfree, hserv, hq, h0, h7, State.modMalt]

end

/-! ### Logical numbers (R408) -/

theorem exec_renumber_busy {s : State} (h : s.launch.resident ≠ []) : exec .logicalCoreMapRenumber s = .next s :=
  congrArg Host.Outcome.next (if_neg (by simpa using h))

theorem exec_renumber_free {s : State} (h : s.launch.resident = []) :
    exec .logicalCoreMapRenumber s = .next s.renumber :=
  congrArg Host.Outcome.next (if_pos (by simpa using h))

/-! ### Acts of the kernel (R129, R293, R395) -/

/-- The only context of a package is the one that an act names. -/
theorem State.modCtx_ctxs_single {s : State} {x : Ctx} (h : s.ctxs = [x]) (f : Ctx → Ctx) :
    (s.modCtx x.id f).ctxs = [f x] := by
  simp [h]

theorem State.outer_ceiling (s : State) (ctx : Nat) {n : Nat} (h : n ≤ 7) :
    s.outer (.ceiling ctx n) = s.modCtx ctx (fun c => { c with ceiling := n }) :=
  if_pos h

/-- The focused core's part of an act on a core. -/
theorem State.modCoreAt_cur (s : State) (f : Core → Core) : s.modCoreAt s.cur f = s.modCore f := by
  simp [State.modCoreAt, State.modCore]

theorem State.outer_horizon_cur (s : State) (v : BitVec 14) : s.outer (.horizon s.cur v) =
    s.modCore (fun c => { c with sys := { c.sys with horizon := v } }) := by
  simp [State.outer, State.modCoreAt_cur]

/-- DBG.ROUTE of a core is the kernel's to set only under a debug grant for the context that runs there. -/
theorem State.outer_dbgRoute_cur (s : State) (b : Bool) : s.outer (.dbgRoute s.cur b) =
    if s.core.sys.ctxId.toNat ∈ s.malt.debugGrants then
      s.modCore (fun c => { c with sys := { c.sys with dbgRoute := b } })
    else s := by
  simp [State.outer, State.modCoreAt_cur]

/-- The filter answers a kernel core with zero and records the access. -/
theorem Maltings.rootRead_filtered (m : Maltings) {k : Fin 8} (h : k ≠ 0) (p : RootPlace) : m.rootRead k p =
    { m with root := { m.root with reads := m.root.reads ++ [0], refused := m.root.refused ++ [(k, p)] } } :=
  if_neg h

/-! ### The obligation -/

/-- Settles O60: each clause is the lemma of its event, with the abbreviations of the statement unfolded. -/
theorem maltingsEvents : Obligations.MaltingsEvents := by
  unfold Obligations.MaltingsEvents
  intro manifest signed
  refine ⟨?boot, ?spdm, ?mailbox, ?debug, ?audit, ?scan, ?throttle, ?shutdown, ?renumber, ?image, ?contexts, ?cores, ?filter,
    ?power⟩
  case boot =>
    refine fun s b => ⟨exec_boot_started b, fun hoff => ?_⟩
    intro logged
    rw [exec_boot_off b hoff]
    split_ifs with hm hv hk
    · rw [State.bootUp_monitor_unsigned s hm]
    · rw [State.bootUp_monitor_old (eq_true_of_ne_false hm) hv]
    · exact ⟨_, congrArg _ (State.bootUp_passed (eq_true_of_ne_false hm) hv hk), rfl, rfl, rfl, rfl, rfl, rfl, rfl, rfl, rfl⟩
    · rw [State.bootUp_kernel_unsigned (eq_true_of_ne_false hm) hv (eq_false_of_ne_true hk)]
      rfl
  case spdm =>
    intro s tells
    have answered (a : SpdmAnswer) := s.fromHost_answerSpdm a
    exact ⟨answered _, answered _, answered _, answered _, fun n hn => exec_getDigests_other s hn, fun off n => answered _,
      fun nonce => answered _, fun nonce => ⟨answered _, answered _⟩, fun code => answered _⟩
  case mailbox => exact fun s fn off v => exec_hostMailboxWrite fn off v s
  case debug => exact fun s k => exec_debugAuthorisation k s
  case audit =>
    refine fun s die lost dup => ⟨exec_permitAudit_held lost dup, fun hd hm => ⟨fun h7 => ?_, fun h7 => ?_⟩⟩
    · exact ⟨_, exec_permitAudit_aborted lost dup hd hm h7, rfl⟩
    · exact ⟨_, exec_permitAudit_runs lost dup hd hm h7, rfl, rfl, by simp, by simp⟩
  case scan =>
    refine fun s hfree hserv => ⟨exec_scanTest_undrained, fun hq => ⟨fun m ab h => ?_, fun h => ⟨?_, ?_⟩⟩⟩
    · exact exec_scanTest_aborted hfree hserv hq m h
    · obtain ⟨k, hregs, hsys, hrun, hexec⟩ := exec_scanTest_completed hfree hserv hq true h
      exact ⟨_, hexec, hrun, hregs, hsys, rfl, rfl⟩
    · obtain ⟨k, -, -, hrun, hexec⟩ := exec_scanTest_completed hfree hserv hq false h
      exact ⟨_, hexec, hrun, rfl, rfl⟩
  case throttle => exact fun s n => rfl
  case shutdown => exact fun s => rfl
  case renumber =>
    exact fun s => ⟨exec_renumber_busy, fun h => ⟨_, exec_renumber_free h, rfl, rfl, rfl⟩⟩
  case image => exact fun s im => exec_imageVerification im s
  case contexts =>
    rintro s _ x v hx rfl
    refine ⟨State.modCtx_ctxs_single hx _, fun n hn => ?_⟩
    rw [State.outer_ceiling s x.id hn, State.modCtx_ctxs_single hx]
  case cores =>
    refine fun s v => ⟨?_, fun b hg => ?_, fun b hg => ?_⟩
    · rw [State.outer_horizon_cur]
      rfl
    · rw [State.outer_dbgRoute_cur, if_neg hg]
    · rw [State.outer_dbgRoute_cur, if_pos hg]
      rfl
  case filter => exact fun s k p hk => congrArg (fun m => { s with malt := m }) (Maltings.rootRead_filtered s.malt hk p)
  case power => exact fun s n => rfl

end Sys2Proof.Machine
end

section
/-! PROOFS. Decoding undoes encoding (O1, O2): what each form of word reads back as, slot kind by slot kind. -/

namespace Sys2Proof

/-! ### Named values and checked results -/

theorem okIf_eq_ok {c : Bool} {i j : Instr} : okIf c i = .ok j ↔ c = true ∧ i = j := by
  cases c <;> simp [okIf]

theorem okIf2_eq_ok {c f : Bool} {i j : Instr} : okIf2 c f i = .ok j ↔ c = true ∧ f = true ∧ i = j := by
  cases c <;> cases f <;> simp [okIf2]

@[simp] theorem Fmt.ofCode_code (f : Fmt) : Fmt.ofCode f.code = f := by cases f <;> rfl
@[simp] theorem Rnd.ofCode_code (r : Rnd) : Rnd.ofCode r.code = some r := by cases r <;> rfl
@[simp] theorem CmpCond.ofCode_code (c : CmpCond) : CmpCond.ofCode c.code = some c := by cases c <;> rfl
@[simp] theorem PLogOp.ofCode_code (c : PLogOp) : PLogOp.ofCode c.code = some c := by cases c <;> rfl
@[simp] theorem FCmpCond.ofCode_code (c : FCmpCond) : FCmpCond.ofCode c.code = some c := by cases c <;> rfl
@[simp] theorem VCmpCond.ofCode_code (c : VCmpCond) : VCmpCond.ofCode c.code = some c := by cases c <;> rfl
@[simp] theorem RedOp.ofCode_code (c : RedOp) : RedOp.ofCode c.code = some c := by cases c <;> rfl
@[simp] theorem ShfMode.ofCode_code (c : ShfMode) : ShfMode.ofCode c.code = some c := by cases c <;> rfl
@[simp] theorem RngRounds.ofCode_code (c : RngRounds) : RngRounds.ofCode c.code = some c := by cases c <;> rfl
@[simp] theorem FunCode.ofCode_code (c : FunCode) : FunCode.ofCode c.code = some c := by cases c <;> rfl
@[simp] theorem Ovm.ofCode_code (c : Ovm) : Ovm.ofCode c.code = some c := by cases c <;> rfl
@[simp] theorem Scope.ofCode_code (c : Scope) : Scope.ofCode c.code = some c := by cases c <;> rfl

theorem bit_beq_one (b : Bool) : (bit b == 1) = b := by cases b <;> rfl

/-- A bit that is read as the bit of a Bool is that Bool. -/
theorem beq_one_of_eq_bit {n : Nat} {b : Bool} (h : n = bit b) : (n == 1) = b := by rw [h, bit_beq_one]

@[simp] theorem SysReg.ofNumber_number (r : SysReg) : SysReg.ofNumber r.number = some r := by
  cases r
  case fmt n =>
    have h : (0x100 + n.val) / 64 = 4 := by omega
    simp only [SysReg.number, SysReg.ofNumber, h, if_true, Option.some.injEq, SysReg.fmt.injEq, Fin.ext_iff, Fin.val_ofNat]
    omega
  case rsv n =>
    have h : (0x400 + n.val) / 64 = 16 := by omega
    have h' : (0x400 + n.val) / 16 = 64 := by omega
    simp only [SysReg.number, SysReg.ofNumber, h, h', Nat.reduceEqDiff, if_true, if_false, Option.some.injEq,
      SysReg.rsv.injEq, Fin.ext_iff, Fin.val_ofNat]
    omega
  case cntT n =>
    have h : (0x500 + n.val) / 64 = 20 := by omega
    have h' : (0x500 + n.val) / 16 = 80 := by omega
    simp only [SysReg.number, SysReg.ofNumber, h, h', Nat.reduceEqDiff, if_true, if_false, Option.some.injEq,
      SysReg.cntT.injEq, Fin.ext_iff, Fin.val_ofNat]
    omega
  all_goals rfl

/-! ### The forms of the alu slots -/

section
variable {p : Pool} {op fn w : Nat} {d a b : XReg} {i : Instr} {l : Lit} {imm : BitVec 15}

theorem encReg_op (hw : (encReg op d a b fn).word = w) (hop : op < 64) (hfn : fn < 512) : fld w 34 6 = op := by
  simp only [encReg] at hw
  simp only [fld]
  omega

theorem encReg_form (hw : (encReg op d a b fn).word = w) (hfn : fn < 512) : fld w 32 2 = 0 := by
  simp only [encReg] at hw
  simp only [fld]
  omega

theorem encReg_regs (hw : (encReg op d a b fn).word = w) (hfn : fn < 512) :
    xAt w 21 = d ∧ xAt w 15 = a ∧ xAt w 9 = b := by
  simp only [encReg] at hw
  simp only [xAt, Fin.ext_iff, Fin.val_ofNat]
  omega

theorem encReg_low (hw : (encReg op d a b fn).word = w) (hfn : fn < 512) : fld w 0 9 = fn := by
  simp only [encReg] at hw
  simp only [fld]
  omega

theorem decodeAlu_intReg (hw : (encReg op d a b 0).word = w) (hop : op < 64) (hi : intReg op d a b = some i) :
    decodeAlu p w = .ok i := by
  obtain ⟨hd, ha, hb⟩ := encReg_regs hw (by decide)
  simp only [decodeAlu, encReg_form hw (by decide), encReg_op hw hop (by decide), hd, ha, hb, hi, okIf_eq_ok, beq_iff_eq,
    encReg_low hw (by decide), and_self]

theorem decodeAlu_fpReg (hw : (encReg op d a b 0).word = w) (hop : op < 64) (hi : intReg op d a b = none)
    (hf : fpReg op d a b = some i) : decodeAlu p w = .ok i := by
  obtain ⟨hd, ha, hb⟩ := encReg_regs hw (by decide)
  simp only [decodeAlu, encReg_form hw (by decide), encReg_op hw hop (by decide), hd, ha, hb, hi, hf, okIf_eq_ok, beq_iff_eq,
    encReg_low hw (by decide), and_self]

/-- The operations beyond the integer and FP32 rows of the register form. -/
theorem decodeAlu_encReg (hw : (encReg op d a b fn).word = w) (hop : op < 64) (hfn : fn < 512) (hi : intReg op d a b = none)
    (hf : fpReg op d a b = none) : decodeAlu p w = decodeAlu0 op w := by
  obtain ⟨hd, ha, hb⟩ := encReg_regs hw hfn
  simp only [decodeAlu, encReg_form hw hfn, encReg_op hw hop hfn, hd, ha, hb, hi, hf]

theorem encImm_fields {n : Nat} (hw : (encImm op d a n).word = w) (hop : op < 64) (hn : n < 2 ^ 15) :
    fld w 34 6 = op ∧ fld w 32 2 = 1 ∧ xAt w 21 = d ∧ xAt w 15 = a ∧ fld w 0 15 = n ∧ BitVec.ofNat 15 w = BitVec.ofNat 15 n := by
  simp only [encImm] at hw
  simp only [fld, xAt, Fin.ext_iff, Fin.val_ofNat, ← BitVec.toNat_inj, BitVec.toNat_ofNat]
  omega

theorem decodeAlu_intImm (hw : (encImm op d a imm.toNat).word = w) (hop : op < 64) (hi : intImm op d a imm = some i) :
    decodeAlu p w = .ok i := by
  obtain ⟨hop, hform, hd, ha, -, himm⟩ := encImm_fields hw hop imm.isLt
  simp only [decodeAlu, hop, hform, hd, ha, himm, BitVec.ofNat_toNat, BitVec.setWidth_eq, hi]

theorem encLit_fields (hw : (encLit op d a l).word = w) (hop : op < 64) :
    fld w 34 6 = op ∧ fld w 32 2 = 2 ∧ xAt w 21 = d ∧ xAt w 15 = a ∧ fld w 0 15 = l.bits := by
  have hl := l.bits_lt
  simp only [encLit] at hw
  simp only [fld, xAt, Fin.ext_iff, Fin.val_ofNat]
  omega

end

/-! ### Literals -/

/-- The words of a pool list, at their places. -/
def poolOfList (l : List (Fin 4 × BitVec 32)) : Pool := Enc.poolWords { kind := .alu, word := 0, pool := l }

theorem Enc.poolWords_eq (e : Enc) : e.poolWords = poolOfList e.pool := rfl

theorem append_halves (v : BitVec 64) : (v >>> 32).setWidth 32 ++ v.setWidth 32 = v := by
  ext i hi
  rw [BitVec.getElem_append]
  split
  · simp [BitVec.getLsbD_eq_getElem hi]
  · simp [show 32 + (i - 32) = i by omega, hi]

theorem poolOfList_get (k : Fin 4) (v : BitVec 32) : (poolOfList [(k, v)]).get k = v := by
  match k with
  | 0 | 1 | 2 | 3 => rfl

theorem poolOfList_pair (hi : Bool) (v : BitVec 64) : (poolOfList (Lit.pair hi v).pool).pair hi = v := by
  cases hi <;> exact append_halves v

theorem litOf_eq {l : Lit} {w : Nat} (hw : fld w 0 15 = l.bits) : litOf (poolOfList l.pool) w = some l := by
  match l with
  | .word k v =>
    simp only [fld, Lit.bits] at hw
    have hk : Fin.ofNat 4 (w / 2 ^ 13) = k := by simp only [Fin.ext_iff, Fin.val_ofNat]; omega
    have hform : fld w 12 1 = 0 := by simp only [fld]; omega
    simp only [litOf, hform, hk, Lit.pool, poolOfList_get, if_true]
  | .pair false v =>
    simp only [fld, Lit.bits] at hw
    have hk : (Fin.ofNat 4 (w / 2 ^ 13)).val = 0 := by simp only [Fin.val_ofNat]; omega
    have hform : fld w 12 1 = 1 := by simp only [fld]; omega
    simp only [litOf, hform, hk, poolOfList_pair, one_ne_zero, if_false]
  | .pair true v =>
    simp only [fld, Lit.bits] at hw
    have hk : (Fin.ofNat 4 (w / 2 ^ 13)).val = 2 := by simp only [Fin.val_ofNat]; omega
    have hform : fld w 12 1 = 1 := by simp only [fld]; omega
    simp only [litOf, hform, hk, poolOfList_pair, one_ne_zero, if_false]

theorem Lit.bits_low (l : Lit) : l.bits % 2 ^ 12 = 0 := by
  match l with
  | .word k _ => simp only [Lit.bits]; omega
  | .pair true _ => exact (by decide : (2 * 2 ^ 13 + 2 ^ 12) % 2 ^ 12 = 0)
  | .pair false _ => exact (by decide : 2 ^ 12 % 2 ^ 12 = 0)

section
variable {op w : Nat} {d a : XReg} {i : Instr} {l : Lit}

theorem decodeAlu_intLit {j : Instr} (hw : (encLit op d a l).word = w) (hop : op < 64)
    (hf : ∀ k v, fpLit op d a k v = none) (h0 : intLit op d a (.word 0 0) = some j) (hi : intLit op d a l = some i) :
    decodeAlu (poolOfList l.pool) w = .ok i := by
  obtain ⟨hop, hform, hd, ha, hl⟩ := encLit_fields hw hop
  have hlow : fld w 0 12 = 0 := by
    have := l.bits_low
    simp only [fld] at hl ⊢
    omega
  simp only [decodeAlu, hop, hform, hd, ha, hf, h0, litOf_eq hl, hi, okIf_eq_ok, hlow, beq_self_eq_true, and_self]

theorem decodeAlu_fpLit {k : Fin 4} {v : BitVec 32} (hw : (encLit op d a (.word k v)).word = w) (hop : op < 64)
    (hi : fpLit op d a k v = some i) : decodeAlu (poolOfList [(k, v)]) w = .ok i := by
  obtain ⟨hop, hform, hd, ha, hl⟩ := encLit_fields hw hop
  simp only [fld, Lit.bits] at hl
  have hk : Fin.ofNat 4 (w / 2 ^ 13) = k := by simp only [Fin.ext_iff, Fin.val_ofNat]; omega
  have hlow : fld w 0 13 = 0 := by simp only [fld]; omega
  simp only [decodeAlu, hop, hform, hd, ha, hk, poolOfList_get, hi, okIf_eq_ok, hlow, beq_self_eq_true, and_self]

theorem decodeAlu_movLit (hw : (encLit 23 d 0 l).word = w) : decodeAlu (poolOfList l.pool) w = .ok (.movLit d l) := by
  obtain ⟨hop, hform, hd, ha, hl⟩ := encLit_fields hw (by decide)
  have hlow : fld w 0 12 = 0 := by
    have := l.bits_low
    simp only [fld] at hl ⊢
    omega
  have hzero : fld w 15 6 = 0 := by simpa [Fin.ext_iff, xAt, fld] using ha
  simp only [decodeAlu, hop, hform, hd, fpLit, intLit, litOf_eq hl, okIf_eq_ok, hlow, hzero, beq_self_eq_true, Bool.and_self, and_self]

end

/-! ### The other alu instructions -/

section
variable {p : Pool} {w : Nat}

theorem decodeAlu_sel {d a b : XReg} {q : PReg} (hw : (encReg 22 d a b q.val).word = w) : decodeAlu p w = .ok (.sel d a b q) := by
  rw [decodeAlu_encReg hw (by decide) (by omega) rfl rfl]
  simp only [encReg] at hw
  simp only [decodeAlu0, okIf_eq_ok, beq_iff_eq, Instr.sel.injEq, fld, xAt, f16At, Fin.ext_iff, Fin.val_ofNat]
  omega

theorem decodeAlu_mov {d a : XReg} (hw : (encReg 23 d a 0 0).word = w) : decodeAlu p w = .ok (.mov d a) := by
  rw [decodeAlu_encReg hw (by decide) (by decide) rfl rfl]
  simp only [encReg, Fin.val_zero] at hw
  simp only [decodeAlu0, okIf_eq_ok, beq_iff_eq, Instr.mov.injEq, fld, xAt, Fin.ext_iff, Fin.val_ofNat]
  omega

theorem decodeAlu_ext {d a b : XReg} {s : Bool} (hw : (encReg 24 d a b (bit s)).word = w) :
    decodeAlu p w = .ok (.ext d a b s) := by
  have hs := bit_lt s
  rw [decodeAlu_encReg hw (by decide) (by omega) rfl rfl]
  simp only [encReg] at hw
  have hsign : (fld w 0 1 == 1) = s := beq_one_of_eq_bit (by simp only [fld]; omega)
  simp only [decodeAlu0, hsign, okIf_eq_ok, beq_iff_eq, Instr.ext.injEq, and_true]
  simp only [fld, xAt, Fin.ext_iff, Fin.val_ofNat]
  omega

/-- The four bit operations differ in their last two bits only (R271). -/
theorem bitOp_fields {n : Nat} {d a : XReg} (hw : (encReg 25 d a 0 n).word = w) (hn : n < 4) :
    decodeAlu p w = decodeAlu0 25 w ∧ fld w 0 2 = n ∧ fld w 2 13 = 0 ∧ xAt w 21 = d ∧ xAt w 15 = a := by
  refine ⟨decodeAlu_encReg hw (by decide) (by omega) rfl rfl, ?_⟩
  simp only [encReg, Fin.val_zero] at hw
  simp only [fld, xAt, Fin.ext_iff, Fin.val_ofNat]
  omega

theorem decodeAlu_bitClz {d a : XReg} (hw : (encReg 25 d a 0 0).word = w) : decodeAlu p w = .ok (.bitClz d a) := by
  obtain ⟨h, hn, hz, hd, ha⟩ := bitOp_fields (p := p) hw (by decide)
  simp only [h, decodeAlu0, hn, hz, hd, ha, okIf_eq_ok, beq_self_eq_true, and_self]

theorem decodeAlu_bitCtz {d a : XReg} (hw : (encReg 25 d a 0 1).word = w) : decodeAlu p w = .ok (.bitCtz d a) := by
  obtain ⟨h, hn, hz, hd, ha⟩ := bitOp_fields (p := p) hw (by decide)
  simp only [h, decodeAlu0, hn, hz, hd, ha, okIf_eq_ok, beq_self_eq_true, and_self]

theorem decodeAlu_bitPopc {d a : XReg} (hw : (encReg 25 d a 0 2).word = w) : decodeAlu p w = .ok (.bitPopc d a) := by
  obtain ⟨h, hn, hz, hd, ha⟩ := bitOp_fields (p := p) hw (by decide)
  simp only [h, decodeAlu0, hn, hz, hd, ha, okIf_eq_ok, beq_self_eq_true, and_self]

theorem decodeAlu_bitBrev {d a : XReg} (hw : (encReg 25 d a 0 3).word = w) : decodeAlu p w = .ok (.bitBrev d a) := by
  obtain ⟨h, hn, hz, hd, ha⟩ := bitOp_fields (p := p) hw (by decide)
  simp only [h, decodeAlu0, hn, hz, hd, ha, okIf_eq_ok, beq_self_eq_true, and_self]

/-- The fields of the comparisons into a predicate, cmp and fcmp (R272, R274). -/
theorem compare_fields {op n : Nat} {d : PReg} {a b : XReg} (hw : (encReg op (Fin.ofNat 64 d.val) a b n).word = w) (hn : n < 8) :
    fld w 0 3 = n ∧ fld w 25 2 = 0 ∧ fld w 3 6 = 0 ∧ f16At w 21 = d ∧ xAt w 15 = a ∧ xAt w 9 = b := by
  simp only [encReg, Fin.val_ofNat] at hw
  simp only [fld, xAt, f16At, Fin.ext_iff, Fin.val_ofNat]
  omega

theorem decodeAlu_cmp {c : CmpCond} {d : PReg} {a b : XReg} (hw : (encReg 26 (Fin.ofNat 64 d.val) a b c.code).word = w) :
    decodeAlu p w = .ok (.cmp c d a b) := by
  have hc := c.code_lt
  obtain ⟨hn, hz, hz', hd, ha, hb⟩ := compare_fields hw hc
  rw [decodeAlu_encReg hw (by decide) (by omega) rfl rfl]
  simp only [decodeAlu0, hn, CmpCond.ofCode_code, hz, hz', hd, ha, hb, okIf_eq_ok, beq_self_eq_true, Bool.and_self, and_self]

theorem decodeAlu_fcmp {c : FCmpCond} {d : PReg} {a b : XReg} (hw : (encReg 34 (Fin.ofNat 64 d.val) a b c.code).word = w) :
    decodeAlu p w = .ok (.fcmp c d a b) := by
  have hc := c.code_lt
  obtain ⟨hn, hz, hz', hd, ha, hb⟩ := compare_fields hw hc
  rw [decodeAlu_encReg hw (by decide) (by omega) rfl rfl]
  simp only [decodeAlu0, hn, FCmpCond.ofCode_code, hz, hz', hd, ha, hb, okIf_eq_ok, beq_self_eq_true, Bool.and_self, and_self]

theorem decodeAlu_plog {o : PLogOp} {d a b : PReg}
    (hw : (encReg 27 (Fin.ofNat 64 d.val) (Fin.ofNat 64 a.val) (Fin.ofNat 64 b.val) o.code).word = w) :
    decodeAlu p w = .ok (.plog o d a b) := by
  have ho := o.code_lt
  rw [decodeAlu_encReg hw (by decide) (by omega) rfl rfl]
  simp only [encReg, Fin.val_ofNat] at hw
  have hn : fld w 0 2 = o.code := by simp only [fld]; omega
  simp only [decodeAlu0, hn, PLogOp.ofCode_code, okIf_eq_ok, Bool.and_eq_true, beq_iff_eq, Instr.plog.injEq, true_and]
  simp only [fld, f16At, Fin.ext_iff, Fin.val_ofNat]
  omega

/-- The fields of the conversions: m is bit 3, which tells them apart (R274). -/
theorem fcvt_fields {m : Nat} {f : Fmt} {d a : XReg} {r : Rnd} (hw : (encReg 35 d a 0 (f.code * 2 ^ 4 + m * 2 ^ 3 + r.code)).word = w)
    (hm : m < 2) : decodeAlu p w = decodeAlu0 35 w ∧ Fmt.ofCode (fld w 4 5) = f ∧ Rnd.ofCode (fld w 0 3) = some r ∧
      fld w 3 1 = m ∧ fld w 9 6 = 0 ∧ xAt w 21 = d ∧ xAt w 15 = a := by
  have hf := f.code_lt
  have hr := r.code_lt
  refine ⟨decodeAlu_encReg hw (by decide) (by omega) rfl rfl, ?_⟩
  simp only [encReg, Fin.val_zero] at hw
  have hfmt : fld w 4 5 = f.code := by simp only [fld]; omega
  have hrnd : fld w 0 3 = r.code := by simp only [fld]; omega
  refine ⟨by rw [hfmt, Fmt.ofCode_code], by rw [hrnd, Rnd.ofCode_code], ?_⟩
  simp only [fld, xAt, Fin.ext_iff, Fin.val_ofNat]
  omega

theorem decodeAlu_fcvtTo {f : Fmt} {d a : XReg} {r : Rnd} (hw : (encReg 35 d a 0 (f.code * 2 ^ 4 + 2 ^ 3 + r.code)).word = w)
    (hwf : (f.isElem && r.scalar) = true) : decodeAlu p w = .ok (.fcvtTo f d a r) := by
  obtain ⟨h, hf, hr, hm, hz, hd, ha⟩ := fcvt_fields (p := p) (m := 1) hw (by decide)
  obtain ⟨hfmt, hrnd⟩ := Bool.and_eq_true_iff.1 hwf
  simp only [h, decodeAlu0, hf, hr, hm, hz, hd, ha, hfmt, hrnd, if_true, okIf2_eq_ok, beq_self_eq_true, Bool.and_self, and_self]

theorem decodeAlu_fcvtFrom {f : Fmt} {d a : XReg} {r : Rnd} (hw : (encReg 35 d a 0 (f.code * 2 ^ 4 + r.code)).word = w)
    (hwf : (f.isElem && r.scalar) = true) : decodeAlu p w = .ok (.fcvtFrom f d a r) := by
  obtain ⟨h, hf, hr, hm, hz, hd, ha⟩ := fcvt_fields (p := p) (m := 0) (by simpa using hw) (by decide)
  obtain ⟨hfmt, hrnd⟩ := Bool.and_eq_true_iff.1 hwf
  simp only [h, decodeAlu0, hf, hr, hm, hz, hd, ha, hfmt, hrnd, zero_ne_one, if_false, okIf2_eq_ok, beq_self_eq_true, Bool.and_self,
    and_self]

theorem decodeAlu_cmpt {a b : XReg} (hw : (encReg 38 0 a b 0).word = w) : decodeAlu p w = .ok (.cmpt a b) := by
  rw [decodeAlu_encReg hw (by decide) (by decide) rfl rfl]
  simp only [encReg, Fin.val_zero] at hw
  simp only [decodeAlu0, okIf_eq_ok, Bool.and_eq_true, beq_iff_eq, Instr.cmpt.injEq, fld, xAt, Fin.ext_iff, Fin.val_ofNat]
  omega

theorem decodeAlu_crd {d : XReg} {k : CtrNo} (hw : (encReg 39 d 0 0 k.val).word = w) : decodeAlu p w = .ok (.crd d k) := by
  rw [decodeAlu_encReg hw (by decide) (by omega) rfl rfl]
  simp only [encReg, Fin.val_zero] at hw
  simp only [decodeAlu0, okIf_eq_ok, beq_iff_eq, Instr.crd.injEq, fld, xAt, f16At, Fin.ext_iff, Fin.val_ofNat]
  omega

theorem decodeAlu_cwr {k : CtrNo} {add : Bool} {a b : XReg} (hw : (encReg 40 (Fin.ofNat 64 (bit add * 32 + k.val)) a b 0).word = w) :
    decodeAlu p w = .ok (.cwr k add a b) := by
  have hs := bit_lt add
  rw [decodeAlu_encReg hw (by decide) (by decide) rfl rfl]
  simp only [encReg, Fin.val_ofNat] at hw
  have hadd : (fld w 26 1 == 1) = add := beq_one_of_eq_bit (by simp only [fld]; omega)
  simp only [decodeAlu0, hadd, okIf_eq_ok, Bool.and_eq_true, beq_iff_eq, Instr.cwr.injEq, true_and]
  simp only [fld, xAt, f16At, Fin.ext_iff, Fin.val_ofNat]
  omega

theorem decodeAlu_lcr {d : XReg} {k : LoopNo} (hw : (encReg 41 d 0 0 k.val).word = w) : decodeAlu p w = .ok (.lcr d k) := by
  rw [decodeAlu_encReg hw (by decide) (by omega) rfl rfl]
  simp only [encReg, Fin.val_zero] at hw
  have hk : fld w 0 3 = k.val := by simp only [fld]; omega
  simp only [decodeAlu0, hk, k.isLt, dif_pos, okIf_eq_ok, beq_iff_eq, Instr.lcr.injEq, and_true]
  simp only [fld, xAt, Fin.ext_iff, Fin.val_ofNat]
  omega

theorem decodeAlu_movImm {d : XReg} {imm : BitVec 15} (hw : (encImm 23 d 0 imm.toNat).word = w) :
    decodeAlu p w = .ok (.movImm d imm) := by
  obtain ⟨hop, hform, hd, ha, -, himm⟩ := encImm_fields hw (by decide) imm.isLt
  have hz : fld w 15 6 = 0 := by simpa [Fin.ext_iff, xAt, fld] using ha
  simp only [decodeAlu, hop, hform, hd, himm, BitVec.ofNat_toNat, BitVec.setWidth_eq, intImm, hz, okIf_eq_ok, beq_self_eq_true, and_self]

theorem decodeAlu_mfs {d : XReg} {r : SysReg} (hw : (encImm 36 d 0 r.number).word = w) : decodeAlu p w = .ok (.mfs d r) := by
  obtain ⟨hop, hform, hd, ha, hr, -⟩ := encImm_fields hw (by decide) (lt_trans r.number_lt (by decide))
  have hz : fld w 15 6 = 0 := by simpa [Fin.ext_iff, xAt, fld] using ha
  simp only [decodeAlu, hop, hform, hd, hr, SysReg.ofNumber_number, intImm, hz, okIf_eq_ok, beq_self_eq_true, and_self]

/-- The row of mts and the two rows beside it, which write RSV.n and INJ.DROPREPLY (R275). -/
theorem decodeAlu_sysWrite {a : XReg} {r : SysReg} (hw : (encImm 37 0 a r.number).word = w) :
    decodeAlu p w = match r with
      | .rsv n => .ok (.rsvWrite n a)
      | .injDropReply => .ok (.injDropreplyArm a)
      | r => .ok (.mts r a) := by
  obtain ⟨hop, hform, hd, ha, hr, -⟩ := encImm_fields hw (by decide) (lt_trans r.number_lt (by decide))
  have hz : fld w 21 6 = 0 := by simpa [Fin.ext_iff, xAt, fld] using hd
  simp only [decodeAlu, hop, hform, ha, hr, SysReg.ofNumber_number, intImm, hz, okIf, beq_self_eq_true, if_true]
  cases r <;> rfl

theorem decodeAlu_mts {a : XReg} {r : SysReg} (hw : (encImm 37 0 a r.number).word = w) (hwf : r.plainMts = true) :
    decodeAlu p w = .ok (.mts r a) := by
  rw [decodeAlu_sysWrite hw]
  split
  · cases hwf
  · cases hwf
  · rfl

theorem decodeAlu_cwrImm {k : CtrNo} {add : Bool} {a : XReg} {imm : BitVec 15}
    (hw : (encImm 40 (Fin.ofNat 64 (bit add * 32 + k.val)) a imm.toNat).word = w) : decodeAlu p w = .ok (.cwrImm k add a imm) := by
  have hs := bit_lt add
  obtain ⟨hop, hform, hd, ha, -, himm⟩ := encImm_fields hw (by decide) imm.isLt
  simp only [xAt, Fin.ext_iff, Fin.val_ofNat] at hd
  have hadd : (fld w 26 1 == 1) = add := beq_one_of_eq_bit (by simp only [fld]; omega)
  have hz : fld w 25 1 = 0 := by simp only [fld]; omega
  have hk : f16At w 21 = k := by simp only [f16At, Fin.ext_iff, Fin.val_ofNat]; omega
  simp only [decodeAlu, hop, hform, ha, himm, BitVec.ofNat_toNat, BitVec.setWidth_eq, intImm, hadd, hz, hk, okIf_eq_ok, beq_self_eq_true,
    and_self]

end

/-! ### The mem slot -/

section
variable {w opc d n : Nat} {a : XReg}

theorem encMem_fields (hw : (encMem opc d a.val n).word = w) (hopc : opc < 256) (hd : d < 64) (hn : n < 2 ^ 15) :
    fld w 32 8 = opc ∧ fld w 21 6 = d ∧ xAt w 15 = a ∧ fld w 0 15 = n := by
  simp only [encMem] at hw
  simp only [fld, xAt, Fin.ext_iff, Fin.val_ofNat]
  omega

theorem xAt_eq {lo : Nat} {x : XReg} (h : fld w lo 6 = x.val) : xAt w lo = x := Fin.ext h

theorem vAt_eq {lo : Nat} {x : VReg} (h : fld w lo 5 = x.val) : vAt w lo = x := Fin.ext h

theorem ofNat_of_fld {k : Nat} {v : BitVec k} (h : fld w 0 k = v.toNat) : BitVec.ofNat k w = v := by
  simpa [fld, ← BitVec.toNat_inj] using h

/-- Loads and stores of a scalar: register, base and displacement (R59). -/
theorem decodeMem_scalar {f : XReg → XReg → BitVec 15 → Instr} {d : XReg} {i : BitVec 15}
    (hdec : ∀ w, fld w 32 8 = opc → decodeMem w = .ok (f (xAt w 21) (xAt w 15) (BitVec.ofNat 15 w)))
    (hw : (encMem opc d.val a.val i.toNat).word = w) (hopc : opc < 256) : decodeMem w = .ok (f d a i) := by
  obtain ⟨hop, hd, ha, hn⟩ := encMem_fields hw hopc d.isLt i.isLt
  rw [hdec w hop, xAt_eq hd, ha, ofNat_of_fld hn]

/-- Loads and stores of a vector register, whose bit 26 is reserved. -/
theorem decodeMem_vector {f : VReg → XReg → BitVec 15 → Instr} {d : VReg} {i : BitVec 15}
    (hdec : ∀ w, fld w 32 8 = opc → decodeMem w = okIf (fld w 26 1 == 0) (f (vAt w 21) (xAt w 15) (BitVec.ofNat 15 w)))
    (hw : (encMem opc d.val a.val i.toNat).word = w) (hopc : opc < 256) : decodeMem w = .ok (f d a i) := by
  obtain ⟨hop, hd, ha, hn⟩ := encMem_fields hw hopc (by omega) i.isLt
  have hz : fld w 26 1 = 0 := by simp only [fld] at hd ⊢; omega
  have hv : vAt w 21 = d := vAt_eq (by simp only [fld] at hd ⊢; omega)
  rw [hdec w hop, hz, hv, ha, ofNat_of_fld hn]
  rfl

/-- The strided forms. -/
theorem decodeMem_strided {f : VReg → XReg → XReg → BitVec 9 → Instr} {d : VReg} {st : XReg} {i : BitVec 9}
    (hdec : ∀ w, fld w 32 8 = opc →
      decodeMem w = okIf (fld w 26 1 == 0) (f (vAt w 21) (xAt w 15) (xAt w 9) (BitVec.ofNat 9 w)))
    (hw : (encMem opc d.val a.val (st.val * 2 ^ 9 + i.toNat)).word = w) (hopc : opc < 256) : decodeMem w = .ok (f d a st i) := by
  obtain ⟨hop, hd, ha, hn⟩ := encMem_fields hw hopc (by omega) (by omega)
  simp only [fld] at hd hn
  have hz : fld w 26 1 = 0 := by simp only [fld]; omega
  have hv : vAt w 21 = d := vAt_eq (by simp only [fld]; omega)
  have hst : xAt w 9 = st := xAt_eq (by simp only [fld]; omega)
  have hi : BitVec.ofNat 9 w = i := ofNat_of_fld (by simp only [fld]; omega)
  rw [hdec w hop, hz, hv, ha, hst, hi]
  rfl

/-- Gather and scatter. -/
theorem decodeMem_indexed {f : VReg → XReg → VReg → Instr} {d ix : VReg}
    (hdec : ∀ w, fld w 32 8 = opc → decodeMem w = okIf (fld w 26 1 == 0 && fld w 0 10 == 0) (f (vAt w 21) (xAt w 15) (vAt w 10)))
    (hw : (encMem opc d.val a.val (ix.val * 2 ^ 10)).word = w) (hopc : opc < 256) : decodeMem w = .ok (f d a ix) := by
  obtain ⟨hop, hd, ha, hn⟩ := encMem_fields hw hopc (by omega) (by omega)
  simp only [fld] at hd hn
  have hz : fld w 26 1 = 0 := by simp only [fld]; omega
  have hlow : fld w 0 10 = 0 := by simp only [fld]; omega
  have hv : vAt w 21 = d := vAt_eq (by simp only [fld]; omega)
  have hix : vAt w 10 = ix := vAt_eq (by simp only [fld]; omega)
  rw [hdec w hop, hz, hlow, hv, ha, hix]
  rfl

end

/-! ### The vec slot -/

section
variable {p : Pool} {w opc : Nat} {c : VCtl} {d a b e : VReg}

theorem encVec_fields {d a b fn : Nat} {pool : List (Fin 4 × BitVec 32)} (hw : (encVec opc c d a b fn pool).word = w)
    (hopc : opc < 256) (hd : d < 32) (ha : a < 32) (hb : b < 32) (hfn : fn < 32) :
    fld w 32 8 = opc ∧ fld w 20 5 = d ∧ fld w 15 5 = a ∧ fld w 10 5 = b ∧ fld w 5 5 = fn ∧ vctl w = c ∧ fld w 25 7 = c.bits / 2 ^ 25 := by
  have hf := c.fmt.code_lt
  have hz := bit_lt c.z
  simp only [encVec, VCtl.bits] at hw
  have hzero : (fld w 28 1 == 1) = c.z := beq_one_of_eq_bit (by simp only [fld]; omega)
  have hfmt : Fmt.ofCode (fld w 0 5) = c.fmt := by
    rw [show fld w 0 5 = c.fmt.code by simp only [fld]; omega, Fmt.ofCode_code]
  have hq : f8At w 29 = c.q := by simp only [f8At, Fin.ext_iff, Fin.val_ofNat]; omega
  have hbeats : f8At w 25 = c.beats := by simp only [f8At, Fin.ext_iff, Fin.val_ofNat]; omega
  have hctl : vctl w = c := by simp only [vctl, hzero, hfmt, hq, hbeats]
  simp only [hctl, fld, VCtl.bits, true_and]
  omega

/-- The registers of the instructions that name three. -/
theorem encVec_regs {fn : Nat} (hw : (encVec opc c d.val a.val b.val fn).word = w) (hopc : opc < 256) (hfn : fn < 32) :
    fld w 32 8 = opc ∧ vctl w = c ∧ vAt w 20 = d ∧ vAt w 15 = a ∧ vAt w 10 = b ∧ fld w 5 5 = fn := by
  obtain ⟨hop, hd, ha, hb, hf, hc, -⟩ := encVec_fields hw hopc d.isLt a.isLt b.isLt hfn
  exact ⟨hop, hc, vAt_eq hd, vAt_eq ha, vAt_eq hb, hf⟩

theorem VCtl.ok_iff {rs : List VReg} : c.ok rs = true ↔ c.fmt.isVec = true ∧ runsOk c rs = true := Bool.and_eq_true_iff

/-- Three runs and an overflow bit: vadd, vsub and vmul. -/
theorem decodeVec_threeSat {f : VCtl → VReg → VReg → VReg → Bool → Instr} {s : Bool}
    (hdec : ∀ w, fld w 32 8 = opc → decodeVec p w =
      okIf2 (fld w 6 4 == 0 && runsOk (vctl w) [vAt w 20, vAt w 15, vAt w 10]) (vctl w).fmt.isVec
        (f (vctl w) (vAt w 20) (vAt w 15) (vAt w 10) (fld w 5 1 == 1)))
    (hw : (encVec opc c d.val a.val b.val (bit s)).word = w) (hopc : opc < 256) (hwf : c.ok [d, a, b] = true) :
    decodeVec p w = .ok (f c d a b s) := by
  have hs := bit_lt s
  obtain ⟨hop, hc, hd, ha, hb, hfn⟩ := encVec_regs hw hopc (by omega)
  obtain ⟨hfmt, hruns⟩ := VCtl.ok_iff.1 hwf
  simp only [fld] at hfn
  have hsat : (fld w 5 1 == 1) = s := beq_one_of_eq_bit (by simp only [fld]; omega)
  have hz : fld w 6 4 = 0 := by simp only [fld]; omega
  rw [hdec w hop, hc, hd, ha, hb, hz, hsat, hruns, hfmt]
  rfl

/-- Four runs: vfma, vfms and vdot. -/
theorem decodeVec_four {f : VCtl → VReg → VReg → VReg → VReg → Instr}
    (hdec : ∀ w, fld w 32 8 = opc → decodeVec p w =
      okIf2 (runsOk (vctl w) [vAt w 20, vAt w 15, vAt w 10, vAt w 5]) (vctl w).fmt.isVec
        (f (vctl w) (vAt w 20) (vAt w 15) (vAt w 10) (vAt w 5)))
    (hw : (encVec opc c d.val a.val b.val e.val).word = w) (hopc : opc < 256) (hwf : c.ok [d, a, b, e] = true) :
    decodeVec p w = .ok (f c d a b e) := by
  obtain ⟨hop, hc, hd, ha, hb, he⟩ := encVec_regs hw hopc e.isLt
  obtain ⟨hfmt, hruns⟩ := VCtl.ok_iff.1 hwf
  rw [hdec w hop, hc, hd, ha, hb, vAt_eq he, hruns, hfmt]
  rfl

/-- Three runs and no other field: vmin, vmax, the bitwise operations, vperm, and the shifts, which are of integer formats only. -/
theorem decodeVec_three {f : VCtl → VReg → VReg → VReg → Instr} {fmtOk : Fmt → Bool}
    (hdec : ∀ w, fld w 32 8 = opc → decodeVec p w =
      okIf2 (fld w 5 5 == 0 && runsOk (vctl w) [vAt w 20, vAt w 15, vAt w 10]) (fmtOk (vctl w).fmt)
        (f (vctl w) (vAt w 20) (vAt w 15) (vAt w 10)))
    (hw : (encVec opc c d.val a.val b.val 0).word = w) (hopc : opc < 256) (hruns : runsOk c [d, a, b] = true)
    (hfmt : fmtOk c.fmt = true) : decodeVec p w = .ok (f c d a b) := by
  obtain ⟨hop, hc, hd, ha, hb, hfn⟩ := encVec_regs hw hopc (by decide)
  rw [hdec w hop, hc, hd, ha, hb, hfn, hruns, hfmt]
  rfl

/-- Two runs and an overflow bit: vabs and vneg. -/
theorem decodeVec_twoSat {f : VCtl → VReg → VReg → Bool → Instr} {s : Bool}
    (hdec : ∀ w, fld w 32 8 = opc → decodeVec p w =
      okIf2 (fld w 6 9 == 0 && runsOk (vctl w) [vAt w 20, vAt w 15]) (vctl w).fmt.isVec
        (f (vctl w) (vAt w 20) (vAt w 15) (fld w 5 1 == 1)))
    (hw : (encVec opc c d.val a.val 0 (bit s)).word = w) (hopc : opc < 256) (hwf : c.ok [d, a] = true) :
    decodeVec p w = .ok (f c d a s) := by
  have hs := bit_lt s
  obtain ⟨hop, hd, ha, hb, hfn, hc, -⟩ := encVec_fields hw hopc d.isLt a.isLt (by decide) (by omega)
  obtain ⟨hfmt, hruns⟩ := VCtl.ok_iff.1 hwf
  simp only [fld] at hfn hb
  have hsat : (fld w 5 1 == 1) = s := beq_one_of_eq_bit (by simp only [fld]; omega)
  have hz : fld w 6 9 = 0 := by simp only [fld]; omega
  rw [hdec w hop, hc, vAt_eq hd, vAt_eq ha, hz, hsat, hruns, hfmt]
  rfl

/-- Two runs and no other field: vscn and vmov. -/
theorem decodeVec_two {f : VCtl → VReg → VReg → Instr}
    (hdec : ∀ w, fld w 32 8 = opc → decodeVec p w =
      okIf2 (fld w 5 10 == 0 && runsOk (vctl w) [vAt w 20, vAt w 15]) (vctl w).fmt.isVec (f (vctl w) (vAt w 20) (vAt w 15)))
    (hw : (encVec opc c d.val a.val 0 0).word = w) (hopc : opc < 256) (hwf : c.ok [d, a] = true) :
    decodeVec p w = .ok (f c d a) := by
  obtain ⟨hop, hd, ha, hb, hfn, hc, -⟩ := encVec_fields hw hopc d.isLt a.isLt (by decide) (by decide)
  obtain ⟨hfmt, hruns⟩ := VCtl.ok_iff.1 hwf
  simp only [fld] at hfn hb
  have hz : fld w 5 10 = 0 := by simp only [fld]; omega
  rw [hdec w hop, hc, vAt_eq hd, vAt_eq ha, hz, hruns, hfmt]
  rfl

theorem decodeVec_vcmp {q : QReg} {z : Bool} {f : Fmt} {d : QReg} {k : VCmpCond}
    (hw : (encVec 0x10 (VCtl.fixed q z f) d.val a.val b.val k.code).word = w) (hwf : f.isVec = true) :
    decodeVec p w = .ok (.vcmp q z f d a b k) := by
  have hk := k.code_lt
  obtain ⟨hop, hd, ha, hb, hfn, hc, hbits⟩ := encVec_fields hw (by decide) (by omega) a.isLt b.isLt (by omega)
  have hz := bit_lt z
  have hf := f.code_lt
  simp only [fld] at hd
  simp only [VCtl.fixed, VCtl.bits, fld, Fin.val_zero] at hbits
  have hres : fld w 23 5 = 0 := by simp only [fld]; omega
  have hres' : fld w 25 3 = 0 := by simp only [fld]; omega
  have hq : f8At w 20 = d := by simp only [f8At, Fin.ext_iff, Fin.val_ofNat]; omega
  simp only [decodeVec, hop, hc, vAt_eq ha, vAt_eq hb, hfn, VCmpCond.ofCode_code, hres, hres', hq, VCtl.fixed, hwf, okIf2_eq_ok,
    beq_self_eq_true, Bool.and_self, and_self]

theorem decodeVec_vsel {qs : QReg} (hw : (encVec 0x11 c d.val a.val b.val qs.val).word = w) (hwf : c.ok [d, a, b] = true) :
    decodeVec p w = .ok (.vsel c d a b qs) := by
  obtain ⟨hop, hc, hd, ha, hb, hfn⟩ := encVec_regs hw (by decide) (by omega)
  obtain ⟨hfmt, hruns⟩ := VCtl.ok_iff.1 hwf
  simp only [fld] at hfn
  have hq : f8At w 5 = qs := by simp only [f8At, Fin.ext_iff, Fin.val_ofNat]; omega
  have hz : fld w 8 2 = 0 := by simp only [fld]; omega
  simp only [decodeVec, hop, hc, hd, ha, hb, hq, hz, hruns, hfmt, okIf2_eq_ok, beq_self_eq_true, Bool.and_self, and_self]

theorem decodeVec_vcvt {t : Fmt} {r : Rnd} {s : Bool} (hw : (encVec 0x12 c d.val a.val (r.code + bit s * 8) t.code).word = w)
    (hwf : (c.fmt.isVec && t.isVec && runOk d (vcvtRun c.beats t.width c.fmt.width) &&
      runOk a (vcvtRun c.beats c.fmt.width t.width)) = true) : decodeVec p w = .ok (.vcvt c d a t r s) := by
  have hs := bit_lt s
  have hr := r.code_lt
  obtain ⟨hop, hd, ha, hb, hfn, hc, -⟩ := encVec_fields hw (by decide) d.isLt a.isLt (by omega) t.code_lt
  simp only [Bool.and_eq_true] at hwf
  obtain ⟨⟨⟨hfmt, ht⟩, hrd⟩, hra⟩ := hwf
  simp only [fld] at hb
  have hsat : (fld w 13 1 == 1) = s := beq_one_of_eq_bit (by simp only [fld]; omega)
  have hrnd : fld w 10 3 = r.code := by simp only [fld]; omega
  have hz : fld w 14 1 = 0 := by simp only [fld]; omega
  simp only [decodeVec, hop, hc, vAt_eq hd, vAt_eq ha, hfn, Fmt.ofCode_code, hrnd, Rnd.ofCode_code, hsat, hz, hfmt, ht, hrd, hra,
    okIf2_eq_ok, beq_self_eq_true, Bool.and_self, Bool.or_true, and_self]

theorem decodeVec_vfun {k : FunCode} (hw : (encVec 0x13 c d.val a.val 0 k.code).word = w)
    (hwf : (c.ok [d, a] && !c.fmt.isInt) = true) : decodeVec p w = .ok (.vfun c d a k) := by
  obtain ⟨hop, hd, ha, hb, hfn, hc, -⟩ := encVec_fields hw (by decide) d.isLt a.isLt (by decide) k.code_lt
  obtain ⟨hok, hint⟩ := Bool.and_eq_true_iff.1 hwf
  obtain ⟨hfmt, hruns⟩ := VCtl.ok_iff.1 hok
  simp only [decodeVec, hop, hc, vAt_eq hd, vAt_eq ha, hb, hfn, FunCode.ofCode_code, hfmt, hruns, hint, okIf2_eq_ok, beq_self_eq_true,
    Bool.and_self, and_self]

theorem decodeVec_vred {k : RedOp} (hw : (encVec 0x14 c d.val a.val 0 k.code).word = w) (hwf : c.ok [a] = true) :
    decodeVec p w = .ok (.vred c d a k) := by
  have hk := k.code_lt
  obtain ⟨hop, hd, ha, hb, hfn, hc, -⟩ := encVec_fields hw (by decide) d.isLt a.isLt (by decide) (by omega)
  obtain ⟨hfmt, hruns⟩ := VCtl.ok_iff.1 hwf
  simp only [fld] at hfn hb
  have hred : fld w 5 2 = k.code := by simp only [fld]; omega
  have hz : fld w 7 8 = 0 := by simp only [fld]; omega
  simp only [decodeVec, hop, hc, vAt_eq hd, vAt_eq ha, hred, RedOp.ofCode_code, hz, hfmt, hruns, okIf2_eq_ok, beq_self_eq_true,
    Bool.and_self, and_self]

theorem decodeVec_vshf {m : ShfMode} (hw : (encVec 0x17 c d.val a.val b.val m.code).word = w)
    (hwf : (c.ok [d, a, b] && (m != .rev || b == 0)) = true) : decodeVec p w = .ok (.vshf c d a b m) := by
  have hm := m.code_lt
  obtain ⟨hop, hc, hd, ha, hb, hfn⟩ := encVec_regs hw (by decide) (by omega)
  obtain ⟨hok, hrev⟩ := Bool.and_eq_true_iff.1 hwf
  obtain ⟨hfmt, hruns⟩ := VCtl.ok_iff.1 hok
  simp only [decodeVec, hop, hc, hd, ha, hb, hfn, ShfMode.ofCode_code, hfmt, hruns, hrev, okIf2_eq_ok, Bool.and_self, and_self]

/-- A scalar register whose number is split: its low five bits in one field, bit 5 in another (R265). -/
theorem splitReg_eq {v : VReg} {n : Nat} {x : XReg} (hlow : v.val = x.val % 32) (hhigh : n = x.val / 32) :
    Fin.ofNat 64 (v.val + 32 * n) = x := by
  simp only [Fin.ext_iff, Fin.val_ofNat]
  omega

theorem vAt_val {lo n : Nat} (h : fld w lo 5 = n) : (vAt w lo).val = n := h

theorem decodeVec_vbcs {x : XReg} (hw : (encVec 0x18 c d.val (x.val % 32) 0 (x.val / 32)).word = w) (hwf : c.ok [d] = true) :
    decodeVec p w = .ok (.vbcs c d x) := by
  obtain ⟨hop, hd, ha, hb, hfn, hc, -⟩ := encVec_fields hw (by decide) d.isLt (by omega) (by decide) (by omega)
  obtain ⟨hfmt, hruns⟩ := VCtl.ok_iff.1 hwf
  simp only [fld] at hfn hb
  have hx : Fin.ofNat 64 ((vAt w 15).val + 32 * fld w 5 1) = x := splitReg_eq (vAt_val ha) (by simp only [fld]; omega)
  have hz : fld w 6 9 = 0 := by simp only [fld]; omega
  simp only [decodeVec, hop, hc, vAt_eq hd, hx, hz, hfmt, hruns, okIf2_eq_ok, beq_self_eq_true, Bool.and_self, and_self]

/-- The control fields that vmvx and vins fix are zero but for the format. -/
theorem fixed_bits_high {f : Fmt} : (VCtl.fixed 0 false f).bits / 2 ^ 25 = 0 := by
  have hf := f.code_lt
  simp only [VCtl.fixed, VCtl.bits, bit, Fin.val_zero, Bool.false_eq_true, if_false]
  omega

theorem decodeVec_vmvx {f : Fmt} {x : XReg} {i : Fin 512}
    (hw : (encVec 0x19 (VCtl.fixed 0 false f) (i.val % 32) (x.val % 32) b.val (i.val / 32 * 2 + x.val / 32)).word = w)
    (hwf : (f.isVec && decide (i.val < 1024 / f.width)) = true) : decodeVec p w = .ok (.vmvx f x b i) := by
  obtain ⟨hop, hd, ha, hb, hfn, hc, hbits⟩ := encVec_fields hw (by decide) (by omega) (by omega) b.isLt (by omega)
  obtain ⟨hfmt, hi⟩ := Bool.and_eq_true_iff.1 hwf
  rw [fixed_bits_high] at hbits
  simp only [fld] at hfn
  have hx : Fin.ofNat 64 ((vAt w 15).val + 32 * fld w 5 1) = x := splitReg_eq (vAt_val ha) (by simp only [fld]; omega)
  have hidx : (Fin.ofNat 512 (fld w 6 4 * 32 + (vAt w 20).val)) = i := by
    rw [vAt_val hd]
    simp only [fld, Fin.ext_iff, Fin.val_ofNat]
    omega
  simp only [decodeVec, hop, hc, vAt_eq hb, hx, hidx, hbits, VCtl.fixed, hfmt, hi, okIf2_eq_ok, beq_self_eq_true, Bool.or_true,
    Bool.and_self, and_self]

theorem decodeVec_vins {f : Fmt} {x : XReg} {i : Fin 512}
    (hw : (encVec 0x1A (VCtl.fixed 0 false f) d.val (x.val % 32) (i.val % 32) (i.val / 32 * 2 + x.val / 32)).word = w)
    (hwf : (f.isVec && decide (i.val < 1024 / f.width)) = true) : decodeVec p w = .ok (.vins f d x i) := by
  obtain ⟨hop, hd, ha, hb, hfn, hc, hbits⟩ := encVec_fields hw (by decide) d.isLt (by omega) (by omega) (by omega)
  obtain ⟨hfmt, hi⟩ := Bool.and_eq_true_iff.1 hwf
  rw [fixed_bits_high] at hbits
  simp only [fld] at hfn
  have hx : Fin.ofNat 64 ((vAt w 15).val + 32 * fld w 5 1) = x := splitReg_eq (vAt_val ha) (by simp only [fld]; omega)
  have hidx : (Fin.ofNat 512 (fld w 6 4 * 32 + (vAt w 10).val)) = i := by
    rw [vAt_val hb]
    simp only [fld, Fin.ext_iff, Fin.val_ofNat]
    omega
  simp only [decodeVec, hop, hc, vAt_eq hd, hx, hidx, hbits, VCtl.fixed, hfmt, hi, okIf2_eq_ok, beq_self_eq_true, Bool.or_true,
    Bool.and_self, and_self]

theorem decodeVec_vrng {n : RngRounds} {hi : Bool} (hw : (encVec 0x1B c d.val a.val 0 (n.code + bit hi * 4)).word = w)
    (hwf : (c.ok [d] && (c.fmt == .int32 || c.fmt == .fp32)) = true) : decodeVec p w = .ok (.vrng c d a n hi) := by
  have hh := bit_lt hi
  have hn := n.code_lt
  obtain ⟨hop, hd, ha, hb, hfn, hc, -⟩ := encVec_fields hw (by decide) d.isLt a.isLt (by decide) (by omega)
  obtain ⟨hok, hfmt⟩ := Bool.and_eq_true_iff.1 hwf
  obtain ⟨-, hruns⟩ := VCtl.ok_iff.1 hok
  simp only [fld] at hfn hb
  have hr : fld w 5 2 = n.code := by simp only [fld]; omega
  have hhi : (fld w 7 1 == 1) = hi := beq_one_of_eq_bit (by simp only [fld]; omega)
  have hz : fld w 8 7 = 0 := by simp only [fld]; omega
  simp only [decodeVec, hop, hc, vAt_eq hd, vAt_eq ha, hr, RngRounds.ofCode_code, hhi, hz, hfmt, hruns, okIf2_eq_ok, beq_self_eq_true,
    Bool.and_self, and_self]

theorem decodeVec_viota (hw : (encVec 0x1C c d.val 0 0 0).word = w) (hwf : c.ok [d] = true) :
    decodeVec p w = .ok (.viota c d) := by
  obtain ⟨hop, hd, ha, hb, hfn, hc, -⟩ := encVec_fields hw (by decide) d.isLt (by decide) (by decide) (by decide)
  obtain ⟨hfmt, hruns⟩ := VCtl.ok_iff.1 hwf
  simp only [fld] at hfn hb ha
  have hz : fld w 5 15 = 0 := by simp only [fld]; omega
  simp only [decodeVec, hop, hc, vAt_eq hd, hz, hfmt, hruns, okIf2_eq_ok, beq_self_eq_true, Bool.and_self, and_self]

theorem decodeVec_vlit {k : Fin 4} {v : BitVec 32} (hw : (encVec 0x1F c d.val 0 0 k.val [(k, v)]).word = w)
    (hwf : c.ok [d] = true) : decodeVec (poolOfList [(k, v)]) w = .ok (.vlit c d k v) := by
  obtain ⟨hop, hd, ha, hb, hfn, hc, -⟩ := encVec_fields hw (by decide) d.isLt (by decide) (by decide) (by omega)
  obtain ⟨hfmt, hruns⟩ := VCtl.ok_iff.1 hwf
  simp only [fld] at hfn hb ha
  have hk : Fin.ofNat 4 (w / 2 ^ 5) = k := by simp only [Fin.ext_iff, Fin.val_ofNat]; omega
  have hz : fld w 7 13 = 0 := by simp only [fld]; omega
  simp only [decodeVec, hop, hc, vAt_eq hd, hk, poolOfList_get, hz, hfmt, hruns, okIf2_eq_ok, beq_self_eq_true, Bool.and_self,
    and_self]

end

/-! ### The tile slots -/

section
variable {w opc low fields : Nat} {m : TMode} {ok : Bool}

theorem encTile_fields (hw : (encTile opc low).word = w) (hopc : opc < 256) (hlow : low < 2 ^ 32) :
    fld w 32 8 = opc ∧ w % 2 ^ 32 = low := by
  simp only [encTile] at hw
  simp only [fld]
  omega

theorem ctr3_ctr3Bits (k : Option LoopNo) : ctr3 (ctr3Bits k) = some k := by
  cases k with
  | none => rfl
  | some k => exact dif_pos k.isLt

theorem tmode_eq (hm : w / 2 ^ 16 % 2 ^ 11 = m.bits / 2 ^ 16) : tmode w = some m := by
  cases m with
  | direct o f r =>
    have hf := f.code_lt
    have hr := r.code_lt
    have ho : o.code < 3 := by cases o <;> decide
    simp only [TMode.bits] at hm
    have hovm : fld w 24 3 = o.code := by simp only [fld]; omega
    have hrnd : fld w 16 3 = r.code := by simp only [fld]; omega
    have hfmt : fld w 19 5 = f.code := by simp only [fld]; omega
    simp only [tmode, hovm, hrnd, hfmt, Fmt.ofCode_code, Rnd.ofCode_code]
    cases o <;> rfl
  | table b k =>
    have hk := ctr3Bits_lt k
    simp only [TMode.bits] at hm
    have hovm : fld w 24 3 = 3 := by simp only [fld]; omega
    have hctr : fld w 16 3 = ctr3Bits k := by simp only [fld]; omega
    have hbase : Fin.ofNat 32 (w / 2 ^ 19) = b := by simp only [Fin.ext_iff, Fin.val_ofNat]; omega
    simp only [tmode, hovm, hctr, hbase, ctr3_ctr3Bits]

theorem TMode.bits_low (m : TMode) : m.bits % 2 ^ 16 = 0 := by
  cases m <;> simp only [TMode.bits] <;> omega

theorem encArith_fields (hw : (encArith opc m fields).word = w) (hopc : opc < 256) (hf : fields < 2 ^ 16) :
    fld w 32 8 = opc ∧ w % 2 ^ 16 = fields ∧ tmode w = some m := by
  have hm := m.bits_lt
  have hm' := m.bits_low
  simp only [encArith] at hw
  refine ⟨by simp only [fld]; omega, by omega, tmode_eq (by omega)⟩

theorem tileArith_eq_ok {f : TMode → Instr} (hm : tmode w = some m) (hlow : w % 2 ^ 3 = 0) (hok : ok = true) :
    tileArith w ok f = .ok (f m) := by
  have hz : fld w 0 3 = 0 := by simp only [fld]; omega
  simp only [tileArith, hm, hok, hz, okIf_eq_ok, beq_self_eq_true, Bool.and_self, and_self]

/-- Tile arithmetic whose operation bits are all reserved. -/
theorem decodeTile_plain {f : TMode → Instr} (hdec : ∀ w, fld w 32 8 = opc → decodeTile w = tileArith w (fld w 3 13 == 0) f)
    (hw : (encArith opc m 0).word = w) (hopc : opc < 256) : decodeTile w = .ok (f m) := by
  obtain ⟨hop, hf, hm⟩ := encArith_fields hw hopc (by decide)
  have hz : fld w 3 13 = 0 := by simp only [fld]; omega
  rw [hdec w hop, tileArith_eq_ok hm (by omega) (by rw [hz, beq_self_eq_true])]

/-- The instructions with a duplicate form: s tells it from the plain one (R187). -/
theorem decodeTile_dup {f g : TMode → Instr} {s : Bool} (hdec : ∀ w, fld w 32 8 = opc → decodeTile w = tileDup w f g)
    (hw : (encArith opc m (bit s)).word = w) (hopc : opc < 256) : decodeTile w = .ok ((if s then g else f) m) := by
  have hs := bit_lt s
  obtain ⟨hop, hf, hm⟩ := encArith_fields hw hopc (by omega)
  have hform : fld w 0 3 = bit s := by simp only [fld]; omega
  have hz : fld w 3 13 = 0 := by simp only [fld]; omega
  simp only [hdec w hop, tileDup, hm, hform, hz]
  cases s <;> rfl

/-- Tile arithmetic with one scalar register: tslc and tbcs. -/
theorem decodeTile_reg {f : TMode → XReg → Instr} {x : XReg}
    (hdec : ∀ w, fld w 32 8 = opc → decodeTile w = tileArith w (fld w 3 7 == 0) (fun m => f m (xAt w 10)))
    (hw : (encArith opc m (x.val * 2 ^ 10)).word = w) (hopc : opc < 256) : decodeTile w = .ok (f m x) := by
  obtain ⟨hop, hf, hm⟩ := encArith_fields hw hopc (by omega)
  have hx : xAt w 10 = x := xAt_eq (by simp only [fld]; omega)
  have hz : fld w 3 7 = 0 := by simp only [fld]; omega
  rw [hdec w hop, tileArith_eq_ok hm (by omega) (by rw [hz, beq_self_eq_true]), hx]

theorem decodeTile_tscl {x : XReg} {int : Bool} (hw : (encArith 0x17 m (x.val * 2 ^ 10 + bit int * 2 ^ 9)).word = w) :
    decodeTile w = .ok (.tscl m x int) := by
  have hi := bit_lt int
  obtain ⟨hop, hf, hm⟩ := encArith_fields hw (by decide) (by omega)
  have hx : xAt w 10 = x := xAt_eq (by simp only [fld]; omega)
  have hint : (fld w 9 1 == 1) = int := beq_one_of_eq_bit (by simp only [fld]; omega)
  have hz : fld w 3 6 = 0 := by simp only [fld]; omega
  simp only [decodeTile, hop, hx, hint, tileArith_eq_ok hm (show w % 2 ^ 3 = 0 by omega), hz, beq_self_eq_true]

theorem decodeTile_tbia_none (hw : (encArith 0x18 m 0).word = w) : decodeTile w = .ok (.tbia m none) := by
  obtain ⟨hop, hf, hm⟩ := encArith_fields hw (by decide) (by decide)
  have hform : fld w 15 1 = 0 := by simp only [fld]; omega
  have hz : fld w 3 12 = 0 := by simp only [fld]; omega
  simp only [decodeTile, hop, hform, if_true, tileArith_eq_ok hm (show w % 2 ^ 3 = 0 by omega), hz, beq_self_eq_true]

theorem decodeTile_tbia_some {k : FunCode} (hw : (encArith 0x18 m (2 ^ 15 + k.code * 2 ^ 10)).word = w) :
    decodeTile w = .ok (.tbia m (some k)) := by
  have hk := k.code_lt
  obtain ⟨hop, hf, hm⟩ := encArith_fields hw (by decide) (by omega)
  have hform : fld w 15 1 = 1 := by simp only [fld]; omega
  have hfun : fld w 10 5 = k.code := by simp only [fld]; omega
  have hz : fld w 3 7 = 0 := by simp only [fld]; omega
  simp only [decodeTile, hop, hform, one_ne_zero, if_false, hfun, FunCode.ofCode_code,
    tileArith_eq_ok hm (show w % 2 ^ 3 = 0 by omega), hz, beq_self_eq_true]

theorem decodeTile_tfun {k : FunCode} (hw : (encArith 0x19 m (k.code * 2 ^ 10)).word = w) : decodeTile w = .ok (.tfun m k) := by
  have hk := k.code_lt
  obtain ⟨hop, hf, hm⟩ := encArith_fields hw (by decide) (by omega)
  have hform : fld w 15 1 = 0 := by simp only [fld]; omega
  have hfun : fld w 10 5 = k.code := by simp only [fld]; omega
  have hz : fld w 3 7 = 0 := by simp only [fld]; omega
  simp only [decodeTile, hop, hform, hfun, FunCode.ofCode_code, tileArith_eq_ok hm (show w % 2 ^ 3 = 0 by omega), hz,
    beq_self_eq_true, Bool.and_self]

theorem decodeTile_tred {k : RedOp} {cols : Bool} (hw : (encArith 0x1A m (k.code * 2 ^ 4 + bit cols * 2 ^ 3)).word = w) :
    decodeTile w = .ok (.tred m k cols) := by
  have hk := k.code_lt
  have hc := bit_lt cols
  obtain ⟨hop, hf, hm⟩ := encArith_fields hw (by decide) (by omega)
  have hred : fld w 4 2 = k.code := by simp only [fld]; omega
  have hcols : (fld w 3 1 == 1) = cols := beq_one_of_eq_bit (by simp only [fld]; omega)
  have hz : fld w 6 10 = 0 := by simp only [fld]; omega
  simp only [decodeTile, hop, hred, RedOp.ofCode_code, hcols, tileArith_eq_ok hm (show w % 2 ^ 3 = 0 by omega), hz,
    beq_self_eq_true]

theorem decodeTile_tcat {cols : Bool} (hw : (encArith 0x1F m (bit cols * 2 ^ 3)).word = w) :
    decodeTile w = .ok (.tcat m cols) := by
  have hc := bit_lt cols
  obtain ⟨hop, hf, hm⟩ := encArith_fields hw (by decide) (by omega)
  have hcols : (fld w 3 1 == 1) = cols := beq_one_of_eq_bit (by simp only [fld]; omega)
  have hz : fld w 4 12 = 0 := by simp only [fld]; omega
  simp only [decodeTile, hop, hcols, tileArith_eq_ok hm (show w % 2 ^ 3 = 0 by omega), hz, beq_self_eq_true]

theorem decodeTile_tmsk_none (hw : (encArith 0x21 m 0).word = w) : decodeTile w = .ok (.tmsk m none) := by
  obtain ⟨hop, hf, hm⟩ := encArith_fields hw (by decide) (by decide)
  have hform : fld w 3 1 = 0 := by simp only [fld]; omega
  have hz : fld w 4 12 = 0 := by simp only [fld]; omega
  simp only [decodeTile, hop, hform, if_true, tileArith_eq_ok hm (show w % 2 ^ 3 = 0 by omega), hz, beq_self_eq_true]

theorem decodeTile_tmsk_some {x : XReg} (hw : (encArith 0x21 m (x.val * 2 ^ 10 + 2 ^ 3)).word = w) :
    decodeTile w = .ok (.tmsk m (some x)) := by
  obtain ⟨hop, hf, hm⟩ := encArith_fields hw (by decide) (by omega)
  have hform : fld w 3 1 = 1 := by simp only [fld]; omega
  have hx : xAt w 10 = x := xAt_eq (by simp only [fld]; omega)
  have hz : fld w 4 6 = 0 := by simp only [fld]; omega
  simp only [decodeTile, hop, hform, one_ne_zero, if_false, hx, tileArith_eq_ok hm (show w % 2 ^ 3 = 0 by omega), hz,
    beq_self_eq_true]

/-- The fields of a tld beside its format (R166). -/
theorem tld_fields {xt xo : XReg} {n fmt : Nat} {tr nt : Bool}
    (hw : (encTile 0x01 (xt.val * 2 ^ 21 + xo.val * 2 ^ 15 + fmt + bit nt * 2 + bit tr)).word = w) (hf : fmt = n * 2 ^ 9)
    (hn : n < 2 ^ 6) :
    fld w 32 8 = 1 ∧ xAt w 21 = xt ∧ xAt w 15 = xo ∧ (fld w 0 1 == 1) = tr ∧ (fld w 1 1 == 1) = nt ∧ fld w 2 7 = 0 ∧
      fld w 9 6 = n := by
  have htr := bit_lt tr
  have hnt := bit_lt nt
  obtain ⟨hop, hlow⟩ := encTile_fields hw (by decide) (by omega)
  refine ⟨hop, xAt_eq (by simp only [fld]; omega), xAt_eq (by simp only [fld]; omega),
    beq_one_of_eq_bit (by simp only [fld]; omega), beq_one_of_eq_bit (by simp only [fld]; omega), ?_, ?_⟩ <;>
    simp only [fld] <;> omega

theorem decodeTile_tld_code {xt xo : XReg} {f : Fmt} {tr nt : Bool}
    (hw : (encTile 0x01 (xt.val * 2 ^ 21 + xo.val * 2 ^ 15 + f.code * 2 ^ 9 + bit nt * 2 + bit tr)).word = w) :
    decodeTile w = .ok (.tld xt xo (.code f) tr nt) := by
  have hf := f.code_lt
  obtain ⟨hop, ht, ho, htr, hnt, hz, hn⟩ := tld_fields hw rfl (by omega)
  simp only [fld] at hn
  have hform : fld w 14 1 = 0 := by simp only [fld]; omega
  have hfmt : fld w 9 5 = f.code := by simp only [fld]; omega
  simp only [decodeTile, hop, ht, ho, htr, hnt, hz, hform, if_true, hfmt, Fmt.ofCode_code, okIf_eq_ok, beq_self_eq_true, and_self]

theorem decodeTile_tld_table {xt xo : XReg} {k : Option LoopNo} {tr nt : Bool}
    (hw : (encTile 0x01 (xt.val * 2 ^ 21 + xo.val * 2 ^ 15 + (2 ^ 14 + ctr3Bits k * 2 ^ 9) + bit nt * 2 + bit tr)).word = w) :
    decodeTile w = .ok (.tld xt xo (.table k) tr nt) := by
  have hk := ctr3Bits_lt k
  obtain ⟨hop, ht, ho, htr, hnt, hz, hn⟩ := tld_fields (n := 2 ^ 5 + ctr3Bits k) hw (by omega) (by omega)
  simp only [fld] at hn
  have hform : fld w 14 1 = 1 := by simp only [fld]; omega
  have hctr : fld w 9 3 = ctr3Bits k := by simp only [fld]; omega
  have hz' : fld w 12 2 = 0 := by simp only [fld]; omega
  simp only [decodeTile, hop, ht, ho, htr, hnt, hz, hz', hform, one_ne_zero, if_false, hctr, ctr3_ctr3Bits, okIf_eq_ok,
    beq_self_eq_true, Bool.and_self, and_self]

theorem decodeTile_tzer {f : Fmt} {x : XReg} (hw : (encTile 0x02 (f.code * 2 ^ 19 + x.val * 2 ^ 10)).word = w) :
    decodeTile w = .ok (.tzer f x) := by
  have hf := f.code_lt
  obtain ⟨hop, hlow⟩ := encTile_fields hw (by decide) (by omega)
  have hfmt : fld w 19 5 = f.code := by simp only [fld]; omega
  simp only [decodeTile, hop, hfmt, Fmt.ofCode_code, okIf_eq_ok, Bool.and_eq_true, beq_iff_eq, Instr.tzer.injEq, true_and]
  simp only [fld, xAt, Fin.ext_iff, Fin.val_ofNat]
  omega

theorem decodeTile_tfil {f : Fmt} {x v : XReg} (hw : (encTile 0x03 (f.code * 2 ^ 19 + x.val * 2 ^ 10 + v.val * 2 ^ 4)).word = w) :
    decodeTile w = .ok (.tfil f x v) := by
  have hf := f.code_lt
  obtain ⟨hop, hlow⟩ := encTile_fields hw (by decide) (by omega)
  have hfmt : fld w 19 5 = f.code := by simp only [fld]; omega
  simp only [decodeTile, hop, hfmt, Fmt.ofCode_code, okIf_eq_ok, Bool.and_eq_true, beq_iff_eq, Instr.tfil.injEq, true_and]
  simp only [fld, xAt, Fin.ext_iff, Fin.val_ofNat]
  omega

/-- The stack instructions: a number in the last six bits and nothing else (R162). -/
theorem encTile_stack {n : Fin 64} (hw : (encTile opc n.val).word = w) (hopc : opc < 256) :
    fld w 32 8 = opc ∧ fld w 6 21 = 0 ∧ Fin.ofNat 64 w = n := by
  obtain ⟨hop, hlow⟩ := encTile_fields hw hopc (by omega)
  refine ⟨hop, ?_⟩
  simp only [fld, Fin.ext_iff, Fin.val_ofNat]
  omega

theorem decodeTile_stackPlain {i : Instr}
    (hdec : ∀ w, fld w 32 8 = opc → decodeTile w = okIf (fld w 6 21 == 0 && Fin.ofNat 64 w == 0) i)
    (hw : (encTile opc 0).word = w) (hopc : opc < 256) : decodeTile w = .ok i := by
  obtain ⟨hop, hz, hn⟩ := encTile_stack (n := 0) hw hopc
  rw [hdec w hop, hz, hn]
  rfl

theorem decodeTile_stackNumber {f : Fin 64 → Instr} {n : Fin 64}
    (hdec : ∀ w, fld w 32 8 = opc → decodeTile w = okIf (fld w 6 21 == 0) (f (Fin.ofNat 64 w)))
    (hw : (encTile opc n.val).word = w) (hopc : opc < 256) : decodeTile w = .ok (f n) := by
  obtain ⟨hop, hz, hn⟩ := encTile_stack hw hopc
  rw [hdec w hop, hz, hn]
  rfl

theorem decodeTile_tchk (hw : (encTile 0x22 0).word = w) : decodeTile w = .ok .tchk := by
  obtain ⟨hop, hlow⟩ := encTile_fields hw (by decide) (by decide)
  have hz : fld w 0 27 = 0 := by simp only [fld]; omega
  simp only [decodeTile, hop, hz, okIf_eq_ok, beq_self_eq_true, and_self]

theorem decodeTile_tst {xt xr : XReg} {f : Option FlagNo} (hw : (encTile 0x30 (xt.val * 2 ^ 21 + xr.val * 2 ^ 15 + flagBits f)).word = w) :
    decodeTile w = .ok (.tst xt xr f) := by
  have hf := flagBits_lt f
  obtain ⟨hop, hlow⟩ := encTile_fields hw (by decide) (by omega)
  have ht : xAt w 21 = xt := xAt_eq (by simp only [fld]; omega)
  have hr : xAt w 15 = xr := xAt_eq (by simp only [fld]; omega)
  cases f with
  | none =>
    simp only [flagBits] at hlow
    have hform : fld w 9 1 = 0 := by simp only [fld]; omega
    have hz : fld w 10 5 = 0 := by simp only [fld]; omega
    have hz' : fld w 0 9 = 0 := by simp only [fld]; omega
    simp only [decodeTile, hop, ht, hr, hform, if_true, hz, hz', okIf_eq_ok, beq_self_eq_true, Bool.and_self, and_self]
  | some k =>
    simp only [flagBits] at hlow
    have hform : fld w 9 1 = 1 := by simp only [fld]; omega
    have hk : vAt w 10 = k := vAt_eq (by simp only [fld]; omega)
    have hz : fld w 0 9 = 0 := by simp only [fld]; omega
    simp only [decodeTile, hop, ht, hr, hform, one_ne_zero, if_false, hk, hz, okIf_eq_ok, beq_self_eq_true, and_self]

theorem decodeTile_tfrc {n : Fin 64} {xr : XReg} {f : FlagNo}
    (hw : (encTile 0x31 (f.val * 2 ^ 12 + xr.val * 2 ^ 6 + n.val)).word = w) : decodeTile w = .ok (.tfrc n xr f) := by
  obtain ⟨hop, hlow⟩ := encTile_fields hw (by decide) (by omega)
  simp only [decodeTile, hop, okIf_eq_ok, beq_iff_eq, Instr.tfrc.injEq]
  simp only [fld, xAt, vAt, Fin.ext_iff, Fin.val_ofNat]
  omega

end

/-! ### The copy slot -/

section
variable {w opc cls x sub : Nat} {a b : XReg} {f : Option FlagNo} {c : Fin 4}

theorem flagOf_eq (hf : w / 2 ^ 9 % 2 ^ 6 = flagBits f / 2 ^ 9) : flagOf w = some f := by
  cases f with
  | none =>
    simp only [flagBits] at hf
    have hform : fld w 9 1 = 0 := by simp only [fld]; omega
    have hz : fld w 10 5 = 0 := by simp only [fld]; omega
    simp only [flagOf, hform, hz, if_true]
  | some k =>
    simp only [flagBits] at hf
    have hform : fld w 9 1 = 1 := by simp only [fld]; omega
    have hk : vAt w 10 = k := vAt_eq (by simp only [fld]; omega)
    simp only [flagOf, hform, one_ne_zero, if_false, hk]

theorem flagBits_low (f : Option FlagNo) : flagBits f % 2 ^ 9 = 0 := by
  cases f <;> simp only [flagBits] <;> omega

theorem withFlag_eq_ok {ok : Bool} {g : Option FlagNo → Instr} (hf : flagOf w = some f) (hok : ok = true) :
    withFlag w ok g = .ok (g f) := by
  simp only [withFlag, hf, hok, okIf_eq_ok, and_self]

theorem encCopy_fields {a b : Nat} (hw : (encCopy opc a b f cls x sub).word = w) (hopc : opc < 256) (ha : a < 64) (hb : b < 64)
    (hc : cls < 4) (hx : x < 2) (hs : sub < 64) :
    fld w 32 8 = opc ∧ flagOf w = some f ∧ fld w 21 6 = a ∧ fld w 15 6 = b ∧ fld w 7 2 = cls ∧ fld w 6 1 = x ∧ fld w 0 6 = sub ∧
      fld w 6 3 = cls * 2 + x ∧ fld w 15 12 = a * 64 + b := by
  have hf := flagBits_lt f
  have hf' := flagBits_low f
  simp only [encCopy] at hw
  refine ⟨?_, flagOf_eq (by omega), ?_⟩ <;> simp only [fld] <;> omega

theorem cls_eq (h : fld w 7 2 = c.val) : Fin.ofNat 4 (w / 2 ^ 7) = c := Fin.ext h

theorem bne_zero_of_clsOk (h : clsOk c = true) : (c.val != 0) = true := by
  simpa [clsOk] using h

/-- One register, and a class with its X bit: scpy and sacc. -/
theorem decodeCopy_walk {g : XReg → Option FlagNo → Fin 4 → Bool → Instr} {s : Bool}
    (hdec : ∀ w, fld w 32 8 = opc → decodeCopy w = withFlag w (fld w 7 2 != 0 && fld w 15 6 == 0 && fld w 0 6 == 0)
      (fun f => g (xAt w 21) f (Fin.ofNat 4 (w / 2 ^ 7)) (fld w 6 1 == 1)))
    (hw : (encCopy opc a.val 0 f c.val (bit s) 0).word = w) (hopc : opc < 256) (hwf : clsOk c = true) :
    decodeCopy w = .ok (g a f c s) := by
  obtain ⟨hop, hf, ha, hb, hc, hx, hs, -⟩ := encCopy_fields hw hopc a.isLt (by decide) c.isLt (bit_lt s) (by decide)
  rw [hdec w hop, withFlag_eq_ok hf, xAt_eq ha, cls_eq hc, hx, bit_beq_one]
  rw [hc, hb, hs, bne_zero_of_clsOk hwf]
  rfl

/-- Two registers, and a class with its X bit: sgth, and ssig in its plain form. -/
theorem decodeCopy_pair {g : XReg → XReg → Option FlagNo → Fin 4 → Bool → Instr} {s : Bool}
    (hdec : ∀ w, fld w 32 8 = opc → fld w 0 1 = 0 → decodeCopy w = withFlag w (fld w 7 2 != 0 && fld w 0 6 == 0)
      (fun f => g (xAt w 21) (xAt w 15) f (Fin.ofNat 4 (w / 2 ^ 7)) (fld w 6 1 == 1)))
    (hw : (encCopy opc a.val b.val f c.val (bit s) 0).word = w) (hopc : opc < 256) (hwf : clsOk c = true) :
    decodeCopy w = .ok (g a b f c s) := by
  obtain ⟨hop, hf, ha, hb, hc, hx, hs, -⟩ := encCopy_fields hw hopc a.isLt b.isLt c.isLt (bit_lt s) (by decide)
  rw [hdec w hop (by simp only [fld] at hs ⊢; omega), withFlag_eq_ok hf, xAt_eq ha, xAt_eq hb, cls_eq hc, hx, bit_beq_one]
  rw [hc, hs, bne_zero_of_clsOk hwf]
  rfl

/-- An operation of satm, by its code (R110). -/
theorem decodeCopy_satm {g : XReg → Option FlagNo → Fin 4 → Instr}
    (hdec : ∀ w, fld w 32 8 = 3 → fld w 0 4 = sub → decodeCopy w =
      withFlag w (fld w 7 2 != 0 && fld w 15 6 == 0 && fld w 6 1 == 0 && fld w 4 2 == 0)
        (fun f => g (xAt w 21) f (Fin.ofNat 4 (w / 2 ^ 7))))
    (hw : (encCopy 3 a.val 0 f c.val 0 sub).word = w) (hsub : sub < 16) (hwf : clsOk c = true) :
    decodeCopy w = .ok (g a f c) := by
  obtain ⟨hop, hf, ha, hb, hc, hx, hs, -⟩ := encCopy_fields hw (by decide) a.isLt (by decide) c.isLt (by decide) (by omega)
  simp only [fld] at hs
  have hcode : fld w 0 4 = sub := by simp only [fld]; omega
  have hz : fld w 4 2 = 0 := by simp only [fld]; omega
  rw [hdec w hop hcode, withFlag_eq_ok hf, xAt_eq ha, cls_eq hc]
  rw [hc, hb, hx, hz, bne_zero_of_clsOk hwf]
  rfl

theorem decodeCopy_ssigRel {s : Bool} {sc : Scope} (hw : (encCopy 4 a.val b.val f c.val (bit s) (1 + 2 * sc.code)).word = w)
    (hwf : (clsOk c && sc != .core) = true) : decodeCopy w = .ok (.ssigRel a b f c s sc) := by
  have hsc := sc.code_lt
  obtain ⟨hcls, hcore⟩ := Bool.and_eq_true_iff.1 hwf
  obtain ⟨hop, hf, ha, hb, hc, hx, hs, -⟩ := encCopy_fields hw (by decide) a.isLt b.isLt c.isLt (bit_lt s) (by omega)
  simp only [fld] at hs
  have hform : fld w 0 1 = 1 := by simp only [fld]; omega
  have hscope : fld w 1 2 = sc.code := by simp only [fld]; omega
  have hz : fld w 3 3 = 0 := by simp only [fld]; omega
  simp only [decodeCopy, hop, hform, one_ne_zero, if_false, hscope, Scope.ofCode_code, withFlag_eq_ok hf, xAt_eq ha, xAt_eq hb,
    cls_eq hc, hx, bit_beq_one, hc, bne_zero_of_clsOk hcls, hz, hcore, beq_self_eq_true, Bool.and_self]

theorem kindMask_eq {m : KindMask} {lo : Nat} (h : w / 2 ^ lo % 2 ^ 3 = m.bits) : kindMask w lo = m := by
  have hr := bit_lt m.r
  have hw := bit_lt m.w
  have hm := bit_lt m.m
  simp only [KindMask.bits] at h
  have h0 : fld w lo 1 = bit m.r := by simp only [fld]; omega
  have h1 : fld w (lo + 1) 1 = bit m.w := by simp only [fld, Nat.pow_succ, ← Nat.div_div_eq_div_mul]; omega
  have h2 : fld w (lo + 2) 1 = bit m.m := by simp only [fld, Nat.pow_succ, ← Nat.div_div_eq_div_mul]; omega
  simp only [kindMask, h0, h1, h2, bit_beq_one]

theorem decodeCopy_sbar {m n : KindMask} (hw : (encCopy 8 0 0 f 0 0 (m.bits + 8 * n.bits)).word = w)
    (hwf : (m.ok && n.ok) = true) : decodeCopy w = .ok (.sbar m n f) := by
  have hm := m.bits_lt
  have hn := n.bits_lt
  obtain ⟨hmok, hnok⟩ := Bool.and_eq_true_iff.1 hwf
  obtain ⟨hop, hf, -, -, -, -, hs, hz, hz'⟩ := encCopy_fields hw (by decide) (by decide) (by decide) (by decide) (by decide) (by omega)
  simp only [fld] at hs
  simp only [decodeCopy, hop, withFlag_eq_ok hf, hz, hz', kindMask_eq (w := w) (m := m) (lo := 0) (by omega),
    kindMask_eq (w := w) (m := n) (lo := 3) (by omega), hmok, hnok, Nat.zero_mul, Nat.add_zero, beq_self_eq_true, Bool.and_self]

theorem decodeCopy_sdrn (hw : (encCopy 9 0 0 f 0 0 0).word = w) : decodeCopy w = .ok (.sdrn f) := by
  obtain ⟨hop, hf, -, -, -, -, hs, hz, hz'⟩ := encCopy_fields hw (by decide) (by decide) (by decide) (by decide) (by decide) (by decide)
  simp only [decodeCopy, hop, withFlag_eq_ok hf, hs, hz, hz', Nat.zero_mul, Nat.add_zero, beq_self_eq_true, Bool.and_self]

/-- The three fences, by their kind and scope (R117). -/
theorem fence_fields {sc : Scope} {k : Nat} (hw : (encCopy 10 0 0 f 0 0 (4 * k + sc.code)).word = w) (hk : k < 4) :
    fld w 32 8 = 10 ∧ flagOf w = some f ∧ fld w 0 2 = sc.code ∧ fld w 2 2 = k ∧ fld w 6 3 = 0 ∧ fld w 15 12 = 0 ∧ fld w 4 2 = 0 := by
  have hsc := sc.code_lt
  obtain ⟨hop, hf, -, -, -, -, hs, hz, hz'⟩ := encCopy_fields hw (by decide) (by decide) (by decide) (by decide) (by decide) (by omega)
  simp only [fld] at hs
  refine ⟨hop, hf, ?_, ?_, hz, hz', ?_⟩ <;> simp only [fld] <;> omega

theorem decodeCopy_fenceAcq {sc : Scope} (hw : (encCopy 10 0 0 f 0 0 sc.code).word = w) : decodeCopy w = .ok (.fenceAcq sc f) := by
  obtain ⟨hop, hf, hsc, hk, hz, hz', hz''⟩ := fence_fields (k := 0) (by simpa using hw) (by decide)
  simp only [decodeCopy, hop, hsc, Scope.ofCode_code, hk, withFlag_eq_ok hf, hz, hz', hz'', beq_self_eq_true, Bool.and_self]

theorem decodeCopy_fenceRel {sc : Scope} (hw : (encCopy 10 0 0 f 0 0 (4 + sc.code)).word = w) : decodeCopy w = .ok (.fenceRel sc f) := by
  obtain ⟨hop, hf, hsc, hk, hz, hz', hz''⟩ := fence_fields (k := 1) hw (by decide)
  simp only [decodeCopy, hop, hsc, Scope.ofCode_code, hk, withFlag_eq_ok hf, hz, hz', hz'', beq_self_eq_true, Bool.and_self]

theorem decodeCopy_fenceSc {sc : Scope} (hw : (encCopy 10 0 0 f 0 0 (8 + sc.code)).word = w) : decodeCopy w = .ok (.fenceSc sc f) := by
  obtain ⟨hop, hf, hsc, hk, hz, hz', hz''⟩ := fence_fields (k := 2) hw (by decide)
  simp only [decodeCopy, hop, hsc, Scope.ofCode_code, hk, withFlag_eq_ok hf, hz, hz', hz'', beq_self_eq_true, Bool.and_self]

/-- The cache commands on a descriptor: l2wb and l2inv. -/
theorem decodeCopy_l2 {g : XReg → Option FlagNo → Instr}
    (hdec : ∀ w, fld w 32 8 = opc → decodeCopy w = withFlag w (fld w 6 3 == 0 && fld w 15 6 == 0 && fld w 0 6 == 0) (g (xAt w 21)))
    (hw : (encCopy opc a.val 0 f 0 0 0).word = w) (hopc : opc < 256) : decodeCopy w = .ok (g a f) := by
  obtain ⟨hop, hf, ha, hb, -, -, hs, hz, -⟩ := encCopy_fields hw hopc a.isLt (by decide) (by decide) (by decide) (by decide)
  rw [hdec w hop, withFlag_eq_ok hf, xAt_eq ha]
  rw [hz, hb, hs]
  rfl

theorem decodeCopy_l2pf {r : Bool} (hw : (encCopy 13 a.val 0 f 0 0 (bit r)).word = w) : decodeCopy w = .ok (.l2pf a r f) := by
  have hr := bit_lt r
  obtain ⟨hop, hf, ha, hb, -, -, hs, hz, -⟩ := encCopy_fields hw (by decide) a.isLt (by decide) (by decide) (by decide) (by omega)
  simp only [fld] at hs
  have hret : (fld w 0 1 == 1) = r := beq_one_of_eq_bit (by simp only [fld]; omega)
  have hz' : fld w 1 5 = 0 := by simp only [fld]; omega
  simp only [decodeCopy, hop, withFlag_eq_ok hf, xAt_eq ha, hb, hret, hz, hz', Nat.zero_mul, Nat.add_zero, beq_self_eq_true, Bool.and_self]

theorem decodeCopy_sxfr (hw : (encCopy 14 a.val b.val f 0 0 0).word = w) : decodeCopy w = .ok (.sxfr a b f) := by
  obtain ⟨hop, hf, ha, hb, -, -, hs, hz, -⟩ := encCopy_fields hw (by decide) a.isLt b.isLt (by decide) (by decide) (by decide)
  simp only [decodeCopy, hop, withFlag_eq_ok hf, xAt_eq ha, xAt_eq hb, hs, hz, Nat.zero_mul, Nat.add_zero, beq_self_eq_true, Bool.and_self]

end

/-! ### The ctl slot -/

/-- A pool word that every entry for its place agrees on is read there. -/
theorem poolOfList_get_of_mem {l : List (Fin 4 × BitVec 32)} {k : Fin 4} {v : BitVec 32} (hmem : (k, v) ∈ l)
    (hall : ∀ q ∈ l, q.1 = k → q.2 = v) : (poolOfList l).get k = v := by
  have hget : (poolOfList l).get k = ((l.find? (fun q => q.1 == k)).map Prod.snd).getD 0 := by
    have hword : ∀ k : Fin 4, (match l.find? (fun q => q.1 == k) with | some q => q.2 | none => 0) =
        ((l.find? (fun q => q.1 == k)).map Prod.snd).getD 0 := by
      intro k
      cases l.find? (fun q => q.1 == k) <;> rfl
    match k with
    | 0 => exact hword 0
    | 1 => exact hword 1
    | 2 => exact hword 2
    | 3 => exact hword 3
  rw [hget]
  cases hq : l.find? (fun q => q.1 == k) with
  | none => exact absurd (List.find?_eq_none.1 hq _ hmem) (by simp)
  | some q => exact hall q (List.mem_of_find?_eq_some hq) (by simpa using List.find?_some hq)

/-- The places of the low and the high word of a pool pair (R38). -/
def pairLow (hi : Bool) : Fin 4 := if hi then 2 else 0
def pairHigh (hi : Bool) : Fin 4 := if hi then 3 else 1

theorem Pool.pair_eq (p : Pool) (hi : Bool) : p.pair hi = p.get (pairHigh hi) ++ p.get (pairLow hi) := by
  cases hi <;> rfl

theorem Lit.pool_pair (hi : Bool) (v : BitVec 64) :
    (Lit.pair hi v).pool = [(pairLow hi, v.setWidth 32), (pairHigh hi, (v >>> 32).setWidth 32)] := by
  cases hi <;> rfl

theorem ExitSrc.agree_self (s : ExitSrc) : s.agree s = true := by
  cases s <;> simp [ExitSrc.agree]

theorem ExitSrc.agree_comm {s t : ExitSrc} (h : s.agree t = true) : t.agree s = true := by
  cases s <;> cases t <;> simp_all [ExitSrc.agree]
  tauto

/-- A source that agrees with a pair puts nothing else in the pair's places. -/
theorem ExitSrc.agree_pool {hi : Bool} {v : BitVec 64} {t : ExitSrc} (h : (ExitSrc.pair hi v).agree t = true)
    {q : Fin 4 × BitVec 32} (hq : q ∈ t.pool) :
    (q.1 = pairLow hi → q.2 = v.setWidth 32) ∧ (q.1 = pairHigh hi → q.2 = (v >>> 32).setWidth 32) := by
  cases t with
  | none => cases hq
  | reg r => cases hq
  | pair hi' v' =>
    simp only [ExitSrc.agree, Bool.or_eq_true, Bool.not_eq_true', beq_eq_false_iff_ne, beq_iff_eq] at h
    rw [ExitSrc.pool, Lit.pool_pair, List.mem_pair] at hq
    by_cases hne : hi = hi'
    · obtain rfl : v = v' := h.resolve_left (absurd hne)
      subst hne
      cases hi <;> rcases hq with rfl | rfl <;> simp [pairLow, pairHigh]
    · cases hi <;> cases hi' <;> rcases hq with rfl | rfl <;> simp_all [pairLow, pairHigh]

theorem poolOfList_pair_of_agree {ss : List ExitSrc} {hi : Bool} {v : BitVec 64} (hmem : ExitSrc.pair hi v ∈ ss)
    (hall : ∀ t ∈ ss, (ExitSrc.pair hi v).agree t = true) : (poolOfList (ss.flatMap ExitSrc.pool)).pair hi = v := by
  have hin : ∀ q ∈ (Lit.pair hi v).pool, q ∈ ss.flatMap ExitSrc.pool := fun q hq => List.mem_flatMap.2 ⟨_, hmem, hq⟩
  rw [Lit.pool_pair] at hin
  have hagree : ∀ q ∈ ss.flatMap ExitSrc.pool, (q.1 = pairLow hi → q.2 = v.setWidth 32) ∧
      (q.1 = pairHigh hi → q.2 = (v >>> 32).setWidth 32) := by
    intro q hq
    obtain ⟨t, ht, hqt⟩ := List.mem_flatMap.1 hq
    exact ExitSrc.agree_pool (hall t ht) hqt
  rw [Pool.pair_eq, poolOfList_get_of_mem (hin (pairLow hi, _) (by simp)) (fun q hq => (hagree q hq).1),
    poolOfList_get_of_mem (hin (pairHigh hi, _) (by simp)) (fun q hq => (hagree q hq).2), append_halves]

theorem exitSrc_eq {ss : List ExitSrc} {s : ExitSrc} (hmem : s ∈ ss) (hall : ∀ t ∈ ss, s.agree t = true) (hok : s.ok = true) :
    exitSrc (poolOfList (ss.flatMap ExitSrc.pool)) s.bits = some s := by
  match s with
  | .none => rfl
  | .reg r =>
    have hr : r.val ≠ 0 := by simpa [ExitSrc.ok] using hok
    simp only [ExitSrc.bits, exitSrc, hr, if_false, r.isLt, if_true, Option.some.injEq, ExitSrc.reg.injEq, Fin.ext_iff, Fin.val_ofNat]
    omega
  | .pair false v => rw [← poolOfList_pair_of_agree hmem hall]; rfl
  | .pair true v => rw [← poolOfList_pair_of_agree hmem hall]; rfl

section
variable {p : Pool} {w opc low : Nat} {a b d : XReg} {f : Option FlagNo}

theorem encCtl_fields {pool : List (Fin 4 × BitVec 32)} (hw : (encCtl opc low pool).word = w) (hopc : opc < 256) (hlow : low < 2 ^ 32) :
    fld w 32 8 = opc ∧ w % 2 ^ 32 = low := by
  simp only [encCtl] at hw
  simp only [fld]
  omega

/-- The instructions without fields. -/
theorem decodeCtl_bare {i : Instr} (hdec : ∀ w, fld w 32 8 = opc → decodeCtl p w = okIf (fld w 0 27 == 0) i)
    (hw : (encCtl opc 0).word = w) (hopc : opc < 256) : decodeCtl p w = .ok i := by
  obtain ⟨hop, hl⟩ := encCtl_fields hw hopc (by decide)
  have hz : fld w 0 27 = 0 := by simp only [fld]; omega
  rw [hdec w hop, hz]
  rfl

/-- A displacement of 25 bits: br and call. -/
theorem decodeCtl_offset {g : BitVec 25 → Instr} {n : BitVec 25}
    (hdec : ∀ w, fld w 32 8 = opc → decodeCtl p w = okIf (fld w 25 2 == 0) (g (BitVec.ofNat 25 w)))
    (hw : (encCtl opc n.toNat).word = w) (hopc : opc < 256) : decodeCtl p w = .ok (g n) := by
  obtain ⟨hop, hl⟩ := encCtl_fields hw hopc (by omega)
  have hz : fld w 25 2 = 0 := by simp only [fld]; omega
  rw [hdec w hop, hz, ofNat_of_fld (v := n) (by simp only [fld]; omega)]
  rfl

/-- One byte: rdv and slack. -/
theorem decodeCtl_byte {g : BitVec 8 → Instr} {n : BitVec 8}
    (hdec : ∀ w, fld w 32 8 = opc → decodeCtl p w = okIf (fld w 8 19 == 0) (g (BitVec.ofNat 8 w)))
    (hw : (encCtl opc n.toNat).word = w) (hopc : opc < 256) : decodeCtl p w = .ok (g n) := by
  obtain ⟨hop, hl⟩ := encCtl_fields hw hopc (by omega)
  have hz : fld w 8 19 = 0 := by simp only [fld]; omega
  rw [hdec w hop, hz, ofNat_of_fld (v := n) (by simp only [fld]; omega)]
  rfl

/-- Two bytes: brk and trap. -/
theorem decodeCtl_half {g : BitVec 16 → Instr} {n : BitVec 16}
    (hdec : ∀ w, fld w 32 8 = opc → decodeCtl p w = okIf (fld w 16 11 == 0) (g (BitVec.ofNat 16 w)))
    (hw : (encCtl opc n.toNat).word = w) (hopc : opc < 256) : decodeCtl p w = .ok (g n) := by
  obtain ⟨hop, hl⟩ := encCtl_fields hw hopc (by omega)
  have hz : fld w 16 11 = 0 := by simp only [fld]; omega
  rw [hdec w hop, hz, ofNat_of_fld (v := n) (by simp only [fld]; omega)]
  rfl

/-- One scalar register: jmpr and xbnd. -/
theorem decodeCtl_reg {g : XReg → Instr}
    (hdec : ∀ w, fld w 32 8 = opc → decodeCtl p w = okIf (fld w 21 6 == 0 && fld w 0 15 == 0) (g (xAt w 15)))
    (hw : (encCtl opc (a.val * 2 ^ 15)).word = w) (hopc : opc < 256) : decodeCtl p w = .ok (g a) := by
  obtain ⟨hop, hl⟩ := encCtl_fields hw hopc (by omega)
  have hz : fld w 21 6 = 0 := by simp only [fld]; omega
  have hz' : fld w 0 15 = 0 := by simp only [fld]; omega
  rw [hdec w hop, hz, hz', xAt_eq (x := a) (by simp only [fld]; omega)]
  rfl

/-- One flag: fset and fclr. -/
theorem decodeCtl_flag {g : FlagNo → Instr} {k : FlagNo}
    (hdec : ∀ w, fld w 32 8 = opc → decodeCtl p w = okIf (fld w 5 22 == 0) (g (vAt w 0)))
    (hw : (encCtl opc k.val).word = w) (hopc : opc < 256) : decodeCtl p w = .ok (g k) := by
  obtain ⟨hop, hl⟩ := encCtl_fields hw hopc (by omega)
  have hz : fld w 5 22 = 0 := by simp only [fld]; omega
  rw [hdec w hop, hz, vAt_eq (x := k) (by simp only [fld]; omega)]
  rfl

theorem decodeCtl_loop {n : BitVec 14} {len : Fin 64} (hw : (encCtl 5 (n.toNat * 2 ^ 6 + len.val)).word = w) :
    decodeCtl p w = .ok (.loop n len) := by
  obtain ⟨hop, hl⟩ := encCtl_fields hw (by decide) (by omega)
  simp only [decodeCtl, hop, okIf_eq_ok, beq_iff_eq, Instr.loop.injEq]
  simp only [fld, ← BitVec.toNat_inj, BitVec.toNat_ofNat, Fin.ext_iff, Fin.val_ofNat]
  omega

theorem decodeCtl_loopr {len : Fin 64} (hw : (encCtl 6 (a.val * 2 ^ 15 + len.val)).word = w) :
    decodeCtl p w = .ok (.loopr a len) := by
  obtain ⟨hop, hl⟩ := encCtl_fields hw (by decide) (by omega)
  simp only [decodeCtl, hop, okIf_eq_ok, Bool.and_eq_true, beq_iff_eq, Instr.loopr.injEq]
  simp only [fld, xAt, Fin.ext_iff, Fin.val_ofNat]
  omega

theorem decodeCtl_sstep {m : Fin 16} (hw : (encCtl 11 (d.val * 2 ^ 21 + m.val)).word = w) : decodeCtl p w = .ok (.sstep d m) := by
  obtain ⟨hop, hl⟩ := encCtl_fields hw (by decide) (by omega)
  simp only [decodeCtl, hop, okIf_eq_ok, beq_iff_eq, Instr.sstep.injEq]
  simp only [fld, xAt, f16At, Fin.ext_iff, Fin.val_ofNat]
  omega

theorem decodeCtl_exit {s0 s1 s2 s3 : ExitSrc}
    (hw : (encCtl 12 (s3.bits * 2 ^ 18 + s2.bits * 2 ^ 12 + s1.bits * 2 ^ 6 + s0.bits)
      (s0.pool ++ s1.pool ++ s2.pool ++ s3.pool)).word = w) (hwf : (Instr.exit s0 s1 s2 s3).wf = true) :
    decodeCtl (poolOfList (s0.pool ++ s1.pool ++ s2.pool ++ s3.pool)) w = .ok (.exit s0 s1 s2 s3) := by
  have h0 := s0.bits_lt
  have h1 := s1.bits_lt
  have h2 := s2.bits_lt
  have h3 := s3.bits_lt
  obtain ⟨hop, hl⟩ := encCtl_fields hw (by decide) (by omega)
  have hf0 : fld w 0 6 = s0.bits := by simp only [fld]; omega
  have hf1 : fld w 6 6 = s1.bits := by simp only [fld]; omega
  have hf2 : fld w 12 6 = s2.bits := by simp only [fld]; omega
  have hf3 : fld w 18 6 = s3.bits := by simp only [fld]; omega
  have hz : fld w 24 3 = 0 := by simp only [fld]; omega
  simp only [Instr.wf, Bool.and_eq_true] at hwf
  obtain ⟨⟨⟨⟨⟨⟨⟨⟨⟨ok0, ok1⟩, ok2⟩, ok3⟩, a01⟩, a02⟩, a03⟩, a12⟩, a13⟩, a23⟩ := hwf
  have hpool : s0.pool ++ s1.pool ++ s2.pool ++ s3.pool = [s0, s1, s2, s3].flatMap ExitSrc.pool := by simp
  have hagree : ∀ s ∈ [s0, s1, s2, s3], ∀ t ∈ [s0, s1, s2, s3], s.agree t = true := by
    simp [ExitSrc.agree_self, a01, a02, a03, a12, a13, a23, ExitSrc.agree_comm a01, ExitSrc.agree_comm a02, ExitSrc.agree_comm a03,
      ExitSrc.agree_comm a12, ExitSrc.agree_comm a13, ExitSrc.agree_comm a23]
  have read {s : ExitSrc} (hs : s ∈ [s0, s1, s2, s3]) (hok : s.ok = true) := exitSrc_eq hs (hagree s hs) hok
  simp only [hpool, decodeCtl, hop, hf0, hf1, hf2, hf3, read (s := s0) (by simp) ok0, read (s := s1) (by simp) ok1,
    read (s := s2) (by simp) ok2, read (s := s3) (by simp) ok3, hz, okIf_eq_ok, beq_self_eq_true, and_self]

/-- launch and its graph form, which bit 0 tells apart (R286). -/
theorem decodeCtl_launches {s : Bool} (hw : (encCtl 13 (d.val * 2 ^ 21 + a.val * 2 ^ 15 + bit s)).word = w) :
    decodeCtl p w = .ok (if s then .launchGraph d a else .launch d a) := by
  have hs := bit_lt s
  obtain ⟨hop, hl⟩ := encCtl_fields hw (by decide) (by omega)
  have hd : xAt w 21 = d := xAt_eq (by simp only [fld]; omega)
  have ha : xAt w 15 = a := xAt_eq (by simp only [fld]; omega)
  have hz : fld w 1 14 = 0 := by simp only [fld]; omega
  have hform : fld w 0 1 = bit s := by simp only [fld]; omega
  simp only [decodeCtl, hop, hd, ha, hz, hform, okIf_eq_ok, beq_self_eq_true, true_and]
  cases s <;> rfl

theorem decodeCtl_launch (hw : (encCtl 13 (d.val * 2 ^ 21 + a.val * 2 ^ 15)).word = w) : decodeCtl p w = .ok (.launch d a) :=
  decodeCtl_launches (s := false) (by simpa only [bit, Bool.false_eq_true, if_false, Nat.add_zero] using hw)

theorem decodeCtl_cset {k : CtrNo} {n : BitVec 20} (hw : (encCtl 16 (k.val * 2 ^ 21 + n.toNat)).word = w) :
    decodeCtl p w = .ok (.cset k n) := by
  obtain ⟨hop, hl⟩ := encCtl_fields hw (by decide) (by omega)
  simp only [decodeCtl, hop, okIf_eq_ok, Bool.and_eq_true, beq_iff_eq, Instr.cset.injEq]
  simp only [fld, f16At, ← BitVec.toNat_inj, BitVec.toNat_ofNat, Fin.ext_iff, Fin.val_ofNat]
  omega

theorem decodeCtl_icinv {s : Scope} (hw : (encCtl 21 (a.val * 2 ^ 21 + b.val * 2 ^ 15 + flagBits f + s.code)).word = w)
    (hwf : (s != .pod) = true) : decodeCtl p w = .ok (.icinv a b f s) := by
  have hs := s.code_lt
  have hf := flagBits_lt f
  have hf' := flagBits_low f
  obtain ⟨hop, hl⟩ := encCtl_fields hw (by decide) (by omega)
  have hscope : fld w 0 2 = s.code := by simp only [fld]; omega
  have ha : xAt w 21 = a := xAt_eq (by simp only [fld]; omega)
  have hb : xAt w 15 = b := xAt_eq (by simp only [fld]; omega)
  have hz : fld w 2 7 = 0 := by simp only [fld]; omega
  have hflag : flagOf w = some f := flagOf_eq (by omega)
  simp only [decodeCtl, hop, hscope, Scope.ofCode_code, withFlag_eq_ok hflag, ha, hb, hz, hwf, beq_self_eq_true, Bool.and_self]

/-- The fields of the three forms of tlbi, by their number (R290). -/
theorem tlbi_fields {a b n : Nat} {pod : Bool} (hw : (encCtl 22 (a * 2 ^ 21 + b * 2 ^ 15 + flagBits f + 4 * n + 2 + bit pod)).word = w)
    (ha : a < 64) (hb : b < 64) (hn : n < 4) :
    fld w 32 8 = 22 ∧ flagOf w = some f ∧ fld w 21 6 = a ∧ fld w 15 6 = b ∧ fld w 15 12 = a * 64 + b ∧ fld w 2 2 = n ∧
      fld w 4 5 = 0 ∧ fld w 1 1 = 1 ∧ (fld w 0 1 == 1) = pod := by
  have hp := bit_lt pod
  have hf := flagBits_lt f
  have hf' := flagBits_low f
  obtain ⟨hop, hl⟩ := encCtl_fields hw (by decide) (by omega)
  have hpod : (fld w 0 1 == 1) = pod := beq_one_of_eq_bit (by simp only [fld]; omega)
  refine ⟨hop, flagOf_eq (by omega), ?_, ?_, ?_, ?_, ?_, ?_, hpod⟩ <;> simp only [fld] <;> omega

theorem decodeCtl_tlbiAll {pod : Bool} (hw : (encCtl 22 (flagBits f + 2 + bit pod)).word = w) :
    decodeCtl p w = .ok (.tlbiAll f pod) := by
  obtain ⟨hop, hf, -, -, hab, hn, hz, hone, hpod⟩ := tlbi_fields (a := 0) (b := 0) (n := 0) (by simpa using hw) (by decide)
    (by decide) (by decide)
  simp only [decodeCtl, hop, hn, withFlag_eq_ok hf, hab, hz, hone, hpod, Nat.zero_mul, Nat.add_zero, beq_self_eq_true, Bool.and_self]

theorem decodeCtl_tlbiTensor {pod : Bool} (hw : (encCtl 22 (a.val * 2 ^ 21 + b.val * 2 ^ 15 + flagBits f + 4 + 2 + bit pod)).word = w) :
    decodeCtl p w = .ok (.tlbiTensor a b f pod) := by
  obtain ⟨hop, hf, ha, hb, -, hn, hz, hone, hpod⟩ := tlbi_fields (n := 1) hw a.isLt b.isLt (by decide)
  simp only [decodeCtl, hop, hn, withFlag_eq_ok hf, xAt_eq ha, xAt_eq hb, hz, hone, hpod, beq_self_eq_true, Bool.and_self]

theorem decodeCtl_tlbiRange {pod : Bool} (hw : (encCtl 22 (a.val * 2 ^ 21 + b.val * 2 ^ 15 + flagBits f + 8 + 2 + bit pod)).word = w) :
    decodeCtl p w = .ok (.tlbiRange a b f pod) := by
  obtain ⟨hop, hf, ha, hb, -, hn, hz, hone, hpod⟩ := tlbi_fields (n := 2) hw a.isLt b.isLt (by decide)
  simp only [decodeCtl, hop, hn, withFlag_eq_ok hf, xAt_eq ha, xAt_eq hb, hz, hone, hpod, beq_self_eq_true, Bool.and_self]

theorem decodeCtl_mode {v m : BitVec 8} (hw : (encCtl 23 (m.toNat * 2 ^ 8 + v.toNat)).word = w) (hwf : (m &&& 3 == 0) = true) :
    decodeCtl p w = .ok (.mode v m) := by
  obtain ⟨hop, hl⟩ := encCtl_fields hw (by decide) (by omega)
  have hm : m.toNat % 4 = 0 := by
    have h3 := congrArg BitVec.toNat (beq_iff_eq.1 hwf)
    rw [BitVec.toNat_and] at h3
    simpa [Nat.and_two_pow_sub_one_eq_mod m.toNat 2] using h3
  simp only [decodeCtl, hop, okIf_eq_ok, Bool.and_eq_true, beq_iff_eq, Instr.mode.injEq]
  simp only [fld, ← BitVec.toNat_inj, BitVec.toNat_ofNat]
  omega

end

/-! ### Every instruction of a slot -/

theorem decodeKind_nop (k : SlotKind) (p : Pool) : decodeKind k p 0 = .ok .nop := by
  cases k <;> rfl

/-- An instruction of a slot reads back from its word and its pool words in the slot of its own kind. -/
theorem decodeKind_encode {i : Instr} (hwf : i.wf = true) (hslot : i.fits (encode i).kind = true) :
    decodeKind (encode i).kind (encode i).poolWords (encode i).word = .ok i := by
  cases i
  case nop => exact decodeKind_nop _ _
  case add | sub | mul | mulh | mulhu | div | divu | rem | remu | and | or | xor | andn | shl | shr | sra | rotl | min | max |
      minu | maxu => exact decodeAlu_intReg rfl (by decide) rfl
  case addImm | subImm | mulImm | mulhImm | mulhuImm | divImm | divuImm | remImm | remuImm | andImm | orImm | xorImm | andnImm |
      shlImm | shrImm | sraImm | rotlImm | minImm | maxImm | minuImm | maxuImm => exact decodeAlu_intImm rfl (by decide) rfl
  case addLit | subLit | mulLit | mulhLit | mulhuLit | divLit | divuLit | remLit | remuLit | andLit | orLit | xorLit | andnLit |
      shlLit | shrLit | sraLit | rotlLit | minLit | maxLit | minuLit | maxuLit =>
    exact decodeAlu_intLit rfl (by decide) (fun _ _ => rfl) rfl rfl
  case faddS | fsubS | fmulS | ffmaS | fminS | fmaxS => exact decodeAlu_fpReg rfl (by decide) rfl rfl
  case faddSLit | fsubSLit | fmulSLit | ffmaSLit | fminSLit | fmaxSLit => exact decodeAlu_fpLit rfl (by decide) rfl
  case sel => exact decodeAlu_sel rfl
  case mov => exact decodeAlu_mov rfl
  case movImm => exact decodeAlu_movImm rfl
  case movLit => exact decodeAlu_movLit rfl
  case ext => exact decodeAlu_ext rfl
  case bitClz => exact decodeAlu_bitClz rfl
  case bitCtz => exact decodeAlu_bitCtz rfl
  case bitPopc => exact decodeAlu_bitPopc rfl
  case bitBrev => exact decodeAlu_bitBrev rfl
  case cmp => exact decodeAlu_cmp rfl
  case plog => exact decodeAlu_plog rfl
  case fcmp => exact decodeAlu_fcmp rfl
  case fcvtTo => exact decodeAlu_fcvtTo rfl hwf
  case fcvtFrom => exact decodeAlu_fcvtFrom rfl hwf
  case mfs => exact decodeAlu_mfs rfl
  case mts => exact decodeAlu_mts rfl hwf
  case rsvWrite n a => exact decodeAlu_sysWrite (r := .rsv n) rfl
  case injDropreplyArm a => exact decodeAlu_sysWrite (r := .injDropReply) rfl
  case cmpt => exact decodeAlu_cmpt rfl
  case crd => exact decodeAlu_crd rfl
  case cwr => exact decodeAlu_cwr rfl
  case cwrImm => exact decodeAlu_cwrImm rfl
  case lcr => exact decodeAlu_lcr rfl
  case ldB | ldBu | ldH | ldHu | ldW | ldWu | ldD | stB | stH | stW | stD =>
    exact decodeMem_scalar (fun w h => by simp only [decodeMem, h]) rfl (by decide)
  case vld | vst => exact decodeMem_vector (fun w h => by simp only [decodeMem, h]) rfl (by decide)
  case vlds | vsts => exact decodeMem_strided (fun w h => by simp only [decodeMem, h]) rfl (by decide)
  case vgth | vsct => exact decodeMem_indexed (fun w h => by simp only [decodeMem, h]) rfl (by decide)
  case vadd | vsub | vmul => exact decodeVec_threeSat (fun w h => by simp only [decodeVec, h]) rfl (by decide) hwf
  case vfma | vfms | vdot => exact decodeVec_four (fun w h => by simp only [decodeVec, h]) rfl (by decide) hwf
  case vmin | vmax | vand | vor | vxor | vperm =>
    obtain ⟨hfmt, hruns⟩ := VCtl.ok_iff.1 hwf
    exact decodeVec_three (fmtOk := Fmt.isVec) (fun w h => by simp only [decodeVec, h]) rfl (by decide) hruns hfmt
  case vshl | vshr | vsra =>
    obtain ⟨hok, hint⟩ := Bool.and_eq_true_iff.1 hwf
    obtain ⟨hfmt, hruns⟩ := VCtl.ok_iff.1 hok
    exact decodeVec_three (fmtOk := fun f => f.isVec && f.isInt) (fun w h => by simp only [decodeVec, h]) rfl (by decide) hruns
      (Bool.and_eq_true_iff.2 ⟨hfmt, hint⟩)
  case vabs | vneg => exact decodeVec_twoSat (fun w h => by simp only [decodeVec, h]) rfl (by decide) hwf
  case vscn | vmov => exact decodeVec_two (fun w h => by simp only [decodeVec, h]) rfl (by decide) hwf
  case vcmp => exact decodeVec_vcmp rfl hwf
  case vsel => exact decodeVec_vsel rfl hwf
  case vcvt => exact decodeVec_vcvt rfl hwf
  case vfun => exact decodeVec_vfun rfl hwf
  case vred => exact decodeVec_vred rfl hwf
  case vshf => exact decodeVec_vshf rfl hwf
  case vbcs => exact decodeVec_vbcs rfl hwf
  case vmvx => exact decodeVec_vmvx rfl hwf
  case vins => exact decodeVec_vins rfl hwf
  case vrng => exact decodeVec_vrng rfl hwf
  case viota => exact decodeVec_viota rfl hwf
  case vlit => exact decodeVec_vlit rfl hwf
  case tld xt xo f tr nt =>
    cases f with
    | code f => exact decodeTile_tld_code rfl
    | table k => exact decodeTile_tld_table rfl
  case tzer => exact decodeTile_tzer rfl
  case tfil => exact decodeTile_tfil rfl
  case tdup => exact decodeTile_stackPlain (opc := 4) (fun w h => by simp only [decodeTile, h]) rfl (by decide)
  case tdrp => exact decodeTile_stackPlain (opc := 5) (fun w h => by simp only [decodeTile, h]) rfl (by decide)
  case tswp => exact decodeTile_stackPlain (opc := 6) (fun w h => by simp only [decodeTile, h]) rfl (by decide)
  case tpk | trot | trtd => exact decodeTile_stackNumber (fun w h => by simp only [decodeTile, h]) rfl (by decide)
  case tmma | tmac | tadd => exact decodeTile_dup (s := false) (fun w h => by simp only [decodeTile, h]; rfl) rfl (by decide)
  case tmmaD | tmacD | taddD => exact decodeTile_dup (s := true) (fun w h => by simp only [decodeTile, h]; rfl) rfl (by decide)
  case tsub | tmul | tmax | tmin | tsmx | ttrn | tcvt =>
    exact decodeTile_plain (fun w h => by simp only [decodeTile, h]) rfl (by decide)
  case tslc | tbcs => exact decodeTile_reg (fun w h => by simp only [decodeTile, h]) rfl (by decide)
  case tscl => exact decodeTile_tscl rfl
  case tbia m k =>
    cases k with
    | none => exact decodeTile_tbia_none rfl
    | some k => exact decodeTile_tbia_some rfl
  case tfun => exact decodeTile_tfun rfl
  case tred => exact decodeTile_tred rfl
  case tcat => exact decodeTile_tcat rfl
  case tmsk m x =>
    cases x with
    | none => exact decodeTile_tmsk_none rfl
    | some x => exact decodeTile_tmsk_some rfl
  case tchk => exact decodeTile_tchk rfl
  case tst => exact decodeTile_tst rfl
  case tfrc => exact decodeTile_tfrc rfl
  case scpy | sacc => exact decodeCopy_walk (fun w h => by simp only [decodeCopy, h]) rfl (by decide) hwf
  case sgth | ssig => exact decodeCopy_pair (fun w h h' => by simp only [decodeCopy, h, h', if_true]) rfl (by decide) hwf
  case satmFadd | satmFmin | satmFmax | satmSwap | satmCas | satmIadd | satmAnd | satmOr | satmXor =>
    exact decodeCopy_satm (fun w h h' => by simp only [decodeCopy, h, h', SatmOp.ofCode]) rfl (by decide) hwf
  case ssigRel => exact decodeCopy_ssigRel rfl hwf
  case sbar => exact decodeCopy_sbar rfl hwf
  case sdrn => exact decodeCopy_sdrn rfl
  case fenceAcq => exact decodeCopy_fenceAcq rfl
  case fenceRel => exact decodeCopy_fenceRel rfl
  case fenceSc => exact decodeCopy_fenceSc rfl
  case l2wb | l2inv => exact decodeCopy_l2 (fun w h => by simp only [decodeCopy, h]) rfl (by decide)
  case l2pf => exact decodeCopy_l2pf rfl
  case sxfr => exact decodeCopy_sxfr rfl
  case br | call => exact decodeCtl_offset (fun w h => by simp only [decodeCtl, h]) rfl (by decide)
  case ret => exact decodeCtl_bare (p := poolOfList []) (opc := 3) (fun w h => by simp only [decodeCtl, h]) rfl (by decide)
  case lbrk => exact decodeCtl_bare (p := poolOfList []) (opc := 7) (fun w h => by simp only [decodeCtl, h]) rfl (by decide)
  case ckpt => exact decodeCtl_bare (p := poolOfList []) (opc := 8) (fun w h => by simp only [decodeCtl, h]) rfl (by decide)
  case rte => exact decodeCtl_bare (p := poolOfList []) (opc := 19) (fun w h => by simp only [decodeCtl, h]) rfl (by decide)
  case halt => exact decodeCtl_bare (p := poolOfList []) (opc := 24) (fun w h => by simp only [decodeCtl, h]) rfl (by decide)
  case yield => exact decodeCtl_bare (p := poolOfList []) (opc := 25) (fun w h => by simp only [decodeCtl, h]) rfl (by decide)
  case jmpr | xbnd => exact decodeCtl_reg (fun w h => by simp only [decodeCtl, h]) rfl (by decide)
  case rdv | slack => exact decodeCtl_byte (fun w h => by simp only [decodeCtl, h]) rfl (by decide)
  case brk | trap => exact decodeCtl_half (fun w h => by simp only [decodeCtl, h]) rfl (by decide)
  case fset | fclr => exact decodeCtl_flag (fun w h => by simp only [decodeCtl, h]) rfl (by decide)
  case loop => exact decodeCtl_loop rfl
  case loopr => exact decodeCtl_loopr rfl
  case sstep => exact decodeCtl_sstep rfl
  case exit => exact decodeCtl_exit rfl hwf
  case launch => exact decodeCtl_launch rfl
  case launchGraph => exact decodeCtl_launches (s := true) rfl
  case cset => exact decodeCtl_cset rfl
  case icinv => exact decodeCtl_icinv rfl hwf
  case tlbiAll => exact decodeCtl_tlbiAll rfl
  case tlbiTensor => exact decodeCtl_tlbiTensor rfl
  case tlbiRange => exact decodeCtl_tlbiRange rfl
  case mode => exact decodeCtl_mode rfl hwf
  -- an event of the package fits no slot
  all_goals cases hslot

/-- An instruction other than nop fits the slots of its own kind only, and an event none. -/
theorem Instr.fits_eq {i : Instr} (hn : i ≠ .nop) (k : SlotKind) :
    i.fits k = (i.fits (encode i).kind && (encode i).kind == k) := by
  cases i
  case nop => exact absurd rfl hn
  case tbia m f => cases f <;> rfl
  case tmsk m x => cases x <;> rfl
  all_goals rfl

theorem kind_of_fits {i : Instr} {k : SlotKind} (hn : i ≠ .nop) (h : i.fits k = true) : (encode i).kind = k := by
  rw [Instr.fits_eq hn, Bool.and_eq_true] at h
  exact beq_iff_eq.1 h.2

/-- Decoding undoes encoding in every slot that an instruction fits. -/
theorem decodeKind_encode_of_fits {i : Instr} {k : SlotKind} (hwf : i.wf = true) (h : i.fits k = true) :
    decodeKind k (encode i).poolWords (encode i).word = .ok i := by
  by_cases hn : i = .nop
  · rw [hn]
    exact decodeKind_nop k _
  · obtain rfl := kind_of_fits hn h
    exact decodeKind_encode hwf h

/-- Settles O1: an instruction of any slot decodes in a slot of its kind to itself. -/
theorem scalarSlotsRoundTrip : Obligations.ScalarSlotsRoundTrip :=
  fun _ _ _ hwf h => decodeKind_encode_of_fits hwf h

/-- Settles O2: an instruction of any slot decodes in a slot of its kind to itself. -/
theorem dataSlotsRoundTrip : Obligations.DataSlotsRoundTrip :=
  fun _ _ _ hwf h => decodeKind_encode_of_fits hwf h

end Sys2Proof
end
section
/-! PROOFS. The operations of the alu slots as the tables of spec/11 write them (R268 to R272). -/

open Sys2Proof

namespace Sys2Proof.Machine

/-! ### The rows of R269 -/

theorem shlOf_eq (a b : Word) : shlOf a b = a <<< (b % 64) := by
  simp [shlOf, BitVec.shiftLeft_eq']

theorem shrOf_eq (a b : Word) : shrOf a b = a >>> (b % 64) := by
  simp [shrOf, BitVec.ushiftRight_eq']

theorem sraOf_eq (a b : Word) : sraOf a b = a.sshiftRight (b % 64).toNat := by
  simp [sraOf]

theorem rotlOf_eq (a b : Word) : rotlOf a b = a.rotateLeft (b % 64).toNat := by
  simp [rotlOf, BitVec.rotateLeft_def]

theorem minOf_eq (a b : Word) : minOf a b = if a.slt b then a else b := by
  by_cases h : a.toInt = b.toInt
  · simp [minOf, BitVec.toInt_inj.mp h]
  · have : a.toInt ≤ b.toInt ↔ a.toInt < b.toInt := by omega
    simp [minOf, BitVec.slt_eq_decide, this]

theorem maxOf_eq (a b : Word) : maxOf a b = if a.slt b then b else a := by
  by_cases h : a.toInt = b.toInt
  · simp [maxOf, BitVec.toInt_inj.mp h]
  · have : a.toInt ≤ b.toInt ↔ a.toInt < b.toInt := by omega
    simp [maxOf, BitVec.slt_eq_decide, this]

theorem minuOf_eq (a b : Word) : minuOf a b = if a < b then a else b := by
  by_cases h : a = b
  · simp [minuOf, h]
  · have : a.toNat ≠ b.toNat := fun e => h (BitVec.eq_of_toNat_eq e)
    have : a.toNat ≤ b.toNat ↔ a < b := by rw [BitVec.lt_def]; omega
    simp [minuOf, this]

theorem maxuOf_eq (a b : Word) : maxuOf a b = if a < b then b else a := by
  by_cases h : a = b
  · simp [maxuOf, h]
  · have : a.toNat ≠ b.toNat := fun e => h (BitVec.eq_of_toNat_eq e)
    have : a.toNat ≤ b.toNat ↔ a < b := by rw [BitVec.lt_def]; omega
    simp [maxuOf, this]

/-- Bits [127:64] of a number of 128 bits are its quotient by 2^64. -/
theorem extractHigh_ofInt (z : Int) :
    BitVec.extractLsb' 64 64 (BitVec.ofInt 128 z) = BitVec.ofInt 64 (z / 2 ^ 64) := by
  apply BitVec.eq_of_toNat_eq
  simp only [BitVec.extractLsb'_toNat, BitVec.toNat_ofInt, Nat.shiftRight_eq_div_pow]
  omega

theorem mulhOf_eq (a b : Word) : mulhOf a b = signedHigh a b := by
  simp only [mulhOf, signedHigh, BitVec.signExtend, ← BitVec.ofInt_mul, extractHigh_ofInt]

theorem setWidth128_eq_ofInt (a : Word) : a.setWidth 128 = BitVec.ofInt 128 a.toNat := by
  rw [BitVec.ofInt_natCast]
  exact (BitVec.ofNat_toNat 128 a).symm

theorem mulhuOf_eq (a b : Word) : mulhuOf a b = unsignedHigh a b := by
  rw [unsignedHigh, setWidth128_eq_ofInt, setWidth128_eq_ofInt, ← BitVec.ofInt_mul, extractHigh_ofInt, mulhuOf]
  exact (BitVec.ofInt_natCast 64 _).symm

/-! ### The bit fields of R271 -/

theorem bitsAbove_toNat (a : Word) (p n : Nat) (h1 : 1 ≤ n) (h2 : n ≤ 64) :
    ((a >>> p) <<< (64 - n)).toNat = a.toNat / 2 ^ p % 2 ^ n * 2 ^ (64 - n) := by
  have e : 2 ^ 64 = 2 ^ n * 2 ^ (64 - n) := by rw [← Nat.pow_add]; congr 1; omega
  rw [BitVec.toNat_shiftLeft, BitVec.toNat_ushiftRight, Nat.shiftLeft_eq, Nat.shiftRight_eq_div_pow, e, Nat.mul_mod_mul_right]

theorem bitField_unsigned (a : Word) (p n : Nat) (h1 : 1 ≤ n) (h2 : n ≤ 64) :
    ((a >>> p) <<< (64 - n)) >>> (64 - n) = BitVec.ofNat 64 (a.toNat / 2 ^ p % 2 ^ n) := by
  apply BitVec.eq_of_toNat_eq
  have l : a.toNat / 2 ^ p % 2 ^ n < 2 ^ n := Nat.mod_lt _ (Nat.two_pow_pos n)
  have m : 2 ^ n ≤ 2 ^ 64 := Nat.pow_le_pow_right (by omega) h2
  rw [BitVec.toNat_ushiftRight, bitsAbove_toNat a p n h1 h2, Nat.shiftRight_eq_div_pow,
    Nat.mul_div_cancel _ (Nat.two_pow_pos _), BitVec.toNat_ofNat, Nat.mod_eq_of_lt (Nat.lt_of_lt_of_le l m)]

theorem bitField_signed (a : Word) (p n : Nat) (h1 : 1 ≤ n) (h2 : n ≤ 64) :
    ((a >>> p) <<< (64 - n)).sshiftRight (64 - n) = BitVec.ofNat 64
      (if 2 ^ (n - 1) ≤ a.toNat / 2 ^ p % 2 ^ n then 2 ^ 64 - 2 ^ n + a.toNat / 2 ^ p % 2 ^ n
       else a.toNat / 2 ^ p % 2 ^ n) := by
  have l : a.toNat / 2 ^ p % 2 ^ n < 2 ^ n := Nat.mod_lt _ (Nat.two_pow_pos n)
  have m : 2 ^ n ≤ 2 ^ 64 := Nat.pow_le_pow_right (by omega) h2
  have e : 2 ^ 64 = 2 ^ n * 2 ^ (64 - n) := by rw [← Nat.pow_add]; congr 1; omega
  have e63 : 2 ^ 63 = 2 ^ (n - 1) * 2 ^ (64 - n) := by rw [← Nat.pow_add]; congr 1; omega
  have pos : 0 < 2 ^ (64 - n) := Nat.two_pow_pos _
  have hn := bitsAbove_toNat a p n h1 h2
  set f := a.toNat / 2 ^ p % 2 ^ n
  have hmsb : ((a >>> p) <<< (64 - n)).msb = decide (2 ^ (n - 1) ≤ f) := by
    rw [BitVec.msb_eq_decide, hn, e63]
    exact decide_eq_decide.mpr ⟨fun h => Nat.le_of_mul_le_mul_right h pos, fun h => Nat.mul_le_mul_right _ h⟩
  apply BitVec.eq_of_toNat_eq
  by_cases hs : 2 ^ (n - 1) ≤ f
  · have q : (2 ^ 64 - 1 - f * 2 ^ (64 - n)) / 2 ^ (64 - n) = 2 ^ n - 1 - f := by
      have : 2 ^ 64 - 1 - f * 2 ^ (64 - n) = (2 ^ n - 1 - f) * 2 ^ (64 - n) + (2 ^ (64 - n) - 1) := by
        have : (2 ^ n - 1 - f) * 2 ^ (64 - n) + f * 2 ^ (64 - n) + 2 ^ (64 - n) = 2 ^ 64 := by
          rw [e, ← Nat.add_mul, ← Nat.succ_mul]; congr 1; omega
        omega
      rw [this, Nat.add_comm, Nat.add_mul_div_right _ _ pos, Nat.div_eq_of_lt (by omega), Nat.zero_add]
    rw [BitVec.toNat_sshiftRight_of_msb_true (by simpa [hmsb] using hs), hn, Nat.shiftRight_eq_div_pow, q, if_pos hs,
      BitVec.toNat_ofNat, Nat.mod_eq_of_lt (by omega)]
    omega
  · rw [BitVec.toNat_sshiftRight_of_msb_false (by simpa [hmsb] using hs), hn, Nat.shiftRight_eq_div_pow,
      Nat.mul_div_cancel _ pos, if_neg hs, BitVec.toNat_ofNat, Nat.mod_eq_of_lt (by omega)]

theorem extOf_eq (a b : Word) (sg : Bool) : extOf a b sg = bitField a b sg := by
  have hp : (b % 64).toNat = b.toNat % 64 := by simp
  have hw : ((b >>> 8) % 64).toNat = b.toNat / 2 ^ 8 % 64 := by simp [Nat.shiftRight_eq_div_pow]
  have h0 : (b >>> 8) % 64 = 0 ↔ b.toNat / 2 ^ 8 % 64 = 0 := by
    rw [← hw]
    exact BitVec.toNat_inj.symm
  simp only [extOf, bitField, h0, hw, BitVec.ushiftRight_eq', hp]
  set n := if b.toNat / 2 ^ 8 % 64 = 0 then 64 else b.toNat / 2 ^ 8 % 64
  have h1 : 1 ≤ n := by simp only [n]; split <;> omega
  have h2 : n ≤ 64 := by simp only [n]; split <;> omega
  cases sg
  case false => simp [bitField_unsigned a _ n h1 h2]
  case true => simp [bitField_signed a _ n h1 h2]

theorem clzOf_eq (a : Word) : clzOf a = a.clz := by
  by_cases h : a = 0
  · subst h; decide
  · have hi : a.toNat < 2 ^ (64 - a.clz.toNat) := BitVec.toNat_lt_two_pow_sub_clz
    have ht := BitVec.getLsbD_true_clz_of_ne_zero (by omega) h
    have lo : 2 ^ (64 - 1 - a.clz.toNat) ≤ a.toNat := Nat.ge_two_pow_of_testBit ht
    have h0 : a.toNat ≠ 0 := fun e => h (BitVec.eq_of_toNat_eq (by simpa using e))
    have hc : a.clz.toNat < 64 := by
      by_contra hc
      have : 64 - a.clz.toNat = 0 := by omega
      rw [this] at hi; omega
    have hl : a.toNat.log2 = 63 - a.clz.toNat := by
      refine (Nat.log2_eq_iff h0).mpr ⟨lo, ?_⟩
      rwa [show 63 - a.clz.toNat + 1 = 64 - a.clz.toNat by omega]
    rw [clzOf, if_neg h, hl, show 63 - (63 - a.clz.toNat) = a.clz.toNat by omega]
    simp

theorem ctzOf_eq (a : Word) : ctzOf a = a.reverse.clz := by
  by_cases h : a = 0
  · have hn : (List.range 64).find? (fun i => a.getLsbD i) = none := by simp [h]
    have hz : a.reverse.clz = (64 : Nat) := BitVec.clz_eq_iff_eq_zero.mpr (BitVec.reverse_eq_zero_iff.mpr h)
    rw [ctzOf, hn, hz]
    rfl
  · have hr : a.reverse ≠ 0 := fun e => h (BitVec.reverse_eq_zero_iff.mp e)
    have hi : a.reverse.toNat < 2 ^ (64 - a.reverse.clz.toNat) := BitVec.toNat_lt_two_pow_sub_clz
    have ht := BitVec.getLsbD_true_clz_of_ne_zero (by omega) hr
    set c := a.reverse.clz.toNat with hcd
    have hc : c < 64 := by
      by_contra hc
      rw [show 64 - c = 0 by omega] at hi
      exact hr (BitVec.eq_of_toNat_eq (by simpa using hi))
    have hone : a.getLsbD c = true := by
      rw [BitVec.getLsbD_reverse, BitVec.getMsbD_eq_getLsbD] at ht
      rw [show 64 - 1 - (64 - 1 - c) = c by omega] at ht
      simpa [show 64 - 1 - c < 64 by omega] using ht
    have hzero : ∀ j < c, (!a.getLsbD j) = true := by
      intro j hj
      have : a.reverse.getLsbD (63 - j) = false :=
        Nat.testBit_lt_two_pow (Nat.lt_of_lt_of_le hi (Nat.pow_le_pow_right (by omega) (by omega)))
      rw [BitVec.getLsbD_reverse, BitVec.getMsbD_eq_getLsbD] at this
      simpa [show 64 - 1 - (63 - j) = j by omega, show 63 - j < 64 by omega] using this
    have hf : (List.range 64).find? (fun i => a.getLsbD i) = some c :=
      List.find?_range_eq_some.mpr ⟨hone, List.mem_range.mpr hc, hzero⟩
    rw [ctzOf, hf, Option.getD_some, hcd]
    simp

theorem filter_range_length_eq_cpopNatRec (a : Word) (n : Nat) :
    ((List.range n).filter (fun i => a.getLsbD i)).length = a.cpopNatRec n 0 := by
  induction n with
  | zero => rfl
  | succ n ih =>
    rw [BitVec.cpopNatRec_succ, BitVec.cpopNatRec_eq, List.range_succ, List.filter_append, List.length_append, ih]
    cases h : a.getLsbD n <;> simp [h]

theorem popcOf_eq (a : Word) : popcOf a = a.cpop := by
  rw [popcOf, filter_range_length_eq_cpopNatRec, ← BitVec.toNat_cpop]
  simp

/-- The number that has the lowest n bits of a word in the opposite order. -/
theorem testBit_reversed (a : Word) (n j : Nat) :
    ((List.range n).foldl (fun r i => 2 * r + (if a.getLsbD i then 1 else 0)) 0).testBit j =
      (decide (j < n) && a.getLsbD (n - 1 - j)) := by
  induction n generalizing j with
  | zero => simp
  | succ n ih =>
    rw [List.range_succ, List.foldl_append]
    simp only [List.foldl_cons, List.foldl_nil]
    cases j with
    | zero => cases h : a.getLsbD n <;> simp [h, Nat.testBit_zero, Nat.add_mod]
    | succ j =>
      have half : ∀ r : Nat, (2 * r + (if a.getLsbD n then 1 else 0)) / 2 = r := by intro r; split <;> omega
      rw [Nat.testBit_succ, half, ih]
      simp [show n - (j + 1) = n - 1 - j by omega]

theorem brevOf_eq (a : Word) : brevOf a = a.reverse := by
  apply BitVec.eq_of_getLsbD_eq
  intro i hi
  rw [brevOf, BitVec.getLsbD_ofNat, testBit_reversed, BitVec.getLsbD_reverse, BitVec.getMsbD_eq_getLsbD]
  simp [hi]

/-! ### The conditions of R272 -/

theorem cmpOf_eq_decide (a b : Word) : cmpOf .eq a b = decide (a = b) := by
  by_cases h : a = b <;> simp [cmpOf, h]
theorem cmpOf_ne_decide (a b : Word) : cmpOf .ne a b = decide (a ≠ b) := by
  by_cases h : a = b <;> simp [cmpOf, h]
theorem cmpOf_lt (a b : Word) : cmpOf .lt a b = a.slt b := rfl
theorem cmpOf_le (a b : Word) : cmpOf .le a b = a.sle b := rfl
theorem cmpOf_ltu (a b : Word) : cmpOf .ltu a b = a.ult b := rfl
theorem cmpOf_leu (a b : Word) : cmpOf .leu a b = a.ule b := rfl

end Sys2Proof.Machine
end
section
/-! PROOFS. Results in flight, and the obligations of the integer, move, predicate and counter instructions (R43, R50, R268 to
R278). -/

open Sys2Proof

namespace Sys2Proof.Machine

/-! ### Results in flight (R43, R50) -/

theorem State.put_eq (s : State) (l : Landing) (lat : Nat) (ch : Bool) :
    s.put l lat ch = s.withFlight [fly l lat] (if ch then [l] else []) := by
  cases ch
  case false => simp [State.put, State.withFlight, State.modCore, fly]
  case true => rfl

theorem State.landX_eq (s : State) (d : XReg) (v : Word) : landX s.core.sys.hnd d v = s.scalarDest d v := by
  simp [landX, State.scalarDest]

theorem State.putX_eq (s : State) (d : XReg) (v : Word) (lat : Nat) (ch : Bool) : s.putX d v lat ch = s.issuesX d v lat ch := by
  rw [State.putX, State.issuesX, State.landX_eq, State.put_eq]

theorem State.putP_eq (s : State) (d : PReg) (b : Bool) : s.putP d b = s.issuesP d b := by
  rw [State.putP, State.issuesP, State.put_eq, if_pos rfl]

theorem settle_alu1 (s : State) (d : XReg) (v : Word) : settle s (s.alu1 d v) = .next (s.issuesX d v 1 true) := by
  rw [State.alu1, settle_ok, State.putX_eq]

theorem settle_aluN (s t : State) (d : XReg) (v : Word) (lat : Nat) :
    settle s (t.aluN d v lat) = .next (t.issuesX d v lat false) := by
  rw [State.aluN, settle_ok, State.putX_eq]

theorem settle_putP (s : State) (d : PReg) (b : Bool) : settle s (.ok (s.putP d b)) = .next (s.issuesP d b) := by
  rw [settle_ok, State.putP_eq]

theorem exec_integerOne {i : Instr} {s : State} {d : XReg} {v : Word} (h : s.integerOne i = some (d, v)) :
    exec i s = settle s (s.alu1 d v) := by
  cases i with
  | add | addImm | addLit | sub | subImm | subLit | and | andImm | andLit | or | orImm | orLit | xor | xorImm | xorLit
  | andn | andnImm | andnLit => cases h; rfl
  | shl | shlImm | shlLit => cases h; rw [← shlOf_eq]; rfl
  | shr | shrImm | shrLit => cases h; rw [← shrOf_eq]; rfl
  | sra | sraImm | sraLit => cases h; rw [← sraOf_eq]; rfl
  | rotl | rotlImm | rotlLit => cases h; rw [← rotlOf_eq]; rfl
  | min | minImm | minLit => cases h; rw [← minOf_eq]; rfl
  | max | maxImm | maxLit => cases h; rw [← maxOf_eq]; rfl
  | minu | minuImm | minuLit => cases h; rw [← minuOf_eq]; rfl
  | maxu | maxuImm | maxuLit => cases h; rw [← maxuOf_eq]; rfl
  | _ => cases h

theorem exec_integerThree {i : Instr} {s : State} {d : XReg} {v : Word} (h : s.integerThree i = some (d, v)) :
    exec i s = settle s (s.aluN d v 3) := by
  cases i with
  | mul | mulImm | mulLit => cases h; rfl
  | mulh | mulhImm | mulhLit => cases h; rw [← mulhOf_eq]; rfl
  | mulhu | mulhuImm | mulhuLit => cases h; rw [← mulhuOf_eq]; rfl
  | _ => cases h

theorem exec_moveResult {i : Instr} {s : State} {d : XReg} {v : Word} (h : s.moveResult i = some (d, v)) :
    exec i s = settle s (s.alu1 d v) := by
  cases i with
  | sel | mov | movImm | movLit | crd => cases h; rfl
  | ext => cases h; rw [← extOf_eq]; rfl
  | bitClz => cases h; rw [← clzOf_eq]; rfl
  | bitCtz => cases h; rw [← ctzOf_eq]; rfl
  | bitPopc => cases h; rw [← popcOf_eq]; rfl
  | bitBrev => cases h; rw [← brevOf_eq]; rfl
  | lcr d k =>
    cases h
    show settle s (s.alu1 d ((s.lc k.val).setWidth 64)) = _
    rw [State.lc]
    cases s.core.loops[k.val]? <;> rfl
  | _ => cases h

theorem exec_cmp {c : CmpCond} {s : State} {d e : PReg} {a b : XReg} {v : Bool}
    (h : s.predicateResult (.cmp c d a b) = some (e, v)) : exec (.cmp c d a b) s = settle s (.ok (s.putP e v)) := by
  cases c with
  | eq => cases h; rw [← cmpOf_eq_decide]; rfl
  | ne => cases h; rw [← cmpOf_ne_decide]; rfl
  | lt | le | ltu | leu => cases h; rfl

theorem exec_plog {o : PLogOp} {s : State} {d a b e : PReg} {v : Bool}
    (h : s.predicateResult (.plog o d a b) = some (e, v)) : exec (.plog o d a b) s = settle s (.ok (s.putP e v)) := by
  cases o with
  | and | or | xor | andn => cases h; rfl

theorem exec_fcmp {c : FCmpCond} {s : State} {d e : PReg} {a b : XReg} {v : Bool}
    (h : s.predicateResult (.fcmp c d a b) = some (e, v)) : exec (.fcmp c d a b) s = settle s (.ok (s.putP e v)) := by
  cases c with
  | eq | ne | lt | le | uo => cases h; rfl

theorem exec_predicateResult {i : Instr} {s : State} {d : PReg} {v : Bool} (h : s.predicateResult i = some (d, v)) :
    exec i s = settle s (.ok (s.putP d v)) := by
  cases i with
  | cmp => exact exec_cmp h
  | plog => exact exec_plog h
  | fcmp => exact exec_fcmp h
  | _ => cases h

/-- A write of a counter is in flight with latency 1 and chains. -/
theorem settle_writeCtr (s : State) (k : CtrNo) (v : Word32) :
    settle s (s.writeCtr k v) = .next (s.withFlight [fly (.ctr k v) 1] [.ctr k v]) := by
  rw [State.writeCtr, settle_ok, State.put_eq, if_pos rfl]

/-- A write that does not chain is in flight with its latency. -/
theorem settle_put_unchained (s : State) (l : Landing) (lat : Nat) :
    settle s (.ok (s.put l lat false)) = .next (s.withFlight [fly l lat] []) := by
  rw [settle_ok, State.put_eq]
  rfl

end Sys2Proof.Machine

open Sys2Proof.Machine

/-- Settles O17: each row of R269 is the model's operation, and a result of latency 1 is in flight and chains. -/
theorem integerResultsLandNext : Obligations.IntegerResultsLandNext := by
  intro i s d v h
  rw [exec_integerOne h, settle_alu1]

/-- Settles O18: the products of R269 with their latency of 3. -/
theorem productsLandAfterThree : Obligations.ProductsLandAfterThree := by
  intro i s d v h
  rw [exec_integerThree h, settle_aluN]

/-- Settles O20: the rows of R271 and the reads of counters and loop counters. -/
theorem movesAndBitFields : Obligations.MovesAndBitFields := by
  intro i s d v h
  rw [exec_moveResult h, settle_alu1]

/-- Settles O21, one condition after the other. -/
theorem predicatesCompare : Obligations.PredicatesCompare := by
  intro i s d b h
  rw [exec_predicateResult h, settle_putP]

/-- Settles O22, one instruction after the other. -/
theorem counterFlagAndModeWrites : Obligations.CounterFlagAndModeWrites := by
  intro s
  refine ⟨fun k a b => ?_, fun k a b => settle_writeCtr .., fun k a n => ?_, fun k a n => settle_writeCtr ..,
    fun k n => settle_put_unchained .., fun k => settle_put_unchained .., fun k => settle_put_unchained ..,
    fun n => settle_put_unchained .., fun v m => settle_put_unchained ..⟩
  case refine_1 =>
    show settle s (s.writeCtr k (0 + (s.x a + s.x b).setWidth 32)) = _
    rw [zero_add, settle_writeCtr]
  case refine_2 =>
    show settle s (s.writeCtr k (0 + (s.x a + n.signExtend 64).setWidth 32)) = _
    rw [zero_add, settle_writeCtr]
end
section
/-! PROOFS. Precise faults and the checks of steps 6 and 7 of R46, the check of cmpt (R276), scalar floating point (R273, R274)
and the system registers (R275, R90). -/

open Sys2Proof

namespace Sys2Proof.Machine

/-! ### Faults of a slot (R46, R370) -/

/-- A precise fault other than FEATURE-MASKED takes its trap. -/
theorem State.takeRaise_precise (s : State) (n k : Nat) (c : BitVec 6) (i : Word) (h : c ≠ Cause.featureMasked) :
    s.takeRaise { step := n, slot := k, cause := c, info := i, rollback := false } = s.takeTrap c i s.core.pc := by
  simp [State.takeRaise, h]

theorem settle_faultInfo (s t : State) (n : Nat) (c : BitVec 6) (i : Word) (h : c ≠ Cause.featureMasked) :
    settle s (t.faultInfo n c i) = .next (s.takeTrap c i s.core.pc) := by
  rw [State.faultInfo, settle_raise, State.takeRaise_precise _ _ _ _ _ h]

theorem settle_fault (s t : State) (n : Nat) (c : BitVec 6) (h : c ≠ Cause.featureMasked) :
    settle s (t.fault n c) = .next (s.takeTrap c (BitVec.ofNat 64 t.core.issue.slot) s.core.pc) :=
  settle_faultInfo s t n c t.slotInfo h

/-! ### Steps 6 and 7 of R46 -/

theorem State.static67_unmasked {s : State} {i : Instr} (hf : i.feature = none) (hp : i.privileged s.core.sys.hnd = false) :
    s.static67 i = none := by
  simp [State.static67, hf, hp]

theorem State.guarded_passed {s : State} {i : Instr} (h : s.static67 i = none) (e : Eff) : s.guarded i e = e := by
  rw [State.guarded, h]

theorem SysReg.unprivileged_of_readOnly {r : SysReg} (h : sysReadOnly r = true) :
    r.handlerOnly = false ∧ r.kernelOnly = false := by
  cases r with
  | mode | fmt | rndSeed | faultCause | faultOrigin | faultDemand | faultNode | faultSeg | faultInfo | trapVec | trapPc | rsv
  | cntT | remopNext | remopTmo | injDropReply | dbgRoute | schedHorizon => cases h
  | _ => exact ⟨rfl, rfl⟩

/-! ### System registers (R275, R90, R129) -/

theorem exec_mfs_of_allowed (s : State) (d : XReg) (r : SysReg) (h : r.handlerOnly = true → s.core.sys.hnd = true) :
    exec (.mfs d r) s = .next (s.issuesX d (s.sysRead r) 2 false) := by
  have hp : (Instr.mfs d r).privileged s.core.sys.hnd = false := by
    cases hr : r.handlerOnly
    · simp [Instr.privileged, hr]
    · simp [Instr.privileged, h hr]
  show settle s (s.guarded (.mfs d r) (s.aluN d (s.sysRead r) 2)) = _
  rw [State.guarded_passed (State.static67_unmasked rfl hp), settle_aluN]

/-- mts where its privilege rules let it pass. -/
theorem exec_mts_of_allowed (s : State) (r : SysReg) (a : XReg) (hk : r.kernelOnly = false)
    (h : r.handlerOnly = true → s.core.sys.hnd = true) :
    exec (.mts r a) s = settle s (if sysReadOnly r then .ok s else .ok (s.put (.sys r (s.x a)) 1 false)) := by
  have hp : (Instr.mts r a).privileged s.core.sys.hnd = false := by
    cases hr : r.handlerOnly
    · simp [Instr.privileged, hk, hr]
    · simp [Instr.privileged, hk, h hr]
  show settle s (s.guarded (.mts r a) _) = _
  rw [State.guarded_passed (State.static67_unmasked rfl hp)]

theorem exec_mts_writable (s : State) (r : SysReg) (a : XReg) (hw : sysReadOnly r = false) (hk : r.kernelOnly = false)
    (h : r.handlerOnly = true → s.core.sys.hnd = true) :
    exec (.mts r a) s = .next (s.withFlight [fly (.sys r (s.x a)) 1] []) := by
  rw [exec_mts_of_allowed s r a hk h, hw, if_neg Bool.false_ne_true, settle_put_unchained]

theorem exec_mts_readOnly (s : State) (r : SysReg) (a : XReg) (hr : sysReadOnly r = true) : exec (.mts r a) s = .next s := by
  obtain ⟨hh, hk⟩ := SysReg.unprivileged_of_readOnly hr
  rw [exec_mts_of_allowed s r a hk (by simp [hh]), if_pos hr, settle_ok]

theorem exec_rsvWrite_passed (s : State) (n : Fin 16) (a : XReg) (h : s.rsvCode n (s.x a) = none) :
    exec (.rsvWrite n a) s = .next (s.withFlight [fly (.sys (.rsv n) (s.x a)) 1] []) := by
  show settle s (effRsvWrite n a s) = _
  rw [effRsvWrite, h, settle_put_unchained]

theorem exec_rsvWrite_refused (s : State) (n : Fin 16) (a : XReg) (k : Nat) (h : s.rsvCode n (s.x a) = some k) :
    exec (.rsvWrite n a) s = .next (s.takeTrap Cause.residency (BitVec.ofNat 64 k) s.core.pc) := by
  show settle s (effRsvWrite n a s) = _
  rw [effRsvWrite, h]
  exact settle_faultInfo s s 10 _ _ (by decide)

/-! ### Scalar floating point (R273, R274) -/

theorem State.fval_litWord (s : State) (v : BitVec 32) : s.fval (litWord v) = decodeFp32 s.ftz v := by
  rw [State.fval, litWord, BitVec.setWidth_setWidth_of_le v (by decide), BitVec.setWidth_eq]

theorem exec_fpResult {i : Instr} {s : State} {d : XReg} {v : Num} (h : s.fpResult i = some (d, v)) :
    exec i s = settle s (s.aluN d (s.fpWord v) 4) := by
  cases i with
  | faddS | fsubS | fmulS | ffmaS | fminS | fmaxS => cases h; rfl
  | faddSLit | fsubSLit | fmulSLit | ffmaSLit | fminSLit | fmaxSLit => cases h; rw [← State.fval_litWord]; rfl
  | _ => cases h

theorem exec_fcvtTo_element (s : State) (f : Fmt) (d a : XReg) (r : Rnd) (h : f ≠ .fp32) :
    exec (.fcvtTo f d a r) s = .next (s.issuesX d
      (fcvtBits f (encodeElem f r (s.core.sys.modeBits.getLsbD 6) s.ftz false SrKey.none (s.fval (s.x a))).bits) 2 false) := by
  show settle s (effFcvtTo f d a r s) = _
  rw [effFcvtTo, if_neg h, settle_aluN]

theorem exec_fcvtTo_fp32 (s : State) (d a : XReg) (r : Rnd) :
    exec (.fcvtTo .fp32 d a r) s = .next (s.issuesX d (BitVec.ofNat 64 ((s.x a).toNat % 2 ^ 32)) 2 false) := by
  show settle s (effFcvtTo .fp32 d a r s) = _
  rw [effFcvtTo, if_pos rfl, settle_aluN]
  rfl

/-- The FP32 word that fcvt.from writes (R274, R210). -/
def State.fromElem (s : State) (f : Fmt) (r : Rnd) (bits : Nat) : Word :=
  BitVec.ofNat 64 (if f = .fp32 then bits
    else (encodeElem .fp32 r false s.ftz false SrKey.none (decodeElem f s.ftz bits)).bits)

/-- fcvt.from puts its word in flight, in the state that has counted a TRI2 operand of 0b10. -/
theorem exec_fcvtFrom (s : State) (f : Fmt) (d a : XReg) (r : Rnd) :
    exec (.fcvtFrom f d a r) s = .next ((s.noteTri2 (badTri2 f ((s.x a).toNat % 2 ^ f.width))).issuesX d
      (s.fromElem f r ((s.x a).toNat % 2 ^ f.width)) 2 false) :=
  settle_aluN s ..

theorem badTri2_of_ne {f : Fmt} {bits : Nat} (h : f = .tri2 → bits % 4 ≠ 2) : badTri2 f bits = false := by
  by_cases hf : f = .tri2
  · simp [badTri2, h hf]
  · simp [badTri2, hf]

theorem exec_fcvtFrom_fp32 (s : State) (d a : XReg) (r : Rnd) :
    exec (.fcvtFrom .fp32 d a r) s = .next (s.issuesX d (BitVec.ofNat 64 ((s.x a).toNat % 2 ^ 32)) 2 false) :=
  exec_fcvtFrom s .fp32 d a r

theorem exec_fcvtFrom_element (s : State) (f : Fmt) (d a : XReg) (r : Rnd) (h : f ≠ .fp32)
    (ht : f = .tri2 → (s.x a).toNat % 4 ≠ 2) :
    exec (.fcvtFrom f d a r) s = .next (s.issuesX d (BitVec.ofNat 64
      (encodeElem .fp32 r false s.ftz false SrKey.none (decodeElem f s.ftz ((s.x a).toNat % 2 ^ f.width))).bits) 2 false) := by
  have hb : badTri2 f ((s.x a).toNat % 2 ^ f.width) = false := by
    refine badTri2_of_ne (fun hf => ?_)
    subst hf
    simpa [Fmt.width] using ht rfl
  rw [exec_fcvtFrom, hb, State.fromElem, if_neg h]
  rfl

@[simp] theorem State.issuesX_ctxs (s : State) (d : XReg) (v : Word) (n : Nat) (c : Bool) :
    (s.issuesX d v n c).ctxs = s.ctxs := by
  unfold State.issuesX; split <;> rfl
@[simp] theorem State.issuesX_mem (s : State) (d : XReg) (v : Word) (n : Nat) (c : Bool) :
    (s.issuesX d v n c).mem = s.mem := by
  unfold State.issuesX; split <;> rfl
@[simp] theorem State.issuesX_regs (s : State) (d : XReg) (v : Word) (n : Nat) (c : Bool) :
    (s.issuesX d v n c).core.regs = s.core.regs := by
  unfold State.issuesX; split <;> rfl

/-- Counting an error changes the counters of the context and of its virtual function alone. -/
theorem State.countErr_mem_core (s : State) (n : Nat) (f : ErrRegs → ErrRegs) :
    (s.countErr n f).mem = s.mem ∧ (s.countErr n f).core = s.core := by
  unfold State.countErr
  repeat' split
  all_goals exact ⟨rfl, rfl⟩

/-- A TRI2 operand of 0b10 is counted before its value, +0, is written. -/
theorem exec_fcvtFrom_badTri2 (s : State) (d a : XReg) (r : Rnd) (h : (s.x a).toNat % 4 = 2) :
    ∃ t, exec (.fcvtFrom .tri2 d a r) s = .next t ∧
      t.ctxs = (s.countErr s.ctxNo (fun e => { e with tri2 := satInc e.tri2 })).ctxs ∧ t.mem = s.mem ∧
      t.core.regs = s.core.regs := by
  have hb : badTri2 .tri2 ((s.x a).toNat % 2 ^ Fmt.width .tri2) = true := by simp [badTri2, Fmt.width, h]
  refine ⟨_, exec_fcvtFrom s .tri2 d a r, ?_⟩
  simp [hb, State.noteTri2, State.countErr_mem_core]

/-! ### The check of two values (R276, R365) -/

theorem applyLog_nil (r : Regs) : applyLog r [] = (r, []) := rfl

/-- The registers that a rollback restores where nothing of the log is applied again (R362, R363). -/
theorem Core.restoredRegs_of_log_nil {c : Core} (h : c.log = []) :
    c.restoredRegs = { c.regs with x := c.shadow.x, p := c.shadow.p, v := c.shadow.v, q := c.shadow.q, f := c.shadow.f,
                                   c := c.shadow.c, t := c.shadow.t } := by
  rw [Core.restoredRegs, h]
  rfl

/-- The first recovery fault of a segment in program mode (R365): but for a report, the core notes a SILENT-MISMATCH, rolls back and
goes on with the retry mark and the fault registers. -/
theorem State.recoveryFault_first (s : State) (c : BitVec 6) (i : Word) (hh : s.core.sys.hnd = false)
    (hr : s.core.retry = false) :
    (s.recoveryFault c i).mem = s.mem ∧ (s.recoveryFault c i).core =
      { (s.core.noteMismatch c).rollback with
        retry := true, sys := { (s.core.noteMismatch c).rollback.sys with fCause := c, fInfo := i } } := by
  have h : (s.modCore (fun k => k.noteMismatch c)).core.retry = false := hr
  cases ha : (c == Cause.silentMismatch && s.core.mismatch) <;>
    simp [State.recoveryFault, hh, ha, hr, Core.noteMismatch, State.rollback]

theorem exec_cmpt_differs (s : State) (a b : XReg) (h : s.x a ≠ s.x b) :
    exec (.cmpt a b) s =
      .next (s.recoveryFault Cause.silentMismatch (recoveryInfo s.core.pc s.core.issue.slot)) := by
  show settle s (effCmpt a b s) = _
  rw [effCmpt, if_neg h, settle_raise, State.takeRaise, if_pos rfl]

theorem exec_cmpt_equal (s : State) (a b : XReg) (h : s.x a = s.x b) : exec (.cmpt a b) s = .next s := by
  show settle s (effCmpt a b s) = _
  rw [effCmpt, if_pos h, settle_ok]

end Sys2Proof.Machine

open Sys2Proof.Machine

/-- Settles O23: a difference is a recovery fault (R365), the first of its segment here. -/
theorem cmptChecksTwoValues : Obligations.CmptChecksTwoValues := by
  refine ⟨fun s => rfl, exec_cmpt_equal, fun s a b hd hh hr => ⟨_, exec_cmpt_differs s a b hd, ?_⟩⟩
  obtain ⟨hm, hc⟩ := State.recoveryFault_first s Cause.silentMismatch (recoveryInfo s.core.pc s.core.issue.slot) hh hr
  rw [hc]
  refine ⟨rfl, rfl, rfl, rfl, hh, hm, fun hl => ?_⟩
  have hl' : (s.core.noteMismatch Cause.silentMismatch).log = [] := hl
  have hregs := Core.restoredRegs_of_log_nil hl'
  simp only [Core.rollback, hregs]
  exact ⟨rfl, rfl, rfl, rfl, rfl, rfl, rfl⟩

/-- Settles O24: one lemma per form of the operations and conversions. -/
theorem scalarFloatResults : Obligations.ScalarFloatResults := by
  refine ⟨fun i s d v h => ?_, exec_fcvtTo_element, fun s d a r => ⟨exec_fcvtTo_fp32 s d a r, exec_fcvtFrom_fp32 s d a r⟩,
    exec_fcvtFrom_element, exec_fcvtFrom_badTri2⟩
  rw [exec_fpResult h, settle_aluN]

/-- Settles O25, one clause after the other. -/
theorem systemRegisterMoves : Obligations.SystemRegisterMoves :=
  ⟨exec_mfs_of_allowed, exec_mts_writable, exec_mts_readOnly, exec_rsvWrite_passed, exec_rsvWrite_refused,
    fun _ _ => settle_put_unchained ..⟩
end
section
/-! PROOFS. An instruction by itself is its effect in a slot (R46). -/

open Sys2Proof

namespace Sys2Proof.Machine

/-- The effect of an item that no slot holds is none; an instruction that a slot holds acts as its effect. -/
theorem settle_slotEff (i : Instr) (s : State) :
    settle s (slotEff i s) = bif i.inSlot then exec i s else .next s := by
  cases i with
  | tbia m fn => cases fn <;> rfl
  | tmsk m xv => cases xv <;> rfl
  | _ => rfl

theorem exec_eq_settle {i : Instr} (h : i.inSlot = true) (s : State) : exec i s = settle s (slotEff i s) := by
  rw [settle_slotEff, h, cond_true]

end Sys2Proof.Machine

open Sys2Proof.Machine

/-- Settles O4, by cases on the instruction. -/
theorem execSettlesSlotEffect : Obligations.ExecSettlesSlotEffect :=
  fun _ s h => exec_eq_settle h s
end
section
/-! PROOFS. The sequencer (R39 to R49, R53, R281, R282): a bundle of one slot, and where the core goes after a bundle. -/

open Sys2Proof

namespace Sys2Proof.Machine

/-! ### A bundle of one slot (R41, R46, R47) -/

/-- The stops before a slot give its group, which is below 8. -/
theorem bundleGroup_lt (b : Bundle) (k : Fin 8) : bundleGroup b k < 8 := by
  have := List.length_filter_le (fun n => b.stops.getLsbD n) (List.range k.val)
  rw [List.length_range] at this
  exact Nat.lt_of_le_of_lt this k.isLt

/-- Of the lists that hold x at one place of n and nothing elsewhere, x alone is not empty. -/
theorem filter_nonempty_singleton {α : Type} (x : α) (g n : Nat) (h : g < n) :
    ((List.range n).map (fun k => [x].filter (fun _ => g == k))).filter (fun l => !l.isEmpty) = [[x]] := by
  have pick : ∀ k, [x].filter (fun _ => g == k) = if g = k then [x] else [] := by
    intro k; by_cases hk : g = k <;> simp [hk]
  simp only [pick]
  induction n with
  | zero => omega
  | succ n ih =>
    rw [List.range_succ, List.map_append, List.filter_append]
    by_cases hg : g = n
    · have none_before : ((List.range n).map (fun k => if g = k then [x] else [])).filter (fun l => !l.isEmpty) = [] := by
        simp only [List.filter_eq_nil_iff, List.mem_map, List.mem_range]
        rintro l ⟨k, hk, rfl⟩
        simp [show g ≠ k by omega]
      rw [none_before]
      simp [hg]
    · rw [ih (by omega)]
      simp [hg]

theorem bundleGroups_single {b : Bundle} {i : SlotInstr} (h : b.slots = [i]) : bundleGroups b = [[i]] := by
  rw [bundleGroups, h]
  exact filter_nonempty_singleton i (bundleGroup b i.slot) 8 (bundleGroup_lt b i.slot)

@[simp] theorem State.passSync_pc (s : State) (w : Nat) : (s.passSync w).core.pc = s.core.pc := by
  unfold State.passSync; split <;> rfl
@[simp] theorem State.passSync_flight (s : State) (w : Nat) : (s.passSync w).core.flight = s.core.flight := by
  unfold State.passSync; split <;> rfl
@[simp] theorem State.passSync_sys (s : State) (w : Nat) : (s.passSync w).core.sys = s.core.sys := by
  unfold State.passSync; split <;> rfl

/-- The state in which the one slot of a bundle runs is that of `State.issuing`. -/
theorem State.issuing_eq (s : State) (w : Nat) (i : SlotInstr) :
    s.issuing w i = (((s.passSync w).modCore (fun c =>
      { c with issue := { Issue.none with before := some (s.passSync w).before } })).modCore (fun c =>
        { c with issue := { c.issue with slot := i.slot.val } })) := rfl

/-- What the one slot of a bundle does: its instruction's effect behind a true guard, nothing behind a false one (R47). -/
def State.slotOutcome (s : State) (i : SlotInstr) : Eff := if s.guard i then slotEff i.op s else .ok s

/-- A bundle of one slot whose outcome is a state, outside interlocked mode, issues with that state. -/
theorem State.runBundle_single {p t : State} {b : Bundle} {i : SlotInstr} (hb : b.slots = [i])
    (hi : p.core.interlocked = false)
    (ht : (p.modCore (fun c => { c with issue := { Issue.none with before := some p.before } })).runSlot i = .ok t)
    (hl : t.core.flight.length ≤ 64) : p.runBundle b = .issued (t.modCore (fun c => c.afterBundle p.core.pc)) := by
  have hn : ¬ 64 < t.core.flight.length := by omega
  simp [State.runBundle, bundleGroups_single hb, Run.group, Run.settle, hi, Run.slot, ht, firstRaise, hn]

theorem State.tryWord_single {f t : State} {w : Nat} {b : Bundle} {i : SlotInstr} (hs : f.core.regs.synced w = true)
    (hd : decodeBundle w = .ok b) (hb : b.slots = [i]) (hst : f.staticRaise b = none)
    (hm : f.core.sys.modeBits.getLsbD 7 = false) (ht : (f.issuing w i).slotOutcome i = .ok t)
    (hl : t.core.flight.length ≤ 64) : f.tryWord w = .issued (t.modCore (fun c => c.afterBundle f.core.pc)) := by
  have hi : f.core.interlocked = false := hm
  have hp : (f.passSync w).core.interlocked = false := by rw [Core.interlocked, State.passSync_sys, hm]
  have hr := State.runBundle_single (p := f.passSync w) hb hp ht hl
  rw [State.tryWord, hs, hd]
  simp [hst, hi, hr]

/-- A bundle that is fetched at a boundary without a hold, and issues, is the next state. -/
theorem exec_bundleIssue_word {s f t : State} {w : Nat} (hr : s.core.run = .running) (hdue : s.core.due = 0)
    (hh : s.core.hold = .none) (hf : s.fetch = (f, .word w)) (ht : f.tryWord w = .issued t) :
    exec .bundleIssue s = .next t := by
  have hb : s.core.atBoundary = true := by simp [Core.atBoundary, Core.entering, hr, hdue, hh]
  show execBundleIssue s = _
  simp [execBundleIssue, hb, hh, State.issueBundle, State.tryBundle, hf, ht]

/-! ### Where the core goes (R39, R49, R53, R282) -/

theorem Core.afterBundle_taken {c : Core} {t : CodeAddr} (pc : CodeAddr) (h : c.issue.taken = some t) :
    c.afterBundle pc = { c.moveValues with pc := t, due := 3, emul := none, issue := Issue.none } := by
  unfold Core.afterBundle
  dsimp only
  split
  next u hu => cases h.symm.trans hu; rfl
  next hu => cases h.symm.trans hu

theorem Core.afterBundle_untaken {c : Core} (pc : CodeAddr) (h : c.issue.taken = none) :
    c.afterBundle pc = { c.moveValues with
      pc := (loopEnd pc (pc + 64) c.loops).2, loops := (loopEnd pc (pc + 64) c.loops).1, due := 1, emul := none,
      issue := Issue.none } := by
  unfold Core.afterBundle
  dsimp only
  split
  next u hu => cases h.symm.trans hu
  next => rfl

theorem loopEnd_outside {pc next : CodeAddr} {ls : List LoopEntry} (h : ∀ e ∈ ls.head?, e.last ≠ pc) :
    loopEnd pc next ls = (ls, next) := by
  cases ls with
  | nil => rfl
  | cons e rest => exact if_pos (h e rfl)

theorem loopEnd_again {pc next : CodeAddr} {e : LoopEntry} {rest : List LoopEntry} (h : e.last = pc)
    (hc : e.index.toNat + 1 < e.count.toNat) :
    loopEnd pc next (e :: rest) = ({ e with index := e.index + 1 } :: rest, e.first) := by
  rw [loopEnd, if_neg (not_not_intro h), if_pos hc]

theorem loopEnd_last {pc next : CodeAddr} {e : LoopEntry} (h : e.last = pc) (hc : e.count.toNat ≤ e.index.toNat + 1) :
    loopEnd pc next [e] = ([], next) := by
  rw [loopEnd, if_neg (not_not_intro h), if_neg (by omega), loopEnd]

/-! ### A step at a quiet boundary (R373) -/

theorem State.nextEvent_issued {s t : State} (hr : s.core.run = .running) (hdue : s.core.due = 0)
    (hh : s.core.hold = .none) (he : s.core.evalDue = false) (hc : s.core.faultedCmd = none) (hk : s.core.kTraps = [])
    (hl : s.core.lateTraps = []) (hp : s.preemptDue = false) (ht : s.tryBundle = .issued t) :
    s.nextEvent = some .bundleIssue := by
  have hn : s.core.entering = false := by simp [Core.entering, hh]
  simp [State.nextEvent, hr, hdue, State.boundary, hn, he, hc, hk, hh, hl, hp, ht]

theorem exec_bundleIssue_issued {s t : State} (hr : s.core.run = .running) (hdue : s.core.due = 0)
    (hh : s.core.hold = .none) (ht : s.tryBundle = .issued t) : exec .bundleIssue s = .next t := by
  have hb : s.core.atBoundary = true := by simp [Core.atBoundary, Core.entering, hr, hdue, hh]
  show execBundleIssue s = _
  simp [execBundleIssue, hb, hh, State.issueBundle, ht]

end Sys2Proof.Machine

open Sys2Proof.Machine

/-- Settles O7: at such a boundary every branch of the order of R373 leads to the bundle. -/
theorem stepIssuesBundle : Obligations.StepIssuesBundle := by
  intro s t hoff hag hq hr hdue hh he hc hk hl hp ht
  have hnext : s.unquiet.nextEvent = some .bundleIssue := State.nextEvent_issued hr hdue hh he hc hk hl hp ht
  have hstep : step s = exec .bundleIssue s.unquiet := by
    simp only [step, hoff, hag, State.turn, hq, State.coreTurn, hnext, if_true, Bool.false_eq_true, if_false]
    rfl
  exact ⟨hstep, hstep.trans (exec_bundleIssue_issued (s := s.unquiet) hr hdue hh ht)⟩

/-- Settles O8: the one group of the bundle is its one slot, whose outcome is that of the instruction. -/
theorem bundleRunsDecodedInstruction : Obligations.BundleRunsDecodedInstruction := by
  intro s f t w b i hr hdue hh hf hs hd hb hst hm hg hin he hl
  have ht : (f.issuing w i).slotOutcome i = .ok t := by rw [State.slotOutcome, hg, if_pos rfl, he]
  refine ⟨?_, exec_bundleIssue_word hr hdue hh hf (State.tryWord_single hs hd hb hst hm ht hl)⟩
  rw [exec_eq_settle hin, he, settle_ok]

/-- Settles O9: behind a false guard the slot's outcome is the state before it. -/
theorem falseGuardHasNoEffect : Obligations.FalseGuardHasNoEffect := by
  intro s f w b i hr hdue hh hf hs hd hb hst hm hg hl
  have ht : (f.issuing w i).slotOutcome i = .ok (f.issuing w i) := by
    rw [State.slotOutcome, hg, if_neg Bool.false_ne_true]
  have hl' : (f.issuing w i).core.flight.length ≤ 64 := by
    rw [State.issuing_eq]
    simpa using hl
  exact exec_bundleIssue_word hr hdue hh hf (State.tryWord_single hs hd hb hst hm ht hl')

/-- Settles O10: the taken transfer and the three ways in which the innermost loop goes on. -/
theorem transferBubbles : Obligations.TransferBubbles := by
  refine fun c pc => ⟨fun t h => ?_, fun h => ?_, fun h ho => ?_, fun e rest h hls hl hc => ?_, fun e h hls hl hc => ?_⟩
  · rw [Core.afterBundle_taken pc h]
    exact ⟨rfl, rfl, rfl⟩
  · rw [Core.afterBundle_untaken pc h]
  · rw [Core.afterBundle_untaken pc h, loopEnd_outside ho]
    exact ⟨rfl, rfl⟩
  · rw [Core.afterBundle_untaken pc h, hls, loopEnd_again hl hc]
    exact ⟨rfl, rfl⟩
  · rw [Core.afterBundle_untaken pc h, hls, loopEnd_last hl hc]
    exact ⟨rfl, rfl⟩
end
section
/-! PROOFS. Positions and landing (R44, R49, R52, R277). -/

open Sys2Proof

namespace Sys2Proof.Machine

/-! ### One position for results with their data and no mark -/

/-- A result in flight that has its data and bears no mark. -/
def InFlight.plain (e : InFlight) : Prop := e.mark = none ∧ e.wait = none

theorem InFlight.plain.blocks {e : InFlight} (h : e.plain) : e.blocks = false := by
  simp [InFlight.blocks, h.2]

/-- A result that has two positions or more to go does not land at the next. -/
theorem InFlight.tickOne_of_two_le {e : InFlight} (h : 2 ≤ e.k) :
    e.tickOne = { e with k := e.k - 1 } ∧ e.tickOne.lands = false := by
  have hk : ¬ e.k = 0 := by omega
  have he : e.tickOne = { e with k := e.k - 1 } := by rw [InFlight.tickOne, if_neg hk]
  have hk' : ¬ e.k - 1 = 0 := by omega
  exact ⟨he, by simp [he, InFlight.lands, hk']⟩

theorem State.poisonDue_plain {s : State} (h : ∀ e ∈ s.core.flight, e.plain) : s.poisonDue = none := by
  have : s.core.flight.find? (fun e => e.tickOne.lands && e.mark.isSome) = none := by
    rw [List.find?_eq_none]
    intro e he
    simp [(h e he).1]
  rw [State.poisonDue, this]

theorem State.anyBlocks_plain {s : State} (h : ∀ e ∈ s.core.flight, e.plain) : s.core.flight.any InFlight.blocks = false := by
  rw [List.any_eq_false]
  intro e he
  simp [(h e he).blocks]

theorem State.advance_plain {s : State} (h : ∀ e ∈ s.core.flight, e.plain) : s.advance = s.passPosition := by
  simp [State.advance, State.anyBlocks_plain h, State.poisonDue_plain h]

theorem State.landStep_plain {s : State} (h : ∀ e ∈ s.core.flight, e.plain) :
    s.landStep = (s.passPosition.modCore (fun c => { c with due := c.due - 1 })).settleDone := by
  simp [State.landStep, State.anyBlocks_plain h, State.poisonDue_plain h, State.advance_plain h]

/-- Only whether a completion's flag is still one of this cycle may change where a bundle does not issue. -/
theorem State.settleDone_cases (s : State) :
    ∃ dn, (dn = s.core.done ∨ dn = []) ∧ s.settleDone = s.modCore (fun c => { c with done := dn }) := by
  by_cases h : (decide (s.core.due = 0) && !s.core.done.isEmpty && !s.issuesNow) = true
  · exact ⟨[], .inr rfl, by rw [State.settleDone, if_pos h]; rfl⟩
  · exact ⟨s.core.done, .inl rfl, by rw [State.settleDone, if_neg h]; rfl⟩

theorem State.settleDone_nothing {s : State} (h : s.core.done = []) : s.settleDone = s := by
  simp [State.settleDone, h]

/-- The core after the counts have fallen, before what is due lands. -/
def Core.counted (c : Core) (rest : List InFlight) : Core :=
  { c with flight := rest.map (fun e => { e with k := e.k - 1 }), busy := c.busy.tickOne, fresh := [], done := [] }

theorem map_tickOne {rest : List InFlight} (h : ∀ e ∈ rest, 2 ≤ e.k) :
    rest.map InFlight.tickOne = rest.map (fun e => { e with k := e.k - 1 }) :=
  List.map_congr_left (fun e he => (InFlight.tickOne_of_two_le (h e he)).1)

theorem filter_lands_map_tickOne {rest : List InFlight} (h : ∀ e ∈ rest, 2 ≤ e.k) :
    (rest.map InFlight.tickOne).filter (fun e => !e.lands) = rest.map InFlight.tickOne ∧
      (rest.map InFlight.tickOne).filter InFlight.lands = [] := by
  have hl : ∀ e ∈ rest.map InFlight.tickOne, e.lands = false := by
    intro e he
    obtain ⟨e', he', rfl⟩ := List.mem_map.mp he
    exact (InFlight.tickOne_of_two_le (h e' he')).2
  refine ⟨List.filter_eq_self.mpr (fun e he => by simp [hl e he]), List.filter_eq_nil_iff.mpr (fun e he => by simp [hl e he])⟩

/-- A position from the results that stay in flight after it and those that land at it. -/
theorem State.passPosition_eq {s : State} {rest due : List InFlight}
    (hk : (s.core.flight.map InFlight.tickOne).filter (fun e => !e.lands) = rest.map (fun e => { e with k := e.k - 1 }))
    (hl : (s.core.flight.map InFlight.tickOne).filter InFlight.lands = due) :
    s.passPosition = (s.modCore (fun c => c.counted rest)).landAll (due.map (fun e => e.what)) := by
  unfold Core.counted
  rw [← hk, ← hl]
  rfl

theorem State.passPosition_nothing {s : State} (h : ∀ e ∈ s.core.flight, 2 ≤ e.k) :
    s.passPosition = (s.modCore (fun c => c.counted s.core.flight)).landAll [] := by
  obtain ⟨hk, hl⟩ := filter_lands_map_tickOne h
  exact State.passPosition_eq (hk.trans (map_tickOne h)) hl

theorem State.passPosition_one {s : State} {l : Landing} {rest : List InFlight} (hf : s.core.flight = fly l 1 :: rest)
    (h : ∀ e ∈ rest, 2 ≤ e.k) : s.passPosition = (s.modCore (fun c => c.counted rest)).landAll [l] := by
  obtain ⟨hk, hl⟩ := filter_lands_map_tickOne h
  have h1 : (fly l 1).tickOne = fly l 0 := rfl
  have h2 : (fly l 0).lands = true := rfl
  refine State.passPosition_eq (due := [fly l 0]) ?_ ?_
  · rw [hf, List.map_cons, h1, List.filter_cons_of_neg (by simp [h2]), hk, map_tickOne h]
  · rw [hf, List.map_cons, h1, List.filter_cons_of_pos h2, hl]

/-! ### One landing (R44, R277) -/

theorem State.landAll_nil (s : State) : s.landAll [] = s := by
  simp [State.landAll, State.modCore]

/-- The flag that a landing sets last: that of a threshold which its counter reaches (R277). -/
def Regs.reached (r : Regs) (l : Landing) : Option FlagNo := l.counter.bind (fun k => (r.after l).threshold k)

/-- A landing that is neither of a system register nor a completion changes the registers alone. -/
theorem State.land1_register (s : State) (l : Landing) (h : l.system = false) (hd : l.doneFlag = none) :
    s.land1 l = (s.modCore (fun c => { c with regs := c.regs.after l }), s.core.regs.reached l) := by
  cases l with
  | x d v =>
    by_cases hz : d = 0
    · simp [State.land1, Regs.after, Regs.reached, Landing.counter, hz, State.modCore]
    · simp [State.land1, Regs.after, Regs.reached, Landing.counter, hz]
  | q d v m =>
    by_cases hz : d = 0
    · simp [State.land1, Regs.after, Regs.reached, Landing.counter, hz, State.modCore]
    · simp [State.land1, Regs.after, Regs.reached, Landing.counter, hz]
  | hx | p | v | vm | flag | ctr | inc | cset => rfl
  | slack n => cases h
  | done f old => cases hd
  | sys r v =>
    cases r with
    | cntT k => rfl
    | _ => cases h

theorem Regs.compared_eq (r : Regs) (k : CtrNo) :
    r.compared k = { r with f := (r.threshold k).toList.foldl (fun (v : Vector Bool 32) (f : FlagNo) => v.set f true) r.f } := by
  by_cases h : r.t[k].toNat ≤ r.c[k].toNat
  · rw [Regs.compared, if_pos h, Regs.threshold, if_pos h]
    rfl
  · rw [Regs.compared, if_neg h, Regs.threshold, if_neg h]
    rfl

/-- The registers after a landing, the flag of a threshold with it. -/
def Regs.landed (r : Regs) (l : Landing) : Regs :=
  match l.counter with
  | some k => (r.after l).compared k
  | none => r.after l

theorem Regs.landed_eq (r : Regs) (l : Landing) : r.landed l =
    { r.after l with f := (r.reached l).toList.foldl (fun (v : Vector Bool 32) (f : FlagNo) => v.set f true) (r.after l).f } := by
  rw [Regs.landed, Regs.reached]
  cases l.counter with
  | none => rfl
  | some k => exact Regs.compared_eq (r.after l) k

/-- The log after a landing: a completion of a command of an earlier segment is noted for R363. -/
def Landing.logged (l : Landing) (log : List LogItem) : List LogItem :=
  match l with
  | .done f true => log ++ [.flag f]
  | _ => log

theorem Landing.logged_of_doneFlag_none {l : Landing} (h : l.doneFlag = none) (log : List LogItem) : l.logged log = log := by
  cases l with
  | done f old => cases h
  | _ => rfl

/-- What one landing changes of the focused core. -/
theorem State.landAll_one (s : State) (l : Landing) (h : l.system = false) :
    s.landAll [l] = s.modCore (fun c => { c with
      regs := c.regs.landed l, fresh := c.fresh ++ (s.core.regs.reached l).toList, done := c.done ++ l.doneFlag.toList,
      log := l.logged c.log }) := by
  cases hd : l.doneFlag with
  | none =>
    have e := State.land1_register s l h hd
    cases hr : s.core.regs.reached l <;>
      simp [State.landAll, e, hr, hd, State.modCore, Regs.landed_eq, Landing.logged_of_doneFlag_none hd]
  | some f =>
    cases l with
    | done g old => cases hd; cases old <;> rfl
    | _ => cases hd

end Sys2Proof.Machine

open Sys2Proof.Machine

/-- Settles O15: a position is its landings in a counted core, and one landing is the change of its register. -/
theorem resultsLandInTheirRegisters : Obligations.ResultsLandInTheirRegisters := by
  refine ⟨fun s h => ?_, fun s l rest hf hsys hrest => ?_⟩
  · have hp : ∀ e ∈ s.core.flight, e.plain := fun e he => ⟨(h e he).1, (h e he).2.1⟩
    have hk : ∀ e ∈ s.core.flight, 2 ≤ e.k := fun e he => (h e he).2.2
    show Host.Outcome.next s.landStep = _
    rw [State.landStep_plain hp, State.passPosition_nothing hk, State.landAll_nil, State.settleDone_nothing rfl]
    rfl
  · have hp : ∀ e ∈ s.core.flight, e.plain := by
      rw [hf]
      exact List.forall_mem_cons.mpr ⟨⟨rfl, rfl⟩, fun e he => ⟨(hrest e he).1, (hrest e he).2.1⟩⟩
    have hk : ∀ e ∈ rest, 2 ≤ e.k := fun e he => (hrest e he).2.2
    show ∃ fr dn, _ ∧ Host.Outcome.next s.landStep = _
    rw [State.landStep_plain hp, State.passPosition_one hf hk, State.landAll_one _ l hsys]
    generalize ht : State.modCore _ _ = t
    obtain ⟨dn, hdn, hset⟩ := t.settleDone_cases
    have hdone : t.core.done = l.doneFlag.toList := by rw [← ht]; rfl
    refine ⟨t.core.fresh, dn, fun f hf' => ?_, ?_⟩
    · rcases hdn with rfl | rfl
      · rw [hdone] at hf'
        exact Option.mem_toList.mp hf'
      · cases hf'
    · rw [hset, ← ht]
      rfl
end
section
/-! PROOFS. Units that are busy (R52, R55), and transfers (R39, R280). -/

open Sys2Proof

namespace Sys2Proof.Machine

/-! ### A busy unit in interlocked mode (R52, R55) -/

/-- A core in interlocked mode whose divider is busy, that waits for the data of a remote load, and for which a completion has set flag
f3 in this cycle. -/
def waitingDivision : State :=
  { State.reset with core := { State.reset.core with
      sys := { State.reset.core.sys with modeBits := 0x80 },
      busy := { vec := 0, div0 := 5, div1 := 0 },
      flight := [{ what := .x 1 0, k := 1, mark := none, wait := some { id := 0, window := 0, arrived := false } }],
      done := [3] } }

/-- The core waits for the load, and nothing can bring its data. -/
theorem waitingDivision_advance : waitingDivision.advance = waitingDivision := by
  have hb : waitingDivision.core.flight.any InFlight.blocks = true := by decide
  rw [State.advance, hb, if_pos rfl, State.arriveLoads_quiet _ rfl]

theorem waitingDivision_nextCycle_advance : waitingDivision.nextCycle.advance = waitingDivision.nextCycle := by
  have hb : waitingDivision.nextCycle.core.flight.any InFlight.blocks = true := by decide
  rw [State.advance, hb, if_pos rfl, State.arriveLoads_quiet _ rfl]

/-- The division stalls: the cycle in which the flag was set is over, and no position passes. -/
theorem exec_div_waitingDivision : exec (.div 1 1 1) waitingDivision = .next waitingDivision.nextCycle := by
  have hs : slotEff (.div 1 1 1) waitingDivision = .stall .flight := rfl
  rw [exec_eq_settle rfl, hs, settle_stall]
  exact congrArg Host.Outcome.next waitingDivision_nextCycle_advance

/-! ### Transfers (R39, R280) -/

theorem State.transfer_taken {s : State} {w : Word} (ha : w.toNat % 64 = 0) (hr : w.toNat < 2 ^ 48) :
    s.transfer w = .ok (s.takes (w.setWidth 48)) := by
  rw [State.transfer, if_neg (not_not_intro ha), if_neg (by omega)]
  rfl

theorem State.transfer_misaligned {s : State} {w : Word} (ha : w.toNat % 64 ≠ 0) :
    s.transfer w = s.fault 10 Cause.alignment := by
  rw [State.transfer, if_pos ha]

theorem State.transfer_beyond {s : State} {w : Word} (ha : w.toNat % 64 = 0) (hr : 2 ^ 48 ≤ w.toNat) :
    s.transfer w = s.fault 10 Cause.address := by
  rw [State.transfer, if_neg (not_not_intro ha), if_pos hr]

/-- The bundle n after the issuing one, as a number modulo 2^64. -/
theorem State.ahead_toNat (s : State) (n : Int) : ((s.ahead n).toNat : Int) = ((s.core.pc.toNat : Int) + 64 * n) % 2 ^ 64 := by
  have := s.core.pc.isLt
  rw [State.ahead, BitVec.toNat_add, BitVec.toNat_ofInt, BitVec.toNat_setWidth]
  omega

theorem State.ahead_inRange {s : State} {n : Int} (h0 : 0 ≤ (s.core.pc.toNat : Int) + 64 * n)
    (h1 : (s.core.pc.toNat : Int) + 64 * n < 2 ^ 48) :
    ((s.ahead n).toNat : Int) = (s.core.pc.toNat : Int) + 64 * n ∧
      (s.ahead n).setWidth 48 = s.core.pc + BitVec.ofInt 48 (64 * n) := by
  have e := s.ahead_toNat n
  have e' : ((s.ahead n).toNat : Int) = (s.core.pc.toNat : Int) + 64 * n := by omega
  refine ⟨e', BitVec.eq_of_toNat_eq ?_⟩
  have := s.core.pc.isLt
  rw [BitVec.toNat_setWidth, BitVec.toNat_add, BitVec.toNat_ofInt]
  omega

theorem State.ahead_beyond {s : State} {off : BitVec 25}
    (h : (s.core.pc.toNat : Int) + 64 * off.toInt < 0 ∨ 2 ^ 48 ≤ (s.core.pc.toNat : Int) + 64 * off.toInt) :
    2 ^ 48 ≤ (s.ahead off.toInt).toNat := by
  have e := s.ahead_toNat off.toInt
  have := s.core.pc.isLt
  have := BitVec.le_toInt off
  have := BitVec.toInt_lt (x := off)
  omega

theorem State.ahead_aligned {s : State} (h : s.core.pc.toNat % 64 = 0) (n : Int) : (s.ahead n).toNat % 64 = 0 := by
  have e := s.ahead_toNat n
  omega

theorem State.ahead_one (s : State) : s.ahead 1 = BitVec.ofNat 64 (s.core.pc.toNat + 64) := by
  have e := s.ahead_toNat 1
  have := s.core.pc.isLt
  apply BitVec.eq_of_toNat_eq
  rw [BitVec.toNat_ofNat]
  omega

/-- br and call, in a bundle at an aligned address, whose target is a code address. -/
theorem exec_br_call_taken {s : State} {off : BitVec 25} (ha : s.core.pc.toNat % 64 = 0)
    (h0 : 0 ≤ (s.core.pc.toNat : Int) + 64 * off.toInt) (h1 : (s.core.pc.toNat : Int) + 64 * off.toInt < 2 ^ 48) :
    exec (.br off) s = .next (s.takes (s.core.pc + BitVec.ofInt 48 (64 * off.toInt))) ∧
      exec (.call off) s = .next ((s.takes (s.core.pc + BitVec.ofInt 48 (64 * off.toInt))).issuesX 63
        (BitVec.ofNat 64 (s.core.pc.toNat + 64)) 1 false) := by
  obtain ⟨hn, hw⟩ := State.ahead_inRange h0 h1
  have ht : s.transfer (s.ahead off.toInt) = .ok (s.takes (s.core.pc + BitVec.ofInt 48 (64 * off.toInt))) := by
    rw [← hw]
    exact State.transfer_taken (State.ahead_aligned ha _) (by omega)
  constructor
  · show settle s (s.transfer (s.ahead off.toInt)) = _
    rw [ht, settle_ok]
  · show settle s ((s.transfer (s.ahead off.toInt)).bind (fun t => .ok (t.putX 63 (s.ahead 1) 1 false))) = _
    rw [ht, Eff.bind, settle_ok, State.putX_eq, State.ahead_one]

theorem exec_br_call_beyond {s : State} {off : BitVec 25} (ha : s.core.pc.toNat % 64 = 0)
    (h : (s.core.pc.toNat : Int) + 64 * off.toInt < 0 ∨ 2 ^ 48 ≤ (s.core.pc.toNat : Int) + 64 * off.toInt) :
    exec (.br off) s = .next (s.takeTrap Cause.address (BitVec.ofNat 64 s.core.issue.slot) s.core.pc) ∧
      exec (.call off) s = .next (s.takeTrap Cause.address (BitVec.ofNat 64 s.core.issue.slot) s.core.pc) := by
  have ht : s.transfer (s.ahead off.toInt) = s.fault 10 Cause.address :=
    State.transfer_beyond (State.ahead_aligned ha _) (State.ahead_beyond h)
  constructor
  · show settle s (s.transfer (s.ahead off.toInt)) = _
    rw [ht, settle_fault _ _ _ _ (by decide)]
  · show settle s ((s.transfer (s.ahead off.toInt)).bind (fun t => .ok (t.putX 63 (s.ahead 1) 1 false))) = _
    rw [ht]
    exact settle_fault s s 10 _ (by decide)

/-- ret and jmpr transfer to the address in their register. -/
theorem exec_ret_jmpr {i : Instr} {r : XReg} (h : i = .ret ∧ r = 63 ∨ i = .jmpr r) (s : State) :
    exec i s = settle s (s.transfer (s.x r)) := by
  rcases h with ⟨rfl, rfl⟩ | rfl
  · rfl
  · rfl

end Sys2Proof.Machine

open Sys2Proof.Machine

/-- Refutes O36: where the core waits for the data of a remote load, a cycle of the wait is no position, but it ends the cycle in which
a completion set its flag; `State.advance` keeps the note of that flag. -/
theorem not_busyUnitsRaiseSchedule : ¬ Obligations.BusyUnitsRaiseSchedule := by
  intro h
  have hwait := (h (.div 1 1 1) waitingDivision (.inr ⟨by decide, .inl (by decide)⟩)).2 (by decide)
  rw [exec_div_waitingDivision, waitingDivision_advance] at hwait
  have hdone : ([] : List FlagNo) = [3] := congrArg (fun t => t.core.done) (Host.Outcome.next.inj hwait)
  exact absurd hdone (by decide)

/-- Settles O45: the target of br and call is the sum of R280 modulo 2^64, whose checks are those of R39. -/
theorem transfersGoToTheirTargets : Obligations.TransfersGoToTheirTargets := by
  refine fun s ha => ⟨fun off => exec_br_call_taken ha, fun off => exec_br_call_beyond ha, fun i r h => ?_⟩
  rw [exec_ret_jmpr h]
  refine ⟨fun h1 h2 => ?_, fun h1 => ?_, fun h1 h2 => ?_⟩
  · rw [State.transfer_taken h1 h2, settle_ok]
  · rw [State.transfer_misaligned h1, settle_fault _ _ _ _ (by decide)]
  · rw [State.transfer_beyond h1 h2, settle_fault _ _ _ _ (by decide)]
end
section
/-! PROOFS. The RESULT field of an atomic block (R109, R411), and the privilege and feature rules (R46, R275, R372, R399). -/

open Sys2Proof

namespace Sys2Proof.Machine

/-! ### Reads of control data -/

/-- What the reads of blocks find leaves the focused core alone. -/
theorem State.touchBlocks_core (s : State) (n : Nat) (b : Bool) (bs : List Nat) : (s.touchBlocks n b bs).1.core = s.core := by
  unfold State.touchBlocks
  refine List.foldlRecOn (motive := fun (acc : State × Option Bool) => acc.1.core = s.core) bs _ rfl (fun acc h b' _ => ?_)
  split
  · exact h
  · exact h
  · exact (State.countErr_mem_core ..).2.trans h
  · exact (State.countErr_mem_core ..).2.trans h

theorem State.controlBytes_core (s : State) (m : Memory) (ms : Marks) (g : List GateEntry) (a n : Nat) :
    (s.controlBytes m ms g a n).1.core = s.core := by
  unfold State.controlBytes
  dsimp only
  split
  · exact State.touchBlocks_core ..
  · exact State.touchBlocks_core ..

theorem State.controlBefore_core (s : State) (a n : Nat) : (s.controlBefore a n).1.core = s.core := by
  unfold State.controlBefore
  split
  · exact State.controlBytes_core ..
  · exact State.controlBytes_core ..

theorem State.controlBefore_length (s : State) (a n : Nat) : (s.controlBefore a n).2.length = n := by
  unfold State.controlBefore
  split <;> simp [State.controlBytes]

theorem State.storesMetBefore_none {s : State} (h : s.core.mash.stores = []) (ls : List (Nat × Nat)) :
    s.storesMetBefore ls = [] := by
  unfold State.storesMetBefore
  split
  · simp [h]
  · simp [State.storesMet, h]

/-- A block that stands at its address is read, and the instruction goes on. -/
theorem State.readBlock_at {s : State} {w : Word} {align n : Nat} (h : s.blockAt w align n)
    (read : State → Nat → Nat → State × List Byte) (k : State → List Byte → Eff) :
    s.readBlock read w align n k = k (read s (spadBase s.cur + w.toNat) n).1 (read s (spadBase s.cur + w.toNat) n).2 := by
  obtain ⟨hend, hlow, halign, hspill, hstores⟩ := h
  rw [State.readBlock, if_neg (by omega), if_neg (not_not_intro halign), hspill, if_neg Bool.false_ne_true,
    State.storesMetBefore_none hstores]
  rfl

/-! ### Atomic blocks -/

/-- An atomic block with another RESULT field. -/
def withResult (bs : List Byte) (r : Nat) : List Byte := bs.take 0x20 ++ leBytes 4 r ++ bs.drop 0x24

/-- The fields before and behind RESULT are those of the block. -/
theorem field_withResult_below {bs : List Byte} (r : Nat) {off n : Nat} (hl : bs.length = 48) (h : off + n ≤ 0x20) :
    field (withResult bs r) off n = field bs off n := by
  have hd : (withResult bs r).take 0x20 = bs.take 0x20 := by
    rw [withResult, List.append_assoc, List.take_append_of_le_length (by simp [hl]), List.take_take]
    rfl
  have take_eq : ∀ l : List Byte, (l.drop off).take n = ((l.take 0x20).drop off).take n := by
    intro l
    rw [List.drop_take, List.take_take, Nat.min_eq_left (by omega)]
  rw [field, field, take_eq (withResult bs r), hd, ← take_eq bs]

theorem field_withResult_above {bs : List Byte} (r : Nat) {off n : Nat} (hl : bs.length = 48) (h : 0x24 ≤ off) :
    field (withResult bs r) off n = field bs off n := by
  have hlen : (bs.take 0x20 ++ leBytes 4 r).length = 0x24 := by simp [hl, leBytes]
  have hd : (withResult bs r).drop off = bs.drop off := by
    rw [withResult, List.drop_append, hlen, List.drop_eq_nil_of_le (by omega), List.nil_append, List.drop_drop]
    congr 1
    omega
  rw [field, field, hd]

/-- The checks of an atomic block that come before those of RESULT. -/
def atomReserved (bs : List Byte) : Bool :=
  decide (field bs 0 1 ≤ 3) && decide (field bs 1 1 < 64) && (!(field bs 1 1 / 32 % 2 == 1) || field bs 1 1 % 32 == 0) &&
    decide (field bs 2 2 < 256) && (field bs 0 1 == 3 || field bs 2 2 == 0) && field bs 6 2 == 0 &&
    field bs 0x24 12 == 0 && sideIdOk (field bs 0 1) (field bs 4 2)

def atomFormat (op : SatmOp) (bs : List Byte) : Bool :=
  satmFmtOk op (Fmt.ofCode (field bs 1 1 % 32)) (field bs 1 1 / 32 % 2 == 1)

theorem atomReserved_of_parsed {op : SatmOp} {bs : List Byte} {spill : Nat → Bool} {b : AtomBlock}
    (h : parseAtom op bs spill = .ok b) : atomReserved bs = true := by
  by_contra hr
  have hr' : (!atomReserved bs) = true := by simpa using hr
  cases (if_pos hr').symm.trans h

theorem atomFormat_of_parsed {op : SatmOp} {bs : List Byte} {spill : Nat → Bool} {b : AtomBlock}
    (h : parseAtom op bs spill = .ok b) : atomFormat op bs = true := by
  by_contra hf
  have hr : ¬ (!atomReserved bs) = true := by simp [atomReserved_of_parsed h]
  have hf' : (!atomFormat op bs) = true := by simpa using hf
  cases ((if_neg hr).trans (if_pos hf')).symm.trans h

/-- The checks of RESULT in their order, once those before them pass. -/
theorem parseAtom_result {op : SatmOp} {bs : List Byte} (spill : Nat → Bool) (hr : atomReserved bs = true)
    (hf : atomFormat op bs = true) :
    (resultField bs % 16 ≠ 0 → parseAtom op bs spill = .error Cause.alignment) ∧
    (resultField bs % 16 = 0 → 2 ^ 22 ≤ resultField bs → parseAtom op bs spill = .error Cause.address) ∧
    (resultField bs % 16 = 0 → resultField bs < 2 ^ 22 → spill (resultField bs) = true →
      parseAtom op bs spill = .error Cause.protection) := by
  have hr' : ¬ (!atomReserved bs) = true := by simp [hr]
  have hf' : ¬ (!atomFormat op bs) = true := by simp [hf]
  have fields {x : Except (BitVec 6) AtomBlock} (h : ite (resultField bs % 16 ≠ 0) (.error Cause.alignment) _ = x) :
      parseAtom op bs spill = x := (if_neg hr').trans ((if_neg hf').trans h)
  refine ⟨fun h1 => fields (if_pos h1), fun h1 h2 => fields ((if_neg (not_not_intro h1)).trans (if_pos h2)),
    fun h1 h2 h3 => fields ((if_neg (not_not_intro h1)).trans ((if_neg (Nat.not_le_of_lt h2)).trans (if_pos h3)))⟩

theorem atomReserved_withResult {bs : List Byte} (r : Nat) (hl : bs.length = 48) :
    atomReserved (withResult bs r) = atomReserved bs := by
  have below {off n : Nat} (h : off + n ≤ 0x20) := field_withResult_below r hl h
  simp only [atomReserved, below (off := 0) (n := 1) (by omega), below (off := 1) (n := 1) (by omega),
    below (off := 2) (n := 2) (by omega), below (off := 4) (n := 2) (by omega), below (off := 6) (n := 2) (by omega),
    field_withResult_above r hl (off := 0x24) (n := 12) (by omega)]

theorem atomFormat_withResult {bs : List Byte} (op : SatmOp) (r : Nat) (hl : bs.length = 48) :
    atomFormat op (withResult bs r) = atomFormat op bs := by
  simp only [atomFormat, field_withResult_below r hl (off := 1) (n := 1) (by omega)]

/-- A satm whose feature is not masked reads its block at issue. -/
theorem exec_satm {i : Instr} {s : State} {op : SatmOp} {a : XReg} {f : Option FlagNo} {c : Fin 4}
    (h : satmPlan i = some (op, a, f, c)) (hs : s.static67 i = none) : exec i s = settle s (s.satm op a f c) := by
  have pass {e : Eff} (he : exec i s = settle s (s.guarded i e)) : exec i s = settle s e := by
    rw [he, State.guarded_passed hs]
  cases i with
  | satmFadd | satmFmin | satmFmax | satmSwap | satmCas | satmIadd | satmAnd | satmOr | satmXor => cases h; exact pass rfl
  | _ => cases h

/-- A satm whose block does not parse takes the trap of the cause that is found. -/
theorem exec_satm_refused {i : Instr} {s : State} {op : SatmOp} {a : XReg} {f : Option FlagNo} {c : Fin 4} {k : BitVec 6}
    (h : satmPlan i = some (op, a, f, c)) (hs : s.static67 i = none) (hb : s.blockAt (s.x a) 16 48)
    (hp : parseAtom op (s.atomBytes a) (fun r => s.core.inSpill r 16) = .error k) (hk : k ≠ Cause.featureMasked) :
    exec i s = .next (s.takeTrap k (BitVec.ofNat 64 s.core.issue.slot) s.core.pc) := by
  have hc : (s.controlBefore (spadBase s.cur + (s.x a).toNat) 48).1.core = s.core := State.controlBefore_core ..
  have hp' : parseAtom op (s.controlBefore (spadBase s.cur + (s.x a).toNat) 48).2 (fun r => s.core.inSpill r 16) = .error k := hp
  rw [exec_satm h hs, State.satm, State.readBlock_at hb, hc, hp', settle_fault _ _ _ _ hk, hc]

/-! ### Privilege and features (R46, R275, R372, R399) -/

theorem State.static67_privilege {s : State} {i : Instr} (hf : ∀ n, i.feature = some n → s.featureMask.getLsbD n = false)
    (hp : i.privileged s.core.sys.hnd = true) : s.static67 i = some (7, Cause.privilege) := by
  cases hi : i.feature with
  | none => simp only [State.static67, hi, hp, Bool.false_eq_true, if_false, if_true]
  | some n => simp only [State.static67, hi, hf n hi, hp, Bool.false_eq_true, if_false, if_true]

theorem State.static67_masked {s : State} {i : Instr} {n : Nat} (hf : i.feature = some n)
    (hm : s.featureMask.getLsbD n = true) : s.static67 i = some (6, Cause.featureMasked) := by
  simp only [State.static67, hf, hm, if_true]

/-- The effect of an instruction that steps 6 and 7 refuse. -/
theorem settle_guarded_refused {s : State} {i : Instr} {n : Nat} {k : BitVec 6} (h : s.static67 i = some (n, k)) (e : Eff) :
    settle s (s.guarded i e) = .next (s.takeRaise
      { step := n, slot := s.core.issue.slot, cause := k, info := BitVec.ofNat 64 s.core.issue.slot, rollback := false }) := by
  rw [State.guarded, h]
  rfl

/-- Every instruction that a mode refuses goes through steps 6 and 7. -/
theorem exec_privileged {i : Instr} {hnd : Bool} (h : i.privileged hnd = true) (s : State) :
    ∃ e, exec i s = settle s (s.guarded i e) := by
  cases i with
  | rte | xbnd | ckpt | sstep | rdv | launch | launchGraph | yield | mfs | mts => exact ⟨_, rfl⟩
  | _ => cases h

/-- So does every instruction that has a feature bit. -/
theorem exec_featured {i : Instr} {n : Nat} (h : i.feature = some n) (s : State) :
    ∃ e, exec i s = settle s (s.guarded i e) := by
  cases i with
  | sxfr | satmFadd | satmFmin | satmFmax | satmSwap | satmCas | satmIadd | satmAnd | satmOr | satmXor | sacc | ssig | ssigRel
  | launch | launchGraph | vrng | tmmaD | tmacD | taddD | icinv | tlbiAll | tlbiTensor | tlbiRange => exact ⟨_, rfl⟩
  | _ => cases h

theorem exec_privilege_trap {i : Instr} {s : State} (hf : ∀ n, i.feature = some n → s.featureMask.getLsbD n = false)
    (hp : i.privileged s.core.sys.hnd = true) :
    exec i s = .next (s.takeTrap Cause.privilege (BitVec.ofNat 64 s.core.issue.slot) s.core.pc) := by
  obtain ⟨e, he⟩ := exec_privileged hp s
  rw [he, settle_guarded_refused (State.static67_privilege hf hp), State.takeRaise_precise _ _ _ _ _ (by decide)]

theorem exec_masked {i : Instr} {s : State} {n : Nat} (hf : i.feature = some n) (hm : s.featureMask.getLsbD n = true) :
    exec i s = .next (s.takeRaise { step := 6, slot := s.core.issue.slot, cause := Cause.featureMasked,
                                    info := BitVec.ofNat 64 s.core.issue.slot, rollback := false }) := by
  obtain ⟨e, he⟩ := exec_featured hf s
  rw [he, settle_guarded_refused (State.static67_masked hf hm)]

/-- In handler mode a trap is the stop of the core that the vocabulary writes out. -/
theorem State.takeTrap_stopped (s : State) (c : BitVec 6) (i : Word) (h : s.core.sys.hnd = true) :
    s.takeTrap c i s.core.pc = s.stoppedOn c := by
  rw [State.takeTrap_handler s c i s.core.pc h]
  rfl

/-- The instructions that raise PRIVILEGE outside handler mode (R275, R372). -/
theorem privileged_in_program {i : Instr} (h : i = .rte ∨ (∃ a, i = .xbnd a) ∨ (∃ d r, i = .mfs d r ∧ r.handlerOnly = true) ∨
    (∃ r a, i = .mts r a ∧ (r.handlerOnly = true ∨ r.kernelOnly = true))) : i.feature = none ∧ i.privileged false = true := by
  rcases h with rfl | ⟨a, rfl⟩ | ⟨d, r, rfl, hr⟩ | ⟨r, a, rfl, hr⟩
  · exact ⟨rfl, rfl⟩
  · exact ⟨rfl, rfl⟩
  · exact ⟨rfl, by simp [Instr.privileged, hr]⟩
  · exact ⟨rfl, by simpa [Instr.privileged] using hr.symm⟩

/-- The instructions that raise PRIVILEGE in handler mode (R275, R359, R372); of these only launch has a feature bit. -/
theorem privileged_in_handler {i : Instr} {m : BitVec 9} (h : i = .ckpt ∨ (∃ d k, i = .sstep d k) ∨ (∃ n, i = .rdv n) ∨
    i = .yield ∨ (∃ r a, i = .mts r a ∧ r.kernelOnly = true) ∨
    (m.getLsbD 4 = false ∧ ((∃ d a, i = .launch d a) ∨ (∃ d a, i = .launchGraph d a)))) :
    (∀ n, i.feature = some n → m.getLsbD n = false) ∧ i.privileged true = true := by
  rcases h with rfl | ⟨d, k, rfl⟩ | ⟨n, rfl⟩ | rfl | ⟨r, a, rfl, hr⟩ | ⟨hm, ⟨d, a, rfl⟩ | ⟨d, a, rfl⟩⟩
  · exact ⟨by simp [Instr.feature], rfl⟩
  · exact ⟨by simp [Instr.feature], rfl⟩
  · exact ⟨by simp [Instr.feature], rfl⟩
  · exact ⟨by simp [Instr.feature], rfl⟩
  · exact ⟨by simp [Instr.feature], by simp [Instr.privileged, hr]⟩
  · exact ⟨by simpa [Instr.feature] using hm, rfl⟩
  · exact ⟨by simpa [Instr.feature] using hm, rfl⟩

end Sys2Proof.Machine

open Sys2Proof.Machine

/-- Settles O42: with the other fields in order the checks of RESULT decide. -/
theorem atomResultFieldIsChecked : Obligations.AtomResultFieldIsChecked := by
  intro i s op a f c b h hs hb hok
  obtain ⟨r0, hr0⟩ := hok
  have hl : (s.atomBytes a).length = 48 := State.controlBefore_length ..
  have hr := (atomReserved_withResult r0 hl).symm.trans (atomReserved_of_parsed hr0)
  have hf := (atomFormat_withResult op r0 hl).symm.trans (atomFormat_of_parsed hr0)
  obtain ⟨hal, had, hsp⟩ := parseAtom_result (fun r => s.core.inSpill r 16) hr hf
  exact ⟨fun h1 => exec_satm_refused h hs hb (hal h1) (by decide),
    fun h1 h2 => exec_satm_refused h hs hb (had h1 h2) (by decide),
    fun h1 h2 h3 => exec_satm_refused h hs hb (hsp h1 h2 h3) (by decide)⟩

/-- Settles O51: the fault of step 6 or 7 of R46, and what the mode and DBG.ROUTE make of it. -/
theorem privilegeAndFeatureTraps : Obligations.PrivilegeAndFeatureTraps := by
  refine ⟨fun i s hh hrem haw h => ?_, fun i s hh h => ?_, fun i s n _ hf hm hh hd hrem haw => ⟨?_, rfl⟩,
    fun i s n _ hf hm hh hd => ?_⟩
  · obtain ⟨hf, hp⟩ := privileged_in_program h
    rw [exec_privilege_trap (by simp [hf]) (by rw [hh, hp]), State.takeTrap_program s _ _ hh hrem haw]
  · obtain ⟨hf, hp⟩ := privileged_in_handler h
    rw [exec_privilege_trap hf (by rw [hh, hp]), State.takeTrap_stopped _ _ _ hh]
  · rw [exec_masked hf hm, State.takeRaise, if_neg Bool.false_ne_true, if_neg (by simp [hd]),
      State.takeTrap_program s _ _ hh hrem haw]
  · refine ⟨_, exec_masked hf hm, ?_⟩
    rw [State.takeRaise, if_neg Bool.false_ne_true, if_pos (by simp [hd, hh])]
    exact ⟨rfl, rfl, rfl⟩
end
section
/-! PROOFS. The arithmetic of the vec slot (R250 to R266), and words of the spec. -/

open Sys2Proof

namespace Sys2Proof.Machine

/-! ### Runs of results (R51, R251) -/

/-- Results put in flight one after the other, none of which chains. -/
theorem State.foldl_put (n : Nat) (ls : List Nat) (f : Nat → Landing) (s : State) :
    ls.foldl (fun s i => s.put (f i) n false) s =
      s.modCore (fun c => { c with flight := c.flight ++ ls.map (fun i => fly (f i) n) }) := by
  induction ls generalizing s with
  | nil => simp [State.modCore]
  | cons x xs ih =>
    rw [List.foldl_cons, ih, State.put_eq]
    simp [State.withFlight, State.modCore]

theorem activeBits_eq (q : Word32) : activeBits q = laneMask q := rfl

/-- A vec instruction that writes elements issues where the unit is idle (R51, R52). -/
theorem settle_vecOut (s : State) (c : VCtl) (d : VReg) (lat : Nat) (es : List Nat) (h : s.core.busy.vec = 0) :
    settle s (s.vecOut c d lat es) = .next (s.vecWrites c d lat es) := by
  rw [State.vecOut, State.vecIssue, if_pos h, settle_ok, State.putRun, State.foldl_put]
  simp only [Nat.add_sub_cancel]
  rfl

/-- The elements of the arithmetic instructions (R254, R259, R261, R266). -/
theorem exec_vecArith {i : Instr} {s : State} {c : VCtl} {d : VReg} {lat : Nat} {es : List Nat}
    (h : s.vecArith i = some (c, d, lat, es)) : exec i s = settle s (s.vecOut c d lat es) := by
  cases i with
  | vadd | vsub | vmul | vfma | vfms | vmin | vmax | vabs | vneg | vfun | vscn | viota => cases h; rfl
  | _ => cases h

end Sys2Proof.Machine

open Sys2Proof.Machine

/-- Settles O32: the model's elements are those of the vocabulary, and they land together under the lane mask. -/
theorem vectorArithmetic : Obligations.VectorArithmetic := by
  intro i s c d lat es h hidle
  rw [exec_vecArith h, settle_vecOut s c d lat es hidle]

/-- Settles O3, word by word. -/
theorem specWordsDecode : Obligations.SpecWordsDecode := by
  refine ⟨?_, ?_, ?_, ?_, ?_⟩
  all_goals rfl
end
section
/-! PROOFS. Loads of scratchpad (R134 to R136, R140). -/

open Sys2Proof

namespace Sys2Proof.Machine

/-! ### Reads that meet no mark (R68) -/

/-- Blocks that bear no mark are read without an error. -/
theorem State.touchBlocks_clean {s : State} (n : Nat) (spad : Bool) {bs : List Nat}
    (h : ∀ b ∈ bs, lookupNat b s.marks = none) : s.touchBlocks n spad bs = (s, none) := by
  unfold State.touchBlocks
  induction bs with
  | nil => rfl
  | cons x xs ih =>
    rw [List.foldl_cons]
    simp only [h x List.mem_cons_self]
    exact ih (fun b hb => h b (List.mem_cons_of_mem x hb))

theorem mem_blocksOf {a n i : Nat} (h : i < n) : (a + i) / 64 ∈ blocksOf a n := by
  rw [blocksOf, if_neg (by omega), List.mem_map]
  refine ⟨(a + i) / 64 - a / 64, List.mem_range.mpr ?_, ?_⟩
  · have : (a + i) / 64 ≤ (a + n - 1) / 64 := Nat.div_le_div_right (by omega)
    omega
  · have : a / 64 ≤ (a + i) / 64 := Nat.div_le_div_right (by omega)
    omega

/-- The blocks that a load reads of the own scratchpad are those of its own lanes. -/
theorem State.mem_ownBlocks {s : State} {ls : List (Nat × Nat)} {b : Nat} (h : b ∈ s.ownBlocks ls) :
    ∃ l ∈ ls, inSpad s.cur l.1 = true ∧ b ∈ blocksOf l.1 l.2 := by
  simp only [State.ownBlocks, List.mem_dedup, List.mem_map, List.mem_filter, List.mem_flatten] at h
  obtain ⟨a, ⟨⟨as, ⟨l, ⟨hl, hown⟩, rfl⟩, ha⟩, -⟩, rfl⟩ := h
  obtain ⟨i, hi, rfl⟩ := List.mem_map.mp ha
  exact ⟨l, hl, hown, mem_blocksOf (List.mem_range.mp hi)⟩

theorem State.touchOwn_clean {s : State} {ls : List (Nat × Nat)}
    (h : ∀ l ∈ ls, inSpad s.cur l.1 = true → s.unmarked l.1 l.2) : s.touchBlocks s.ctxNo true (s.ownBlocks ls) = (s, none) := by
  refine State.touchBlocks_clean _ _ (fun b hb => ?_)
  obtain ⟨l, hl, hown, hb⟩ := State.mem_ownBlocks hb
  exact h l hl hown b hb

theorem State.storesMet_none {s : State} (h : s.noRanges) (ls : List (Nat × Nat)) : s.storesMet ls = [] := by
  simp [State.storesMet, h.1]

/-! ### The effect of a load (R136, R179) -/

/-- The bytes that a load has at its issue: those of its own lanes, in their places. -/
def State.issueBytes (s : State) (ls : List (Nat × Nat)) : List Byte :=
  (ls.map (fun l => if inSpad s.cur l.1 then s.readOwn l.1 l.2 else List.replicate l.2 0)).flatten

/-- A load whose lanes all lie in the own scratchpad lands its bytes after the near latency. -/
theorem State.load_own {s : State} {ls : List (Nat × Nat)} (form : LoadForm) (near far : Nat) (hr : s.noRanges)
    (ho : ∀ l ∈ ls, inSpad s.cur l.1 = true) (hm : ∀ l ∈ ls, s.unmarked l.1 l.2) :
    s.load ls form near far =
      .ok (s.withFlight [fly (form.landing (ls.flatMap (fun l => s.readOwn l.1 l.2))) near] []) := by
  have hown : ls.filter (fun l => inSpad s.cur l.1) = ls := List.filter_eq_self.mpr ho
  have hdata : s.issueBytes ls = ls.flatMap (fun l => s.readOwn l.1 l.2) := by
    rw [State.issueBytes, List.flatMap]
    exact congrArg List.flatten (List.map_congr_left (fun l hl => if_pos (ho l hl)))
  rw [← hdata]
  simp [State.load, hown, State.storesMet_none hr, State.touchOwn_clean (fun l hl _ => hm l hl), State.withFlight,
    State.modCore, fly, State.issueBytes]

/-- The result of a cluster-remote load: it waits for its data under SLACK (R54). -/
def State.remoteResult (s : State) (ls : List (Nat × Nat)) (form : LoadForm) (far : Nat) : InFlight :=
  { what := form.landing (s.issueBytes ls), k := far, mark := none,
    wait := some { id := s.core.nextAcc, window := s.core.sys.slack.toNat, arrived := false } }

/-- The access of a cluster-remote load (R140). -/
def State.remoteAccess (s : State) (ls : List (Nat × Nat)) (form : LoadForm) : RemAccess :=
  { id := s.core.nextAcc, store := false, lanes := ls, data := s.issueBytes ls, form := form, performed := false,
    pc := s.core.pc, deps := [], handler := s.core.sys.hnd }

/-- A load with a lane in another scratchpad goes out, outside interlocked mode. -/
theorem State.load_remote {s : State} {ls : List (Nat × Nat)} (form : LoadForm) (near far : Nat) (hr : s.noRanges)
    (ho : ∃ l ∈ ls, inSpad s.cur l.1 = false) (hm : ∀ l ∈ ls, inSpad s.cur l.1 = true → s.unmarked l.1 l.2)
    (hilk : s.core.sys.modeBits.getLsbD 7 = false) :
    s.load ls form near far = .ok { s with core := { s.core with
      nextAcc := s.core.nextAcc + 1, flight := s.core.flight ++ [s.remoteResult ls form far],
      remote := s.core.remote ++ [s.remoteAccess ls form] } } := by
  obtain ⟨l, hl, hfar⟩ := ho
  have hlen : (ls.filter (fun l => inSpad s.cur l.1)).length ≠ ls.length := by
    intro he
    have := List.length_filter_eq_length_iff.mp he l hl
    rw [hfar] at this
    exact Bool.false_ne_true this
  rw [State.load, State.storesMet_none hr, State.touchOwn_clean hm, if_neg (by simp)]
  dsimp only
  rw [if_neg hlen, hilk, if_neg Bool.false_ne_true]
  rfl

/-! ### What lands (R136) -/

theorem ofLe_lt (bs : List Byte) : ofLe bs < 2 ^ (8 * bs.length) := by
  induction bs with
  | nil => decide
  | cons b bs ih =>
    have hb := b.isLt
    rw [ofLe, List.length_cons, Nat.mul_succ, Nat.pow_add]
    omega

/-- The sign extension of n bytes. -/
theorem loadValue_signed {n : Nat} {bs : List Byte} (h0 : 1 ≤ n) (h8 : n ≤ 8) (hl : bs.length = n) :
    loadValue n true bs = (BitVec.ofNat (8 * n) (ofLe bs)).signExtend 64 := by
  have hv : ofLe bs < 2 ^ (8 * n) := by rw [← hl]; exact ofLe_lt bs
  have hw : 2 ^ (8 * n) ≤ 2 ^ 64 := Nat.pow_le_pow_right (by omega) (by omega)
  have hmsb : (BitVec.ofNat (8 * n) (ofLe bs)).msb = decide (2 ^ (8 * n - 1) ≤ ofLe bs) := by
    rw [BitVec.msb_eq_decide, BitVec.toNat_ofNat, Nat.mod_eq_of_lt hv]
  apply BitVec.eq_of_toNat_eq
  rw [BitVec.toNat_signExtend, hmsb, BitVec.toNat_setWidth, BitVec.toNat_ofNat, Nat.mod_eq_of_lt hv, loadValue]
  by_cases hs : 2 ^ (8 * n - 1) ≤ ofLe bs
  · simp only [hs, decide_true, Bool.and_true, if_true, BitVec.toNat_ofNat]
    rw [Nat.mod_eq_of_lt (show ofLe bs < 2 ^ 64 by omega), Nat.mod_eq_of_lt (by omega), Nat.add_comm]
  · simp [hs]

theorem loadValue_unsigned (n : Nat) (bs : List Byte) : loadValue n false bs = BitVec.ofNat 64 (ofLe bs) := by
  simp [loadValue]

/-- Of the bytes that a scalar load reads the landing is the value of R136. -/
theorem LoadForm.landing_scalar {n : Nat} (sg : Bool) (d : XReg) (bank : Bool) {bs : List Byte} (h0 : 1 ≤ n) (h8 : n ≤ 8)
    (hl : bs.length = n) : (LoadForm.scalar n sg d bank).landing bs = (LoadForm.scalar n sg d bank).value bs := by
  cases sg <;> cases bank <;>
    simp [LoadForm.landing, LoadForm.value, loadValue_unsigned, loadValue_signed h0 h8 hl]

/-- The loads of the mem slot: of one element of n bytes, or of a vector register. -/
theorem State.loadPlan_form {s : State} {i : Instr} {p : LoadPlan} (h : s.loadPlan i = some p) :
    (∃ n sg d bank ea, 1 ≤ n ∧ n ≤ 8 ∧ p = { size := n, eas := [ea], form := .scalar n sg d bank, near := 4 }) ∨
      ∃ d, p.form = .vector d := by
  cases i with
  | ldB | ldBu | ldH | ldHu | ldW | ldWu | ldD =>
    cases h
    exact .inl ⟨_, _, _, _, _, by omega, by omega, rfl⟩
  | vld | vlds | vgth => cases h; exact .inr ⟨_, rfl⟩
  | _ => cases h

theorem State.lanes_single {s : State} {n align : Nat} {ea : Word} {ls : List (Nat × Nat)}
    (h : s.lanes n align [ea] = .ok ls) : ∃ f, ls = [(f, n)] := by
  unfold State.lanes at h
  split at h
  · cases h
  · next f _ => exact ⟨f, by cases h; rfl⟩

@[simp] theorem State.readOwn_length (s : State) (a n : Nat) : (s.readOwn a n).length = n := by
  simp [State.readOwn]

/-- What a load of the own scratchpad lands is the value of its plan. -/
theorem State.landing_eq_value {s : State} {i : Instr} {p : LoadPlan} {ls : List (Nat × Nat)} (h : s.loadPlan i = some p)
    (hl : s.lanes p.size p.size p.eas = .ok ls) :
    p.form.landing (ls.flatMap (fun l => s.readOwn l.1 l.2)) = p.form.value (ls.flatMap (fun l => s.readOwn l.1 l.2)) := by
  rcases State.loadPlan_form h with ⟨n, sg, d, bank, ea, h0, h8, rfl⟩ | ⟨d, hd⟩
  · obtain ⟨f, rfl⟩ := State.lanes_single hl
    exact LoadForm.landing_scalar sg d bank h0 h8 (by simp)
  · rw [hd]
    rfl

/-- A load whose lanes pass their checks is that of its plan; a lane in another scratchpad adds 12 positions (R50). -/
theorem exec_load {i : Instr} {s : State} {p : LoadPlan} {ls : List (Nat × Nat)} (h : s.loadPlan i = some p)
    (hl : s.lanes p.size p.size p.eas = .ok ls) : exec i s = settle s (s.load ls p.form p.near (p.near + 12)) := by
  have scalar {n : Nat} {sg : Bool} {d a : XReg} {disp : BitVec 15} (hp : s.scalarLoad n sg d a disp = p)
      (he : exec i s = settle s (s.loadScalar n sg d a disp)) :
      exec i s = settle s (s.load ls p.form p.near (p.near + 12)) := by
    subst hp
    have hl' : s.lanes n n (dispAddr (s.x a) disp) = .ok ls := hl
    rw [he, State.loadScalar, hl']
    rfl
  have vector {n : Nat} {d : VReg} {eas : List Word} (hp : { size := n, eas := eas, form := .vector d, near := 5 } = p)
      (he : exec i s = settle s (s.loadVector n d eas)) : exec i s = settle s (s.load ls p.form p.near (p.near + 12)) := by
    subst hp
    have hl' : s.lanes n n eas = .ok ls := hl
    rw [he, State.loadVector, hl']
  cases i with
  | ldB | ldBu | ldH | ldHu | ldW | ldWu | ldD => exact scalar (Option.some.inj h) rfl
  | vld | vlds | vgth => exact vector (Option.some.inj h) rfl
  | _ => cases h

end Sys2Proof.Machine

open Sys2Proof.Machine

/-- Settles O26: the bytes of the lanes in their order, as the register takes them. -/
theorem ownLoads : Obligations.OwnLoads := by
  intro i s p ls h hl ho hr hm
  rw [exec_load h hl, State.load_own _ _ _ hr ho hm, settle_ok, State.landing_eq_value h hl]

/-- Settles O27: the access that goes out and the result that waits for it. -/
theorem remoteLoadsGoOut : Obligations.RemoteLoadsGoOut := by
  intro i s p ls h hl ho hr hm hilk
  refine ⟨_, s.remoteResult ls p.form (p.near + 12), s.remoteAccess ls p.form, ?_, rfl, rfl, rfl, rfl, rfl, rfl, rfl, rfl, rfl⟩
  rw [exec_load h hl, State.load_remote _ _ _ hr ho hm hilk, settle_ok]
end
section
/-! PROOFS. The implicit checkpoint of a bundle that finds the gate full (R361). -/

open Sys2Proof

namespace Sys2Proof.Machine

/-! ### A bundle of one slot that stalls -/

theorem State.runBundle_single_stall {p : State} {b : Bundle} {i : SlotInstr} {k : Stall} (hb : b.slots = [i])
    (hi : p.core.interlocked = false)
    (ht : (p.modCore (fun c => { c with issue := { Issue.none with before := some p.before } })).runSlot i = .stall k) :
    p.runBundle b = .stalled p k := by
  simp [State.runBundle, bundleGroups_single hb, Run.group, Run.settle, hi, Run.slot, ht, firstRaise]

/-- A bundle of one slot that stalls, outside interlocked mode, leaves the state as it was before its SYNC. -/
theorem State.tryWord_single_stall {f : State} {w : Nat} {b : Bundle} {i : SlotInstr} {k : Stall}
    (hs : f.core.regs.synced w = true) (hd : decodeBundle w = .ok b) (hb : b.slots = [i]) (hst : f.staticRaise b = none)
    (hm : f.core.sys.modeBits.getLsbD 7 = false) (ht : (f.issuing w i).slotOutcome i = .stall k) :
    f.tryWord w = .stalled f k := by
  have hi : f.core.interlocked = false := hm
  have hp : (f.passSync w).core.interlocked = false := by rw [Core.interlocked, State.passSync_sys, hm]
  have hr := State.runBundle_single_stall (p := f.passSync w) hb hp ht
  rw [State.tryWord, hs, hd]
  simp [hst, hi, hr]

theorem exec_implicitCheckpoint_full {s t : State} (h : s.atRest) (ht : s.tryBundle = .stalled t .gate) :
    exec .implicitCheckpoint s = .next (t.takeStall .gate) := by
  obtain ⟨hr, hdue, hh⟩ := h
  have hb : s.core.atBoundary = true := by simp [Core.atBoundary, Core.entering, hr, hdue, hh]
  show execImplicitCheckpoint s = _
  simp [execImplicitCheckpoint, hb, hh, ht]

/-! ### A core whose gate is full in the cycle of a completion -/

/-- The bundle whose one instruction is ssig x0, x0 in class 1. -/
def signalWord : Nat := 0x4000000800000000000000000000000000000000000000000000000000000000000000000000000004000

/-- The core has the bundle from xbnd, 32 commands in the places of its gate, and a flag f3 that a completion has set in this cycle. -/
def fullGate : State :=
  { State.reset with core := { State.reset.core with
      run := .running, done := [3], emul := some (BitVec.ofNat 512 signalWord),
      gateCmds := List.replicate 32 (State.reset.newCmd (.ssig 0 0 1 0 none) none 0 false) } }

/-- The instruction of the bundle in its slot. -/
def signalSlot : SlotInstr := { slot := 6, pred := 0, neg := false, op := .ssig 0 0 none 1 false }

theorem decodeBundle_signalWord :
    decodeBundle signalWord = .ok { sync := 0, w := false, stops := 0, slots := [signalSlot] } := rfl

theorem lt_two_pow_of_lt_mul {w a b n : Nat} (h : w < 2 ^ a * 2 ^ b) (hn : a + b ≤ n) : w < 2 ^ n := by
  rw [← Nat.pow_add] at h
  exact Nat.lt_of_lt_of_le h (Nat.pow_le_pow_right (by omega) hn)

theorem signalWord_lt {n : Nat} (h : 200 + 200 ≤ n) : signalWord < 2 ^ n :=
  lt_two_pow_of_lt_mul (by norm_num [signalWord]) h

theorem toNat_ofNat_signalWord {n : Nat} (h : 200 + 200 ≤ n) : (BitVec.ofNat n signalWord).toNat = signalWord := by
  rw [BitVec.toNat_ofNat, Nat.mod_eq_of_lt (signalWord_lt h)]

theorem fullGate_fetch : fullGate.fetch = (fullGate, .word signalWord) :=
  congrArg (fun w => (fullGate, Fetched.word w)) (toNat_ofNat_signalWord (by omega))

/-- The signal finds no place in the gate. -/
theorem fullGate_slotOutcome : (fullGate.issuing signalWord signalSlot).slotOutcome signalSlot = .stall .gate := rfl

theorem fullGate_tryBundle : fullGate.tryBundle = .stalled fullGate .gate := by
  have hw : fullGate.tryWord signalWord = .stalled fullGate .gate :=
    State.tryWord_single_stall rfl decodeBundle_signalWord rfl rfl rfl fullGate_slotOutcome
  simp only [State.tryBundle, fullGate_fetch, hw]

end Sys2Proof.Machine

open Sys2Proof.Machine

/-- Refutes O52: a bundle that finds the gate full waits beyond its cycle, and so ends the cycle in which a completion has set a flag
(R44, R45); the statement has the state in which the core is held differ by the hold alone. -/
theorem not_accessAndIssueEvents : ¬ Obligations.AccessAndIssueEvents := by
  intro h
  obtain ⟨-, -, -, -, -, -, himplicit, -⟩ := h
  have hrest : fullGate.atRest := ⟨rfl, rfl, rfl⟩
  have heq := himplicit fullGate fullGate hrest fullGate_tryBundle
  rw [exec_implicitCheckpoint_full hrest fullGate_tryBundle] at heq
  have hdone : ([] : List FlagNo) = [3] := congrArg (fun t => t.core.done) (Host.Outcome.next.inj heq)
  exact absurd hdone (by decide)
end
section
/-! PROOFS. Invalidations: how they start, and what their completion drops (R80, R289, R290). -/

open Sys2Proof

namespace Sys2Proof.Machine

/-! ### Start (R289, R290) -/

theorem State.invalidate_eq (s : State) (code : Option (Nat × Nat)) (kind : InvKind) (sc : Scope) (flag : Option FlagNo) :
    s.invalidate code kind sc flag = s.withInval code kind sc flag := rfl

/-- An instruction whose effect, behind the checks of steps 6 and 7 of R46, is a state goes on in that state. -/
theorem settle_guarded_ok {s t : State} {i : Instr} (h : s.static67 i = none) : settle s (s.guarded i (.ok t)) = .next t := by
  rw [State.guarded_passed h, settle_ok]

theorem exec_icinv_inRange {s : State} {a b : XReg} {flag : Option FlagNo} {sc : Scope}
    (h : s.static67 (.icinv a b flag sc) = none) (hr : (s.x a).toNat < 2 ^ 48) : exec (.icinv a b flag sc) s =
      .next (s.withInval (some (if (s.x b).toNat = 0 then (0, 2 ^ 48)
        else ((s.x a).toNat / 64 * 64, ((s.x a).toNat + (s.x b).toNat + 63) / 64 * 64))) .all sc flag) := by
  change settle s (effIcinv a b flag sc s) = _
  rw [effIcinv, if_neg (Nat.not_le.2 hr), settle_guarded_ok h, State.invalidate_eq]

theorem exec_tlbiRange_tiles {s : State} {a b : XReg} {flag : Option FlagNo} {pod : Bool}
    (h : s.static67 (.tlbiRange a b flag pod) = none) (hn : (s.x b).toNat / 2 ^ 32 % 2 ^ 20 ≠ 0) :
    exec (.tlbiRange a b flag pod) s = .next (s.withInval none (.range ((s.x a).toNat % 2 ^ 16) ((s.x b).toNat % 2 ^ 20)
      ((s.x b).toNat / 2 ^ 32 % 2 ^ 20)) (if pod then .pod else .package) flag) := by
  change settle s (effTlbiRange a b flag pod s) = _
  simp only [effTlbiRange, if_neg hn, settle_guarded_ok h, State.invalidate_eq, tlbiScope]

/-- A range of no tiles needs no invalidation: what is left is the flag. -/
theorem exec_tlbiRange_none {s : State} {a b : XReg} {flag : Option FlagNo} {pod : Bool}
    (h : s.static67 (.tlbiRange a b flag pod) = none) (hn : (s.x b).toNat / 2 ^ 32 % 2 ^ 20 = 0) :
    exec (.tlbiRange a b flag pod) s = .next (match flag with
      | some f => s.withFlight [fly (.done f false) 1] []
      | none => s) := by
  change settle s (effTlbiRange a b flag pod s) = _
  simp only [effTlbiRange, if_pos hn, settle_guarded_ok h]
  cases flag with
  | none => rfl
  | some f => exact congrArg Host.Outcome.next (State.put_eq s (.done f false) 1 false)

/-! ### Completion (R80, R289) -/

@[simp] theorem State.raiseFlag?_regs (s : State) (k : Option FlagNo) (old : Bool) :
    (s.raiseFlag? k old).core.regs = s.core.regs.flagged k := by cases k <;> rfl

/-- Beside the registers, of a core only the log of R363 takes note of a raised flag. -/
theorem State.raiseFlag?_eq (s : State) (k : Option FlagNo) (old : Bool) :
    ∃ log, s.raiseFlag? k old = { s with core := { s.core with regs := s.core.regs.flagged k, log := log } } := by
  cases k with
  | none => exact ⟨s.core.log, rfl⟩
  | some k => exact ⟨_, rfl⟩

/-- The completion of the only invalidation: what its kind drops, and no invalidation left. -/
theorem exec_invalidationComplete_only {s : State} {i : Inval} (h : s.core.eng.invals = [i]) :
    exec (.invalidationComplete i.id) s = .next (s.completeInval i) := by
  change execInvalidationComplete i.id s = _
  simp [execInvalidationComplete, h]

theorem State.mem_tlb_dropEntries {s : State} {ctx : Nat} {k : InvKind} {e : TlbEntry} :
    e ∈ (s.dropEntries ctx k).l2.tlb ↔ e ∈ s.l2.tlb ∧ ¬(e.ctx = ctx ∧ k.covers e = true) := by
  simp [State.dropEntries, -not_and, not_and_or]

/-- The completion of an invalidation of translations (R80). -/
theorem State.completeInval_tlb (s : State) {i : Inval} (hi : i.code = none) (h : s.core.eng.invals = [i]) :
    ∃ log, s.completeInval i = { s.dropEntries i.ctx i.kind with core := { s.core with
      regs := s.core.regs.flagged i.flag, log := log, eng := { s.core.eng with invals := [] } } } := by
  rw [State.completeInval, hi]
  obtain ⟨log, hlog⟩ := State.raiseFlag?_eq ((s.dropEntries i.ctx i.kind).modCore fun c =>
    { c with eng := { c.eng with invals := c.eng.invals.filter (fun o => o.id != i.id) } }) i.flag i.committed
  refine ⟨log, hlog.trans ?_⟩
  simp [State.modCore, State.dropEntries, State.modL2, h]

/-- The focused core lies in the scope of each of its own invalidations. -/
theorem State.inScope_cur (s : State) (sc : Scope) : s.inScope sc s.cur s.core.die = true := by
  cases sc <;> simp [State.inScope]

/-- Another core lies in the scope of an icinv that is not of one core, or of one die on which it does not stand. -/
theorem State.inScope_other {s : State} {sc : Scope} {n : Nat} {die : Bool} (hc : sc ≠ .core)
    (hd : sc = .cluster → die = s.core.die) : s.inScope sc n die = true := by
  cases sc with
  | core => exact absurd rfl hc
  | cluster => simp [State.inScope, hd rfl]
  | package | pod => rfl

/-- No copy of the dropped range is left. -/
theorem Core.icache_dropCode {c : Core} {lo hi : Nat} {e : Nat × BitVec 512} (he : e ∈ (c.dropCode lo hi).icache) :
    e.1 < lo ∨ hi ≤ e.1 := by
  have := (List.mem_filter.1 he).2
  simp only [Bool.not_eq_true', Bool.and_eq_false_iff, decide_eq_false_iff_not] at this
  omega

/-- The completion of an icinv (R289). -/
theorem State.completeInval_code (s : State) {i : Inval} {lo hi : Nat} (hc : i.code = some (lo, hi))
    (h : s.core.eng.invals = [i]) :
    ∃ log, s.completeInval i = { s.dropCodeIn i.scope lo hi with core := { s.core.dropCode lo hi with
      regs := s.core.regs.flagged i.flag, log := log, eng := { s.core.eng with invals := [] } } } := by
  rw [State.completeInval, hc]
  obtain ⟨log, hlog⟩ := State.raiseFlag?_eq ((s.dropCodeIn i.scope lo hi).modCore fun c =>
    { c with eng := { c.eng with invals := c.eng.invals.filter (fun o => o.id != i.id) } }) i.flag i.committed
  refine ⟨log, hlog.trans ?_⟩
  simp [State.modCore, State.dropCodeIn, State.inScope_cur, Core.dropCode, h]

/-- The bundles that an icinv of the focused core has named are read at their home slices (R289, R394). -/
theorem State.codeAtHome_of_afresh {s t : State} {sc : Scope} {lo hi pc : Nat} (hmem : s.afreshIn sc lo hi ∈ t.l2.afresh)
    (hcur : t.cur = s.cur) (hdie : t.core.die = s.core.die) (h0 : lo ≤ pc) (h1 : pc < hi) : t.codeAtHome pc = true := by
  rw [State.codeAtHome, List.any_eq_true]
  refine ⟨_, hmem, ?_⟩
  cases sc <;> simp [State.afreshIn, hcur, hdie, h0, h1]

theorem State.mem_others_dropCodeIn {s : State} {sc : Scope} {lo hi n : Nat} {k : Core}
    (h : (n, k) ∈ (s.dropCodeIn sc lo hi).others) :
    ∃ k0, (n, k0) ∈ s.others ∧
      (sc ≠ .core → (sc = .cluster → k0.die = s.core.die) → ∀ e ∈ k.icache, e.1 < lo ∨ hi ≤ e.1) := by
  obtain ⟨⟨m, k0⟩, hk0, heq⟩ := List.mem_map.1 h
  obtain ⟨rfl, rfl⟩ := Prod.mk.inj heq
  refine ⟨k0, hk0, fun hc hd e he => ?_⟩
  rw [if_pos (State.inScope_other hc hd)] at he
  exact Core.icache_dropCode he

end Sys2Proof.Machine

open Sys2Proof.Machine

/-- Settles O50: the start of each form, and the two completions. -/
theorem invalidationsStartAndComplete : Obligations.InvalidationsStartAndComplete := by
  refine ⟨fun s a b flag sc h hr => exec_icinv_inRange h hr, fun s flag pod h => settle_guarded_ok h,
    fun s a b flag pod h => settle_guarded_ok h, fun s a b flag pod h hn => exec_tlbiRange_tiles h hn,
    fun s a b f pod h hn => exec_tlbiRange_none h hn, fun s a b pod h hn => exec_tlbiRange_none h hn,
    fun s i h hi => ?_, fun s i lo hi h hc => ?_⟩
  · obtain ⟨log, ht⟩ := State.completeInval_tlb s hi h
    refine ⟨_, (exec_invalidationComplete_only h).trans (congrArg _ ht), rfl, rfl, rfl, rfl, fun e => ?_⟩
    refine State.mem_tlb_dropEntries.trans ?_
    cases i.kind <;> simp [InvKind.covers, and_assoc]
  · obtain ⟨log, ht⟩ := State.completeInval_code s hc h
    refine ⟨_, (exec_invalidationComplete_only h).trans (congrArg _ ht), rfl, rfl, rfl, rfl, fun pc h0 h1 => ?_, rfl, rfl,
      fun n k hk => ?_⟩
    · exact State.codeAtHome_of_afresh (s := s) (sc := i.scope) (List.mem_dedup.2 List.mem_cons_self) rfl rfl h0 h1
    · obtain ⟨k0, hk0, hdrop⟩ := State.mem_others_dropCodeIn hk
      exact ⟨k0, hk0, fun hsc hd _ => hdrop hsc hd⟩
end
section
/-! PROOFS. What caching and writes at home leave as it was (R68, R86, R309), and the change of a tile's entry (R82, R83). -/

open Sys2Proof

namespace Sys2Proof.Machine

/-! ### Frames -/

/-- What a write at home leaves as it was: cores, ports, the fabric and the sequence of updates, what the host waits for and has
read, the ways of the slices, and memory that bears no mark. -/
structure State.HomeFrame (s t : State) : Prop where
  core : t.core = s.core
  ports : t.ports = s.ports
  fabric : t.fabric = s.fabric
  updateSeq : t.malt.updateSeq = s.malt.updateSeq
  hostWaiting : t.malt.hostWaiting = s.malt.hostWaiting
  hostReads : t.malt.hostReads = s.malt.hostReads
  pairs : t.l2.pairs = s.l2.pairs
  unmarked : s.marks = [] → t.marks = []

/-- What bringing lines into slices, and their leaving, leaves as it was: the same, and every byte of memory. -/
structure State.CacheFrame (s t : State) : Prop extends State.HomeFrame s t where
  mem : t.mem = s.mem

theorem State.HomeFrame.refl (s : State) : s.HomeFrame s := ⟨rfl, rfl, rfl, rfl, rfl, rfl, rfl, id⟩

theorem State.HomeFrame.trans {s t u : State} (h : s.HomeFrame t) (g : t.HomeFrame u) : s.HomeFrame u :=
  ⟨g.core.trans h.core, g.ports.trans h.ports, g.fabric.trans h.fabric, g.updateSeq.trans h.updateSeq,
    g.hostWaiting.trans h.hostWaiting, g.hostReads.trans h.hostReads, g.pairs.trans h.pairs,
    fun hm => g.unmarked (h.unmarked hm)⟩

theorem State.CacheFrame.refl (s : State) : s.CacheFrame s := ⟨.refl s, rfl⟩

theorem State.CacheFrame.trans {s t u : State} (h : s.CacheFrame t) (g : t.CacheFrame u) : s.CacheFrame u :=
  ⟨h.toHomeFrame.trans g.toHomeFrame, g.mem.trans h.mem⟩

/-- A fold whose every step keeps a frame keeps it. -/
theorem State.CacheFrame.foldl {β : Type} {f : State → β → State} (hf : ∀ (s : State) b, s.CacheFrame (f s b))
    (l : List β) (s : State) : s.CacheFrame (l.foldl f s) := by
  induction l generalizing s with
  | nil => exact .refl s
  | cons b l ih => exact (hf s b).trans (ih _)

theorem State.CacheFrame.modL2 (s : State) {f : L2 → L2} (h : (f s.l2).pairs = s.l2.pairs) : s.CacheFrame (s.modL2 f) :=
  ⟨⟨rfl, rfl, rfl, rfl, rfl, rfl, h, id⟩, rfl⟩

theorem State.CacheFrame.bump (s : State) : s.CacheFrame s.bump := ⟨⟨rfl, rfl, rfl, rfl, rfl, rfl, rfl, id⟩, rfl⟩

/-! ### Lines that come and leave (R68, R84, R86) -/

theorem State.evictBlock_unmarked {s : State} (x : L2Line) (blk : Nat) (h : s.marks = []) : s.evictBlock x blk = s := by
  simp [State.evictBlock, h, lookupNat]

theorem State.CacheFrame.modMalt (s : State) {f : Maltings → Maltings} (hu : (f s.malt).updateSeq = s.malt.updateSeq)
    (hw : (f s.malt).hostWaiting = s.malt.hostWaiting) (hr : (f s.malt).hostReads = s.malt.hostReads) :
    s.CacheFrame (s.modMalt f) :=
  ⟨⟨rfl, rfl, rfl, hu, hw, hr, rfl, id⟩, rfl⟩

theorem State.report_frame (s : State) (r : Report) : s.CacheFrame (s.report r) := .modMalt s rfl rfl rfl

/-- An error is counted in the registers of a context and of its function alone. -/
theorem State.countErr_frame (s : State) (n : Nat) (f : ErrRegs → ErrRegs) : s.CacheFrame (s.countErr n f) := by
  unfold State.countErr
  dsimp only
  repeat' split
  all_goals exact ⟨⟨rfl, rfl, rfl, rfl, rfl, rfl, rfl, id⟩, rfl⟩

theorem State.countBlock_frame (s : State) (blk : Nat) (f : ErrRegs → ErrRegs) : s.CacheFrame (s.countBlock blk f) := by
  unfold State.countBlock
  refine .modMalt s ?_ ?_ ?_ <;> split <;> rfl

/-- A mark comes only where memory bears one already. -/
theorem State.setMark_frame {s : State} (blk : Nat) (m : Mark) (h : s.marks ≠ []) : s.CacheFrame (s.setMark blk (some m)) :=
  ⟨⟨rfl, rfl, rfl, rfl, rfl, rfl, rfl, fun h0 => absurd h0 h⟩, rfl⟩

theorem State.evictBlock_frame (s : State) (x : L2Line) (blk : Nat) : s.CacheFrame (s.evictBlock x blk) := by
  by_cases h : s.marks = []
  · rw [State.evictBlock_unmarked x blk h]
    exact .refl s
  · unfold State.evictBlock
    split
    · have hmark := State.setMark_frame blk .poison h
      split
      · exact hmark.trans (State.countErr_frame _ _ _)
      · exact ((hmark.trans (State.countBlock_frame _ blk _)).trans (.modMalt _ rfl rfl rfl)).trans (State.report_frame _ _)
    · exact .refl s

theorem State.evict_frame (s : State) (x : L2Line) : s.CacheFrame (s.evict x) := by
  unfold State.evict
  split
  · exact ((State.evictBlock_frame s x _).trans (State.evictBlock_frame _ x _)).trans (.modL2 _ rfl)
  · exact .modL2 _ rfl

theorem State.fetchLine_frame (s : State) (x : L2Line) (held : List Nat) : s.CacheFrame (s.fetchLine x held) := by
  unfold State.fetchLine
  split
  · exact .modL2 _ rfl
  · dsimp only
    split
    · next vs _ =>
      have h : s.CacheFrame (vs.foldl State.evict s) := .foldl State.evict_frame vs s
      split
      · exact h.trans (.modL2 _ rfl)
      · exact (h.trans (.bump _)).trans (.modL2 _ rfl)
    · exact .refl s

theorem State.cacheHome_frame (s : State) (line : Nat) (f : Fetch) (dirty : Bool) : s.CacheFrame (s.cacheHome line f dirty) := by
  unfold State.cacheHome
  split
  · exact State.fetchLine_frame s _ _
  · exact .refl s

theorem State.writeLine_frame (s : State) (agent : Option Bool) (f : Fetch) (line : Nat) :
    s.CacheFrame (s.writeLine agent f line) := by
  unfold State.writeLine
  dsimp only
  split
  · exact State.cacheHome_frame s line f true
  · exact (State.cacheHome_frame s line f true).trans (.modL2 _ rfl)

theorem State.publish_frame (s : State) (die : Bool) : s.CacheFrame (s.publish die) := .modL2 s rfl

/-! ### Writes at home (R309) -/

theorem State.writeCells_frame (s : State) (cs : List Host.Cell) : s.HomeFrame (s.writeCells cs) :=
  ⟨rfl, rfl, rfl, rfl, rfl, rfl, rfl, fun h => by simp [State.writeCells, State.writeBits, h]⟩

/-- A write at home is the write of its cells; what follows it is caching and a release. -/
theorem State.homeCells_writeCells (s : State) (cs : List Host.Cell) : (s.writeCells cs).CacheFrame (s.homeCells cs) := by
  have hlines : (s.writeCells cs).CacheFrame (s.writeMain none Fetch.plain cs) :=
    .foldl (fun s line => State.writeLine_frame s none Fetch.plain line) _ _
  have hrelease (t : State) (b die : Bool) : t.CacheFrame (if b then t.publish die else t) := by
    split
    · exact State.publish_frame t die
    · exact .refl t
  exact (hlines.trans (hrelease _ _ false)).trans (hrelease _ _ true)

theorem State.homeCells_mem (s : State) (cs : List Host.Cell) : (s.homeCells cs).mem = s.mem.writeAll cs :=
  (State.homeCells_writeCells s cs).mem

theorem State.homeCells_frame (s : State) (cs : List Host.Cell) : s.HomeFrame (s.homeCells cs) :=
  (State.writeCells_frame s cs).trans (State.homeCells_writeCells s cs).toHomeFrame

theorem State.clearMark_frame (s : State) (blk : Nat) : s.HomeFrame (s.setMark blk none) :=
  ⟨rfl, rfl, rfl, rfl, rfl, rfl, rfl, fun h => by simp [State.setMark, h, eraseNat]⟩

theorem State.homeBlocks_frame (s : State) (a : Nat) (bs : List (Nat × BitVec 512)) : s.HomeFrame (s.homeBlocks a bs) := by
  unfold State.homeBlocks
  induction bs generalizing s with
  | nil => exact .refl s
  | cons b bs ih => exact ((State.homeCells_frame s _).trans (State.clearMark_frame _ _)).trans (ih _)

theorem State.writeTile_frame (s : State) (ctx tid tile : Nat) (e : Word) : s.HomeFrame (s.writeTile ctx tid tile e) := by
  unfold State.writeTile
  split
  · exact .refl s
  · split
    · exact State.homeCells_frame s _
    · exact .refl s

theorem State.writeGranule_frame (s : State) (ctx gpa : Nat) (e : Word) : s.HomeFrame (s.writeGranule ctx gpa e) := by
  unfold State.writeGranule
  split
  · exact .refl s
  · exact State.homeCells_frame s _

/-! ### The change of a tile's entry (R82, R83) -/

theorem State.mem_tlb_dropEntries_range {s : State} {ctx tid tile : Nat} {x : TlbEntry}
    (h : x ∈ (s.dropEntries ctx (.range tid tile 1)).l2.tlb) : ¬(x.ctx = ctx ∧ x.tid = tid ∧ x.tile = tile) := by
  rintro ⟨hc, ht, hl⟩
  have hcov := (State.mem_tlb_dropEntries.1 h).2
  exact hcov ⟨hc, by simp [InvKind.covers, ht, hl]⟩

/-- What follows the change of a tile's entry: every replica is told, under the next number of the sequence, and no translation of
the tile is left; cores, ports and the accesses that the host waits for are as they were. -/
structure State.TileChanged (s t : State) (ctx tid tile : Nat) (e : Word) : Prop where
  core : t.core = s.core
  ports : t.ports = s.ports
  hostWaiting : t.malt.hostWaiting = s.malt.hostWaiting
  updateSeq : t.malt.updateSeq = s.malt.updateSeq + 1
  sent : t.fabric.sent = s.fabric.sent ++ [.update (s.malt.updateSeq + 1) (.tile ctx tid tile e)]
  dropped : ∀ x ∈ t.l2.tlb, ¬(x.ctx = ctx ∧ x.tid = tid ∧ x.tile = tile)

theorem State.changeTile_mem (s : State) (ctx tid tile e : Nat) :
    (s.changeTile ctx tid tile e).mem = (s.writeTile ctx tid tile (BitVec.ofNat 64 e)).mem := rfl

theorem State.changeTile_changed (s : State) (ctx tid tile e : Nat) :
    s.TileChanged (s.changeTile ctx tid tile e) ctx tid tile (BitVec.ofNat 64 e) := by
  have h := State.writeTile_frame s ctx tid tile (BitVec.ofNat 64 e)
  exact ⟨h.core, h.ports, h.hostWaiting, rfl, congrArg (fun f : Fabric => f.sent ++ [_]) h.fabric,
    fun x hx => State.mem_tlb_dropEntries_range hx⟩

/-- Writes at home may come before the change. -/
theorem State.HomeFrame.tileChanged {s t u : State} {ctx tid tile : Nat} {e : Word} (h : s.HomeFrame t)
    (g : t.TileChanged u ctx tid tile e) : s.TileChanged u ctx tid tile e :=
  ⟨g.core.trans h.core, g.ports.trans h.ports, g.hostWaiting.trans h.hostWaiting, by rw [g.updateSeq, h.updateSeq],
    by rw [g.sent, h.fabric, h.updateSeq], g.dropped⟩

theorem State.pageIn_changed (s : State) (ctx tid tile : Nat) (e : Word) (data : List (Nat × BitVec 512)) :
    s.TileChanged (s.pageIn ctx tid tile e data) ctx tid tile e := by
  have hdata : ∀ t : State, s.HomeFrame t → s.TileChanged (t.changeTile ctx tid tile e.toNat) ctx tid tile e := fun t h => by
    simpa only [BitVec.ofNat_toNat, BitVec.setWidth_eq] using h.tileChanged (State.changeTile_changed t ctx tid tile e.toNat)
  unfold State.pageIn
  split
  · exact hdata _ (State.homeBlocks_frame s _ _)
  · exact hdata _ (.refl s)

/-- Ports at which nothing waits stay so under what leaves them and the host's accesses alone. -/
theorem State.portsIdle.of_eq {s t : State} (h : s.portsIdle) (hp : t.ports = s.ports)
    (hw : t.malt.hostWaiting = s.malt.hostWaiting) : t.portsIdle :=
  ⟨by rw [hp]; exact h.1, by rw [hw]; exact h.2⟩

end Sys2Proof.Machine
end
section
/-! PROOFS. Page and second-stage faults, and FEATURE-MASKED (R78, R81, R104, R367, R372): the rollback, the wait, and how it ends. -/

open Sys2Proof

namespace Sys2Proof.Machine

/-! ### The rollback (R81, R367) -/

theorem State.quiet.atBoundary {s : State} (h : s.quiet) : s.core.atBoundary = true := by
  obtain ⟨hrun, hdue, -, -, -, hent⟩ := h
  simp [Core.atBoundary, hrun, hdue, hent]

/-- At a boundary in program mode the page fault of an evaluation rolls the core back, and the kernel is told. -/
theorem exec_pageFault_evaluation {s : State} {f : EvalFault} {tid tile : Nat} (h : s.quiet) (hf : s.core.evalFault = some f)
    (hw : f.what = .page tid tile) : exec .pageFault s =
      .next ((s.pageRollback (.page tid tile (f.regs tid tile))).report (.pageFault s.ctxNo tid tile)) := by
  have hhnd : s.core.sys.hnd = false := h.2.2.1
  have hnow : s.core.faultNow = some f := by simp [Core.faultNow, hhnd, hf]
  change execPageFault s = _
  rw [execPageFault, if_pos h.atBoundary, State.takePageFault, hnow]
  simp only [hw, State.takeEvalFault, hhnd, Bool.false_and, Bool.false_eq_true, if_false]

/-! ### Resolved (R78, R81) -/

/-- The core that waited, with its entry written: commands go on, and the hold behind the checkpoint stands again. -/
theorem exec_pageFaultResolved_page {s : State} {tid tile : Nat} {w : PageRegs} (h : s.core.hold = .page tid tile w) (e : Word)
    (data : List (Nat × BitVec 512)) : exec (.pageFaultResolved (.resolved e data)) s =
      .next ((s.pageIn s.ctxNo tid tile e data).modCore
        (fun c => (c.settleCmds EngFault.isPage none).resumeHold)).retryPorts := by
  have hcore : (s.pageIn s.ctxNo tid tile e data).core.hold = .page tid tile w := by
    rw [(State.pageIn_changed s _ _ _ e data).core, h]
  change execPageFaultResolved _ s = _
  simp only [execPageFaultResolved, Core.pageWait, h, State.modCore, hcore]

theorem exec_secondStageFault_resolved {s : State} {gpa tid tile : Nat} {wr : Bool} {w : PageRegs}
    (h : s.core.hold = .stage2 gpa tid tile wr w) (e : Word) (data : List (Nat × BitVec 512)) :
    exec (.secondStageFault (.resolved e data)) s = .next ((s.mapGranule s.ctxNo gpa e).modCore
      (fun c => (c.settleCmds EngFault.isStage2 none).resumeHold)).retryPorts := by
  have hcore : (s.mapGranule s.ctxNo gpa e).core.hold = .stage2 gpa tid tile wr w := by
    rw [State.mapGranule, State.dropEntries, State.modL2_core, (State.writeGranule_frame s _ _ _).core, h]
  change execSecondStageFault _ s = _
  simp only [execSecondStageFault, Core.stageWait, h, State.modCore, hcore]

/-- Where nothing waits at the ports, the core alone goes on. -/
theorem State.portsIdle.retryPorts_modCore {s t : State} (h : s.portsIdle) (hp : t.ports = s.ports)
    (hw : t.malt.hostWaiting = s.malt.hostWaiting) (f : Core → Core) : (t.modCore f).retryPorts = t.modCore f :=
  State.retryPorts_idle _ (h.of_eq (t := t.modCore f) hp hw)

/-! ### Delivered (R81, R104, R367) -/

/-- An engine without commands has none that a fault could end. -/
theorem Core.settleCmds_none {c : Core} (p : EngFault → Bool) (cause : Option (BitVec 6)) (h : c.eng.cmds = []) :
    c.settleCmds p cause = c := by
  rw [Core.settleCmds, h, List.map_nil, ← h]

theorem State.failCmds_none {s : State} (p : EngFault → Bool) (cause : BitVec 6) (h : s.core.eng.cmds = []) :
    s.failCmds p cause = s := by
  rw [State.failCmds, State.failAtoms, h, List.foldl_nil, State.modCore, Core.settleCmds_none p _ h]

/-- The fault of a core's own fetch names no registers beside FAULT.INFO. -/
theorem State.writePageRegs_none (s : State) {w : PageRegs} (ho : w.origin = none) (he : w.eval = none) :
    s.writePageRegs w = s := by
  simp [State.writePageRegs, ho, he, State.modCore]

/-- The delivered fault is a trap at the resume point, behind which the hold of the checkpoint is parked. -/
theorem State.deliverPage_fetch {s : State} {w : PageRegs} (cause : BitVec 6) (h : s.quiet) (ho : w.origin = none)
    (he : w.eval = none) : s.deliverPage w cause =
      { s.entered cause w.info with core := { (s.entered cause w.info).core with parked := s.core.parked } } := by
  obtain ⟨-, -, hhnd, hrem, haw, -⟩ := h
  rw [State.deliverPage, State.writePageRegs_none s ho he]
  exact State.takeTrap_program (s.modCore Core.resumeHold) cause w.info hhnd hrem haw

/-- Such a trap is one of R370. -/
theorem State.trapped_entered_parked (s : State) (cause : BitVec 6) (info : Word) (h : Hold) :
    s.trapped { s.entered cause info with core := { (s.entered cause info).core with parked := h } } cause info :=
  ⟨rfl, rfl, rfl, rfl, rfl, rfl, rfl⟩

section
variable {s : State} {w : PageRegs} (hq : s.quiet) (hc : s.core.eng.cmds = []) (ho : w.origin = none) (he : w.eval = none)
include hq hc ho he

/-- A page fault that is not resolved is delivered as TRANSLATION (R81). -/
theorem exec_pageFaultResolved_denied {tid tile : Nat} (h : s.core.hold = .page tid tile w) {r : Resolution}
    (hr : r = .translation ∨ r = .protection) : exec (.pageFaultResolved r) s = .next { s.entered Cause.translation w.info with
      core := { (s.entered Cause.translation w.info).core with parked := s.core.parked } } := by
  have hdeliver : exec (.pageFaultResolved r) s = .next (s.deliverPage w Cause.translation) := by
    change execPageFaultResolved r s = _
    rcases hr with rfl | rfl <;> simp only [execPageFaultResolved, Core.pageWait, h, State.failCmds_none _ _ hc]
  rw [hdeliver, State.deliverPage_fetch _ hq ho he]

/-- A second-stage fault is delivered with the cause that the hypervisor chooses (R78). -/
theorem exec_secondStageFault_denied {gpa tid tile : Nat} {wr : Bool} (h : s.core.hold = .stage2 gpa tid tile wr w)
    {r : Resolution} (hr : r = .translation ∨ r = .protection) :
    ∃ t, exec (.secondStageFault r) s = .next t ∧ s.trapped t (deniedCause r) w.info := by
  have hdeliver : exec (.secondStageFault r) s = .next (s.deliverPage w (deniedCause r)) := by
    change execSecondStageFault r s = _
    rcases hr with rfl | rfl <;> simp only [execSecondStageFault, Core.stageWait, h, State.failCmds_none _ _ hc]
  refine ⟨_, hdeliver, ?_⟩
  rw [State.deliverPage_fetch _ hq ho he]
  exact State.trapped_entered_parked s _ _ _

end

/-! ### FEATURE-MASKED with DBG.ROUTE = 1 (R372) -/

theorem exec_featureMasked_resumed {s : State} {info : Word} (h : s.core.hold = .hypervisor info) :
    exec (.featureMaskedHypervisorResume false) s = .next { s with core := { s.core with hold := .none } } := by
  change execFeatureMaskedHypervisorResume false s = _
  rw [execFeatureMaskedHypervisorResume, h]
  rfl

theorem exec_featureMasked_delivered {s : State} {info : Word} (h : s.core.hold = .hypervisor info) (hq : s.quiet) :
    exec (.featureMaskedHypervisorResume true) s =
      .next ((s.modCore fun c => { c with hold := .none }).entered Cause.featureMasked info) := by
  obtain ⟨-, -, hhnd, hrem, haw, -⟩ := hq
  change execFeatureMaskedHypervisorResume true s = _
  rw [execFeatureMaskedHypervisorResume, h]
  exact congrArg Host.Outcome.next (State.takeTrap_program (s.modCore _) _ _ hhnd hrem haw)

end Sys2Proof.Machine

open Sys2Proof.Machine

/-- Settles O55: the rollback, the two resolutions with the frame of the kernel's writes, and the three deliveries. -/
theorem faultsAreResolved : Obligations.FaultsAreResolved := by
  refine ⟨fun s f tid tile hq hf hw => ?rollback, fun s tid tile w e data h => ?resolved,
    fun s tid tile w hq hc h ho he r hr => exec_pageFaultResolved_denied hq hc ho he h hr,
    fun s gpa tid tile wr w hq hc h ho he => ⟨fun e data => ?mapped, exec_secondStageFault_denied hq hc ho he h (.inl rfl),
      exec_secondStageFault_denied hq hc ho he h (.inr rfl)⟩,
    fun s info h => ⟨exec_featureMasked_resumed h, fun hq => ?masked⟩⟩
  case rollback =>
    exact ⟨_, f.regs tid tile, exec_pageFault_evaluation hq hf hw, rfl, rfl, rfl, rfl, rfl, rfl, rfl⟩
  case resolved =>
    have hin := State.pageIn_changed s s.ctxNo tid tile e data
    refine ⟨_, exec_pageFaultResolved_page h e data, fun hidle => ?_⟩
    rw [hidle.retryPorts_modCore hin.ports hin.hostWaiting]
    exact ⟨rfl, hin.updateSeq, hin.sent, (congrArg Core.parked hin.core :), rfl, (congrArg Core.pc hin.core :),
      (congrArg Core.regs hin.core :), hin.dropped⟩
  case mapped =>
    have hw := State.writeGranule_frame s s.ctxNo gpa e
    refine ⟨_, exec_secondStageFault_resolved h e data, fun hidle => ?_⟩
    rw [hidle.retryPorts_modCore (t := s.mapGranule s.ctxNo gpa e) hw.ports hw.hostWaiting]
    exact ⟨rfl, (congrArg Core.parked hw.core :), (congrArg Core.pc hw.core :)⟩
  case masked =>
    exact ⟨_, exec_featureMasked_delivered h hq, ⟨rfl, rfl, rfl, rfl, rfl, rfl, rfl⟩, rfl⟩
end
section
/-! PROOFS. What the kernel and the memory system do to memory, tables and caches (R68 to R90, R129, R309, R379, R393, R394). -/

open Sys2Proof

namespace Sys2Proof.Machine

/-! ### Frames that move (R83) -/

/-- The step has changed the entry of a tile to a value, and is over. -/
theorem exec_frameMigration_changed {s : State} {ctx tid tile frame e : Nat} {st : MigrationStep}
    (h : exec (.frameMigration ctx tid tile frame st) s = .next (s.changeTile ctx tid tile e)) :
    ∃ t, exec (.frameMigration ctx tid tile frame st) s = .next t ∧ t.core = s.core ∧
      t.mem = (s.writeTile ctx tid tile (BitVec.ofNat 64 e)).mem ∧ t.malt.updateSeq = s.malt.updateSeq + 1 ∧
      t.fabric.sent = s.fabric.sent ++ [.update (s.malt.updateSeq + 1) (.tile ctx tid tile (BitVec.ofNat 64 e))] ∧
      ∀ x ∈ t.l2.tlb, ¬(x.ctx = ctx ∧ x.tid = tid ∧ x.tile = tile) := by
  have hc := State.changeTile_changed s ctx tid tile e
  exact ⟨_, h, hc.core, State.changeTile_mem s ctx tid tile e, hc.updateSeq, hc.sent, hc.dropped⟩

/-- Where nothing waits at the ports, nothing more comes of a changed entry. -/
theorem State.portsIdle.retryPorts_changeTile {s : State} (h : s.portsIdle) (ctx tid tile e : Nat) :
    (s.changeTile ctx tid tile e).retryPorts = s.changeTile ctx tid tile e :=
  have hc := State.changeTile_changed s ctx tid tile e
  State.retryPorts_idle _ (h.of_eq hc.ports hc.hostWaiting)

section
variable {s : State} {ctx tid tile e : Nat} (frame : Nat) (he : s.tileEntry ctx tid tile = some e) (hv : e / 2 ^ 63 % 2 = 1)
include he hv

theorem exec_frameMigration_mark (hm : e / 2 ^ 62 % 2 = 0) :
    exec (.frameMigration ctx tid tile frame .mark) s = .next (s.changeTile ctx tid tile (e + 2 ^ 62)) := by
  change execFrameMigration ctx tid tile frame .mark s = _
  rw [execFrameMigration, he]
  exact congrArg Host.Outcome.next (if_pos (by rw [hv, hm]; rfl))

theorem exec_frameMigration_retarget (hm : e / 2 ^ 62 % 2 = 1) (hp : s.portsIdle) :
    exec (.frameMigration ctx tid tile frame .retarget) s = .next (s.changeTile ctx tid tile
      (e - 2 ^ 62 - e / 2 ^ 16 % 2 ^ 32 * 2 ^ 16 + frame % 2 ^ 32 * 2 ^ 16)) := by
  rw [← hp.retryPorts_changeTile]
  change execFrameMigration ctx tid tile frame .retarget s = _
  rw [execFrameMigration, he]
  exact congrArg Host.Outcome.next (if_pos (by rw [hv, hm]; rfl))

theorem exec_frameMigration_abandon (hm : e / 2 ^ 62 % 2 = 1) (hp : s.portsIdle) :
    exec (.frameMigration ctx tid tile frame .abandon) s = .next (s.changeTile ctx tid tile (e - 2 ^ 62)) := by
  rw [← hp.retryPorts_changeTile]
  change execFrameMigration ctx tid tile frame .abandon s = _
  rw [execFrameMigration, he]
  exact congrArg Host.Outcome.next (if_pos (by rw [hv, hm]; rfl))

end

/-! ### Updates and invalidations (R80, R82) -/

theorem exec_tableUpdate_outOfSequence {s : State} {n : Nat} (u : TableUpdate) (h : n ≠ s.malt.updateSeq + 1) :
    exec (.tableUpdateMulticast n u) s = .next s := congrArg Host.Outcome.next (if_neg h)

theorem exec_tableUpdate_inSequence {s : State} {n : Nat} (u : TableUpdate) (h : n = s.malt.updateSeq + 1) :
    exec (.tableUpdateMulticast n u) s =
      .next (((s.applyUpdate u).modMalt (fun m => { m with updateSeq := n })).send (.updateAck n)) :=
  congrArg Host.Outcome.next (if_pos h)

theorem exec_kernelInvalidate_idle {s : State} (ctx : Nat) (k : InvKind) (h : s.portsIdle) :
    exec (.kernelInvalidate ctx k) s = .next (s.dropEntries ctx k) :=
  congrArg Host.Outcome.next (State.retryPorts_idle _ (h.of_eq rfl rfl))

/-! ### Bytes that are discarded (R84, R130) -/

/-- A filter of a memory by address keeps what it keeps of every byte. -/
theorem Memory.read_filter (m : Memory) (p : Nat → Bool) (a : Nat) :
    Memory.read (m.filter (fun c => p c.1)) a = if p a then m.read a else 0 := by
  induction m with
  | nil => simp
  | cons c m ih =>
    by_cases hc : c.1 = a
    · subst hc
      by_cases hp : p c.1 = true <;> simp [Memory.read, hp, ih]
    · by_cases hp : p c.1 = true <;> simp [Memory.read, hp, hc, ih]

theorem State.read_discard (s : State) (lo hi a : Nat) :
    (s.discard lo hi).mem.read a = if lo ≤ a ∧ a < hi then 0 else s.mem.read a := by
  refine (Memory.read_filter s.mem (fun x => !(decide (lo ≤ x) && decide (x < hi))) a).trans ?_
  by_cases h : lo ≤ a ∧ a < hi
  · simp [h]
  · rw [if_neg h, if_pos (by simp; omega)]

/-! ### Staging (R84) -/

theorem exec_stagingReconfigure_ok {s : State} {slice : Fin 48} {pairs : Nat} (hp : pairs ≤ 5)
    (hq : quotaSum s.ctxs slice.val ≤ 10 - 2 * pairs)
    (hw : ∀ c ∈ s.ctxs, ∀ w ∈ c.windows, w.1 = slice.val → w.2.2 = 0) :
    exec (.stagingReconfigure slice.val pairs) s =
      .next ((((s.l2.surplus slice.val (12 - 2 * pairs)).foldl State.evict s).discard
          (stagingBase slice.val + min s.l2.pairs[slice] pairs * 2 ^ 20)
          (stagingBase slice.val + max s.l2.pairs[slice] pairs * 2 ^ 20)).modL2
        (fun l => { l with pairs := l.pairs.set slice.val pairs })) := by
  have hnone : (s.ctxs.any fun c => c.windows.any fun w => w.1 == slice.val && decide (0 < w.2.2)) = false := by
    rw [← Bool.not_eq_true, List.any_eq_true]
    rintro ⟨c, hc, hany⟩
    obtain ⟨w, hmem, h⟩ := List.any_eq_true.1 hany
    simp only [Bool.and_eq_true, beq_iff_eq, decide_eq_true_eq] at h
    exact absurd (hw c hc w hmem h.1) (by omega)
  change execStagingReconfigure slice.val pairs s = _
  rw [execStagingReconfigure, dif_pos slice.isLt, if_pos ⟨hp, by rw [hnone]; rfl, hq⟩]
  rfl

/-! ### Latent errors and dirty lines (R68, R69) -/

/-- The scrub of a memory of which one block bears a mark. -/
theorem exec_memoryScrub_one {s : State} {blk : Nat} {m : Mark} (hb : blk < 2 ^ 33) (hm : s.marks = [(blk, m)]) :
    exec .memoryScrub s = .next (s.scrubBlock blk m) := by
  have hmain : [(blk, m)].filter (fun m => decide (m.1 < 2 ^ 33)) = [(blk, m)] := List.filter_cons_of_pos (decide_eq_true hb)
  change execMemoryScrub s = _
  rw [execMemoryScrub, hm, hmain]
  rfl

/-- An error of a block that no virtual function holds is the PF's. -/
theorem State.countBlock_unheld {s : State} {blk : Nat} (h : s.malt.holder blk = none) (f : ErrRegs → ErrRegs) :
    s.countBlock blk f = { s with malt := { s.malt with pfErr := f s.malt.pfErr } } := by
  rw [State.countBlock, State.modMalt, h]

theorem State.scrubBlock_uncorrectable {s : State} {blk : Nat} (hh : s.malt.holder blk = none)
    (hm : s.marks = [(blk, .latentUe)]) : s.scrubBlock blk .latentUe = { s with marks := [(blk, .poison)], malt := { s.malt with
      pfErr := { s.malt.pfErr with memUe := satInc s.malt.pfErr.memUe } } } := by
  rw [State.scrubBlock, State.countBlock_unheld (by exact hh)]
  simp [State.setMark, hm, insertNat]

theorem State.scrubBlock_corrected {s : State} {blk : Nat} (hh : s.malt.holder blk = none)
    (hm : s.marks = [(blk, .latentCe)]) : s.scrubBlock blk .latentCe = { s with marks := [], malt := { s.malt with
      pfErr := { s.malt.pfErr with memCe := satInc s.malt.pfErr.memCe } } } := by
  rw [State.scrubBlock, State.countBlock_unheld (by exact hh)]
  simp [State.setMark, hm, eraseNat]

theorem exec_l2DirtyEviction_clean {s : State} {line : Nat} (h : ∀ x ∈ s.l2.lines, x.line = line → x.dirty = false) :
    exec (.l2DirtyEviction line) s = .next s := by
  have hnone : s.l2.lines.find? (fun x => x.line == line && x.dirty) = none := by
    simpa [List.find?_eq_none] using h
  change execL2DirtyEviction line s = _
  rw [execL2DirtyEviction, hnone]

/-- A dirty line without an error is written back and leaves its slice. -/
theorem exec_l2DirtyEviction_unmarked {s : State} {line : Nat} {x : L2Line} (hm : s.marks = [])
    (h : s.l2.lines.find? (fun x => x.line == line && x.dirty) = some x) :
    exec (.l2DirtyEviction line) s = .next (s.modL2 (fun l => l.drop x.slice x.line)) := by
  change execL2DirtyEviction line s = _
  rw [execL2DirtyEviction, h]
  simp only [State.evict, State.evictBlock_unmarked x _ hm, ite_self]

/-! ### Images and bundles (R379, R393, R394) -/

theorem exec_loadImage_refused {s : State} {ctx : Nat} {objs : List LoadObject} (h : s.link ctx objs = none) :
    exec (.loadImage ctx objs) s = .next s := by
  change execLoadImage ctx objs s = _
  rw [execLoadImage, h]

theorem State.doPiece_spad {s : State} {ctx core off : Nat} {p : Placement} {bs : List Byte} {cs : List Host.Cell}
    (hp : p.target = .spad core off) (h : s.placeCells ctx p bs = .got cs) :
    s.doPiece (.data ctx p bs) = some (s.writeCells cs) := by
  simp only [State.doPiece, State.storeData, h, hp]

/-- A bundle whose frame is here is written at home. -/
theorem State.doPiece_code {s : State} {ctx addr : Nat} {b : BitVec 512} {cs : List Host.Cell}
    (h : s.controlCells ctx addr (leBytes 64 b.toNat) = .got cs) : s.doPiece (.code ctx addr b) = some (s.homeCells cs) := by
  simp only [State.doPiece, State.storeData, State.placeCells, h]

theorem exec_loadImage_data {s : State} {ctx core off : Nat} {objs : List LoadObject} {p : Placement} {bs : List Byte}
    {cs : List Host.Cell} (hl : s.link ctx objs = some [(false, p, bs)]) (hp : p.target = .spad core off)
    (h : s.placeCells ctx p bs = .got cs) : exec (.loadImage ctx objs) s = .next (s.writeCells cs) := by
  change execLoadImage ctx objs s = _
  simp [execLoadImage, hl, State.putPiece, State.doPiece_spad hp h]

theorem exec_loadImage_code {s : State} {ctx : Nat} {objs : List LoadObject} {p : Placement} {bs : List Byte}
    (hl : s.link ctx objs = some [(true, p, bs)]) : exec (.loadImage ctx objs) s =
      .next (s.modMalt (fun m => { m with loads := m.loads ++ codeLoads ctx p.base bs })) := by
  change execLoadImage ctx objs s = _
  rw [execLoadImage, hl]
  rfl

theorem State.loadStep_code {s : State} {ctx addr : Nat} {b : BitVec 512} {cs : List Host.Cell} {rest : List LoadPiece}
    (hl : s.malt.loads = .code ctx addr b :: rest) (h : s.controlCells ctx addr (leBytes 64 b.toNat) = .got cs) :
    s.loadStep = (s.homeCells cs).modMalt (fun m => { m with loads := rest }) := by
  simp only [State.loadStep, hl, State.doPiece_code h]

theorem exec_kernelCodeWrite_misaligned {s : State} (ctx : Nat) {addr : CodeAddr} (b : BitVec 512) (h : addr.toNat % 64 ≠ 0) :
    exec (.kernelCodeWrite ctx addr b) s = .next s := congrArg Host.Outcome.next (if_neg h)

theorem exec_kernelCodeWrite_placed {s : State} {ctx : Nat} {addr : CodeAddr} {b : BitVec 512} {cs : List Host.Cell}
    (ha : addr.toNat % 64 = 0) (h : s.controlCells ctx addr.toNat (leBytes 64 b.toNat) = .got cs) :
    exec (.kernelCodeWrite ctx addr b) s = .next (s.homeCells cs) := by
  change execKernelCodeWrite ctx addr b s = _
  rw [execKernelCodeWrite, if_pos ha, State.writeBundle, State.putPiece, State.doPiece_code h, Option.getD_some]

/-! ### Contexts (R129, R130, R220) -/

theorem exec_contextCreation_refused {s : State} {c : CtxInput} (h : s.creates c = false) :
    exec (.contextCreation c) s = .next s := congrArg Host.Outcome.next (if_neg (by simp [h]))

/-- The zeroing of scratchpads concerns memory and its marks alone. -/
theorem State.zeroSpads_eq (s : State) (cores : List Nat) :
    ∃ mem marks, s.zeroSpads cores = { s with mem := mem, marks := marks } := by
  induction cores generalizing s with
  | nil => exact ⟨_, _, rfl⟩
  | cons n cores ih => exact ih (s.discard (spadBase n) (spadBase n + 2 ^ 22))

theorem exec_contextCreation_created {s : State} {c : CtxInput} (h : s.creates c = true) :
    exec (.contextCreation c) s = .next { s with
      mem := (s.zeroSpads c.cores).mem, marks := (s.zeroSpads c.cores).marks,
      ctxs := s.ctxs.map (fun x => { x with cores := x.cores.filter (fun n => !c.cores.contains n) }) ++ [newCtx c],
      malt := s.malt.addCtx c, fabric := s.fabric.addSlots c } := by
  obtain ⟨mem, marks, hz⟩ := State.zeroSpads_eq s c.cores
  change execContextCreation c s = _
  rw [execContextCreation, if_pos h, hz]

/-- Of the scratchpads of the cores every byte reads 0, and every other byte as before. -/
theorem State.read_zeroSpads (s : State) (cores : List Nat) (a : Nat) : (s.zeroSpads cores).mem.read a =
    if ∃ n ∈ cores, spadBase n ≤ a ∧ a < spadBase n + 2 ^ 22 then 0 else s.mem.read a := by
  induction cores generalizing s with
  | nil => simp [State.zeroSpads]
  | cons n cores ih =>
    refine (ih (s.discard (spadBase n) (spadBase n + 2 ^ 22))).trans ?_
    rw [State.read_discard]
    simp only [List.exists_mem_cons_iff]
    by_cases hrest : ∃ k ∈ cores, spadBase k ≤ a ∧ a < spadBase k + 2 ^ 22
    · rw [if_pos hrest, if_pos (.inr hrest)]
    · by_cases hn : spadBase n ≤ a ∧ a < spadBase n + 2 ^ 22
      · rw [if_neg hrest, if_pos hn, if_pos (.inl hn)]
      · rw [if_neg hrest, if_neg hn, if_neg (not_or.2 ⟨hn, hrest⟩)]

/-! ### The host's window (R309, R398) -/

theorem exec_hostBar2Access_down {s : State} (fn : Fin 17) (tid e : Nat) (v : Option (BitVec 512))
    (h : s.malt.links.endpoint = false) : exec (.hostBar2Access fn tid e v) s = .next s := by
  change s.fromHost _ = _
  rw [State.fromHost, if_neg (by simp [h])]

theorem State.drawLine_unmarked {s : State} (ctx line : Nat) (f : Fetch) (far : Bool) (blks : List Nat) (h : s.marks = []) :
    s.drawLine ctx line f far blks = (s, none) := by
  simp [State.drawLine, State.touchBlocks_unmarked s _ _ _ h]

/-- Lines of a memory without marks come to their home slices without one. -/
theorem State.drawLines_unmarked {s : State} (ctx : Nat) (f : Fetch) (blks : Nat → List Nat) (lines : List Nat)
    (h : s.marks = []) : ∃ u, s.CacheFrame u ∧ lines.foldl (fun (acc : State × Option Bool) line =>
      ((acc.1.drawLine ctx line f false (blks line)).1.cacheHome line f false,
        acc.2.or (acc.1.drawLine ctx line f false (blks line)).2)) (s, none) = (u, none) := by
  induction lines generalizing s with
  | nil => exact ⟨s, .refl s, rfl⟩
  | cons line lines ih =>
    have hstep := State.cacheHome_frame s line f false
    obtain ⟨u, hu, heq⟩ := ih (hstep.unmarked h)
    refine ⟨u, hstep.trans hu, ?_⟩
    rw [List.foldl_cons, State.drawLine_unmarked ctx line f false _ h]
    exact heq

/-- Memory without marks is read at home as it stands, with no mark, and what reading leaves is caching. -/
theorem State.homeRead_unmarked {s : State} (ctx bit n : Nat) (alloc : Bool) (h : s.marks = []) :
    ∃ u, s.CacheFrame u ∧ s.homeRead ctx bit n alloc =
      (u, (ofLe (s.mem.readN (bit / 8) ((bit % 8 + n + 7) / 8)) >>> (bit % 8)) % 2 ^ n, none) := by
  obtain ⟨u, hu, heq⟩ := State.drawLines_unmarked ctx { Fetch.plain with alloc := alloc }
    (fun line => (blocksOf (bit / 8) ((bit % 8 + n + 7) / 8)).filter (fun b => b / 2 == line))
    ((List.range ((bit % 8 + n + 7) / 8)).map (fun i => (bit / 8 + i) / 128)).dedup h
  refine ⟨u, hu, ?_⟩
  simp only [State.homeRead]
  rw [heq, hu.mem]

section
variable {s t : State} {fn : Fin 17} {tid e : Nat} {c : Ctx} {x : ElemAt} (hup : s.malt.links.endpoint = true)
  (hfree : ∀ a ∈ s.malt.hostWaiting, a.fn ≠ fn)
include hup hfree

/-- An access of a function none of whose accesses waits is tried at once. -/
theorem exec_hostBar2Access_tried {v : Option (BitVec 512)} {u : State}
    (h : s.hostTry { fn := fn, tid := tid, elem := e, data := v } = (u, none)) :
    exec (.hostBar2Access fn tid e v) s = .next u := by
  have hany : (s.malt.hostWaiting.any fun b => b.fn == fn) = false := by simpa using hfree
  change s.fromHost (s.hostAccess _) = _
  simp [State.fromHost, hup, State.hostAccess, hany, h]

theorem exec_hostBar2Access_write (hc : s.exporter fn.val tid = some c) (v : BitVec 512)
    (h : s.portPlace c.id tid e none true = (t, .ok x)) :
    exec (.hostBar2Access fn tid e (some v)) s = .next (t.homeWrite x.bit (unitBits x.fmt) v.toNat false true) :=
  exec_hostBar2Access_tried hup hfree (by simp [State.hostTry, hc, h])

/-- A read answers with the bits of the element at home and no mark. -/
theorem exec_hostBar2Access_read (hc : s.exporter fn.val tid = some c) (hm : t.marks = [])
    (h : s.portPlace c.id tid e none false = (t, .ok x)) :
    ∃ u, t.CacheFrame u ∧ exec (.hostBar2Access fn tid e none) s = .next (u.modMalt fun m => { m with
      hostReads := m.hostReads ++ [((ofLe (t.mem.readN (x.bit / 8) ((x.bit % 8 + unitBits x.fmt + 7) / 8)) >>> (x.bit % 8)) %
        2 ^ unitBits x.fmt, false)] }) := by
  obtain ⟨u, hu, hread⟩ := State.homeRead_unmarked c.id x.bit (unitBits x.fmt) true hm
  exact ⟨u, hu, exec_hostBar2Access_tried hup hfree (by
    simp [State.hostTry, hc, h, hread, State.answerHost])⟩

end

end Sys2Proof.Machine

open Sys2Proof.Machine

/-- Settles O59: each clause is the lemma of its event, with the frame of the writes at home. -/
theorem kernelMemoryEvents : Obligations.KernelMemoryEvents := by
  refine ⟨?frames, ?updates, ?invalidate, ?staging, ?scrub, ?eviction, ?images, ?loading, ?bundle, ?contexts, ?down, ?host⟩
  case frames =>
    intro s ctx tid tile frame e he hv changed
    exact ⟨fun hm => exec_frameMigration_changed (exec_frameMigration_mark frame he hv hm), fun hm hp =>
      ⟨exec_frameMigration_changed (exec_frameMigration_retarget frame he hv hm hp),
        exec_frameMigration_changed (exec_frameMigration_abandon frame he hv hm hp)⟩⟩
  case updates =>
    refine fun s n ctx tid e => ⟨exec_tableUpdate_outOfSequence _, fun c hn hs hid => ?_⟩
    rw [exec_tableUpdate_inSequence _ hn]
    simp [State.applyUpdate, State.modCtx, State.modMalt, State.send, State.modFabric, hs, hid]
  case invalidate => exact fun s ctx k hp => exec_kernelInvalidate_idle ctx k hp
  case staging =>
    intro s slice pairs hp hq hw
    have hev : s.CacheFrame ((s.l2.surplus slice.val (12 - 2 * pairs)).foldl State.evict s) := .foldl State.evict_frame _ s
    refine ⟨_, exec_stagingReconfigure_ok hp hq hw, hev.core, congrArg (fun v => v.set slice.val pairs) hev.pairs, fun a => ?_⟩
    rw [State.modL2_mem, State.read_discard, hev.mem]
  case scrub =>
    refine fun s blk hb hh => ⟨fun hm => ?_, fun hm => ?_⟩
    · rw [exec_memoryScrub_one hb hm, State.scrubBlock_uncorrectable hh hm]
    · rw [exec_memoryScrub_one hb hm, State.scrubBlock_corrected hh hm]
  case eviction =>
    exact fun s line hm => ⟨exec_l2DirtyEviction_clean, fun x hx => exec_l2DirtyEviction_unmarked hm hx⟩
  case images =>
    exact fun s ctx objs => ⟨exec_loadImage_refused, fun p bs cs core off hl hp h => ⟨_, exec_loadImage_data hl hp h, rfl, rfl⟩,
      fun p bs hl => exec_loadImage_code hl⟩
  case loading =>
    intro s ctx addr b cs rest hl h
    rw [State.loadStep_code hl h]
    exact ⟨State.homeCells_mem s cs, rfl, (State.homeCells_frame s cs).core⟩
  case bundle =>
    exact fun s ctx addr b => ⟨exec_kernelCodeWrite_misaligned ctx b, fun cs ha h =>
      ⟨_, exec_kernelCodeWrite_placed ha h, State.homeCells_mem s cs, (State.homeCells_frame s cs).core⟩⟩
  case contexts =>
    refine fun s c => ⟨exec_contextCreation_refused, fun h => ?_⟩
    refine ⟨_, newCtx c, exec_contextCreation_created h, rfl, rfl, rfl, rfl, rfl, rfl, rfl, rfl, rfl,
      rfl, rfl, rfl, fun a => ?_⟩
    refine ⟨fun hin => (State.read_zeroSpads s c.cores a).trans (if_pos hin), fun hout => ?_⟩
    refine (State.read_zeroSpads s c.cores a).trans (if_neg ?_)
    rintro ⟨n, hn, h0, h1⟩
    have := hout n hn
    omega
  case down => exact fun s fn tid e v h => exec_hostBar2Access_down fn tid e v h
  case host =>
    intro s t fn tid e c x hup hfree hc hm
    refine ⟨fun h => ?_, fun v h => exec_hostBar2Access_write hup hfree hc v h⟩
    obtain ⟨u, hu, hexec⟩ := exec_hostBar2Access_read hup hfree hc hm h
    exact ⟨_, hexec, hu.mem, hu.core, congrArg (· ++ [_]) hu.hostReads⟩
end

section
/-! PROOFS. The copy slot: how commands enter the engine and the gate (R93, R94, R98, R361, R372), drains and fences (R116, R117),
and the admission of transfers (R119, R120, R404). -/

open Sys2Proof

namespace Sys2Proof.Machine

/-! ### What a control read leaves as it was (R67, R68, R130) -/

/-- What the errors of a control read do not touch. -/
structure State.ReadFrame (s t : State) : Prop where
  core : t.core = s.core
  cur : t.cur = s.cur
  launch : t.launch = s.launch
  fabric : t.fabric = s.fabric
  podTime : t.podTime = s.podTime

theorem State.ReadFrame.refl (s : State) : s.ReadFrame s := ⟨rfl, rfl, rfl, rfl, rfl⟩

theorem State.ReadFrame.trans {s t u : State} (h : s.ReadFrame t) (g : t.ReadFrame u) : s.ReadFrame u :=
  ⟨g.core.trans h.core, g.cur.trans h.cur, g.launch.trans h.launch, g.fabric.trans h.fabric, g.podTime.trans h.podTime⟩

theorem State.countErr_readFrame (s : State) (n : Nat) (f : ErrRegs → ErrRegs) : s.ReadFrame (s.countErr n f) := by
  unfold State.countErr
  repeat' split
  all_goals exact ⟨rfl, rfl, rfl, rfl, rfl⟩

theorem State.setMark_readFrame (s : State) (blk : Nat) (m : Option Mark) : s.ReadFrame (s.setMark blk m) := by
  cases m <;> exact ⟨rfl, rfl, rfl, rfl, rfl⟩

theorem State.touchBlocks_readFrame (s : State) (n : Nat) (b : Bool) (bs : List Nat) : s.ReadFrame (s.touchBlocks n b bs).1 := by
  unfold State.touchBlocks
  refine List.foldlRecOn (motive := fun (acc : State × Option Bool) => s.ReadFrame acc.1) bs _ (.refl s) (fun acc h b' _ => ?_)
  split
  · exact h
  · exact h
  · dsimp only
    exact (h.trans (State.setMark_readFrame _ b' _)).trans (State.countErr_readFrame _ n _)
  · dsimp only
    exact (h.trans (State.setMark_readFrame _ b' _)).trans (State.countErr_readFrame _ n _)

theorem State.controlBytes_readFrame (s : State) (m : Memory) (ms : Marks) (g : List GateEntry) (a n : Nat) :
    s.ReadFrame (s.controlBytes m ms g a n).1 := by
  unfold State.controlBytes
  dsimp only
  split
  · exact State.touchBlocks_readFrame ..
  · exact (State.touchBlocks_readFrame ..).trans ⟨rfl, rfl, rfl, rfl, rfl⟩

/-- The read of a block before its bundle. -/
theorem State.block_readFrame (s : State) (w : Word) (n : Nat) : s.ReadFrame (s.block w n).1 := by
  unfold State.block State.controlBefore
  split
  · exact State.controlBytes_readFrame ..
  · exact State.controlBytes_readFrame ..

/-- The read of an index list behind its descriptor. -/
theorem State.listRead_readFrame (s : State) (a b : Word) (n : Nat) : s.ReadFrame (s.listRead a b n).1 :=
  (s.block_readFrame a 128).trans (State.controlBytes_readFrame ..)

theorem State.ReadFrame.x {s t : State} (h : s.ReadFrame t) (r : XReg) : t.x r = s.x r := by
  rw [State.x, State.x, h.core]

theorem State.ReadFrame.ctxNo {s t : State} (h : s.ReadFrame t) : t.ctxNo = s.ctxNo := by
  rw [State.ctxNo, State.ctxNo, h.core]

theorem State.ReadFrame.replaySafe {s t : State} (h : s.ReadFrame t) : t.replaySafe = s.replaySafe := by
  rw [State.replaySafe, State.replaySafe, h.core, h.launch]

theorem State.ReadFrame.otherPkg {s t : State} (h : s.ReadFrame t) (kind pkg : Nat) : t.otherPkg kind pkg = s.otherPkg kind pkg := by
  rw [State.otherPkg, State.otherPkg, h.fabric]

theorem State.ReadFrame.blockAt {s t : State} (h : s.ReadFrame t) {w : Word} {align n : Nat} (hb : s.blockAt w align n) :
    t.blockAt w align n := by
  rw [State.blockAt, h.core]
  exact hb

theorem State.ReadFrame.admits {s t : State} (h : s.ReadFrame t) (d : Desc) (slot : Nat) : t.admits d slot = s.admits d slot := by
  rw [State.admits, State.admits, State.reserved, State.reserved, h.podTime, h.fabric, h.ctxNo]

theorem State.ReadFrame.slotPort {s t : State} (h : s.ReadFrame t) (slot pkg : Nat) : t.slotPort slot pkg = s.slotPort slot pkg := by
  rw [State.slotPort, State.slotPort, h.fabric, h.ctxNo]

/-- The conditions of admission, one by one (R119, R402, R404). -/
theorem State.admits_iff (s : State) (d : Desc) (slot : Nat) : s.admits d slot = true ↔
    slot % 64 = 0 ∧ s.podTime.toNat < slot ∧ s.fabric.inStep = true ∧
      (∃ r ∈ s.fabric.reservations, r.slot.sender = s.fabric.self ∧ r.slot.ctx = s.ctxNo ∧ r.slot.start = slot) ∧
      d.srcBytes ≤ 12488 := by
  simp [State.admits, State.reserved, List.find?_isSome, and_assoc]

/-- A descriptor that stands at its address is read, and the instruction goes on with it. -/
theorem State.readDesc_at {s : State} {u : DescUse} {w : Word} {d : Desc} (h : s.descAt u w d) (k : State → Desc → Eff) :
    s.readDesc u w k = k (s.descRead w) d := by
  obtain ⟨hb, hd⟩ := h
  have hd' : parseDesc u (s.controlBefore (spadBase s.cur + w.toNat) 128).2 = .ok d := hd
  rw [State.readDesc, State.readBlock_at hb, hd']
  rfl

/-! ### Entry into the engine and the gate (R93, R94, R98, R361, R372) -/

section
variable {s : State} (op : CmdOp) (flag : Option FlagNo) (cls : Nat) (x : Bool)

theorem State.enter_room (h : s.core.eng.cmds.length + s.core.eng.fences.length < 64) :
    s.enter op flag cls x = .ok (s.withCmd op flag cls x) :=
  if_neg (Nat.not_le_of_lt h)

theorem State.enter_full (h : 64 ≤ s.core.eng.cmds.length + s.core.eng.fences.length) :
    s.enter op flag cls x = .stall .engine :=
  if_pos h

theorem State.enterGated_handler (h : s.core.sys.hnd = true) : s.enterGated op flag cls x = s.enter op flag cls x :=
  if_pos h

theorem State.enterGated_room (h : s.core.sys.hnd = false) (hg : s.core.gateCmds.length < 32) :
    s.enterGated op flag cls x = .ok (s.withGated op flag cls x) := by
  rw [State.enterGated, h, if_neg Bool.false_ne_true, if_neg (Nat.not_le_of_lt hg)]
  rfl

theorem State.enterGated_full (h : s.core.sys.hnd = false) (hg : 32 ≤ s.core.gateCmds.length) :
    s.enterGated op flag cls x = .stall .gate := by
  rw [State.enterGated, h, if_neg Bool.false_ne_true, if_pos hg]

end

theorem settle_engineFull (s : State) : settle s (.stall .engine) = .next (s.nextCycle.held .engine) := rfl

/-- A plain command of the copy slot asks for its place once its blocks are read. -/
theorem exec_entersAs {i : Instr} {s u : State} {op : CmdOp} {f : Option FlagNo} {c : Nat} {x : Bool}
    (h : EntersAs s i u op f c x) : exec i s = settle s (u.enter op f c x) ∧ u.core = s.core := by
  cases h with
  | scpy a f c x d h => exact ⟨congrArg (settle s) (State.readDesc_at h _), (s.block_readFrame _ _).core⟩
  | sgth a b f c x d h l =>
    have hr : s.ReadFrame (s.descRead (s.x a)) := s.block_readFrame _ _
    refine ⟨congrArg (settle s) ((State.readDesc_at h _).trans ?_), (s.listRead_readFrame _ _ _).core⟩
    dsimp only
    rw [hr.x, ← Desc.listLen, State.readBlock_at (hr.blockAt l), hr.cur]
    rfl
  | sbar a b f => exact ⟨rfl, rfl⟩
  | l2wb a f d h => exact ⟨congrArg (settle s) (State.readDesc_at h _), (s.block_readFrame _ _).core⟩
  | l2inv a f d h => exact ⟨congrArg (settle s) (State.readDesc_at h _), (s.block_readFrame _ _).core⟩
  | l2pf a r f d h => exact ⟨congrArg (settle s) (State.readDesc_at h _), (s.block_readFrame _ _).core⟩

/-- The check of R352 passes where a replay-safe task names another package alone. -/
theorem State.replayCheck_passed {s : State} {other : Bool} (h : s.replaySafe = true → other = true) :
    (s.replaySafe && !other) = false := by
  cases hr : s.replaySafe
  · rfl
  · simp [h hr]

theorem State.otherPkg_of {s : State} {kind pkg : Nat} (h : kind = 3 ∧ pkg ≠ s.fabric.self) : s.otherPkg kind pkg = true := by
  simp [State.otherPkg, h]

/-- A signal whose target word names a counter asks for its place in the gate. -/
theorem State.signal_target {s : State} {a b : XReg} (f : Option FlagNo) (c : Nat) (x : Bool) (rel : Option Scope) {core pkg : Nat}
    {k : CtrNo} (h : sigTarget (s.x a) = some (core, k, pkg)) (r : s.replaySafe = true → s.sigPkg pkg ≠ s.fabric.self) :
    s.signal a b f c x rel = s.enterGated (.ssig core k (s.sigPkg pkg) ((s.x b).setWidth 32) rel) f c x := by
  have hp : (s.replaySafe && s.sigPkg pkg == s.fabric.self) = false := by
    cases hr : s.replaySafe
    · rfl
    · simp [r hr]
  rw [State.signal, h]
  dsimp only
  rw [hp, if_neg Bool.false_ne_true]

/-- A gated command asks for its place once its block is read and its checks have passed. -/
theorem exec_gatesAs {i : Instr} {s u : State} {op : CmdOp} {f : Option FlagNo} {c : Nat} {x : Bool}
    (h : GatesAs s i u op f c x) (hs : s.static67 i = none) : exec i s = settle s (u.enterGated op f c x) ∧ u.core = s.core := by
  cases h with
  | sacc a f c x d h r =>
    have hr : s.ReadFrame (s.descRead (s.x a)) := s.block_readFrame _ _
    have hp := State.replayCheck_passed (fun hs => State.otherPkg_of (r hs))
    refine ⟨congrArg (settle s) ((State.guarded_passed hs _).trans ((State.readDesc_at h _).trans ?_)), hr.core⟩
    rw [hr.replaySafe, hr.otherPkg, hp, if_neg Bool.false_ne_true]
  | satm i op a f c b p h k r =>
    have hr : s.ReadFrame (s.controlBefore (spadBase s.cur + (s.x a).toNat) 48).1 := s.block_readFrame _ _
    have hp := State.replayCheck_passed (fun hs => State.otherPkg_of (r hs))
    have hk : parseAtom op (s.controlBefore (spadBase s.cur + (s.x a).toNat) 48).2 (fun r => s.core.inSpill r 16) = .ok b := k
    refine ⟨(exec_satm p hs).trans (congrArg (settle s) ?_), hr.core⟩
    rw [State.satm, State.readBlock_at h, hr.core, hk]
    dsimp only
    rw [hr.replaySafe, hr.otherPkg, hp, if_neg Bool.false_ne_true]
    rfl
  | ssig a b f c x core k pkg h r =>
    exact ⟨congrArg (settle s) ((State.guarded_passed hs _).trans (State.signal_target f c.val x none h r)), rfl⟩
  | ssigRel a b f c x sc core k pkg h r =>
    exact ⟨congrArg (settle s) ((State.guarded_passed hs _).trans (State.signal_target f c.val x (some sc) h r)), rfl⟩

/-! ### Drains and fences (R94, R116, R117, R177) -/

/-- Without a pending load there is no window to close. -/
theorem State.closeAll_none {s : State} (k : DemandKind) (h : ∀ n ∈ s.core.mash.nodes, n.pendingLoad = false) : s.closeAll k = s := by
  have hf : s.core.mash.nodes.filter TileNode.pendingLoad = [] := by
    rw [List.filter_eq_nil_iff]
    intro n hn
    rw [h n hn]
    exact Bool.false_ne_true
  rw [State.closeAll, hf]

theorem State.drainAt_room {s : State} (k : DrainKind) (sc : Scope) (flag : Option FlagNo)
    (h : s.core.eng.cmds.length + s.core.eng.fences.length < 64) : s.drainAt k sc flag = .ok (s.held (.drain k sc flag .none)) :=
  if_neg (Nat.not_le_of_lt h)

theorem State.drainAt_full {s : State} (k : DrainKind) (sc : Scope) (flag : Option FlagNo)
    (h : 64 ≤ s.core.eng.cmds.length + s.core.eng.fences.length) : s.drainAt k sc flag = .stall .engine :=
  if_pos h

/-- The accesses that a release waits for: every load, and every store unless the scope is the core. -/
theorem Core.relAccesses_eq (c : Core) (sc : Scope) :
    c.relAccesses sc = (c.remote.filter (fun a => !a.store || sc != .core)).map (fun a => a.id) := by
  simp [Core.relAccesses, bne]

/-- The fence that a fence.rel of a scope leaves in the engine. -/
def State.fenceHere (s : State) (sc : Scope) (flag : Option FlagNo) : Fence :=
  { id := s.core.eng.nextId, scope := sc,
    accesses := (s.core.remote.filter (fun a => !a.store || sc != .core)).map (fun a => a.id),
    cmds := s.core.eng.cmds.map (fun k => k.id), flag := flag }

theorem effFenceRel_room {s : State} (sc : Scope) (flag : Option FlagNo)
    (h : s.core.eng.cmds.length + s.core.eng.fences.length < 64) :
    effFenceRel sc flag s = .ok { s with core := { s.core with eng := { s.core.eng with
      fences := s.core.eng.fences ++ [s.fenceHere sc flag], nextId := s.core.eng.nextId + 1 } } } := by
  rw [State.fenceHere, ← Core.relAccesses_eq]
  exact if_neg (Nat.not_le_of_lt h)

theorem effFenceRel_full {s : State} (sc : Scope) (flag : Option FlagNo)
    (h : 64 ≤ s.core.eng.cmds.length + s.core.eng.fences.length) : effFenceRel sc flag s = .stall .engine :=
  if_pos h

/-! ### The admission of transfers (R119, R120, R404) -/

section
variable {s : State} {a b : XReg} {flag : Option FlagNo} {d : Desc} (hd : s.descAt .sxfr (s.x a) d)
  (hs : s.static67 (.sxfr a b flag) = none) (halign : d.subop % 8 = 0) (hlow : d.subop < 2 ^ 22)
  (hspill : s.core.inSpill d.subop 8 = false)
include hd hs halign hlow hspill

/-- A recorded transfer of a discarded segment is taken up again by the command (R120). -/
theorem exec_sxfr_recorded {n : Nat} (hrec : s.core.eng.sxfrs = [SxfrRec.mk (s.x b).toNat (s.x a).toNat n true])
    (hroom : s.core.eng.cmds.length + s.core.eng.fences.length < 64) :
    exec (.sxfr a b flag) s = .next { s.descRead (s.x a) with
      core := { s.core with eng := { s.core.eng with
        cmds := s.core.eng.cmds ++ [(s.descRead (s.x a)).newCmd (.sxfr d (s.x b).toNat (s.x a).toNat) flag 0 false],
        nextId := s.core.eng.nextId + 1, sxfrs := [SxfrRec.mk (s.x b).toNat (s.x a).toNat n false] } },
      fabric := { s.fabric with transfers := s.fabric.transfers.map (fun x =>
        if x.id = n ∧ x.core = s.cur then { x with cmd := s.core.eng.nextId, status := d.subop } else x) } } := by
  have hr : s.ReadFrame (s.descRead (s.x a)) := s.block_readFrame _ _
  have henter := State.enter_room (s := s.descRead (s.x a)) (.sxfr d (s.x b).toNat (s.x a).toNat) flag 0 false
    (by rw [hr.core]; exact hroom)
  show settle s (effSxfr a b flag s) = _
  rw [effSxfr, State.guarded_passed hs, State.readDesc_at hd, if_neg (not_not_intro halign), if_neg (Nat.not_le_of_lt hlow),
    hr.core, hspill, if_neg Bool.false_ne_true]
  simp only [hr.x, hrec, henter, List.find?_cons, beq_self_eq_true, Bool.and_self]
  rw [settle_ok]
  simp only [State.modFabric, State.modCore, State.withCmd, hr.core, hr.fabric, hr.cur, hrec, List.map_cons, List.map_nil, if_true]

/-- A new transfer that meets the conditions of admission is recorded with its command (R119). -/
theorem exec_sxfr_admitted (hrec : s.core.eng.sxfrs = []) (hadm : s.admits d (s.x b).toNat = true)
    (hroom : s.core.eng.cmds.length + s.core.eng.fences.length < 64) :
    exec (.sxfr a b flag) s = .next { s.descRead (s.x a) with
      core := { s.core with eng := { s.core.eng with
        cmds := s.core.eng.cmds ++ [(s.descRead (s.x a)).newCmd (.sxfr d (s.x b).toNat (s.x a).toNat) flag 0 false],
        nextId := s.core.eng.nextId + 1,
        sxfrs := [SxfrRec.mk (s.x b).toNat (s.x a).toNat s.fabric.nextTag false] } },
      fabric := { s.fabric with nextTag := s.fabric.nextTag + 1, transfers := s.fabric.transfers ++
        [{ id := s.fabric.nextTag, core := s.cur, cmd := s.core.eng.nextId, ctx := s.ctxNo, desc := d,
           port := s.slotPort (s.x b).toNat d.pkg, start := (s.x b).toNat, status := d.subop, tries := 0, delivered := false,
           done := false, word := 0 }] } } := by
  have hr : s.ReadFrame (s.descRead (s.x a)) := s.block_readFrame _ _
  have henter := State.enter_room (s := s.descRead (s.x a)) (.sxfr d (s.x b).toNat (s.x a).toNat) flag 0 false
    (by rw [hr.core]; exact hroom)
  show settle s (effSxfr a b flag s) = _
  rw [effSxfr, State.guarded_passed hs, State.readDesc_at hd, if_neg (not_not_intro halign), if_neg (Nat.not_le_of_lt hlow),
    hr.core, hspill, if_neg Bool.false_ne_true]
  simp only [hr.x, hrec, henter, List.find?_nil, hr.admits, hadm, Bool.not_true, Bool.false_eq_true, if_false]
  rw [settle_ok]
  simp only [State.modFabric, State.modCore, State.withCmd, hr.core, hr.fabric, hr.cur, hr.ctxNo, hr.slotPort, hrec, List.nil_append]

/-- A new transfer that does not meet them raises ADMISSION (R119). -/
theorem exec_sxfr_refused (hrec : s.core.eng.sxfrs = []) (hadm : s.admits d (s.x b).toNat = false) :
    exec (.sxfr a b flag) s = .next (s.takeTrap Cause.admission (BitVec.ofNat 64 s.core.issue.slot) s.core.pc) := by
  have hr : s.ReadFrame (s.descRead (s.x a)) := s.block_readFrame _ _
  show settle s (effSxfr a b flag s) = _
  rw [effSxfr, State.guarded_passed hs, State.readDesc_at hd, if_neg (not_not_intro halign), if_neg (Nat.not_le_of_lt hlow),
    hr.core, hspill, if_neg Bool.false_ne_true]
  simp only [hr.x, hrec, List.find?_nil, hr.admits, hadm, Bool.not_false, if_true]
  rw [settle_fault _ _ _ _ (by decide), hr.core]

end

end Sys2Proof.Machine

open Sys2Proof.Machine

/-- Settles O40: the entry of the command behind the reads of its blocks. -/
theorem commandsEnterTheEngine : Obligations.CommandsEnterTheEngine := by
  intro i s u op f c x h
  obtain ⟨he, hc⟩ := exec_entersAs h
  rw [he, ← hc]
  refine ⟨fun hroom => ?_, fun hfull => ?_⟩
  · rw [State.enter_room op f c x hroom, settle_ok]
  · rw [State.enter_full op f c x hfull, settle_engineFull]

/-- Settles O41: the gate in program mode, and the engine in handler mode. -/
theorem gatedCommandsWaitForCommit : Obligations.GatedCommandsWaitForCommit := by
  intro i s u op f c x h hs
  obtain ⟨he, hc⟩ := exec_gatesAs h hs
  rw [he, ← hc]
  refine ⟨fun hh hroom => ?_, fun hh hroom => ?_, fun hh hfull => ?_⟩
  · rw [State.enterGated_room op f c x hh hroom, settle_ok]
  · rw [State.enterGated_handler op f c x hh, State.enter_room op f c x hroom, settle_ok]
  · rw [State.enterGated_full op f c x hh hfull, hc]
    exact ⟨_, settle_stall _ _, rfl, rfl, rfl⟩

/-- Settles O43: with no pending load the drains and fences differ in what they wait for alone. -/
theorem drainsAndFences : Obligations.DrainsAndFences := by
  intro s flag hp
  have hclose := State.closeAll_none .fence hp
  have hacq (sc : Scope) : exec (.fenceAcq sc flag) s = settle s (s.drainAt .acq sc flag) :=
    congrArg (fun t : State => settle s (t.drainAt .acq sc flag)) hclose
  have hsc (sc : Scope) : exec (.fenceSc sc flag) s = settle s (s.drainAt .sc sc flag) :=
    congrArg (fun t : State => settle s (t.drainAt .sc sc flag)) hclose
  refine ⟨fun hroom => ⟨?_, fun sc => ⟨?_, ?_, ?_⟩⟩, fun hfull => ⟨?_, fun sc => ⟨?_, ?_, ?_⟩⟩⟩
  · exact congrArg (settle s) (State.drainAt_room .sdrn .pod flag hroom)
  · rw [hacq, State.drainAt_room .acq sc flag hroom, settle_ok]
  · rw [hsc, State.drainAt_room .sc sc flag hroom, settle_ok]
  · exact congrArg (settle s) (effFenceRel_room sc flag hroom)
  · exact congrArg (settle s) (State.drainAt_full .sdrn .pod flag hfull)
  · rw [hacq, State.drainAt_full .acq sc flag hfull, settle_engineFull]
  · rw [hsc, State.drainAt_full .sc sc flag hfull, settle_engineFull]
  · exact congrArg (settle s) (effFenceRel_full sc flag hfull)

/-- Settles O44: the record of a discarded segment, the admission, and its refusal. -/
theorem transfersAreAdmitted : Obligations.TransfersAreAdmitted := by
  intro s a b flag d hd hs halign hlow hspill
  refine ⟨fun n hrec hroom => ?_, fun hrec => ⟨fun h1 h2 h3 h4 h5 hroom => ?_, fun hwrong => ?_⟩⟩
  · exact exec_sxfr_recorded hd hs halign hlow hspill hrec hroom
  · exact exec_sxfr_admitted hd hs halign hlow hspill hrec ((s.admits_iff d _).mpr ⟨h1, h2, h3, h4, h5⟩) hroom
  · refine exec_sxfr_refused hd hs halign hlow hspill hrec (eq_false_of_ne_true fun hadm => ?_)
    obtain ⟨h1, h2, h3, ⟨r, hr, hself, hctx, hstart⟩, h5⟩ := (s.admits_iff d _).mp hadm
    rcases hwrong with h | h | h | h | h
    · exact h h1
    · omega
    · rw [h3] at h
      cases h
    · exact h r hr hself hctx hstart
    · omega
end

section
/-! PROOFS. What mfs reads after an mts has landed (R129, R220, R275, R291 to R294), and the handler's stores behind an open
fence.rel (R117, R372). -/

open Sys2Proof

namespace Sys2Proof.Machine

/-! ### Low bits of a word -/

/-- The low k bits of a word, widened again, are the word under a mask. -/
theorem setWidth_low (k : Nat) (v : Word) : (v.setWidth k).setWidth 64 = v &&& (BitVec.allOnes k).setWidth 64 := by
  apply BitVec.eq_of_getLsbD_eq
  intro i hi
  simp only [BitVec.getLsbD_setWidth, BitVec.getLsbD_and, BitVec.getLsbD_allOnes, hi, decide_true, Bool.true_and]
  exact Bool.and_comm _ _

theorem setWidth_low_and (k : Nat) (v : Word) (m : BitVec k) :
    (v.setWidth k &&& m).setWidth 64 = v &&& ((BitVec.allOnes k).setWidth 64 &&& m.setWidth 64) := by
  rw [BitVec.setWidth_and, setWidth_low, BitVec.and_assoc]

/-- Three bits of a word as a number. -/
theorem toNat_threeBits {n : Nat} (hn : 3 ≤ n) (v : BitVec n) (k : Nat) : ((v >>> k) &&& (7 : BitVec n)).toNat = v.toNat / 2 ^ k % 8 := by
  have h7 : 7 % 2 ^ n = 2 ^ 3 - 1 := Nat.mod_eq_of_lt (Nat.lt_of_lt_of_le (by decide) (Nat.pow_le_pow_right (by decide) hn))
  rw [BitVec.ofNat_eq_ofNat, BitVec.toNat_and, BitVec.toNat_ushiftRight, BitVec.toNat_ofNat, h7, Nat.and_two_pow_sub_one_eq_mod,
    Nat.shiftRight_eq_div_pow]

/-! ### Stored forms (R220, R291, R129) -/

/-- MODE as it reads: an FRND of 5 to 7 is 0. -/
theorem normMode_read (v : Word) : (normMode (v.setWidth 8)).setWidth 64 =
    if 5 ≤ ((v >>> 3) &&& 7).toNat then v &&& 0xC4 else v &&& 0xFC := by
  have hfrnd : (((v.setWidth 8 &&& 0xFC) >>> 3) &&& 7).toNat = ((v >>> 3) &&& 7).toNat := by
    have hmask : ∀ m : BitVec 8, (m &&& 0xFC).toNat / 8 = m.toNat / 8 := by decide
    rw [toNat_threeBits (by decide), toNat_threeBits (by decide), show 2 ^ 3 = 8 from rfl, hmask, BitVec.toNat_setWidth]
    omega
  have h4 : (v.setWidth 8 &&& 0xFC &&& 0xC4).setWidth 64 = v &&& 0xC4 := by
    rw [BitVec.and_assoc, setWidth_low_and]
    rfl
  have hC : (v.setWidth 8 &&& 0xFC).setWidth 64 = v &&& 0xFC := setWidth_low_and 8 v 0xFC#8
  rw [normMode, hfrnd]
  split
  · exact h4
  · exact hC

/-- An entry of the format table as it reads: a rounding code of 6 or 7 is 0. -/
theorem normFmt_eq (v : Word) : normFmt v = if 6 ≤ ((v >>> 5) &&& 7).toNat then v &&& 0x71F else v &&& 0x7FF := by
  have hround : (((v &&& 0x7FF) >>> 5) &&& 7).toNat = ((v >>> 5) &&& 7).toNat := by
    rw [toNat_threeBits (by decide), toNat_threeBits (by decide), BitVec.toNat_and,
      show (0x7FF : Word).toNat = 2 ^ 11 - 1 from rfl, Nat.and_two_pow_sub_one_eq_mod]
    omega
  rw [normFmt, hround]
  split
  · rw [BitVec.and_assoc]
    rfl
  · rfl

/-- The owner that REMOP.NEXT keeps. -/
theorem nextOwner_read (v : Word) : ((v >>> 48).setWidth 16 &&& 0xFF#16).setWidth 64 = (v >>> 48) &&& 0xFF :=
  setWidth_low_and 16 (v >>> 48) 0xFF#16

theorem nextOwner_toNat (v : Word) : ((v >>> 48).setWidth 16 &&& 0xFF#16).toNat = ((v >>> 48) &&& 0xFF).toNat := by
  rw [← nextOwner_read, BitVec.toNat_setWidth, Nat.mod_eq_of_lt (Nat.lt_of_lt_of_le (BitVec.isLt _) (by decide))]

/-- The next serial toward an owner: that of the context's side, 1 toward one to which nothing was sent (R122). -/
theorem State.remop_next (s : State) : s.remop.1 =
    ((s.ctx? s.ctxNo).map (fun c => (c.side s.core.sys.nextOwner.toNat).next)).getD 1 := by
  unfold State.remop
  cases s.ctx? s.ctxNo with
  | none => rfl
  | some c => cases h : c.owner? s.core.sys.nextOwner.toNat <;> simp [Ctx.side, h, OwnerSt.fresh]

/-- A change of one context is seen by that context. -/
theorem State.ctx?_modCtx (s : State) (n : Nat) (f : Ctx → Ctx) (hf : ∀ c, (f c).id = c.id) :
    (s.modCtx n f).ctx? n = (s.ctx? n).map f := by
  have hp : (fun c : Ctx => (if c.id == n then f c else c).id == n) = fun c => c.id == n := by
    funext c
    split <;> simp [hf]
  rw [State.ctx?, State.modCtx_ctxs, List.find?_map, State.ctx?]
  show Option.map _ (s.ctxs.find? (fun c : Ctx => (if c.id == n then f c else c).id == n)) = _
  rw [hp]
  cases hx : s.ctxs.find? (fun c => c.id == n) with
  | none => rfl
  | some c =>
    have hc := List.find?_some hx
    exact congrArg some (if_pos hc)

/-! ### The landing of a system register (R44, R277) -/

/-- What mfs reads of the core's registers and of its contexts. -/
structure State.SameRead (s t : State) : Prop where
  sys : t.core.sys = s.core.sys
  thresholds : t.core.regs.t = s.core.regs.t
  place : t.core.logical = s.core.logical ∧ t.core.die = s.core.die ∧ t.core.pos = s.core.pos
  mash : t.core.mash = s.core.mash
  ctxs : t.ctxs = s.ctxs
  podTime : t.podTime = s.podTime

theorem State.SameRead.sysRead {s t : State} (h : s.SameRead t) (r : SysReg) : t.sysRead r = s.sysRead r := by
  obtain ⟨hlog, hdie, hpos⟩ := h.place
  have hctx : t.ctx? t.ctxNo = s.ctx? s.ctxNo := by rw [State.ctx?, State.ctx?, State.ctxNo, State.ctxNo, h.ctxs, h.sys]
  have herr (f : ErrRegs → Word32) : t.errReg f = s.errReg f := by rw [State.errReg, State.errReg, hctx]
  have hrem : t.remop = s.remop := by rw [State.remop, State.remop, hctx, h.sys]
  cases r <;> simp only [State.sysRead, h.sys, h.thresholds, hlog, hdie, hpos, h.mash, h.podTime, hctx, herr, hrem]

/-- A value that has landed in a system register reads in its stored form. -/
theorem State.sysRead_land1 {s : State} {r : SysReg} {v x : Word} (h : s.storedForm r v = some x) :
    (s.land1 (.sys r v)).1.sysRead r = x := by
  cases r with
  | mode => cases h; exact congrArg ((if s.core.sys.hnd then (0x100 : Word) else 0) ||| ·) (normMode_read v)
  | fmt n => cases h; exact (Vector.getElem_set_self _).trans (normFmt_eq v)
  | rndSeed | faultInfo | faultSeg | faultOrigin | faultDemand | faultNode => cases h; rfl
  | rsv n =>
    cases h
    simp only [State.land1]
    split <;> exact Vector.getElem_set_self _
  | faultCause => cases h; exact setWidth_low 6 v
  | trapVec => cases h; exact setWidth_low_and 48 v 0xFFFF_FFFF_F000
  | trapPc => cases h; exact setWidth_low_and 48 v 0xFFFF_FFFF_FFC0
  | cntT k => cases h; exact (congrArg (BitVec.setWidth 64) (Vector.getElem_set_self _)).trans (setWidth_low 32 v)
  | remopNext =>
    cases h
    refine congrArg₂ (fun (a : Word) b => a <<< 48 ||| BitVec.ofNat 64 b) (nextOwner_read v) ((State.remop_next _).trans ?_)
    rw [← nextOwner_toNat v]
    rfl
  | injDropReply =>
    obtain ⟨c, hc, rfl⟩ := Option.map_eq_some_iff.mp h
    have hx := State.ctx?_modCtx s s.ctxNo (fun c => { c with inj := v &&& 0x8000_FF00_00FF_FFFF }) (fun _ => rfl)
    rw [hc] at hx
    show (match (s.modCtx s.ctxNo (fun c => { c with inj := v &&& 0x8000_FF00_00FF_FFFF })).ctx? s.ctxNo with
      | some c => c.inj
      | none => 0) = _
    rw [hx]
    rfl
  | _ => cases h

/-! ### A handler's store behind an open fence.rel (R117, R372) -/

/-- A core in handler mode with an open fence.rel, in a cycle in which a completion has set flag f3. -/
def fencedHandler : State :=
  { State.reset with
    ctxs := [codeContext 0 0],
    core := { State.reset.core with
      sys := { State.reset.core.sys with hnd := true },
      eng := { Engine.empty with fences := [{ id := 0, scope := .pod, accesses := [], cmds := [], flag := none }] },
      done := [3] } }

/-- The store waits for the fence, and the cycle in which the flag was set is over. -/
theorem exec_stB_fencedHandler : exec (.stB 0 0 0) fencedHandler = .next (fencedHandler.nextCycle.held .fence) := by
  have hs : slotEff (.stB 0 0 0) fencedHandler = .stall .fence := rfl
  rw [exec_eq_settle rfl, hs, settle_stall]
  rfl

end Sys2Proof.Machine

open Sys2Proof.Machine

/-- Settles O16: the landing of the register, and what its reads make of the bits that it keeps. -/
theorem systemRegisterReadsBack : Obligations.SystemRegisterReadsBack := by
  intro s r v x hf hx
  have hp : ∀ e ∈ s.core.flight, e.plain := by
    rw [hf]
    exact List.forall_mem_cons.mpr ⟨⟨rfl, rfl⟩, fun e he => absurd he List.not_mem_nil⟩
  have hland := State.sysRead_land1 (s := s.modCore (fun c => c.counted [])) (r := r) (v := v) (x := x) hx
  refine ⟨s.landStep, rfl, ?_⟩
  rw [State.landStep_plain hp, State.passPosition_one hf (fun e he => absurd he List.not_mem_nil)]
  generalize ht : State.modCore (State.landAll _ _) _ = t
  obtain ⟨dn, -, hset⟩ := t.settleDone_cases
  have hsame : ((s.modCore (fun c => c.counted [])).land1 (.sys r v)).1.SameRead (t.modCore (fun c => { c with done := dn })) := by
    rw [← ht]
    exact ⟨rfl, rfl, ⟨rfl, rfl, rfl⟩, rfl, rfl, rfl⟩
  rw [hset, hsame.sysRead, hland]

/-- Refutes O29: a store that finds a fence.rel open waits beyond its cycle, and so ends the cycle in which a completion has set a
flag (R44, R45); the statement has the state in which the core is held differ by the hold alone. -/
theorem not_handlerStores : ¬ Obligations.HandlerStores := by
  intro h
  have hlanes : fencedHandler.lanes 1 1 [0 + (0 : BitVec 15).signExtend 64] = .ok [(spadBase 0, 1)] := rfl
  have hown : ∃ l ∈ [(spadBase 0, 1)], inSpad fencedHandler.cur l.1 = true := ⟨_, List.mem_singleton_self _, by decide⟩
  have heq := (h (.stB 0 0 0) fencedHandler _ _ rfl hlanes ⟨rfl, fun n hn => absurd hn List.not_mem_nil⟩ rfl).1
    (List.cons_ne_nil _ _) hown
  rw [exec_stB_fencedHandler] at heq
  have hdone : ([] : List FlagNo) = [3] := congrArg (fun t => t.core.done) (Host.Outcome.next.inj heq)
  exact absurd hdone (by decide)
end

section
/-! PROOFS. A committed command whose source has faulted before its operation was sent (R104, R122). -/

open Sys2Proof

namespace Sys2Proof.Machine

/-- A sacc of one element from the own scratchpad to a tensor of package 1. -/
def unsentSacc : Cmd :=
  { id := 0,
    op := .sacc .add
      { src := { kind := 0, fmt := some .fp32, id := 63, base := 0 }, dst := { kind := 3, fmt := none, id := 1, base := 0 },
        rnd := .rne, sat := false, ftz := false, noAlloc := false, pkg := 1, subop := 0, dims := [⟨1, 1, 1⟩] },
    flag := none, cls := 2, x := false, addr := 0, seg := 0, committed := true, pos := 0, after := [], discard := false,
    fault := some (.cause Cause.protection (sideInfo 0 63)), wait := .op 1 1, accs := [], clean := [], handler := false }

/-- A running core whose one command is that sacc: it holds serial 1 toward package 1, and its source has faulted before it was sent. -/
def unsentFault : State :=
  { State.reset with
    ctxs := [{ codeContext 0 0 with owners := [{ OwnerSt.fresh 1 with next := 2, ops :=
      [{ serial := 1, req := none, core := 0, cmd := 0, busy := 0, tries := 0, sentAt := 0, busyAt := none, completed := false }] }] }],
    core := { State.reset.core with run := .running, eng := { Engine.empty with cmds := [unsentSacc] } } }

/-- For each operation that the contexts keep, whether it has completed. -/
def State.opsCompleted (s : State) : List Bool :=
  s.ctxs.flatMap (fun c => c.owners.flatMap (fun w => w.ops.map (fun o => o.completed)))

/-- The command traps late and leaves the engine, and its operation no longer holds others back. -/
theorem exec_copyCommandFault_unsent : exec (.copyCommandFault 0) unsentFault =
    .next ((unsentFault.lateTrapOf unsentSacc Cause.protection (sideInfo 0 63)).abandonCmd unsentSacc) := rfl

theorem abandonCmd_unsent_opsCompleted :
    ((unsentFault.lateTrapOf unsentSacc Cause.protection (sideInfo 0 63)).abandonCmd unsentSacc).opsCompleted = [true] := rfl

end Sys2Proof.Machine

open Sys2Proof.Machine

/-- Refutes O54: a committed command that faults before its operation was sent gives up the place of its serial, so that younger
operations go out (R104, R122); the statement has its late trap and its removal from the engine as the only changes. -/
theorem not_commandAndTrapEvents : ¬ Obligations.CommandAndTrapEvents := by
  intro h
  obtain ⟨-, -, -, hfault, -⟩ := h
  have heq := (hfault unsentFault unsentSacc _ _ ⟨rfl, rfl, rfl, rfl, rfl, rfl⟩ rfl rfl).2 rfl
  have hexec : exec (.copyCommandFault unsentSacc.id) unsentFault = _ := exec_copyCommandFault_unsent
  rw [hexec] at heq
  have hops := congrArg State.opsCompleted (Host.Outcome.next.inj heq)
  rw [abandonCmd_unsent_opsCompleted] at hops
  exact absurd hops (by decide)
end

section
/-! PROOFS. Remote operations at the owner and at the requester (R113, R122 to R126, R129, R324, R326, R403). -/

open Sys2Proof

namespace Sys2Proof.Machine

/-! ### The focused core, its commands and counters -/

@[simp] theorem State.focus_cur (s : State) : s.focus s.cur = s := if_pos rfl

/-- What the focused core does is done where it stands. -/
theorem State.onCore_cur {s : State} {f : State → State} (h : (f s).cur = s.cur) : s.onCore s.cur f = f s := by
  rw [State.onCore, State.focus_cur]
  exact if_pos h.symm

/-- The only command of the engine completes: none is left, and its flag is set. -/
theorem State.finishCmd_only {s : State} {c k : Cmd} (h : s.core.eng.cmds = [k]) (hid : k.id = c.id) (hd : c.discard = false) :
    ∃ log, s.finishCmd c = { s with core := { s.core with
      eng := { s.core.eng with cmds := [] }, regs := s.core.regs.flagged c.flag, log := log } } := by
  obtain ⟨log, hlog⟩ := State.raiseFlag?_eq (s.dropCmd c.id) c.flag c.committed
  refine ⟨log, ?_⟩
  rw [State.finishCmd, hd, if_neg Bool.false_ne_true, hlog]
  simp [State.dropCmd, State.modCore, h, hid]

theorem Engine.cmd?_only {e : Engine} {k : Cmd} (h : e.cmds = [k]) : e.cmd? k.id = some k := by
  simp [Engine.cmd?, h]

theorem Regs.increment_eq (r : Regs) (k : CtrNo) (n : Word32) : r.increment k n = r.added k n := by
  rw [Regs.added, Regs.compared_eq, Regs.increment]
  split
  · next f hf => rw [hf]; rfl
  · next hf => rw [hf]; rfl

/-- No result of a list writes the counter, so no increment waits behind one. -/
theorem incBehind_none {k : CtrNo} {n : Word32} {es : List InFlight}
    (h : ∀ e ∈ es, (∀ v, e.what ≠ .ctr k v) ∧ ∀ n, e.what ≠ .cset k n) : incBehind k n es = none := by
  have hf : es.reverse.find? (InFlight.writesCtr k) = none := by
    rw [List.find?_eq_none]
    intro e he hw
    obtain ⟨hctr, hcset⟩ := h e (List.mem_reverse.mp he)
    unfold InFlight.writesCtr at hw
    split at hw
    · next j v hv => exact hctr v (by rw [hv, beq_iff_eq.mp hw])
    · next j m hv => exact hcset m (by rw [hv, beq_iff_eq.mp hw])
    · cases hw
  rw [incBehind, hf, Option.map_none]

/-- An increment that meets no write of its counter is added now (R277). -/
theorem Core.increment_now {s : State} {k : CtrNo} (h : s.noWriteOf k) (n : Word32) (old : Bool) :
    ∃ log, s.core.increment k n old = { s.core with regs := s.core.regs.added k n, log := log } := by
  have hflight : incBehind k n s.core.flight = none := incBehind_none (fun e he => h e (List.mem_append_left _ he))
  have hlate : incBehind k n s.core.late = none := incBehind_none (fun e he => h e (List.mem_append_right _ he))
  refine ⟨if old then s.core.log ++ [.inc k n] else s.core.log, ?_⟩
  rw [Core.increment, hflight, hlate, ← Regs.increment_eq]

/-- A signal that finds the focused core live increments its counter (R114). -/
theorem State.takeSignal_live {s : State} {ctx core : Nat} (h : s.liveHere ctx core) (k : CtrNo) (n : Word32) (old : Bool) :
    s.takeSignal ctx core k n old = (s.modCore (fun c => c.increment k n old), true) := by
  obtain ⟨rfl, hrun, htask, x, hx, hcur, hsaved⟩ := h
  have hlive : (!x.cores.contains s.cur || s.core.run == .outOfService) = false := by simp [hcur, hrun]
  have hctx : ¬ (s.core.task.isSome && s.core.sys.ctxId.toNat != ctx) = true := by
    intro hc
    obtain ⟨ht, hne⟩ := Bool.and_eq_true_iff.mp hc
    exact absurd (htask ht) (by simpa using hne)
  simp only [State.takeSignal, hx, State.getCore_cur, hlive, hsaved, List.find?_nil, hctx, Bool.false_eq_true, if_false,
    State.increment, State.modCoreAt_cur]

/-! ### A context's side toward an owner (R122, R123) -/

/-- No core of a context is switched out. -/
def State.noneSaved (s : State) (ctx : Nat) : Prop := ∀ c, s.ctx? ctx = some c → c.saved = []

/-- What a change of a context's side toward an owner leaves as it was. -/
structure State.SideFrame (s t : State) : Prop where
  core : t.core = s.core
  cur : t.cur = s.cur
  mem : t.mem = s.mem
  fabric : t.fabric = s.fabric
  ports : t.ports = s.ports
  podTime : t.podTime = s.podTime

theorem State.SideFrame.refl (s : State) : s.SideFrame s := ⟨rfl, rfl, rfl, rfl, rfl, rfl⟩

theorem State.SideFrame.trans {s t u : State} (h : s.SideFrame t) (g : t.SideFrame u) : s.SideFrame u :=
  ⟨g.core.trans h.core, g.cur.trans h.cur, g.mem.trans h.mem, g.fabric.trans h.fabric, g.ports.trans h.ports,
    g.podTime.trans h.podTime⟩

theorem State.putSide_frame (s : State) (ctx : Nat) (w : OwnerSt) : s.SideFrame (s.putSide ctx w) := ⟨rfl, rfl, rfl, rfl, rfl, rfl⟩

theorem State.countErr_sideFrame (s : State) (n : Nat) (f : ErrRegs → ErrRegs) : s.SideFrame (s.countErr n f) := by
  unfold State.countErr
  repeat' split
  all_goals exact ⟨rfl, rfl, rfl, rfl, rfl, rfl⟩

theorem State.advanceAck_frame (s : State) (ctx owner : Nat) : s.SideFrame (s.advanceAck ctx owner) := by
  unfold State.advanceAck
  dsimp only
  split
  · exact State.putSide_frame ..
  · exact .refl s

theorem State.carryAck_frame (s : State) (ctx o : Nat) : s.SideFrame (s.carryAck ctx o).1 := by
  unfold State.carryAck
  split
  · exact State.putSide_frame ..
  · exact .refl s

/-- The acknowledgement that a packet carries is the present one of its side (R123). -/
theorem State.carryAck_ack (s : State) (ctx o : Nat) : (s.carryAck ctx o).2 = (s.side ctx o).acked := by
  unfold State.carryAck State.side
  cases s.ctx? ctx with
  | none => rfl
  | some c => cases h : c.owner? o <;> simp [Ctx.side, h, OwnerSt.fresh]

theorem State.modCtx_noneSaved {s : State} {ctx : Nat} {f : Ctx → Ctx} (hf : ∀ c, (f c).id = c.id ∧ (f c).saved = c.saved)
    (h : s.noneSaved ctx) : (s.modCtx ctx f).noneSaved ctx := by
  intro c hc
  rw [State.ctx?_modCtx s ctx f (fun c => (hf c).1)] at hc
  obtain ⟨x, hx, rfl⟩ := Option.map_eq_some_iff.mp hc
  exact (hf x).2.trans (h x hx)

theorem State.putSide_noneSaved {s : State} {ctx : Nat} (w : OwnerSt) (h : s.noneSaved ctx) : (s.putSide ctx w).noneSaved ctx :=
  State.modCtx_noneSaved (fun _ => ⟨rfl, rfl⟩) h

theorem State.advanceAck_noneSaved {s : State} {ctx : Nat} (owner : Nat) (h : s.noneSaved ctx) :
    (s.advanceAck ctx owner).noneSaved ctx := by
  unfold State.advanceAck
  dsimp only
  split
  · exact State.putSide_noneSaved _ h
  · exact h

/-- An error counted for a context leaves its sides as they were. -/
theorem State.side_countErr (s : State) (ctx o : Nat) (f : ErrRegs → ErrRegs) : (s.countErr ctx f).side ctx o = s.side ctx o := by
  have hctxs : (s.countErr ctx f).ctxs = (s.modCtx ctx (fun c => { c with err := f c.err })).ctxs := by
    unfold State.countErr
    repeat' split
    all_goals rfl
  have hctx : (s.countErr ctx f).ctx? ctx = (s.ctx? ctx).map (fun c => { c with err := f c.err }) := by
    rw [State.ctx?, hctxs]
    exact State.ctx?_modCtx s ctx _ (fun _ => rfl)
  rw [State.side, hctx, State.side]
  cases s.ctx? ctx <;> rfl

/-! ### Ports (R124, R326) -/

@[simp] theorem State.modPort_port (s : State) (die : Bool) (f : Port → Port) :
    (s.modPort die f).ports[dieNo die] = f s.ports[dieNo die] :=
  Vector.getElem_set_self _

/-- An act on the ports of both dies. -/
theorem State.modPorts_port (s : State) (f : Port → Port) (k : Fin 2) :
    ((s.modPort false f).modPort true f).ports[k] = f s.ports[k] := by
  match k with
  | 0 => simp [State.modPort, dieNo]
  | 1 => simp [State.modPort, dieNo]

/-- The first acknowledgement of a pair retires what it covers. -/
theorem Port.ack_first {p : Port} (h : p.acks = []) (pkg ctx n : Nat) : p.ack pkg ctx n =
    { p with acks := [(pkg, ctx, n)],
             cache := p.cache.filter (fun e => !(e.pkg == pkg && e.ctx == ctx && !newer e.serial n)) } := by
  simp [Port.ack, h]

theorem State.takeAck_port (s : State) (pkg ctx n : Nat) (k : Fin 2) : (s.takeAck pkg ctx n).ports[k] = s.ports[k].ack pkg ctx n :=
  s.modPorts_port _ k

/-- What the fabric brings takes effect once its ports are up (R396). -/
theorem State.fromFabric_up {s : State} (h : s.malt.links.fabric = true) (t : State) : s.fromFabric t = .next t :=
  congrArg Host.Outcome.next (if_pos h)

theorem State.fromFabric_down {s : State} (h : s.malt.links.fabric = false) (t : State) : s.fromFabric t = .next s := by
  rw [State.fromFabric, h]
  rfl

/-- An answer goes out with the acknowledgement of the own side, and changes nothing else but that side's note of it. -/
theorem State.answer_sent {s : State} {r : RemReq} (h : r.cls ≠ 0) (inc : Nat) (b : RepBody) :
    (s.answer r inc b).fabric.sent = s.fabric.sent ++ [s.replyTo r inc b] ∧ (s.answer r inc b).core = s.core ∧
      (s.answer r inc b).mem = s.mem ∧ (s.answer r inc b).ports = s.ports := by
  have hf := s.carryAck_frame r.ctx r.pkg
  have he : s.answer r inc b = (s.carryAck r.ctx r.pkg).1.send (s.replyTo r inc b) := by
    rw [State.answer, if_neg h, State.replyTo, ← State.carryAck_ack]
  rw [he]
  exact ⟨congrArg (fun f : Fabric => f.sent ++ [s.replyTo r inc b]) hf.fabric, hf.core, hf.mem, hf.ports⟩

theorem State.ports_empty {s : State} (h : ∀ q ∈ s.ports.toList, q.cache = []) (k : Fin 2) : s.ports[k].cache = [] :=
  h _ (by simp)

theorem Port.knows_nothing {p : Port} (h : p.cache = []) (r : RemReq) : p.knows r = false := by
  simp [Port.knows, h]

/-- The die of a signal that no port knows is that of its target core. -/
theorem State.portDie_signal {s : State} {r : RemReq} {core : Nat} {k : CtrNo} {n : Word32} (hb : r.body = .ssig core k n)
    (h : ∀ q ∈ s.ports.toList, q.cache = []) : s.portDie r = decide (48 ≤ core) := by
  have h0 : s.ports[0].knows r = false := Port.knows_nothing (State.ports_empty h 0) r
  have h1 : s.ports[1].knows r = false := Port.knows_nothing (State.ports_empty h 1) r
  simp only [State.portDie, h0, h1, hb, Bool.false_eq_true, if_false]

/-- The die of a request that one port knows is that port's. -/
theorem State.portDie_known {s : State} {r : RemReq} {die : Bool} (h : s.ports[dieNo die].knows r = true)
    (ho : s.ports[dieNo (!die)].cache = []) : s.portDie r = die := by
  unfold State.portDie
  cases die with
  | false => exact if_pos h
  | true =>
    have h0 : s.ports[0].knows r = false := Port.knows_nothing ho r
    rw [if_neg (ne_true_of_eq_false h0)]
    exact if_pos h

/-- The pending entry of a request that its port begins to execute. -/
def pendingEntry (r : RemReq) (inc : Nat) : ReplyEntry :=
  { pkg := r.pkg, ctx := r.ctx, serial := r.serial, rep := .busy, inc := inc, pending := true }

/-- A request that no entry, acknowledgement or restart stands against is executed at its port. -/
theorem State.takeRequest_new {s : State} {r : RemReq} {die : Bool} {p : Port} (hd : s.portDie r = die) (hp : s.ports[dieNo die] = p)
    (hs : serialised r.body = true) (hc : p.cache = []) (ha : p.acks = []) (hi : r.retx = false ∨ r.inc = p.inc) :
    s.takeRequest r = ((s.modPort die (fun p => { p with cache := p.cache ++ [pendingEntry r p.inc] })).portRun
      die r).takeAck r.pkg r.ctx r.ack := by
  have hi' : (r.retx && r.inc != p.inc) = false := by
    rcases hi with h | h <;> simp [h]
  simp only [State.takeRequest, hd, hp, hs, ha, hc, hi', List.find?_nil, Bool.not_true, Bool.false_eq_true, if_false, List.length_nil,
    show ¬ 65536 ≤ 0 by omega]
  rfl

/-- A request that its port knows is answered again without effect. -/
theorem State.takeRequest_known {s : State} {r : RemReq} {die : Bool} {p : Port} {e : ReplyEntry} (hd : s.portDie r = die)
    (hp : s.ports[dieNo die] = p) (hs : serialised r.body = true) (hc : p.cache = [e]) (ha : p.acks = []) (he : e.isFor r = true)
    (hn : e.pending = false) : s.takeRequest r = (s.answer r e.inc (cachedAnswer e.rep)).takeAck r.pkg r.ctx r.ack := by
  simp only [State.takeRequest, hd, hp, hs, ha, hc, hn, List.find?_nil, Bool.not_true, Bool.false_eq_true, if_false,
    List.find?_cons, he]

/-- The execution of a signal that finds its core live: the increment, and an answer that is kept. -/
theorem State.portRun_signal {s : State} {r : RemReq} {core : Nat} {k : CtrNo} {n : Word32} (die : Bool) (hb : r.body = .ssig core k n)
    (hl : s.liveHere r.ctx core) : s.portRun die r =
      ((s.modCore (fun c => c.increment k n true)).modPort die (fun p => p.settle r (.ok false 0))).answer r
        s.ports[dieNo die].inc (.ok false 0) := by
  simp only [State.portRun, State.portExec, hb, State.takeSignal_live hl, if_true]

/-- A new signal executes once, and its answer is sent and kept (R113, R124). -/
theorem exec_remoteRequest_new {s : State} {r : RemReq} {core : Nat} {k : CtrNo} {n : Word32} {die : Bool} {p : Port}
    (hup : s.malt.links.fabric = true) (hb : r.body = .ssig core k n) (hl : s.liveHere r.ctx core) (hw : s.noWriteOf k)
    (hcls : r.cls ≠ 0) (hdie : die = decide (48 ≤ core)) (hp : s.ports[dieNo die] = p) (hc : ∀ q ∈ s.ports.toList, q.cache = [])
    (ha : p.acks = []) (hi : r.retx = false ∨ r.inc = p.inc) (hn : newer r.serial r.ack = true) :
    ∃ t, exec (.remoteRequest r) s = .next t ∧ t.core.regs = s.core.regs.added k n ∧ t.mem = s.mem ∧
      t.fabric.sent = s.fabric.sent ++ [s.replyTo r p.inc (.ok false 0)] ∧
      (t.ports[dieNo die]).cache = [ReplyEntry.mk r.pkg r.ctx r.serial (.ok false 0) p.inc false] := by
  have hcache : p.cache = [] := by rw [← hp]; exact State.ports_empty hc _
  have hserial : serialised r.body = true := by rw [hb]; rfl
  have hd : s.portDie r = die := (State.portDie_signal hb hc).trans hdie.symm
  let s1 := s.modPort die (fun p => { p with cache := p.cache ++ [pendingEntry r p.inc] })
  let s2 := (s1.modCore (fun c => c.increment k n true)).modPort die (fun p => p.settle r (.ok false 0))
  have hport1 : s1.ports[dieNo die] = { p with cache := [pendingEntry r p.inc] } := by
    rw [State.modPort_port, hp, hcache]
    rfl
  have hport2 : s2.ports[dieNo die] = { p with
      cache := [ReplyEntry.mk r.pkg r.ctx r.serial (.ok false 0) p.inc false], waiting := p.waiting.filter (fun q => q != r) } := by
    have h2 : s2.ports[dieNo die] = (s1.ports[dieNo die]).settle r (.ok false 0) := State.modPort_port ..
    rw [h2, hport1]
    simp [Port.settle, hserial, ReplyEntry.isFor, pendingEntry]
  have hrun : s1.portRun die r = s2.answer r p.inc (.ok false 0) := by
    rw [State.portRun_signal (s := s1) die hb hl, hport1]
  obtain ⟨hsent, hcore, hmem, hports⟩ := State.answer_sent (s := s2) hcls p.inc (.ok false 0)
  obtain ⟨log, hlog⟩ := Core.increment_now hw n true
  refine ⟨(s2.answer r p.inc (.ok false 0)).takeAck r.pkg r.ctx r.ack, ?_, ?_, hmem, hsent, ?_⟩
  · show s.fromFabric (s.takeRequest r) = _
    rw [State.fromFabric_up hup, State.takeRequest_new hd hp hserial hcache ha hi, hrun]
  · exact (congrArg Core.regs hcore).trans (congrArg Core.regs hlog)
  · have hacks : (s2.ports[dieNo die]).acks = [] := by
      rw [hport2]
      exact ha
    rw [State.takeAck_port, hports, Port.ack_first hacks, hport2]
    simp [hn]

/-- A known request is answered again with its first result (R124). -/
theorem exec_remoteRequest_known {s : State} {r : RemReq} {die : Bool} {p : Port} {e : ReplyEntry} (hup : s.malt.links.fabric = true)
    (hs : serialised r.body = true) (hcls : r.cls ≠ 0) (hp : s.ports[dieNo die] = p) (hc : p.cache = [e])
    (ho : (s.ports[dieNo (!die)]).cache = []) (ha : p.acks = []) (hpkg : e.pkg = r.pkg) (hctx : e.ctx = r.ctx)
    (hser : e.serial = r.serial) (hn : e.pending = false) :
    ∃ t, exec (.remoteRequest r) s = .next t ∧ t.core = s.core ∧ t.mem = s.mem ∧
      t.fabric.sent = s.fabric.sent ++ [s.replyTo r e.inc (cachedAnswer e.rep)] := by
  have he : e.isFor r = true := by simp [ReplyEntry.isFor, hpkg, hctx, hser]
  have hk : s.ports[dieNo die].knows r = true := by simp [Port.knows, hs, hp, hc, he]
  obtain ⟨hsent, hcore, hmem, -⟩ := State.answer_sent (s := s) hcls e.inc (cachedAnswer e.rep)
  refine ⟨(s.answer r e.inc (cachedAnswer e.rep)).takeAck r.pkg r.ctx r.ack, ?_, hcore, hmem, hsent⟩
  show s.fromFabric (s.takeRequest r) = _
  rw [State.fromFabric_up hup, State.takeRequest_known (State.portDie_known hk ho) hp hs hc ha he hn]

/-! ### An operation that is out (R112, R125) -/

/-- An answered command that is a signal completes; of the statuses beyond 1 a late trap tells (R126). -/
theorem State.finishAnswer_signal {s : State} {c k : Cmd} (h : s.core.eng.cmds = [k]) (hid : k.id = c.id) (hd : c.discard = false)
    (hop : ∃ n i p v l, c.op = .ssig n i p v l) (old : Word) (serial : Nat) (cause : BitVec 6) :
    (∃ log, s.finishAnswer c 0 old serial cause = { s with core := { s.core with
      eng := { s.core.eng with cmds := [] }, regs := s.core.regs.flagged c.flag, log := log } }) ∧
    (∃ log, s.finishAnswer c 2 old serial cause = { s with core := { s.core with
      eng := { s.core.eng with cmds := [] }, regs := s.core.regs.flagged c.flag, log := log,
      lateTraps := s.core.lateTraps ++
        [{ cause := Cause.remoteIndeterminate, info := 2, origin := some (originWord c.origin) }] } }) := by
  obtain ⟨n, i, p, v, l, hop⟩ := hop
  obtain ⟨log, hlog⟩ := State.finishCmd_only h hid hd
  refine ⟨⟨log, ?_⟩, ⟨log, ?_⟩⟩
  · simp only [State.finishAnswer, hop, hd, hlog]
    rfl
  · simp only [State.finishAnswer, hop, hd, hlog]
    rfl

section
variable {s : State} {ctx owner serial : Nat} {c : Ctx} {w : OwnerSt} {o : RemOp} {k : Cmd} (h : s.outOp ctx owner serial c w o k)
include h

theorem State.outOp.contextNoneSaved : s.noneSaved ctx := by
  intro x hx
  rw [h.isCtx] at hx
  cases hx
  exact h.noneSaved

theorem State.outOp.found : w.ops.find? (fun x => x.serial == serial && !x.completed && decide (0 < x.tries)) = some o := by
  simp [h.oneOp, h.isSerial, h.isOpen, h.isSent]

theorem State.outOp.opOut : s.opOut ctx owner serial = some o := by
  rw [State.opOut, h.isSide, h.found]

/-- An operation whose context has no saved core is recorded at the focused core that has issued it. -/
theorem State.recordOp_out {t : State} (hf : s.SideFrame t) (hs : t.noneSaved ctx) (status : Nat) (old : Word) (cause : BitVec 6)
    (hcur : (t.finishAnswer { k with wait := .answered status old o.serial cause } status old o.serial cause).cur = t.cur) :
    t.recordOp ctx o status old cause =
      t.finishAnswer { k with wait := .answered status old o.serial cause } status old o.serial cause := by
  have hnone : (t.ctx? ctx).bind (fun c => c.saved.find? (fun e => e.1 % 128 == o.core && (e.2.eng.cmd? o.cmd).isSome)) = none := by
    cases hx : t.ctx? ctx with
    | none => rfl
    | some x => simp [hs x hx]
  have hcmd : t.core.eng.cmd? o.cmd = some k := by
    rw [h.ofCmd, hf.core]
    exact Engine.cmd?_only h.oneCmd
  have hcore : o.core = t.cur := h.ofCore.trans hf.cur.symm
  rw [State.recordOp, hnone]
  dsimp only
  rw [hcore, State.onCore_cur] <;> rw [hcmd]
  exact hcur

omit h in
/-- An operation completes at its side first, and then at its command. -/
theorem State.completeOp_eq {t : State} (hf : s.SideFrame t) (hs : t.noneSaved ctx) (status : Nat) (old : Word) (cause : BitVec 6) :
    ∃ t', s.SideFrame t' ∧ t'.noneSaved ctx ∧ t.completeOp ctx owner o status old cause = t'.recordOp ctx o status old cause :=
  ⟨_, hf.trans ((State.putSide_frame ..).trans (State.advanceAck_frame ..)),
    State.advanceAck_noneSaved owner (State.putSide_noneSaved _ hs), rfl⟩

/-- A signal that is out completes: its command is gone, and its flag is set. -/
theorem State.completeOp_done (hop : ∃ n i p v l, k.op = .ssig n i p v l) (old : Word) :
    ∃ t, s.completeOp ctx owner o 0 old 0 = t ∧ t.core.eng.cmds = [] ∧ t.core.regs = s.core.regs.flagged k.flag ∧
      t.core.lateTraps = s.core.lateTraps ∧ t.mem = s.mem := by
  obtain ⟨t, hf, hs, ht⟩ := State.completeOp_eq (.refl s) h.contextNoneSaved 0 old 0
  have hcmds : t.core.eng.cmds = [k] := (congrArg (fun c : Core => c.eng.cmds) hf.core).trans h.oneCmd
  obtain ⟨⟨log, hlog⟩, -⟩ := State.finishAnswer_signal (c := { k with wait := .answered 0 old o.serial 0 }) hcmds rfl h.isKept hop
    old o.serial 0
  refine ⟨_, rfl, ?_⟩
  rw [ht, State.recordOp_out h hf hs 0 old 0 (by rw [hlog]), hlog, hf.core]
  exact ⟨rfl, rfl, rfl, hf.mem⟩

/-- A signal that is out completes INDETERMINATE, whatever the tick: a late trap tells it (R126). -/
theorem State.completeOp_indeterminate (hop : ∃ n i p v l, k.op = .ssig n i p v l) (old : Word) :
    ∃ t, s.bump.completeOp ctx owner o 2 old 0 = t ∧ t.core.eng.cmds = [] ∧ t.core.regs = s.core.regs.flagged k.flag ∧
      t.core.lateTraps = s.core.lateTraps ++
        [{ cause := Cause.remoteIndeterminate, info := 2, origin := some (originWord k.origin) }] := by
  obtain ⟨t, hf, hs, ht⟩ := State.completeOp_eq (s := s) (t := s.bump) ⟨rfl, rfl, rfl, rfl, rfl, rfl⟩ h.contextNoneSaved 2 old 0
  have hcmds : t.core.eng.cmds = [k] := (congrArg (fun c : Core => c.eng.cmds) hf.core).trans h.oneCmd
  obtain ⟨-, log, hlog⟩ := State.finishAnswer_signal (c := { k with wait := .answered 2 old o.serial 0 }) hcmds rfl h.isKept hop
    old o.serial 0
  refine ⟨_, rfl, ?_⟩
  rw [ht, State.recordOp_out h hf hs 2 old 0 (by rw [hlog]), hlog, hf.core]
  exact ⟨rfl, rfl, rfl⟩

/-- What is sent again is the first request, marked, with the present acknowledgement (R125). -/
theorem State.resend_sent {q : RemReq} (hq : o.req = some q) (count : Bool) :
    (s.resend ctx owner o count).core = s.core ∧ (s.resend ctx owner o count).mem = s.mem ∧
      (s.resend ctx owner o count).fabric.sent = s.fabric.sent ++ [.request { q with retx := true, ack := w.acked }] := by
  have hcount : ∃ t, (if count then s.countErr ctx (fun e => { e with rtx := satInc e.rtx }) else s) = t ∧ s.SideFrame t ∧
      t.side ctx owner = w := by
    refine ⟨_, rfl, ?_⟩
    split
    · exact ⟨State.countErr_sideFrame .., (State.side_countErr ..).trans h.isSide⟩
    · exact ⟨.refl s, h.isSide⟩
  obtain ⟨t, ht, hf, hside⟩ := hcount
  have hc := t.carryAck_frame ctx owner
  have hr : s.resend ctx owner o count = ((((t.carryAck ctx owner).1.modSide ctx owner (fun x => x.putOp
      { o with req := some { q with retx := true, ack := w.acked }, tries := o.tries + 1, sentAt := t.podTime.toNat, busyAt := none
        })).noteRetx o { q with retx := true, ack := w.acked }).send (.request { q with retx := true, ack := w.acked })) := by
    rw [← hside, ← State.carryAck_ack]
    simp only [State.resend, hq, ht]
  rw [hr]
  have hsent : (t.carryAck ctx owner).1.fabric.sent ++ [.request { q with retx := true, ack := w.acked }] =
      s.fabric.sent ++ [.request { q with retx := true, ack := w.acked }] := by
    rw [hc.fabric, hf.fabric]
  exact ⟨hc.core.trans hf.core, hc.mem.trans hf.mem, hsent⟩

/-- Until the timeout of its class nothing is sent, and not for an operation that was answered BUSY. -/
theorem exec_remoteTimeout_early {q : RemReq} (hq : o.req = some q)
    (he : s.timedOut ctx q.cls o.sentAt = false ∨ o.busyAt.isSome = true) : exec (.remoteTimeout ctx owner serial) s = .next s := by
  have hcls : o.cls = q.cls := by simp [RemOp.cls, hq]
  have hstop : (o.busyAt.isSome || !s.timedOut ctx o.cls o.sentAt) = true := by
    rw [hcls]
    rcases he with he | he <;> simp [he]
  show Host.Outcome.next (s.timeOut ctx owner serial) = _
  simp only [State.timeOut, h.isCtx, h.opOut, hstop, if_true]

/-- After the timeout of its class an operation is sent again (R125, R403). -/
theorem exec_remoteTimeout_again {q : RemReq} (hq : o.req = some q) (hb : o.busyAt = none)
    (ht : s.timedOut ctx q.cls o.sentAt = true) (hl : o.tries < tmoLimit c.tmo) :
    exec (.remoteTimeout ctx owner serial) s = .next (s.resend ctx owner o true) := by
  have hcls : o.cls = q.cls := by simp [RemOp.cls, hq]
  show Host.Outcome.next (s.timeOut ctx owner serial) = _
  simp only [State.timeOut, h.isCtx, h.opOut, hcls, hb, ht, Nat.not_le.mpr hl, Option.isSome_none, Bool.not_true, Bool.or_false,
    Bool.false_eq_true, if_false]

/-- After LIMIT transmissions an operation completes INDETERMINATE (R125). -/
theorem exec_remoteTimeout_limit {q : RemReq} (hq : o.req = some q) (hb : o.busyAt = none)
    (ht : s.timedOut ctx q.cls o.sentAt = true) (hl : tmoLimit c.tmo ≤ o.tries) :
    exec (.remoteTimeout ctx owner serial) s = .next (s.bump.completeOp ctx owner o 2 (Config.openOld s.tick) 0) := by
  have hcls : o.cls = q.cls := by simp [RemOp.cls, hq]
  show Host.Outcome.next (s.timeOut ctx owner serial) = _
  simp only [State.timeOut, h.isCtx, h.opOut, hcls, hb, ht, hl, Option.isSome_none, Bool.not_true, Bool.or_false,
    Bool.false_eq_true, if_false, if_true]

/-- An operation that was answered BUSY is sent again after the timeout of its class, and not before (R125). -/
theorem exec_busyBackoffExpiry {q : RemReq} {since : Nat} (hq : o.req = some q) (hb : o.busyAt = some since) :
    exec (.busyBackoffExpiry ctx owner serial) s =
      .next (if s.timedOut ctx q.cls since then s.resend ctx owner o false else s) := by
  have hcls : o.cls = q.cls := by simp [RemOp.cls, hq]
  show execBusyBackoffExpiry ctx owner serial s = _
  simp only [execBusyBackoffExpiry, h.opOut, hb, hcls]

/-- The answer to a signal that is out completes it, unless the injection of R399 takes the answer away. -/
theorem exec_remoteReply_signal {r : RemRep} {old : Word} (hup : s.malt.links.fabric = true) (hctx : r.ctx = ctx)
    (hown : r.owner = owner) (hser : r.serial = serial) (hb : r.body = .ok false old) (hinj : dropFires c.inj owner serial = false)
    (hinc : w.inc = some r.inc) :
    exec (.remoteReply r) s = .next ((s.completeOp ctx owner o 0 old 0).takeAck owner ctx r.ack) := by
  have hans : opAnswer r = true := by simp [opAnswer, hb]
  have hreply : s.opReply r = s.completeOp ctx owner o 0 old 0 := by
    simp [State.opReply, hctx, hown, hser, h.isSide, h.found, hinc, hb]
  have huse : s.useReply r = s.completeOp ctx owner o 0 old 0 := by
    simp only [State.useReply, hb, hans, if_true, hreply]
  show s.fromFabric (s.takeReply r) = _
  rw [State.fromFabric_up hup, State.takeReply, hans, hctx, hown, hser, h.isCtx, Option.map_some, hinj, huse]
  rfl

end

/-! ### Acknowledgements, queries, notices and restarts (R123, R124, R324) -/

/-- An advanced acknowledgement goes out alone 50 µs after the last, and not before (R123). -/
theorem exec_ackAlone {s : State} {ctx owner : Nat} (h : newer (s.side ctx owner).acked (s.side ctx owner).ackSent = true) :
    exec (.ackAlone ctx owner) s = .next (if (s.side ctx owner).ackAt + 50000 ≤ s.podTime.toNat then
      (s.putSide ctx { s.side ctx owner with ackSent := (s.side ctx owner).acked, ackAt := s.podTime.toNat }).send
        (.ack s.fabric.self ctx owner (s.side ctx owner).acked) else s) := by
  show execAckAlone ctx owner s = _
  simp only [execAckAlone, h, Bool.true_and, decide_eq_true_eq]

/-- What a port keeps of a pair after its first acknowledgement lies beyond it. -/
theorem Port.mem_ack_first {p : Port} (h : p.acks = []) {pkg ctx n : Nat} {e : ReplyEntry} (he : e ∈ (p.ack pkg ctx n).cache) :
    e ∈ p.cache ∧ (e.pkg = pkg → e.ctx = ctx → newer e.serial n = true) := by
  rw [Port.ack_first h] at he
  obtain ⟨hmem, hkeep⟩ := List.mem_filter.mp he
  refine ⟨hmem, fun hp hc => ?_⟩
  simpa [hp, hc] using hkeep

theorem Port.mem_forget (p : Port) (pkg ctx : Nat) (e : ReplyEntry) :
    e ∈ (p.forget pkg ctx).cache ↔ e ∈ p.cache ∧ ¬(e.pkg = pkg ∧ e.ctx = ctx) := by
  simp only [Port.forget, List.mem_filter, Bool.not_eq_true', ← Bool.not_eq_true, Bool.and_eq_true, beq_iff_eq]

/-- A query is answered with the incarnation of the first port (R122, R124). -/
theorem exec_incarnationQuery_up {s : State} (hup : s.malt.links.fabric = true) (pkg ctx : Nat) :
    exec (.incarnationQuery pkg ctx) s = .next ((s.carryAck ctx pkg).1.send (.reply
      { ack := (s.side ctx pkg).acked, owner := s.fabric.self, pkg := pkg, ctx := ctx, serial := 0, inc := s.ports[0].inc,
        tag := 0, body := .incarnation })) := by
  rw [← State.carryAck_ack]
  exact State.fromFabric_up hup _

/-- A query without an answer goes out again after the timeout of class 1 (R122, R403). -/
theorem exec_incarnationQueryTimeout {s : State} {ctx owner since : Nat} (h : (s.side ctx owner).query = some since) :
    exec (.incarnationQueryTimeout ctx owner) s = .next (if s.timedOut ctx 1 since then
      (s.modSide ctx owner (fun w => { w with query := some s.podTime.toNat })).send (.query s.fabric.self ctx owner) else s) := by
  show execIncarnationQueryTimeout ctx owner s = _
  rw [execIncarnationQueryTimeout, h]

/-- A restart under another incarnation leaves both ports empty (R124). -/
theorem exec_ownerRestart_new {s : State} {inc : Nat} (h1 : 1 ≤ inc) (h2 : inc ≤ 65535) (h : ∀ p ∈ s.ports.toList, p.inc ≠ inc) :
    exec (.ownerRestart inc) s = .next { s with ports := #v[Port.mk [] [] inc [], Port.mk [] [] inc []] } := by
  have hall : s.ports.all (fun p => p.inc != inc) = true := by
    rw [← Vector.all_toList, List.all_eq_true]
    exact fun p hp => bne_iff_ne.mpr (h p hp)
  show execOwnerRestart inc s = _
  rw [execOwnerRestart, if_pos ⟨h1, h2, hall⟩]
  rfl

end Sys2Proof.Machine

open Sys2Proof.Machine

/-- Settles O56, event by event: at the owner, at the requester, acknowledgements, queries, notices and restarts. -/
theorem remoteOperationEvents : Obligations.RemoteOperationEvents := by
  refine ⟨?down, ?new, ?known, ?answer, ?timeout, ?alone, ?ack, ?query, ?queryTimeout, ?notice, ?restart⟩
  case down =>
    intro s h
    exact ⟨fun _ => State.fromFabric_down h _, fun _ => State.fromFabric_down h _, fun _ _ _ => State.fromFabric_down h _,
      fun _ _ => ⟨State.fromFabric_down h _, State.fromFabric_down h _⟩⟩
  case new =>
    intro s r core k n die p hup hb hl hw hcls hdie hp hc ha hi hn
    exact exec_remoteRequest_new hup hb hl hw hcls hdie hp hc ha hi hn
  case known =>
    intro s r die p e hup hs hcls hp hc ho ha hpkg hctx hser hn
    have hagain := exec_remoteRequest_known hup hs hcls hp hc ho ha hpkg hctx hser hn
    constructor
    · intro d old he
      rwa [he] at hagain
    · intro cause tile he
      rwa [he] at hagain
  case answer =>
    intro s r c w o k old hup h hb hinj hinc hop
    obtain ⟨t, rfl, hend⟩ := State.completeOp_done h hop old
    exact ⟨_, exec_remoteReply_signal h hup rfl rfl rfl hb hinj hinc, hend⟩
  case timeout =>
    intro s ctx owner serial c w o k q h hq
    refine ⟨fun ht => exec_remoteTimeout_early h hq (.inl ht), fun hb ht hl => ?_, fun since hb => ⟨?_, fun ht => ?_, fun ht => ?_⟩,
      fun hb ht hl hop => ?_⟩
    · exact ⟨_, exec_remoteTimeout_again h hq hb ht hl, State.resend_sent h hq true⟩
    · exact exec_remoteTimeout_early h hq (.inr (by rw [hb]; rfl))
    · exact ⟨_, (exec_busyBackoffExpiry h hq hb).trans (congrArg _ (if_pos ht)), State.resend_sent h hq false⟩
    · exact (exec_busyBackoffExpiry h hq hb).trans (by rw [ht]; rfl)
    · obtain ⟨t, rfl, hend⟩ := State.completeOp_indeterminate h hop (Config.openOld s.tick)
      exact ⟨_, exec_remoteTimeout_limit h hq hb ht hl, hend⟩
  case alone =>
    intro s ctx owner h
    refine ⟨fun ht => ?_, fun ht => ?_⟩
    · rw [exec_ackAlone h, if_neg (Nat.not_le.mpr ht)]
    · exact ⟨_, (exec_ackAlone h).trans (congrArg _ (if_pos ht)), rfl, rfl, rfl⟩
  case ack =>
    intro s pkg ctx n hup
    refine ⟨s.takeAck pkg ctx n, State.fromFabric_up hup _, rfl, rfl, fun k hk => ?_⟩
    rw [State.takeAck_port]
    exact ⟨by rw [Port.ack_first hk], fun e he => Port.mem_ack_first hk he⟩
  case query =>
    intro s pkg ctx hup
    have hf := s.carryAck_frame ctx pkg
    exact ⟨_, exec_incarnationQuery_up hup pkg ctx, hf.core, hf.mem, congrArg (fun f : Fabric => f.sent ++ [_]) hf.fabric⟩
  case queryTimeout =>
    intro s ctx owner
    refine ⟨fun h => ?_, fun since h => ⟨fun ht => ?_, fun ht => ?_⟩⟩
    · show execIncarnationQueryTimeout ctx owner s = _
      rw [execIncarnationQueryTimeout, h]
    · rw [exec_incarnationQueryTimeout h, ht]
      rfl
    · exact ⟨_, (exec_incarnationQueryTimeout h).trans (congrArg _ (if_pos ht)), rfl, rfl, rfl⟩
  case notice =>
    intro s pkg ctx hup
    refine ⟨_, State.fromFabric_up hup _, rfl, rfl, fun k e => ?_⟩
    rw [State.modPorts_port]
    exact Port.mem_forget ..
  case restart =>
    intro s inc h1 h2 h
    exact exec_ownerRestart_new h1 h2 h
end

section
/-! PROOFS. Class-0 transfers, flits, pod time and packets (R116, R119, R402 to R405). -/

open Sys2Proof

namespace Sys2Proof.Machine

/-! ### The sends of a transfer (R119, R404) -/

/-- An act on the focused core that keeps the focus. -/
theorem State.onCore_eq {s t : State} {n : Nat} {f : State → State} (hn : n = s.cur) (hf : f s = t) (hcur : t.cur = s.cur) :
    s.onCore n f = t := by
  rw [hn, State.onCore_cur (hf ▸ hcur), hf]

theorem Reservation.carries_iff (r : Reservation) : r.carries = true ↔ r.abandoned = false ∧ r.peerAbandoned = false := by
  simp [Reservation.carries]

theorem State.inSlot_iff (s : State) (start : Nat) :
    s.inSlot start = true ↔ start ≤ s.podTime.toNat ∧ s.podTime.toNat < start + 64 := by
  simp [State.inSlot]

/-- A transfer of the focused core whose source reads without a change of the state leaves, and nothing of it lands on this package. -/
theorem State.sendTransfer_cur {s : State} {t : Transfer} {es : List PktElem} {acked : Bool} (hcore : t.core = s.cur)
    (hs : (s.transferData t).1 = s) (hes : (s.transferData t).2.toOption = some es) (ha : acked = false ∨ s.ownPackage t.desc.pkg = false) :
    s.sendTransfer t acked = (s.putTransfer { t with tries := t.tries + 1, delivered := acked }).sends (.transfer t.port t.start es) := by
  have hdata : (s.transferData t).2 = .ok es := by
    cases h : (s.transferData t).2 with
    | error e =>
      rw [h] at hes
      cases hes
    | ok xs =>
      rw [h] at hes
      exact congrArg Except.ok (Option.some.inj hes)
  have hown : (acked && ((s.putTransfer { t with tries := t.tries + 1, delivered := acked }).send
      (.transfer t.port t.start es)).ownPackage t.desc.pkg) = false := by
    rcases ha with rfl | ha
    · rfl
    · exact Bool.and_eq_false_iff.mpr (.inr ha)
  refine State.onCore_eq hcore ?_ rfl
  simp only [hdata, hs, hown, Bool.false_eq_true, if_false]
  rfl

/-- The first send happens in the slot, of a reservation that carries it. -/
theorem exec_sxfrSlotSend_eq {s : State} {t : Transfer} {r : Reservation} (ht : s.transfer? t.id = some t)
    (hr : s.reservationOf t = some r) (acked : Bool) : exec (.sxfrSlotSend t.id acked) s =
      .next (if t.tries = 0 ∧ r.carries ∧ s.inSlot t.start then s.sendTransfer t acked else s) := by
  show execSxfrSlotSend t.id acked s = _
  simp only [execSxfrSlotSend, ht, hr]

/-- The second happens in the retry slot, where the first was lost. -/
theorem exec_sxfrRetrySend_eq {s : State} {t : Transfer} {r : Reservation} (ht : s.transfer? t.id = some t)
    (hr : s.reservationOf t = some r) (acked : Bool) : exec (.sxfrRetrySend t.id acked) s =
      .next (if t.tries = 1 ∧ !t.delivered ∧ r.carries ∧ s.inSlot r.slot.retry then s.sendTransfer t acked else s) := by
  show execSxfrRetrySend t.id acked s = _
  simp only [execSxfrRetrySend, ht, hr]

/-! ### The write of a status word (R119, R179) -/

/-- With no recorded range, a command's write of own bytes forces no load and waits for no store. -/
theorem State.forceFor_noRanges {s : State} (h : s.noRanges) (o : Origin) (a n : Nat) : s.forceFor o a n = (s, true) := by
  obtain ⟨hstores, hnodes⟩ := h
  have hs : ∀ ls, s.storesMet ls = [] := by
    intro ls
    simp [State.storesMet, hstores]
  have hl : ∀ ls, s.loadsMet ls = [] := by
    intro ls
    rw [State.loadsMet, List.map_eq_nil_iff, List.filter_eq_nil_iff]
    intro x hx
    have hrange : x.camRange = none := if_neg (ne_true_of_eq_false (hnodes x hx))
    simp [lanesMeet, rangesMeet, hrange]
  simp only [State.forceFor, hs, hl, List.isEmpty_nil, Bool.not_true, Bool.false_eq_true, if_false]

/-- What a write to a scratchpad leaves as it was: which core is focused, and all of it but its gate. -/
structure State.GateFrame (s t : State) : Prop where
  cur : t.cur = s.cur
  core : ∃ g, t.core = { s.core with gate := g }

theorem State.GateFrame.refl (s : State) : s.GateFrame s := ⟨rfl, _, rfl⟩

theorem State.GateFrame.trans {s t u : State} (h : s.GateFrame t) (g : t.GateFrame u) : s.GateFrame u := by
  obtain ⟨a, ha⟩ := h.core
  obtain ⟨b, hb⟩ := g.core
  exact ⟨g.cur.trans h.cur, b, by rw [hb, ha]⟩

theorem State.GateFrame.foldl {β : Type} {f : State → β → State} (l : List β) (hf : ∀ b ∈ l, ∀ s : State, s.GateFrame (f s b))
    (s : State) : s.GateFrame (l.foldl f s) := by
  induction l generalizing s with
  | nil => exact .refl s
  | cons b l ih => exact (hf b List.mem_cons_self s).trans (ih (fun c hc => hf c (List.mem_cons_of_mem _ hc)) _)

theorem State.patchReplica_gateFrame (s : State) (ws : List BitWrite) (key : Nat) : s.GateFrame (s.patchReplica ws key) := by
  unfold State.patchReplica
  split
  · exact .refl s
  · split
    · exact .refl s
    · exact ⟨rfl, _, rfl⟩

/-- A sector above main memory is written without a slice of the L2. -/
theorem State.writeSector_gateFrame (s : State) (ws : List BitWrite) (earlier : GateEntry → Bool) {key : Nat} (h : 2 ^ 40 ≤ key * 64) :
    s.GateFrame (s.writeSector ws earlier key) := by
  have hpatch (cs full : List Host.Cell) : s.GateFrame ((s.writeBits cs full).patchReplica ws key) :=
    State.GateFrame.trans (t := s.writeBits cs full) ⟨rfl, _, rfl⟩ (State.patchReplica_gateFrame ..)
  have hgate (t : State) (b : Bool) (ht : s.GateFrame t) :
      s.GateFrame (if b then t.modCore (fun c => { c with gate := gateAfter c.gate earlier ws }) else t) := by
    split
    · exact ht.trans ⟨rfl, _, rfl⟩
    · exact ht
  have hmark (t : State) (b : Bool) (ht : s.GateFrame t) : s.GateFrame (if b then t.setMark key (some .poison) else t) := by
    split
    · exact ht.trans ⟨rfl, _, rfl⟩
    · exact ht
  unfold State.writeSector
  dsimp only
  rw [if_neg (Nat.not_lt.mpr h)]
  exact hmark _ _ (hgate _ _ (hpatch _ _))

theorem State.cleanUp_gateFrame (s : State) (clean : List Nat) (bit n : Nat) (mark : Bool) :
    s.GateFrame (s.cleanUp clean bit n mark).1 := by
  unfold State.cleanUp
  dsimp only
  split
  · exact .refl s
  · split
    · exact .refl s
    · exact .foldl (f := fun s b => (s.setMark b none).cleanReplica b) _ (fun _ _ _ => ⟨rfl, _, rfl⟩) s

/-- The blocks of bytes of a scratchpad lie above main memory. -/
theorem blocksOf_above {a n b : Nat} (h : 2 ^ 40 ≤ a) (hb : b ∈ blocksOf a n) : 2 ^ 40 ≤ b * 64 := by
  unfold blocksOf at hb
  split at hb
  · cases hb
  · obtain ⟨i, -, rfl⟩ := List.mem_map.mp hb
    omega

/-- A command's write of a unit above main memory changes nothing of its core but the gate. -/
theorem State.writeUnit_gateFrame (s : State) (c : Cmd) (f : Fetch) {a : Nat} (h : 2 ^ 40 ≤ a) (v : Nat) (mark : Bool) :
    s.GateFrame (s.writeUnit c f (a * 8) 64 v mark).1 := by
  unfold State.writeUnit
  dsimp only
  refine (State.GateFrame.foldl _ (fun key hkey t => ?_) s).trans (State.cleanUp_gateFrame ..)
  simp only [writeSectors, List.map_cons, List.map_nil, List.flatten_cons, List.flatten_nil, List.append_nil, List.mem_dedup,
    Nat.mul_div_cancel a (show 0 < 8 by decide)] at hkey
  exact State.writeSector_gateFrame t _ _ (blocksOf_above h hkey)

theorem spadBase_above (c n : Nat) : 2 ^ 40 ≤ spadBase c + n := (Nat.le_add_right _ _).trans (Nat.le_add_right _ _)

/-- With no recorded range, the status word is written and the command completes. -/
theorem State.writeStatus_noRanges {s : State} (hr : s.noRanges) (c : Cmd) (t : Transfer) : s.writeStatus c t =
    (s.writeUnit { c with clean := [] } Fetch.plain ((spadBase s.cur + t.status) * 8) 64 t.word.toNat false).1.finishCmd c := by
  simp only [State.writeStatus, State.forceFor_noRanges hr, if_true]

/-- The only command completes where nothing but the gate has changed. -/
theorem State.GateFrame.finishCmd_only {s q : State} (h : s.GateFrame q) {c : Cmd} (hc : s.core.eng.cmds = [c]) (hd : c.discard = false) :
    (q.finishCmd c).cur = s.cur ∧ (q.finishCmd c).core.eng.cmds = [] ∧ (q.finishCmd c).core.regs = s.core.regs.flagged c.flag ∧
      (q.finishCmd c).mem = q.mem := by
  obtain ⟨g, hg⟩ := h.core
  have hcmds : q.core.eng.cmds = [c] := by
    rw [hg]
    exact hc
  obtain ⟨log, hlog⟩ := State.finishCmd_only (c := c) hcmds rfl hd
  rw [hlog, hg]
  exact ⟨h.cur, rfl, rfl, rfl⟩

/-- The status word of the only command is written, and the command completes. -/
theorem State.writeStatus_only {s : State} {c : Cmd} {t : Transfer} (hr : s.noRanges) (h : s.core.eng.cmds = [c]) (hd : c.discard = false) :
    (s.writeStatus c t).cur = s.cur ∧ (s.writeStatus c t).core.eng.cmds = [] ∧
      (s.writeStatus c t).core.regs = s.core.regs.flagged c.flag ∧ (s.writeStatus c t).mem =
        (s.writeUnit { c with clean := [] } Fetch.plain ((spadBase s.cur + t.status) * 8) 64 t.word.toNat false).1.mem := by
  rw [State.writeStatus_noRanges hr]
  exact (s.writeUnit_gateFrame { c with clean := [] } Fetch.plain (spadBase_above s.cur t.status) t.word.toNat false).finishCmd_only h hd

/-! ### The deadline of a transfer (R404) -/

/-- The status word of a transfer that its first send has delivered. -/
theorem transferStatus_first {t : Transfer} (hd : t.delivered = true) (ht : t.tries = 1) (abandoned : Bool) (arrive : Nat) :
    (transferStatus t abandoned arrive).toNat = arrive % 2 ^ 48 * 65536 + 257 := by
  rw [transferStatus, if_pos hd, ht, BitVec.toNat_ofNat]
  omega

/-- A transfer that its first send has delivered is over at the first deadline: its status word is written. -/
theorem State.endTransfer_first {s : State} {t : Transfer} {r : Reservation} {c : Cmd} {arrive : Nat} (hcore : t.core = s.cur)
    (hr : s.reservationOf t = some r) (hc : r.carries = true) (ht : t.tries = 1) (hd : t.delivered = true)
    (hcmd : s.core.eng.cmds = [c]) (hid : c.id = t.cmd) (hf : c.fault = none)
    (hdue : r.slot.start + 64 * r.slot.hops ≤ s.podTime.toNat) (hlo : r.slot.start ≤ arrive * 64 + 63)
    (hhi : arrive * 64 ≤ r.slot.start + 64 * r.slot.hops)
    (hcur : ∀ w, ((s.closeTransfer t.id t.core w).writeStatus c { t with word := w }).cur = s.cur) :
    s.endTransfer t arrive = (s.closeTransfer t.id t.core (transferStatus t false arrive)).writeStatus c
      { t with word := transferStatus t false arrive } := by
  have hdeadline : r.deadline t = r.slot.start + 64 * r.slot.hops := by
    simp [Reservation.deadline, Reservation.first, hd, ht]
  have harrives : r.arrives t arrive = true := by
    simp [Reservation.arrives, ht, hlo, hhi]
  have hsettles : r.settles t = true := by
    simp [Reservation.settles, hd]
  have hopen : ¬(s.podTime.toNat < r.deadline t ∨ (t.delivered ∧ !r.arrives t arrive) ∨ !r.settles t) := by
    rw [hdeadline, harrives, hsettles]
    simp [hdue]
  have hfound : (s.closeTransfer t.id t.core (transferStatus t false arrive)).core.eng.cmd? t.cmd = some c := by
    rw [← hid]
    exact Engine.cmd?_only hcmd
  simp only [State.endTransfer, hr, if_neg hopen, hc, Bool.not_true]
  refine State.onCore_eq hcore ?_ (hcur _)
  simp only [hfound, hf, Option.isSome_none, Bool.false_eq_true, if_false]

/-! ### Packets without an answer, and answered ones (R402, R403) -/

/-- The only packet without an answer is sent again after the timeout of its class. -/
theorem exec_packetRetransmissionTimeout_only {s : State} {p : OutPacket} (h : s.fabric.out = [p]) (ha : p.acked = false) :
    exec (.packetRetransmissionTimeout p.tag) s = .next (if s.timedOut p.req.ctx p.req.cls p.lastTx = false then s
      else { s with fabric := { s.fabric with
        out := [{ p with req := { p.req with retx := true }, retx := true, lastTx := s.podTime.toNat }],
        sent := s.fabric.sent ++ [.request { p.req with retx := true }] } }) := by
  have hfind : s.fabric.out.find? (fun x => x.tag == p.tag && !x.acked) = some p := by
    simp [h, ha]
  show execPacketRetransmissionTimeout p.tag s = _
  simp only [execPacketRetransmissionTimeout, hfind]
  cases s.timedOut p.req.ctx p.req.cls p.lastTx with
  | false => rfl
  | true => simp [State.modFabric, State.send, h]

/-- A packet is forgotten once it is answered, has been sent again, holds no data, and 10 µs have passed. -/
theorem exec_packetAgeExpiry_eq (s : State) (tag : Nat) : exec (.packetAgeExpiry tag) s = .next { s with fabric := { s.fabric with
    out := s.fabric.out.filter (fun p => !(decide (p.tag = tag ∧ p.acked = true ∧ p.retx = true ∧ p.held = none ∧
      p.lastTx + 10000 ≤ s.podTime.toNat))) } } := by
  have hold : (fun p : OutPacket =>
      !(p.tag == tag && p.acked && p.retx && p.held.isNone && decide (p.lastTx + 10000 ≤ s.podTime.toNat))) =
      fun p => !(decide (p.tag = tag ∧ p.acked = true ∧ p.retx = true ∧ p.held = none ∧ p.lastTx + 10000 ≤ s.podTime.toNat)) := by
    funext p
    congr 1
    rw [Bool.eq_iff_iff]
    simp [and_assoc]
  show execPacketAgeExpiry tag s = _
  rw [execPacketAgeExpiry, hold]
  rfl

/-- A flit that comes in is kept when its CRC fits it, and counted otherwise (R402). -/
theorem exec_flitReceive_eq (s : State) (bytes : List Byte) : exec (.flitReceive bytes) s =
    .next (if s.malt.links.fabric = false then s
    else if bytes.length = 64 ∧ (crc32 (bytes.take 60)).toNat = ofLe (bytes.drop 60) then
      { s with fabric := { s.fabric with received := s.fabric.received ++ [bytes] } }
    else { s with fabric := { s.fabric with crcDrops := satInc s.fabric.crcDrops } }) := by
  have hok : flitOk bytes = true ↔ bytes.length = 64 ∧ (crc32 (bytes.take 60)).toNat = ofLe (bytes.drop 60) := by
    simp [flitOk]
  show execFlitReceive bytes s = _
  cases hup : s.malt.links.fabric with
  | false => exact State.fromFabric_down hup _
  | true =>
    rw [execFlitReceive, State.fromFabric_up hup, if_neg (by decide : ¬ true = false)]
    simp only [← hok]
    split <;> simp [State.modFabric, *]

end Sys2Proof.Machine

open Sys2Proof.Machine

/-- Settles O57, event by event: the two sends, their guards, the deadline, abandonment, flits, pod time and packets. -/
theorem fabricEvents : Obligations.FabricEvents := by
  refine ⟨?sends, ?guards, ?deadline, ?abandon, exec_flitReceive_eq, fun _ => rfl, fun _ => rfl, ?again,
    exec_packetAgeExpiry_eq⟩
  case sends =>
    intro s t r es acked ht hcore hr ha hp hs hes hown
    have hc := r.carries_iff.mpr ⟨ha, hp⟩
    have hsend := State.sendTransfer_cur hcore hs hes hown
    refine ⟨fun h0 hlo hhi => ?_, fun h1 hd hlo hhi => ?_⟩
    · rw [exec_sxfrSlotSend_eq ht hr, if_pos ⟨h0, hc, (s.inSlot_iff _).mpr ⟨hlo, hhi⟩⟩, hsend, h0]
    · rw [exec_sxfrRetrySend_eq ht hr, if_pos ⟨h1, by rw [hd]; rfl, hc, (s.inSlot_iff _).mpr ⟨hlo, hhi⟩⟩, hsend, h1]
  case guards =>
    intro s t r acked ht hr
    constructor
    · intro h
      rw [exec_sxfrSlotSend_eq ht hr, if_neg]
      rintro ⟨-, hc, hin⟩
      obtain ⟨ha, hp⟩ := r.carries_iff.mp hc
      obtain ⟨hlo, hhi⟩ := (s.inSlot_iff _).mp hin
      rcases h with h | h | h | h
      · omega
      · omega
      · rw [ha] at h
        cases h
      · rw [hp] at h
        cases h
    · intro h
      rw [exec_sxfrRetrySend_eq ht hr, if_neg]
      rintro ⟨-, hd, hc, hin⟩
      obtain ⟨ha, hp⟩ := r.carries_iff.mp hc
      obtain ⟨hlo, hhi⟩ := (s.inSlot_iff _).mp hin
      rcases h with h | h | h | h | h
      · omega
      · omega
      · rw [h] at hd
        cases hd
      · rw [ha] at h
        cases h
      · rw [hp] at h
        cases h
  case deadline =>
    intro s t c d a b r arrive ht hcore _ hr ha hp h1 hd hranges hcmd _ _ hf _ _ hkeep _ hid hdue hlo hhi
    have hwrite (w : Word) := State.writeStatus_only (s := s.closeTransfer t.id t.core w) (t := { t with word := w }) hranges hcmd hkeep
    have hend := State.endTransfer_first hcore hr (r.carries_iff.mpr ⟨ha, hp⟩) h1 hd hcmd hid hf hdue hlo hhi (fun w => (hwrite w).1)
    obtain ⟨-, hcmds, hregs, hmem⟩ := hwrite (transferStatus t false arrive)
    refine ⟨_, ?_, hcmds, hregs, ?_⟩
    · show execSxfrDeadline t.id arrive s = _
      simp only [execSxfrDeadline, ht, hend]
    · rw [hmem, transferStatus_first hd h1, transferStatus, if_pos hd, h1]
      rfl
  case abandon =>
    intro s ctx
    exact ⟨_, rfl, rfl, rfl, rfl, rfl⟩
  case again =>
    intro s p h ha
    exact exec_packetRetransmissionTimeout_only h ha
end

section
/-! PROOFS. Stores of scratchpad in program mode, and accesses that their lanes refuse (R131, R134 to R140). -/

open Sys2Proof

namespace Sys2Proof.Machine

/-! ### Lanes that raise their cause (R131, R135) -/

theorem State.lane_beyond (s : State) {ea : Word} (n : Nat) (h : 2 ^ 28 ≤ ea.toNat) : s.lane ea n n = .error Cause.address := by
  rw [State.lane, State.clusterAddr, if_pos h]

theorem State.lane_noCore (s : State) {ea : Word} (n : Nat) (h : ea.toNat < 2 ^ 28) (h0 : 48 ≤ ea.toNat / 2 ^ 22)
    (h1 : ea.toNat / 2 ^ 22 ≤ 62) : s.lane ea n n = .error Cause.address := by
  have hcore : s.clusterCore (ea.toNat / 2 ^ 22) = none := by
    rw [State.clusterCore, if_neg (by omega), if_pos h0]
  rw [State.lane, State.clusterAddr, if_neg (Nat.not_le_of_lt h), hcore, Option.map_none]

theorem State.lane_misaligned (s : State) {ea : Word} {n : Nat} (h : ea.toNat < 2 ^ 28)
    (hcore : ea.toNat / 2 ^ 22 < 48 ∨ ea.toNat / 2 ^ 22 = 63) (hoff : ea.toNat % 2 ^ 22 % n ≠ 0) :
    s.lane ea n n = .error Cause.alignment := by
  have hsome : ∃ c, s.clusterCore (ea.toNat / 2 ^ 22) = some c := by
    rcases hcore with hlow | hown
    · exact ⟨_, by rw [State.clusterCore, if_neg (by omega), if_neg (by omega)]⟩
    · exact ⟨_, if_pos hown⟩
  obtain ⟨c, hc⟩ := hsome
  rw [State.lane, State.clusterAddr, if_neg (Nat.not_le_of_lt h), hc, Option.map_some]
  exact if_pos hoff

theorem State.lane_error {s : State} {ea : Word} {n align : Nat} {c : BitVec 6} (h : s.lane ea n align = .error c) :
    c = Cause.address ∨ c = Cause.alignment ∨ c = Cause.protection := by
  unfold State.lane at h
  split at h
  · exact .inl (Except.error.inj h).symm
  · split at h
    · exact .inr (.inl (Except.error.inj h).symm)
    · split at h
      · exact .inr (.inr (Except.error.inj h).symm)
      · cases h

/-- The cause of an access is that of one of its lanes. -/
theorem State.lanes_error {s : State} {n align : Nat} {eas : List Word} {c : BitVec 6} (h : s.lanes n align eas = .error c) :
    c = Cause.address ∨ c = Cause.alignment ∨ c = Cause.protection := by
  induction eas with
  | nil => cases h
  | cons ea eas ih =>
    unfold State.lanes at h
    split at h
    · next k hk => exact Except.error.inj h ▸ State.lane_error hk
    · split at h
      · next k hk => exact ih (hk.trans h)
      · cases h

/-- The lanes of an access that passes its checks: as many as its elements, each of an element's size. -/
theorem State.lanes_ok {s : State} {n align : Nat} {eas : List Word} {ls : List (Nat × Nat)} (h : s.lanes n align eas = .ok ls) :
    ls.length = eas.length ∧ ∀ l ∈ ls, l.2 = n := by
  induction eas generalizing ls with
  | nil =>
    cases h
    exact ⟨rfl, fun l hl => absurd hl List.not_mem_nil⟩
  | cons ea eas ih =>
    unfold State.lanes at h
    split at h
    · cases h
    · split at h
      · cases h
      · next f _ _ fs hfs =>
        cases h
        obtain ⟨hlen, hsize⟩ := ih hfs
        exact ⟨congrArg (· + 1) hlen, List.forall_mem_cons.mpr ⟨rfl, hsize⟩⟩

/-! ### Accesses behind the checks of their lanes (R135) -/

/-- The effect of a store of some bytes to element addresses. -/
def State.storeTo (s : State) (n : Nat) (eas : List Word) (data : List Byte) : Eff :=
  match s.lanes n n eas with
  | .error c => s.fault 10 c
  | .ok ls => s.store ls data

/-- A store takes as many bytes of its register as its elements have. -/
theorem exec_storePlan {i : Instr} {s : State} {p : StorePlan} (h : s.storePlan i = some p) :
    exec i s = settle s (s.storeTo p.size p.eas (leBytes (p.size * p.eas.length) p.data)) := by
  cases i with
  | stB | stH | stW | stD | vst | vsts | vsct => cases h; rfl
  | _ => cases h

theorem exec_store_refused {i : Instr} {s : State} {p : StorePlan} {c : BitVec 6} (h : s.storePlan i = some p)
    (hl : s.lanes p.size p.size p.eas = .error c) : exec i s = settle s (s.fault 10 c) := by
  rw [exec_storePlan h, State.storeTo, hl]

theorem exec_store {i : Instr} {s : State} {p : StorePlan} {ls : List (Nat × Nat)} (h : s.storePlan i = some p)
    (hl : s.lanes p.size p.size p.eas = .ok ls) :
    exec i s = settle s (s.store ls (leBytes (p.size * p.eas.length) p.data)) := by
  rw [exec_storePlan h, State.storeTo, hl]

theorem exec_load_refused {i : Instr} {s : State} {p : LoadPlan} {c : BitVec 6} (h : s.loadPlan i = some p)
    (hl : s.lanes p.size p.size p.eas = .error c) : exec i s = settle s (s.fault 10 c) := by
  have scalar {n : Nat} {sg : Bool} {d a : XReg} {disp : BitVec 15} (hp : s.scalarLoad n sg d a disp = p) :
      s.loadScalar n sg d a disp = s.fault 10 c := by
    subst hp
    have hl' : s.lanes n n (dispAddr (s.x a) disp) = .error c := hl
    rw [State.loadScalar, hl']
  have vector {n : Nat} {d : VReg} {eas : List Word} (hp : { size := n, eas := eas, form := .vector d, near := 5 } = p) :
      s.loadVector n d eas = s.fault 10 c := by
    subst hp
    have hl' : s.lanes n n eas = .error c := hl
    rw [State.loadVector, hl']
  cases i with
  | ldB | ldBu | ldH | ldHu | ldW | ldWu | ldD => exact congrArg (settle s) (scalar (Option.some.inj h))
  | vld | vlds | vgth => exact congrArg (settle s) (vector (Option.some.inj h))
  | _ => cases h

/-- An access whose lanes refuse it takes their cause as a precise fault of its slot. -/
theorem settle_laneFault {s : State} {n align : Nat} {eas : List Word} {c : BitVec 6} (h : s.lanes n align eas = .error c) :
    settle s (s.fault 10 c) = .next (s.takeTrap c (BitVec.ofNat 64 s.core.issue.slot) s.core.pc) := by
  refine settle_fault s s 10 c ?_
  rcases State.lanes_error h with rfl | rfl | rfl <;> decide

/-! ### The bytes of lanes (R137) -/

/-- Bytes cut into the runs of lanes, in their order. -/
def laneRuns : List (Nat × Nat) → List Byte → List (Nat × List Byte)
  | [], _ => []
  | l :: ls, bs => (l.1, bs.take l.2) :: laneRuns ls (bs.drop l.2)

/-- The lanes that a test picks, and their bytes. -/
theorem laneBytes_eq (ls : List (Nat × Nat)) (data : List Byte) (p : Nat → Bool) : laneBytes ls data p =
    (ls.filter (fun l => p l.1), ((laneRuns ls data).filter (fun r => p r.1)).flatMap Prod.snd) := by
  have hfold : ∀ (ls : List (Nat × Nat)) (as : List (Nat × Nat)) (bs rest : List Byte),
      let r := ls.foldl (fun (acc : List (Nat × Nat) × List Byte × List Byte) l =>
        if p l.1 then (acc.1 ++ [l], acc.2.1 ++ acc.2.2.take l.2, acc.2.2.drop l.2)
        else (acc.1, acc.2.1, acc.2.2.drop l.2)) (as, bs, rest)
      r.1 = as ++ ls.filter (fun l => p l.1) ∧
        r.2.1 = bs ++ ((laneRuns ls rest).filter (fun r => p r.1)).flatMap Prod.snd := by
    intro ls
    induction ls with
    | nil => intro as bs rest; simp [laneRuns]
    | cons l ls ih =>
      intro as bs rest
      cases hp : p l.1 <;> simp [laneRuns, hp, ih, List.append_assoc]
  obtain ⟨h1, h2⟩ := hfold ls [] [] data
  exact Prod.ext h1 h2

theorem laneCells_eq (ls : List (Nat × Nat)) (bs : List Byte) : laneCells (ls, bs) = pieceCells (laneRuns ls bs) := by
  have hfold : ∀ (ls : List (Nat × Nat)) (cs : List Host.Cell) (bs : List Byte),
      (ls.foldl (fun (acc : List Host.Cell × List Byte) k => (acc.1 ++ cellsAt k.1 (acc.2.take k.2), acc.2.drop k.2)) (cs, bs)).1 =
        cs ++ pieceCells (laneRuns ls bs) := by
    intro ls
    induction ls with
    | nil => intro cs bs; simp [laneRuns, pieceCells]
    | cons l ls ih => intro cs bs; simp [laneRuns, pieceCells, ih, List.append_assoc]
  exact hfold ls [] bs

section
variable {n : Nat} {ls : List (Nat × Nat)} {data : List Byte} (hn : ∀ l ∈ ls, l.2 = n) (hd : n * ls.length ≤ data.length)
include hn hd

theorem laneRuns_lanes : (laneRuns ls data).map (fun r => (r.1, n)) = ls := by
  induction ls generalizing data with
  | nil => rfl
  | cons l ls ih =>
    obtain ⟨hl, hls⟩ := List.forall_mem_cons.mp hn
    rw [List.length_cons, Nat.mul_succ] at hd
    rw [laneRuns, List.map_cons, ih hls (by rw [List.length_drop, hl]; omega), ← hl]

theorem laneRuns_length : ∀ r ∈ laneRuns ls data, r.2.length = n := by
  induction ls generalizing data with
  | nil => exact fun r hr => absurd hr List.not_mem_nil
  | cons l ls ih =>
    obtain ⟨hl, hls⟩ := List.forall_mem_cons.mp hn
    rw [List.length_cons, Nat.mul_succ] at hd
    refine List.forall_mem_cons.mpr ⟨?_, ih hls (by rw [List.length_drop, hl]; omega)⟩
    rw [List.length_take_of_le (by omega), hl]

end

/-- Lanes of one size cut the bytes of runs of that size into these runs. -/
theorem laneRuns_of_runs {n : Nat} {rs : List (Nat × List Byte)} (h : ∀ r ∈ rs, r.2.length = n) :
    laneRuns (rs.map (fun r => (r.1, n))) (rs.flatMap Prod.snd) = rs := by
  induction rs with
  | nil => rfl
  | cons r rs ih =>
    obtain ⟨hr, hrs⟩ := List.forall_mem_cons.mp h
    rw [List.map_cons, List.flatMap_cons, laneRuns, List.take_left' hr, List.drop_left' hr, ih hrs]

theorem leBytes_add (n m w : Nat) : leBytes (n + m) w = leBytes n w ++ leBytes m (w >>> (8 * n)) := by
  rw [leBytes, leBytes, leBytes, List.range_add, List.map_append, List.map_map]
  refine congrArg (_ ++ ·) (List.map_congr_left fun i _ => ?_)
  rw [Function.comp_apply, ← Nat.shiftRight_add, Nat.mul_add]

/-- The runs of the bytes of a number, element by element (R137). -/
theorem laneRuns_leBytes {n : Nat} {ls : List (Nat × Nat)} (h : ∀ l ∈ ls, l.2 = n) (w k : Nat) :
    laneRuns ls (leBytes (n * ls.length) (w >>> (8 * n * k))) =
      (ls.zipIdx k).map (fun x => (x.1.1, leBytes n (w >>> (8 * n * x.2)))) := by
  induction ls generalizing k with
  | nil => rfl
  | cons l ls ih =>
    obtain ⟨hl, hls⟩ := List.forall_mem_cons.mp h
    have hcut : leBytes (n * (l :: ls).length) (w >>> (8 * n * k)) =
        leBytes n (w >>> (8 * n * k)) ++ leBytes (n * ls.length) (w >>> (8 * n * (k + 1))) := by
      rw [List.length_cons, Nat.mul_succ, Nat.add_comm, leBytes_add, ← Nat.shiftRight_add, Nat.mul_succ (8 * n) k]
    rw [laneRuns, hcut, hl, List.take_left' (leBytes_length ..), List.drop_left' (leBytes_length ..), ih hls, List.zipIdx_cons,
      List.map_cons]

theorem StorePlan.pieces_eq (p : StorePlan) {ls : List (Nat × Nat)} (h : ∀ l ∈ ls, l.2 = p.size) :
    laneRuns ls (leBytes (p.size * ls.length) p.data) = p.pieces ls :=
  laneRuns_leBytes h p.data 0

/-! ### The effect of a store in program mode (R137, R139, R140) -/

/-- No load node that is still to be read lies under any lanes. -/
theorem State.loadsMet_none {s : State} (h : s.noRanges) (ls : List (Nat × Nat)) : s.loadsMet ls = [] := by
  rw [State.loadsMet, List.map_eq_nil_iff, List.filter_eq_nil_iff]
  intro n hn
  have hrange : n.camRange = none := if_neg (ne_true_of_eq_false (h.2 n hn))
  simp [lanesMeet, rangesMeet, hrange]

/-- The lanes that a test picks with their bytes, from the picked runs. -/
theorem laneBytes_runs {n : Nat} {ls : List (Nat × Nat)} {data : List Byte} (hn : ∀ l ∈ ls, l.2 = n)
    (hd : n * ls.length ≤ data.length) (p : Nat → Bool) : laneBytes ls data p =
    (((laneRuns ls data).filter (fun r => p r.1)).map (fun r => (r.1, n)),
      ((laneRuns ls data).filter (fun r => p r.1)).flatMap Prod.snd) := by
  have hlanes : ls.filter (fun l => p l.1) = ((laneRuns ls data).filter (fun r => p r.1)).map (fun r => (r.1, n)) := by
    conv_lhs => rw [← laneRuns_lanes hn hd, List.filter_map]
    rfl
  rw [laneBytes_eq, hlanes]

/-- The state after the own pieces of a store, if there are any, have taken their entry of the gate. -/
def State.withStore (s : State) (own : List (Nat × List Byte)) : State :=
  { s with core := { s.core with gate := s.core.gate ++ (if own = [] then []
      else [{ cells := pieceCells own, cmd := s.core.eng.nextId, node := s.core.mash.nextId, gone := [] }]) } }

theorem State.withStore_nil (s : State) : s.withStore [] = s := by
  rw [State.withStore, if_pos rfl, List.append_nil]

/-- A store outside handler mode, with room in the gate: one entry for its own lanes, and the others go out. -/
theorem State.store_gated {s : State} {n : Nat} {ls : List (Nat × Nat)} {data : List Byte} (hn : ∀ l ∈ ls, l.2 = n)
    (hd : n * ls.length ≤ data.length) (hr : s.noRanges) (hh : s.core.sys.hnd = false) (hg : s.core.gate.length < 256) :
    s.store ls data = .ok ((s.withStore ((laneRuns ls data).filter (fun r => inSpad s.cur r.1))).sendFar n
      ((laneRuns ls data).filter (fun r => !inSpad s.cur r.1))) := by
  have hforce (ls : List (Nat × Nat)) : s.aliasForce ls = s := by rw [State.aliasForce, State.loadsMet_none hr]
  have hpend : s.core.mash.stillPending [] = false := by simp [Mash.stillPending]
  have hcells := laneRuns_of_runs (rs := (laneRuns ls data).filter (fun r => inSpad s.cur r.1))
    (fun r hr => laneRuns_length hn hd r (List.mem_filter.mp hr).1)
  rw [State.store, laneBytes_runs hn hd, laneBytes_runs hn hd]
  generalize (laneRuns ls data).filter (fun r => inSpad s.cur r.1) = own at hcells ⊢
  generalize (laneRuns ls data).filter (fun r => !inSpad s.cur r.1) = far
  simp only [State.storesMet_none hr, State.loadsMet_none hr, hforce, hpend, hh, Nat.not_le_of_lt hg, laneCells_eq, hcells,
    List.isEmpty_nil, List.isEmpty_map, Bool.not_true, Bool.and_false, Bool.false_and, decide_false, Bool.false_eq_true, if_false]
  cases own with
  | nil => rw [State.withStore_nil]; cases far <;> rfl
  | cons o own => cases far <;> rfl

/-- The next state of such a store. -/
theorem exec_store_gated {i : Instr} {s : State} {p : StorePlan} {ls : List (Nat × Nat)} (h : s.storePlan i = some p)
    (hl : s.lanes p.size p.size p.eas = .ok ls) (hr : s.noRanges) (hh : s.core.sys.hnd = false) (hg : s.core.gate.length < 256) :
    exec i s = .next ((s.withStore ((p.pieces ls).filter (fun x => inSpad s.cur x.1))).sendFar p.size
      ((p.pieces ls).filter (fun x => !inSpad s.cur x.1))) := by
  obtain ⟨hlen, hsize⟩ := State.lanes_ok hl
  rw [exec_store h hl, ← hlen, State.store_gated hsize (by rw [leBytes_length]) hr hh hg, StorePlan.pieces_eq p hsize, settle_ok]

/-! ### What a load sees of a gated store (R139) -/

theorem mem_cellsAt {a : Nat} {bs : List Byte} {c : Host.Cell} :
    c ∈ cellsAt a bs ↔ ∃ i, ∃ h : i < bs.length, c = (a + i, bs[i]) := by
  simp only [cellsAt, List.mem_map, List.mem_zipIdx_iff_getElem?, Prod.exists, List.getElem?_eq_some_iff]
  constructor
  · rintro ⟨b, i, ⟨h, hb⟩, hc⟩
    exact ⟨i, h, by rw [hb, hc]⟩
  · rintro ⟨i, h, rfl⟩
    exact ⟨_, i, ⟨h, rfl⟩, rfl⟩

section
variable {e : GateEntry} {a : Nat} {bs : List Byte} (h : e.cells = cellsAt a bs) (hgone : e.gone = [])
include h

theorem GateEntry.byte?_inside {i : Nat} (hi : i < bs.length) : e.byte? (a + i) = some bs[i] := by
  have hmem : (a + i, bs[i]) ∈ e.cells := h ▸ mem_cellsAt.mpr ⟨i, hi, rfl⟩
  cases hf : e.cells.reverse.find? (fun c => c.1 == a + i) with
  | none => exact absurd (beq_self_eq_true _) (List.find?_eq_none.mp hf _ (List.mem_reverse.mpr hmem))
  | some c =>
    obtain ⟨j, hj, rfl⟩ := mem_cellsAt.mp (h ▸ List.mem_reverse.mp (List.mem_of_find?_eq_some hf))
    have hji : a + j = a + i := beq_iff_eq.mp (List.find?_some hf :)
    obtain rfl : j = i := by omega
    rw [GateEntry.byte?, hf, Option.map_some]

theorem GateEntry.byte?_outside {b : Nat} (hb : b < a ∨ a + bs.length ≤ b) : e.byte? b = none := by
  rw [GateEntry.byte?, Option.map_eq_none_iff, List.find?_eq_none]
  intro c hc
  obtain ⟨j, hj, rfl⟩ := mem_cellsAt.mp (h ▸ List.mem_reverse.mp hc)
  simp only [beq_iff_eq]
  omega

theorem GateEntry.onto_outside {b : Nat} (hb : b < a ∨ a + bs.length ≤ b) (v : Byte) : e.onto b v = v := by
  rw [GateEntry.onto, GateEntry.byte?_outside h hb]

include hgone in
theorem GateEntry.onto_inside {i : Nat} (hi : i < bs.length) (v : Byte) : e.onto (a + i) v = bs[i] := by
  rw [GateEntry.onto, GateEntry.byte?_inside h hi, hgone]
  rfl

end

theorem readThrough_append (m : Memory) (g : List GateEntry) (e : GateEntry) (a : Nat) :
    readThrough m (g ++ [e]) a = e.onto a (readThrough m g a) := by
  rw [readThrough, List.foldl_append]
  rfl

end Sys2Proof.Machine

open Sys2Proof.Machine

/-- Settles O28: the runs of bytes that the lanes take are the pieces of the plan, and the gate takes those of the own lanes. -/
theorem gatedStores : Obligations.GatedStores := by
  intro i s p ls h hl hr hh hg
  exact exec_store_gated h hl hr hh hg

/-- Settles O30: the youngest entry of the gate holds the stored bytes and no others. -/
theorem ownStoreIsSeen : Obligations.OwnStoreIsSeen := by
  intro i s t p a h hl ho hr hh hg he
  have hpieces : p.pieces [(a, p.size)] = [(a, leBytes p.size p.data)] := by simp [StorePlan.pieces]
  rw [exec_store_gated h hl hr hh hg, hpieces] at he
  have ht : t = s.withStore [(a, leBytes p.size p.data)] := by
    rw [← Host.Outcome.next.inj he]
    simp [ho, State.sendFar]
  let e : GateEntry := { cells := pieceCells [(a, leBytes p.size p.data)], cmd := s.core.eng.nextId, node := s.core.mash.nextId,
                         gone := [] }
  have hcells : e.cells = cellsAt a (leBytes p.size p.data) := by simp [e, pieceCells]
  have hgate : t.core.gate = s.core.gate ++ [e] := by rw [ht]; rfl
  have hmem : t.mem = s.mem := by rw [ht]; rfl
  refine ⟨?seen, hmem, fun b hb => ?others⟩
  case seen =>
    refine List.ext_getElem (by simp) (fun j hj hj' => ?_)
    simp only [State.readOwn, List.getElem_map, List.getElem_range]
    rw [hgate, readThrough_append, GateEntry.onto_inside hcells rfl hj']
  case others =>
    rw [hgate, readThrough_append, GateEntry.onto_outside hcells (by rw [leBytes_length]; exact hb), hmem]

/-- Settles O31: the lanes are checked before anything else, and their causes are precise. -/
theorem wrongLanesTrap : Obligations.WrongLanesTrap := by
  refine ⟨fun i s p c h hl => ?load, fun i s p c h hl => ?store, fun s _ n => s.lane_beyond n,
    fun s _ n => s.lane_noCore n, fun s _ _ => s.lane_misaligned⟩
  case load => rw [exec_load_refused h hl, settle_laneFault hl]
  case store => rw [exec_store_refused h hl, settle_laneFault hl]
end

section
/-! PROOFS. What the launch hardware changes of tasks and of the focused core: tasks by their numbers, gangs that leave their cores,
the beginning of a step, acknowledgements that advance (R123, R336 to R344). -/

open Sys2Proof

namespace Sys2Proof.Machine

/-! ### Entries by their keys -/

theorem lookupNat_insertNat_self {α : Type} (k : Nat) (v : α) (l : List (Nat × α)) : lookupNat k (insertNat k v l) = some v := by
  induction l with
  | nil => simp [insertNat, lookupNat]
  | cons x xs ih =>
    obtain ⟨k', v'⟩ := x
    unfold insertNat
    split
    · simp [lookupNat]
    · split
      · simp [lookupNat]
      · next hne => simp [lookupNat, hne, ih]

/-! ### Tasks by their numbers (R330) -/

/-- A change of the tasks of a number is seen by the resident one. -/
theorem State.task?_modTask (s : State) (id : Nat) {f : Task → Task} (hf : ∀ t, (f t).id = t.id) :
    (s.modTask id f).task? id = (s.task? id).map f := by
  have hp : (fun t : Task => (if t.id = id then f t else t).id == id) = fun t => t.id == id := by
    funext t
    split <;> simp [hf]
  show List.find? _ (s.launch.resident.map (fun t => if t.id = id then f t else t)) = _
  rw [List.find?_map]
  show Option.map _ (s.launch.resident.find? (fun t : Task => (if t.id = id then f t else t).id == id)) = _
  rw [hp, State.task?]
  cases hx : s.launch.resident.find? (fun t => t.id == id) with
  | none => rfl
  | some t => exact congrArg some (if_pos (beq_iff_eq.mp (List.find?_some hx :)))

theorem State.task?_mem {s : State} {id : Nat} {t : Task} (h : s.task? id = some t) : t ∈ s.launch.resident ∧ t.id = id :=
  ⟨List.mem_of_find?_eq_some h, beq_iff_eq.mp (List.find?_some h :)⟩

/-- A task of a number is resident or queued, with these successors named. -/
def State.namesSuccessors (s : State) (id : Nat) (succ : List (Nat × Nat × Word)) : Prop :=
  ∃ y ∈ s.launch.resident ++ s.launch.queue, y.id = id ∧ y.succ = succ

theorem State.namesSuccessors_of_task? {s : State} {id : Nat} {t : Task} (h : s.task? id = some t) :
    s.namesSuccessors id t.succ := by
  obtain ⟨hmem, hid⟩ := State.task?_mem h
  exact ⟨t, List.mem_append_left _ hmem, hid, rfl⟩

/-! ### Cores that a task has left (R340, R342) -/

/-- The cores of a list that have been switched out are vacated; of the focused one this is all that may change. -/
theorem State.foldl_vacate (cs : List Nat) (s : State) :
    ∃ k o, cs.foldl (fun s c => if (s.getCore c).run = .switchedOut then s.setCore c (s.getCore c).vacant else s) s =
      { s with core := k, others := o } ∧ (k = s.core ∨ s.core.run = .switchedOut ∧ k = s.core.vacant) := by
  induction cs generalizing s with
  | nil => exact ⟨s.core, s.others, rfl, .inl rfl⟩
  | cons c cs ih =>
    rw [List.foldl_cons]
    split
    · next hrun =>
      by_cases hc : c = s.cur
      · subst hc
        rw [State.getCore_cur] at hrun
        rw [State.setCore_cur, State.getCore_cur]
        obtain ⟨k, o, heq, hk⟩ := ih { s with core := s.core.vacant }
        rcases hk with hk | ⟨hidle, -⟩
        · exact ⟨k, o, heq, .inr ⟨hrun, hk⟩⟩
        · cases hidle
      · rw [State.setCore, if_neg hc]
        exact ih { s with others := insertNat c (s.getCore c).vacant s.others }
    · exact ih s

/-- A gang that leaves its cores changes the launch hardware and cores alone; the focused core it vacates at most. -/
theorem State.settleGang_eq (s : State) (id : Nat) : ∃ k o l, s.settleGang id = { s with core := k, others := o, launch := l } ∧
    (k = s.core ∨ s.core.run = .switchedOut ∧ k = s.core.vacant) := by
  unfold State.settleGang
  split
  · exact ⟨s.core, s.others, s.launch, rfl, .inl rfl⟩
  · next t _ =>
    dsimp only
    split
    · obtain ⟨k, o, heq, hk⟩ := State.foldl_vacate t.cores s
      rw [heq]
      exact ⟨k, o, _, rfl, hk⟩
    · exact ⟨s.core, s.others, s.launch, rfl, .inl rfl⟩

/-- A task that leaves its cores is queued with the successors that it has named. -/
theorem State.settleGang_successors {s : State} {id : Nat} {t : Task} (h : s.task? id = some t) :
    (s.settleGang id).namesSuccessors id t.succ := by
  have hid := (State.task?_mem h).2
  rw [State.settleGang, h]
  dsimp only
  split
  · exact ⟨_, List.mem_append_right _ (List.mem_append_right _ List.mem_cons_self), hid, rfl⟩
  · exact State.namesSuccessors_of_task? h

/-! ### Acknowledgements (R123) -/

theorem State.advanceAck_eq (s : State) (ctx owner : Nat) : ∃ cs, s.advanceAck ctx owner = { s with ctxs := cs } := by
  unfold State.advanceAck
  dsimp only
  split
  · exact ⟨_, rfl⟩
  · exact ⟨s.ctxs, rfl⟩

/-- Acknowledgements that advance change contexts alone. -/
theorem State.advanceAcks_eq (s : State) (ctx : Nat) : ∃ cs, s.advanceAcks ctx = { s with ctxs := cs } := by
  unfold State.advanceAcks
  split
  · next c _ =>
    refine List.foldlRecOn (motive := fun (t : State) => ∃ cs, t = { s with ctxs := cs }) c.owners _ ⟨s.ctxs, rfl⟩ ?_
    rintro _ ⟨cs, rfl⟩ w _
    exact State.advanceAck_eq _ ctx w.owner
  · exact ⟨s.ctxs, rfl⟩

/-! ### The beginning of a step (R336, R337, R351) -/

/-- A core begins step n of a task as gang index g. -/
structure Core.Begins (k : Core) (t : Task) (g n : Nat) : Prop where
  run : k.run = .running
  pc : k.pc = t.lb.entry.setWidth 48
  hold : k.hold = .none
  program : k.sys.hnd = false
  mode : k.sys.modeBits = 0
  regs : ∃ hx, k.regs = stepRegs t g n hx
  record : k.task = some { task := t.id, number := n, gangIdx := g, passed := 0, serialCount := [] }

/-- The next step of a task on a gang index is recorded. -/
def Task.advanceTo (g n : Nat) (t : Task) : Task := { t with next := t.next.set g (nextStep t.lb t.pb g (n + 1)) }

theorem State.startStep_cur (s : State) {c : Nat} (hc : c = s.cur) (t : Task) (g n : Nat) :
    ∃ k, s.startStep c t g n = ({ s with core := k } : State).modTask t.id (Task.advanceTo g n) ∧ k.Begins t g n := by
  subst hc
  unfold State.startStep
  dsimp only
  rw [State.setCore_cur]
  exact ⟨_, rfl, rfl, rfl, rfl, rfl, rfl, ⟨_, rfl⟩, rfl⟩

/-- The numbers that a step finds in x7 to x10 (R337). -/
theorem stepRegs_x (t : Task) (g n : Nat) (hx : Vector Word 16) : (stepRegs t g n hx).x[7] = BitVec.ofNat 64 n ∧
    (stepRegs t g n hx).x[8] = t.lb.opb ∧ (stepRegs t g n hx).x[9] = BitVec.ofNat 64 g ∧
    (stepRegs t g n hx).x[10] = BitVec.ofNat 64 t.lb.gang := by
  refine ⟨?_, ?_, ?_, ?_⟩ <;> simp [stepRegs]

end Sys2Proof.Machine
end

section
/-! PROOFS. Segments, supersteps and the ends of steps (R143, R148, R285 to R287, R359, R360). -/

open Sys2Proof

namespace Sys2Proof.Machine

/-! ### Holds of the ctl slot (R143, R148, R285 to R287, R359) -/

theorem State.holdNext_eq (s : State) (h : Hold) : s.holdNext h = s.heldNext h := by
  unfold State.holdNext State.heldNext Hold.andThen
  cases s.core.hold <;> rfl

theorem State.static67_passed {s : State} {i : Instr} (hf : ∀ n, i.feature = some n → s.featureMask.getLsbD n = false)
    (hp : i.privileged s.core.sys.hnd = false) : s.static67 i = none := by
  cases hi : i.feature with
  | none => exact State.static67_unmasked hi hp
  | some n => simp only [State.static67, hi, hf n hi, hp, Bool.false_eq_true, if_false]

theorem settle_guarded_hold {s : State} {i : Instr} (hs : s.static67 i = none) (h : Hold) :
    settle s (s.guarded i (.ok (s.holdNext h))) = .next (s.heldNext h) := by
  rw [settle_guarded_ok hs, State.holdNext_eq]

theorem settle_guarded_protection {s : State} {i : Instr} (hs : s.static67 i = none) :
    settle s (s.guarded i (s.fault 10 Cause.protection)) =
      .next (s.takeTrap Cause.protection (BitVec.ofNat 64 s.core.issue.slot) s.core.pc) := by
  rw [State.guarded_passed hs, settle_fault _ _ _ _ (by decide)]

section
variable {s : State} (hh : s.core.sys.hnd = false)
include hh

/-- In program mode an instruction that handler mode refuses passes steps 6 and 7, where it has no feature bit. -/
theorem State.static67_program {i : Instr} (hf : i.feature = none) (hp : ∀ b, i.privileged b = b) : s.static67 i = none :=
  State.static67_unmasked hf ((hp _).trans hh)

theorem exec_ckpt_program : exec .ckpt s = .next (s.heldNext (.commit .ckpt)) :=
  settle_guarded_hold (State.static67_program hh rfl fun _ => rfl) _

theorem exec_yield_unmarked (h : s.core.preempt = none) : exec .yield s = .next s := by
  have hs : s.static67 .yield = none := State.static67_program hh rfl fun _ => rfl
  show settle s (effYield s) = _
  rw [effYield, settle_guarded_ok hs, h]

theorem exec_yield_marked (h : s.core.preempt ≠ none) : exec .yield s = .next (s.heldNext (.commit .yield)) := by
  have hs : s.static67 .yield = none := State.static67_program hh rfl fun _ => rfl
  obtain ⟨n, hn⟩ := Option.ne_none_iff_exists'.mp h
  show settle s (effYield s) = _
  rw [effYield, settle_guarded_ok hs, hn]
  exact congrArg Host.Outcome.next (State.holdNext_eq ..)

theorem exec_rdv_alone (n : BitVec 8) (h : ∀ t, s.myTask = some t → t.lb.rvGroup = 0) : exec (.rdv n) s = .next s := by
  have hs : s.static67 (.rdv n) = none := State.static67_program hh rfl fun _ => rfl
  show settle s (effRdv n s) = _
  rw [effRdv, State.guarded_passed hs]
  cases ht : s.myTask with
  | none => rfl
  | some t => exact congrArg (settle s) (if_pos (h t ht))

theorem exec_rdv_group (n : BitVec 8) {t : Task} (ht : s.myTask = some t) (h : t.lb.rvGroup ≠ 0) :
    exec (.rdv n) s = .next (s.heldNext (.rdv n)) := by
  have hs : s.static67 (.rdv n) = none := State.static67_program hh rfl fun _ => rfl
  show settle s (effRdv n s) = _
  rw [effRdv, State.guarded_passed hs, ht]
  dsimp only
  rw [if_neg h, settle_ok, State.holdNext_eq]

theorem exec_sstep_domain (d : XReg) (dom : Fin 16) {t : Task} (ht : s.myTask = some t) (h : t.lb.domain = dom.val)
    (hp : ∀ n ∈ s.core.mash.nodes, n.pendingLoad = false) :
    exec (.sstep d dom) s = .next (s.heldNext (.commit (.sstep d dom))) := by
  have hs : s.static67 (.sstep d dom) = none := State.static67_program hh rfl fun _ => rfl
  show settle s (effSstep d dom s) = _
  rw [effSstep, State.guarded_passed hs, ht]
  dsimp only
  rw [if_pos h, State.closeAll_none .sstep hp, settle_ok, State.holdNext_eq]

theorem exec_sstep_foreign (d : XReg) (dom : Fin 16) (h : ∀ t, s.myTask = some t → t.lb.domain ≠ dom.val) :
    exec (.sstep d dom) s = .next (s.takeTrap Cause.protection (BitVec.ofNat 64 s.core.issue.slot) s.core.pc) := by
  have hs : s.static67 (.sstep d dom) = none := State.static67_program hh rfl fun _ => rfl
  refine Eq.trans (congrArg (fun e => settle s (s.guarded (.sstep d dom) e)) ?_) (settle_guarded_protection hs)
  cases ht : s.myTask with
  | none => rfl
  | some t => exact if_neg (h t ht)

/-- A launch of either kind, whose feature is not masked, passes steps 6 and 7. -/
theorem State.static67_launch (hm : s.featureMask.getLsbD 4 = false) (d a : XReg) :
    s.static67 (.launch d a) = none ∧ s.static67 (.launchGraph d a) = none :=
  ⟨State.static67_passed (fun _ hn => Option.some.inj hn ▸ hm) hh, State.static67_passed (fun _ hn => Option.some.inj hn ▸ hm) hh⟩

omit hh in
theorem settle_launchAt {i : Instr} (hs : s.static67 i = none) (hr : s.replaySafe = false) (d a : XReg) (graph : Bool) :
    settle s (s.launchAt i d a graph) = .next (s.heldNext (.commit (.launch d (s.x a) graph))) := by
  rw [State.launchAt, hr, if_neg Bool.false_ne_true, settle_guarded_hold hs]

omit hh in
theorem settle_launchAt_replaySafe {i : Instr} (hs : s.static67 i = none) (hr : s.replaySafe = true) (d a : XReg) (graph : Bool) :
    settle s (s.launchAt i d a graph) =
      .next (s.takeTrap Cause.protection (BitVec.ofNat 64 s.core.issue.slot) s.core.pc) := by
  rw [State.launchAt, hr, if_pos rfl, settle_guarded_protection hs]

/-- The end of a step releases the stack and holds; of the core nothing else changes (R285). -/
theorem State.endAt_program (succ : List Word) : ∃ m, m.spine = [] ∧ s.endAt succ = { s with core := { s.core with
    mash := m, hold := (s.heldNext (.commit (.exit succ))).core.hold } } := by
  refine ⟨(Core.release { s.core with mash := { s.core.mash with spine := [] } }).mash, rfl, ?_⟩
  rw [State.endAt, hh, if_neg Bool.false_ne_true, State.holdNext_eq]
  rfl

end

/-! ### A held core goes on (R373) -/

section
variable {s : State} {h : Hold} (hs : s.holding h) (hne : h ≠ .none) (hent : s.core.entering = false)
include hs hne hent

/-- No event of a boundary comes before a hold that holding describes. -/
theorem State.holding.noEvent : s.unquiet.nextEvent = none := by
  have hcore : s.unquiet.core = s.core := rfl
  have hhold : s.core.hold ≠ .none := hs.isHeld ▸ hne
  have hfetch : s.unquiet.fetchFaults = false := by simp [State.fetchFaults, hcore, hhold]
  have hroll : s.unquiet.bundleRolls = false := by simp [State.bundleRolls, hcore, hhold]
  have hstay : s.unquiet.preemptDue = false := hs.stays
  simp [State.nextEvent, State.boundary, hcore, hs.running, hs.boundary, hent, hs.noEval, hs.noCmd, hs.noKernel, hfetch, hroll,
    hhold, hstay]

/-- Where its hold goes on, that is the step. -/
theorem step_holding (hmove : s.holdStep ≠ s) : step s = .next s.holdStep := by
  have hhold : s.core.hold ≠ .none := hs.isHeld ▸ hne
  have hother : s.otherwise = s.holdStep := if_pos ⟨hs.running, hhold⟩
  simp only [step, hs.on, hs.noAgenda, State.turn, hs.still, State.coreTurn, hs.noEvent hne hent, hother, hmove, if_true, if_false,
    Bool.false_eq_true]

end

/-! ### Changes of the focused core, and of others (R122, R127) -/

/-- What a change of the focused core and of contexts leaves as it was. -/
structure State.LocalFrame (s t : State) : Prop where
  cur : t.cur = s.cur
  others : t.others = s.others
  mem : t.mem = s.mem

theorem State.LocalFrame.refl (s : State) : s.LocalFrame s := ⟨rfl, rfl, rfl⟩

theorem State.LocalFrame.trans {s t u : State} (h : s.LocalFrame t) (g : t.LocalFrame u) : s.LocalFrame u :=
  ⟨g.cur.trans h.cur, g.others.trans h.others, g.mem.trans h.mem⟩

/-- An act on another core leaves the focused one as it was. -/
theorem State.onCore_other {s : State} {n : Nat} {f : State → State} (hn : n ≠ s.cur) (hf : ∀ u : State, u.LocalFrame (f u)) :
    (s.onCore n f).core = s.core ∧ (s.onCore n f).cur = s.cur ∧ (s.onCore n f).mem = s.mem := by
  obtain ⟨hcur, hothers, hmem⟩ := hf (s.focus n)
  have hfocus : s.focus n = { s with core := s.getCore n, cur := n, others := insertNat s.cur s.core (eraseNat n s.others) } :=
    if_neg hn
  rw [hfocus] at hcur hothers hmem
  have hback : s.cur ≠ (f (s.focus n)).cur := by rw [hfocus, hcur]; exact hn.symm
  have hcore : (f (s.focus n)).getCore s.cur = s.core := by
    rw [State.getCore, if_neg hback, hfocus, hothers, lookupNat_insertNat_self]
  rw [State.onCore, State.focus, if_neg hback]
  exact ⟨hcore, rfl, by rw [hfocus]; exact hmem⟩

/-! ### Serials of gated operations (R122, R128, R324) -/

/-- Every command of the engine is committed. -/
def Core.allCommitted (c : Core) : Prop := ∀ k ∈ c.eng.cmds, k.committed = true

/-- What the giving of serials leaves as it was: memory, and of the focused core all but the record of its step and how far its
commands have come. -/
structure State.SerialFrame (s t : State) : Prop where
  mem : t.mem = s.mem
  cur : t.cur = s.cur
  core : ∃ task cmds, t.core = { s.core with task := task, eng := { s.core.eng with cmds := cmds } }
  ids : t.core.eng.cmds.map (fun k => k.id) = s.core.eng.cmds.map (fun k => k.id)
  committed : s.core.allCommitted → t.core.allCommitted

theorem State.SerialFrame.of_core {s t : State} (hc : t.core = s.core) (hcur : t.cur = s.cur) (hm : t.mem = s.mem) :
    s.SerialFrame t :=
  ⟨hm, hcur, ⟨_, _, hc⟩, by rw [hc], by rw [hc]; exact id⟩

theorem State.SerialFrame.refl (s : State) : s.SerialFrame s := .of_core rfl rfl rfl

theorem State.SerialFrame.trans {s t u : State} (h : s.SerialFrame t) (g : t.SerialFrame u) : s.SerialFrame u := by
  obtain ⟨t1, c1, hc1⟩ := h.core
  obtain ⟨t2, c2, hc2⟩ := g.core
  exact ⟨g.mem.trans h.mem, g.cur.trans h.cur, ⟨t2, c2, by rw [hc2, hc1]⟩, g.ids.trans h.ids, g.committed ∘ h.committed⟩

theorem State.putSide_serialFrame (s : State) (ctx : Nat) (w : OwnerSt) : s.SerialFrame (s.putSide ctx w) :=
  .of_core rfl rfl rfl

theorem State.putCmd_serialFrame (s : State) {c : Cmd} (hc : c.committed = true) : s.SerialFrame (s.putCmd c) := by
  refine ⟨rfl, rfl, ⟨_, _, rfl⟩, ?_, fun hall k hk => ?_⟩
  · show (s.core.eng.cmds.map (fun o => if o.id = c.id then c else o)).map (fun k => k.id) = _
    rw [List.map_map]
    refine List.map_congr_left (fun o _ => ?_)
    show (if o.id = c.id then c else o).id = o.id
    split
    · next h => exact h.symm
    · rfl
  · obtain ⟨o, ho, rfl⟩ := List.mem_map.mp hk
    split
    · exact hc
    · exact hall o ho

theorem State.takeSerial_frame (s : State) (owner : Nat) : s.LocalFrame (s.takeSerial owner).1 ∧
    ∃ task, (s.takeSerial owner).1.core = { s.core with task := task } := by
  unfold State.takeSerial
  dsimp only
  repeat' split
  all_goals exact ⟨⟨rfl, rfl, rfl⟩, _, rfl⟩

theorem State.giveSerial_localFrame (s : State) (c : Cmd) (o : Nat) : s.LocalFrame (s.giveSerial c o).1 := by
  have h := (s.takeSerial_frame o).1
  unfold State.giveSerial
  dsimp only
  split
  · exact h
  · exact h.trans ⟨rfl, rfl, rfl⟩

theorem State.giveSerial_serialFrame (s : State) {c : Cmd} (o : Nat) (hc : c.committed = true) :
    s.SerialFrame (s.giveSerial c o).1 := by
  obtain ⟨hlocal, task, hcore⟩ := s.takeSerial_frame o
  have h : s.SerialFrame (s.takeSerial o).1 :=
    ⟨hlocal.mem, hlocal.cur, ⟨task, _, hcore⟩, by rw [hcore], fun hall => by rw [hcore]; exact hall⟩
  unfold State.giveSerial
  dsimp only
  split
  · exact h
  · exact (h.trans (State.putSide_serialFrame ..)).trans (State.putCmd_serialFrame _ hc)

/-- An act on a core changes of the focused one only what it does there. -/
theorem State.onCore_serialFrame {s : State} {n : Nat} {f : State → State} (hlocal : ∀ u : State, u.LocalFrame (f u))
    (hown : s.SerialFrame (f s)) : s.SerialFrame (s.onCore n f) := by
  by_cases hn : n = s.cur
  · rw [hn, State.onCore_cur (hlocal s).cur]
    exact hown
  · obtain ⟨hcore, hcur, hmem⟩ := State.onCore_other hn hlocal
    exact .of_core hcore hcur hmem

/-- So does an act on the core that holds a command, live or saved. -/
theorem State.onHolder_serialFrame {s : State} {f : State → State} (ctx core cmd : Nat)
    (hlocal : ∀ u : State, u.LocalFrame (f u)) (hown : s.SerialFrame (f s)) : s.SerialFrame (s.onHolder ctx core cmd f) := by
  unfold State.onHolder
  split
  · unfold State.asSaved
    split
    · exact .refl s
    · next k _ =>
      have hsaved (u : State) := hlocal { u with core := k }
      exact State.onCore_serialFrame (fun u => ⟨(hsaved u).cur, (hsaved u).others, (hsaved u).mem⟩)
        (.of_core rfl (hsaved s).cur (hsaved s).mem)
  · exact State.onCore_serialFrame hlocal hown

/-- The command of a number on the focused core takes its serial, where it stands there. -/
def State.serveCmd (s : State) (cmd o : Nat) : State :=
  match s.core.eng.cmd? cmd with
  | some c => (s.giveSerial c o).1
  | none => s

theorem State.serveCmd_localFrame (s : State) (cmd o : Nat) : s.LocalFrame (s.serveCmd cmd o) := by
  unfold State.serveCmd
  split
  · exact State.giveSerial_localFrame s _ o
  · exact .refl s

theorem State.serveCmd_serialFrame {s : State} (hs : s.core.allCommitted) (cmd o : Nat) : s.SerialFrame (s.serveCmd cmd o) := by
  unfold State.serveCmd
  split
  · next c hc => exact State.giveSerial_serialFrame s o (hs c (List.mem_of_find?_eq_some hc))
  · exact .refl s

theorem State.settleQueue_serialFrame {s : State} (hs : s.core.allCommitted) (ctx o : Nat) (qs : List (Nat × Nat)) :
    s.SerialFrame (s.settleQueue ctx o qs) := by
  induction qs generalizing s with
  | nil => exact .refl s
  | cons q qs ih =>
    have hfirst := State.onHolder_serialFrame ctx q.1 q.2 (fun u => u.serveCmd_localFrame q.2 o) (State.serveCmd_serialFrame hs q.2 o)
    unfold State.settleQueue
    dsimp only
    split
    · exact hfirst
    · have hqueue (w : OwnerSt) := hfirst.trans (State.putSide_serialFrame _ ctx w)
      exact (hqueue _).trans (ih ((hqueue _).committed hs))

theorem State.assignSerials_serialFrame {s : State} (hs : s.core.allCommitted) : s.SerialFrame s.assignSerials := by
  unfold State.assignSerials
  refine List.foldlRecOn (motive := fun t : State => s.SerialFrame t) s.core.eng.cmds _ (.refl s) (fun t ht c hc => ht.trans ?_)
  have hall := ht.committed hs
  have hput (u : State) (w : OwnerSt) (v : CmdWait) : u.SerialFrame ((u.putSide t.ctxNo w).putCmd { c with wait := v }) :=
    (State.putSide_serialFrame u _ w).trans (State.putCmd_serialFrame _ (hs c hc))
  split
  · next _ _ o _ _ =>
    split
    · exact .refl t
    · extract_lets q r
      have hqueue : t.SerialFrame q := State.settleQueue_serialFrame hall t.ctxNo o _
      have hgiven : t.SerialFrame r.1 := by
        show t.SerialFrame (if (q.side t.ctxNo o).queue.isEmpty then q.giveSerial c o else (q, false)).1
        split
        · exact hqueue.trans (State.giveSerial_serialFrame q o (hs c hc))
        · exact hqueue
      split
      · exact hgiven
      · exact hgiven.trans (hput _ _ _)
  · exact .refl t

/-! ### The commit (R360, R361, R366) -/

/-- The stores of the gate perform in their order; cores are as they were. -/
theorem State.performGates (g : List GateEntry) (s : State) :
    (g.foldl State.performGate s).mem = g.foldl (fun m e => m.writeAll (e.performed m)) s.mem ∧
      (g.foldl State.performGate s).core = s.core := by
  induction g generalizing s with
  | nil => exact ⟨rfl, rfl⟩
  | cons e g ih => exact ih (s.performGate e)

/-- The core once its segment has committed. -/
def Core.committed (c : Core) : Core :=
  { c with gate := [], gateCmds := [],
           eng := { c.eng with
             cmds := c.eng.cmds.map (fun k => { k with committed := true }) ++
               c.gateCmds.map (fun k => { k with committed := true }),
             invals := c.eng.invals.map (fun i => { i with committed := true }), sxfrs := [] },
           shadow := c.snapshot, log := [], seg := c.seg + 1, retry := false, mismatch := false }

theorem State.commit_core (s : State) : s.commit.core = s.core.committed :=
  congrArg Core.committed (State.performGates s.core.gate s).2

theorem State.commit_mem (s : State) : s.commit.mem = s.core.gate.foldl (fun m e => m.writeAll (e.performed m)) s.mem :=
  (State.performGates s.core.gate s).1

theorem Core.committed_allCommitted (c : Core) : c.committed.allCommitted := by
  intro k hk
  obtain hk | hk := List.mem_append.mp hk <;> obtain ⟨o, -, rfl⟩ := List.mem_map.mp hk <;> rfl

theorem Core.committed_ids (c : Core) :
    c.committed.eng.cmds.map (fun k => k.id) = (c.eng.cmds ++ c.gateCmds).map (fun k => k.id) := by
  simp [Core.committed, Function.comp_def]

/-- Where no load has a mark, the segment commits; the count of an implicit checkpoint touches neither memory nor the core. -/
theorem State.doCommit_unmarked {s : State} (a : After) (hm : ∀ e ∈ s.core.flight, e.mark = none) :
    ∃ u : State, u.core = s.core ∧ u.mem = s.mem ∧ s.doCommit a = ((u.commit.gc).assignSerials).holdFor a.next := by
  have hf : s.core.flight.find? (fun e => e.mark.isSome) = none :=
    List.find?_eq_none.mpr (fun e he => by rw [hm e he]; exact Bool.false_ne_true)
  unfold State.doCommit
  simp only [hf]
  split
  · exact ⟨_, (State.countErr_mem_core ..).2, (State.countErr_mem_core ..).1, rfl⟩
  · exact ⟨s, rfl, rfl, rfl⟩

/-- What a commit leaves of memory and of the core. -/
structure State.Commits (s t : State) (a : After) : Prop where
  mem : t.mem = s.core.gate.foldl (fun m e => m.writeAll (e.performed m)) s.mem
  core : ∃ task cmds m, t.core = { s.core.committed with
    task := task, eng := { s.core.committed.eng with cmds := cmds }, mash := m, hold := a.next }
  ids : t.core.eng.cmds.map (fun k => k.id) = (s.core.eng.cmds ++ s.core.gateCmds).map (fun k => k.id)
  committed : t.core.allCommitted

theorem State.doCommit_commits {s : State} (a : After) (hm : ∀ e ∈ s.core.flight, e.mark = none) : s.Commits (s.doCommit a) a := by
  obtain ⟨u, hcore, hmem, heq⟩ := State.doCommit_unmarked a hm
  have hgc : u.commit.gc.core = Core.release s.core.committed := by
    rw [← hcore, ← State.commit_core]
    rfl
  have hall : u.commit.gc.core.allCommitted := hgc ▸ s.core.committed_allCommitted
  have hframe := State.assignSerials_serialFrame hall
  obtain ⟨task, cmds, hc⟩ := hframe.core
  rw [hgc] at hc
  have hids := hframe.ids
  rw [hgc] at hids
  rw [heq]
  refine ⟨?_, ⟨task, cmds, (Core.release s.core.committed).mash, ?_⟩, hids.trans s.core.committed_ids, hframe.committed hall⟩
  · show u.commit.gc.assignSerials.mem = _
    rw [hframe.mem, ← hmem, ← hcore]
    exact State.commit_mem u
  · show { u.commit.gc.assignSerials.core with hold := a.next } = _
    rw [hc]
    rfl

/-- A load whose data is poisoned, the oldest in flight, turns the commit into a recovery fault (R366). -/
theorem State.doCommit_marked {s : State} (a : After) {e : InFlight} {m : LoadMark} {rest : List InFlight}
    (hf : s.core.flight = e :: rest) (he : e.mark = some m) : s.doCommit a =
      s.recoveryFault (if m.ue then Cause.eccUncorrectable else Cause.poison) (recoveryInfo m.pc 2) := by
  unfold State.doCommit
  rw [hf, List.find?_cons_of_pos (by rw [he]; rfl)]
  simp only [he]

section
variable {s : State} {a : After} (hs : s.holding (.commit a)) (hr : s.core.commitReady = true)
include hs hr

theorem State.holdStep_commit : s.holdStep = s.doCommit a := by
  rw [State.holdStep, hs.isHeld]
  exact if_pos hr

/-- Once its conditions are met the commit is one step. -/
theorem step_commit (hmove : s.doCommit a ≠ s) : step s = .next (s.doCommit a) := by
  have hent : s.core.entering = false := by rw [Core.entering, hs.isHeld]
  rw [step_holding hs (fun h => nomatch h) hent (State.holdStep_commit hs hr ▸ hmove), State.holdStep_commit hs hr]

end

/-! ### The end of a step (R285, R336, R342) -/

/-- The named successors join those that the steps of the task have named. -/
def Task.addSuccessors (st : StepRec) (succ : List Word) (t : Task) : Task :=
  { t with succ := t.succ ++ succ.zipIdx.map (fun p => (st.number, p.2, p.1)) }

/-- The rest of the end of a step, once its successors are handed over: the core's next step of the task, if there is one. -/
def State.afterStep (u : State) (st : StepRec) : State :=
  match u.task? st.task with
  | none => u.setCore u.cur u.core.vacant
  | some t =>
    let n := (t.next[st.gangIdx]?).getD t.pb.total
    if t.pb.total ≤ n then u.endCore u.cur st.task st.gangIdx
    else if u.core.preempt.isSome then
      ((u.setCore u.cur { u.core.vacant with run := .switchedOut, task := some st, preempt := u.core.preempt }).settleGang
        st.task).advanceAcks u.ctxNo
    else (u.startStep u.cur t st.gangIdx n).advanceAcks u.ctxNo

theorem State.stepEnd_eq {s : State} {st : StepRec} (succ : List Word) (hst : s.core.task = some st) :
    s.stepEnd succ = ((s.keepCore s.cur).modTask st.task (Task.addSuccessors st succ)).afterStep st := by
  rw [State.stepEnd, hst]
  rfl

/-- What the end of a step leaves: memory as it was, no hold, the task's successors, and where the core has no further step of its
task, an idle core with its registers. -/
structure State.EndsStep (s t : State) (st : StepRec) (x : Task) : Prop where
  mem : t.mem = s.mem
  hold : t.core.hold = .none
  successors : t.namesSuccessors st.task x.succ
  done : x.pb.total ≤ (x.next[st.gangIdx]?).getD x.pb.total →
    t.core.run = .idle ∧ t.core.task = none ∧ t.core.regs = s.core.regs

/-- Acknowledgements that advance behind the end of a step touch nothing of it. -/
theorem State.EndsStep.advanceAcks {s t : State} {st : StepRec} {x : Task} (h : s.EndsStep t st x) (ctx : Nat) :
    s.EndsStep (t.advanceAcks ctx) st x := by
  obtain ⟨cs, hcs⟩ := t.advanceAcks_eq ctx
  rw [hcs]
  exact ⟨h.mem, h.hold, h.successors, h.done⟩

/-- A gang that leaves its cores behind the end of a step touches nothing of it but the place of its task. -/
theorem State.EndsStep.settleGang {s t : State} {st : StepRec} {x y : Task} (h : s.EndsStep t st x)
    (hy : t.task? st.task = some y) (hsucc : y.succ = x.succ) : s.EndsStep (t.settleGang st.task) st x := by
  have hnames := State.settleGang_successors hy
  rw [hsucc] at hnames
  obtain ⟨k, o, l, heq, hk⟩ := t.settleGang_eq st.task
  rw [heq] at hnames ⊢
  rcases hk with rfl | ⟨hrun, rfl⟩
  · exact ⟨h.mem, h.hold, hnames, h.done⟩
  · refine ⟨h.mem, rfl, hnames, fun hn => ?_⟩
    rw [(h.done hn).1] at hrun
    cases hrun

theorem State.afterStep_endsStep {u : State} {st : StepRec} {x : Task} (hx : u.task? st.task = some x) :
    u.EndsStep (u.afterStep st) st x := by
  have hnames := State.namesSuccessors_of_task? hx
  have hid := (State.task?_mem hx).2
  unfold State.afterStep
  simp only [hx]
  split
  · unfold State.endCore
    rw [State.setCore_cur, State.getCore_cur]
    have hy := State.task?_modTask ({ u with core := u.core.vacant } : State) st.task
      (f := fun t => { t with ended := if t.ended.contains st.gangIdx then t.ended else st.gangIdx :: t.ended }) (fun _ => rfl)
    rw [show ({ u with core := u.core.vacant } : State).task? st.task = some x from hx] at hy
    have hynames := State.namesSuccessors_of_task? hy
    refine (State.EndsStep.settleGang (s := u) (x := x) ?_ hy rfl).advanceAcks _
    exact ⟨rfl, rfl, hynames, fun _ => ⟨rfl, rfl, rfl⟩⟩
  · next hn =>
    split
    · rw [State.setCore_cur]
      exact (State.EndsStep.settleGang (s := u) (t := ({ u with core := { u.core.vacant with
        run := .switchedOut, task := some st, preempt := u.core.preempt } } : State))
        ⟨rfl, rfl, hnames, fun hle => absurd hle hn⟩ hx rfl).advanceAcks _
    · obtain ⟨k, heq, hk⟩ := u.startStep_cur rfl x st.gangIdx ((x.next[st.gangIdx]?).getD x.pb.total)
      have hy := State.task?_modTask ({ u with core := k } : State) st.task
        (f := Task.advanceTo st.gangIdx ((x.next[st.gangIdx]?).getD x.pb.total)) (fun _ => rfl)
      rw [show ({ u with core := k } : State).task? st.task = some x from hx] at hy
      have hynames := State.namesSuccessors_of_task? hy
      rw [heq, hid]
      refine State.EndsStep.advanceAcks ?_ _
      exact ⟨rfl, hk.hold, hynames, fun hle => absurd hle hn⟩

/-- The end of a step of a resident task hands over its successors. -/
theorem State.stepEnd_endsStep {s : State} {st : StepRec} {x : Task} (succ : List Word) (hst : s.core.task = some st)
    (hx : s.task? st.task = some x) : s.EndsStep (s.stepEnd succ) st (x.addSuccessors st succ) := by
  have hu : ((s.keepCore s.cur).modTask st.task (Task.addSuccessors st succ)).task? st.task =
      some (x.addSuccessors st succ) :=
    (State.task?_modTask _ _ (f := Task.addSuccessors st succ) (fun _ => rfl)).trans (congrArg (Option.map _) hx)
  rw [State.stepEnd_eq succ hst]
  obtain ⟨hmem, hhold, hnames, hdone⟩ := State.afterStep_endsStep hu
  exact ⟨hmem, hhold, hnames, hdone⟩

section
variable {s : State} {succ : List Word} (hs : s.holding (.endStep succ)) (hset : s.core.settled = true)
  (hlate : s.core.lateTraps = [])
include hs hset hlate

theorem State.holdStep_endStep : s.holdStep = (s.release .package).stepEnd succ := by
  rw [State.holdStep, hs.isHeld]
  simp only [hset, if_true, State.finishStep, hlate, List.isEmpty_nil]

/-- Once all that the step has given has ended, its end is one step. -/
theorem step_endStep (hmove : ((s.release .package).stepEnd succ).core.hold = .none) :
    step s = .next ((s.release .package).stepEnd succ) := by
  have hent : s.core.entering = false := by rw [Core.entering, hs.isHeld]
  have heq := State.holdStep_endStep hs hset hlate
  rw [← heq] at hmove ⊢
  refine step_holding hs (fun h => nomatch h) hent (fun h => ?_)
  rw [h, hs.isHeld] at hmove
  cases hmove

end

end Sys2Proof.Machine

open Sys2Proof.Machine

/-- Settles O47: the holds of the ctl slot, the commit with its rollback, and the end of a step. -/
theorem segmentsAndStepsHold : Obligations.SegmentsAndStepsHold := by
  refine ⟨fun s hh => ⟨exec_ckpt_program hh, exec_yield_unmarked hh, exec_yield_marked hh, fun n => exec_rdv_alone hh n,
    fun n t => exec_rdv_group hh n, fun d dom t => exec_sstep_domain hh d dom, exec_sstep_foreign hh, fun d a hm hr => ?launch,
    fun d a hm hr => ?replaySafe, ?halt, fun s0 s1 s2 s3 => ?exit⟩, ?commit, ?rollback, ?ending⟩
  case launch =>
    obtain ⟨hplain, hgraph⟩ := State.static67_launch hh hm d a
    exact ⟨settle_launchAt hplain hr d a false, settle_launchAt hgraph hr d a true⟩
  case replaySafe =>
    obtain ⟨hplain, hgraph⟩ := State.static67_launch hh hm d a
    exact ⟨settle_launchAt_replaySafe hplain hr d a false, settle_launchAt_replaySafe hgraph hr d a true⟩
  case halt =>
    obtain ⟨m, hm, heq⟩ := State.endAt_program hh []
    refine ⟨s.endAt [], rfl, ?_⟩
    rw [heq]
    exact ⟨rfl, hm, rfl, rfl, rfl, rfl, rfl, rfl, rfl, rfl, rfl, rfl, rfl⟩
  case exit =>
    obtain ⟨m, hm, heq⟩ := State.endAt_program hh (([s0, s1, s2, s3].map s.successor).filter (fun a => a != 0))
    refine ⟨s.endAt _, rfl, ?_⟩
    rw [heq]
    exact ⟨rfl, hm, rfl, rfl, rfl, rfl, rfl, rfl, rfl, rfl, rfl, rfl, rfl⟩
  case commit =>
    intro s a hs hr hm
    obtain ⟨hmem, ⟨task, cmds, m, hcore⟩, hids, hall⟩ := State.doCommit_commits a hm
    refine ⟨s.doCommit a, step_commit hs hr (fun heq => ?_), hmem, ?_⟩
    · have hhold : a.next = .commit a := by
        rw [← hs.isHeld, ← heq, hcore]
      cases a <;> cases hhold
    · rw [hcore] at hids hall ⊢
      exact ⟨rfl, rfl, hids, hall, rfl, rfl, rfl, rfl, rfl, rfl, rfl⟩
  case rollback =>
    intro s a e m rest hs hr hh hretry hf he
    obtain ⟨hmem, hcore⟩ := State.recoveryFault_first s (if m.ue then Cause.eccUncorrectable else Cause.poison)
      (recoveryInfo m.pc 2) hh hretry
    rw [← State.doCommit_marked a hf he] at hmem hcore
    refine ⟨s.doCommit a, step_commit hs hr (fun heq => ?_), hmem, ?_⟩
    · rw [heq] at hcore
      rw [hcore] at hretry
      cases hretry
    · rw [hcore]
      exact ⟨rfl, rfl, rfl, rfl, rfl⟩
  case ending =>
    intro s succ st x hs hset hlate hst hx
    obtain ⟨hmem, hhold, hnames, hdone⟩ := State.stepEnd_endsStep (s := s.release .package) succ hst hx
    exact ⟨_, step_endStep hs hset hlate hhold, hmem, hnames, hdone⟩
end

section
/-! PROOFS. Contexts that a write at home keeps (R68, R309): it counts errors in their registers, and names none anew. -/

open Sys2Proof

namespace Sys2Proof.Machine

/-- The contexts have the numbers that they had. -/
def State.SameCtxs (s t : State) : Prop := t.ctxs.map Ctx.id = s.ctxs.map Ctx.id

theorem State.SameCtxs.refl (s : State) : s.SameCtxs s := rfl

theorem State.SameCtxs.trans {s t u : State} (h : s.SameCtxs t) (g : t.SameCtxs u) : s.SameCtxs u := Eq.trans g h

/-- A context of a number is still found. -/
theorem State.SameCtxs.ctx? {s t : State} (h : s.SameCtxs t) {n : Nat} {x : Ctx} (hx : s.ctx? n = some x) :
    ∃ y, t.ctx? n = some y := by
  have hid : n ∈ t.ctxs.map Ctx.id := h ▸ List.mem_map.mpr ⟨x, List.mem_of_find?_eq_some hx, beq_iff_eq.mp (List.find?_some hx :)⟩
  obtain ⟨y, hy, hyn⟩ := List.mem_map.mp hid
  exact Option.isSome_iff_exists.mp (List.find?_isSome.mpr ⟨y, hy, beq_iff_eq.mpr hyn⟩)

theorem State.SameCtxs.foldl {β : Type} {f : State → β → State} (hf : ∀ (s : State) b, s.SameCtxs (f s b)) (l : List β)
    (s : State) : s.SameCtxs (l.foldl f s) := by
  induction l generalizing s with
  | nil => exact .refl s
  | cons b l ih => exact (hf s b).trans (ih _)

theorem State.modCtx_sameCtxs (s : State) (n : Nat) {f : Ctx → Ctx} (hf : ∀ c, (f c).id = c.id) : s.SameCtxs (s.modCtx n f) := by
  show (s.ctxs.map _).map Ctx.id = _
  rw [List.map_map]
  refine List.map_congr_left (fun c _ => ?_)
  show (if c.id == n then f c else c).id = c.id
  split
  · exact hf c
  · rfl

theorem State.countErr_sameCtxs (s : State) (n : Nat) (f : ErrRegs → ErrRegs) : s.SameCtxs (s.countErr n f) := by
  have h := s.modCtx_sameCtxs n (f := fun c => { c with err := f c.err }) (fun _ => rfl)
  unfold State.countErr
  dsimp only
  repeat' split
  all_goals exact h

theorem State.evictBlock_sameCtxs (s : State) (x : L2Line) (blk : Nat) : s.SameCtxs (s.evictBlock x blk) := by
  unfold State.evictBlock
  split
  · split
    · exact State.countErr_sameCtxs _ _ _
    · exact .refl s
  · exact .refl s

theorem State.evict_sameCtxs (s : State) (x : L2Line) : s.SameCtxs (s.evict x) := by
  unfold State.evict
  split
  · exact (State.evictBlock_sameCtxs s x _).trans (State.evictBlock_sameCtxs _ x _)
  · exact .refl s

theorem State.fetchLine_sameCtxs (s : State) (x : L2Line) (held : List Nat) : s.SameCtxs (s.fetchLine x held) := by
  unfold State.fetchLine
  split
  · exact .refl s
  · dsimp only
    split
    · next vs _ =>
      have h : s.SameCtxs (vs.foldl State.evict s) := .foldl State.evict_sameCtxs vs s
      split <;> exact h
    · exact .refl s

theorem State.writeLine_sameCtxs (s : State) (agent : Option Bool) (f : Fetch) (line : Nat) :
    s.SameCtxs (s.writeLine agent f line) := by
  have h : s.SameCtxs (s.cacheHome line f true) := by
    unfold State.cacheHome
    split
    · exact State.fetchLine_sameCtxs s _ _
    · exact .refl s
  unfold State.writeLine
  dsimp only
  split <;> exact h

theorem State.homeCells_sameCtxs (s : State) (cs : List Host.Cell) : s.SameCtxs (s.homeCells cs) := by
  have h : s.SameCtxs (s.writeMain none Fetch.plain cs) :=
    .foldl (f := fun t line => t.writeLine none Fetch.plain line) (fun t line => t.writeLine_sameCtxs none Fetch.plain line) _
      (s.writeBits cs cs)
  unfold State.homeCells
  dsimp only
  repeat' split
  all_goals exact h

end Sys2Proof.Machine
end

section
/-! PROOFS. The events of the launch hardware (R145, R148, R330, R336 to R345, R350 to R353, R376 to R378). -/

open Sys2Proof

namespace Sys2Proof.Machine

/-! ### Dispatch (R338 to R344) -/

/-- The launch hardware once it has picked a task. -/
def State.picked (s : State) (t : Task) (credits : Vector Int 8) : State :=
  s.modLaunch (fun l =>
    { l with queue := l.queue.filter (fun x => x.id != t.id), resident := l.resident ++ [{ t with preempted := false }],
             credits := credits, moved := s.podTime.toNat,
             domains := if (lookupNat t.lb.domain l.domains).isSome then l.domains
               else insertNat t.lb.domain { task := t.id, gen := 0, arrived := [] } l.domains })

theorem State.settleWaiting_none {s : State} (h : s.launch.waiting = []) : s.settleWaiting = s := by
  have hl : { s.launch with queue := s.launch.queue ++ [], waiting := [] } = s.launch := by rw [List.append_nil, ← h]
  simp only [State.settleWaiting, State.modLaunch, h, List.take_nil, List.map_nil, List.drop_nil, hl]

/-- A task alone on the focused core, with nothing saved, begins its step there. -/
theorem State.dispatch_alone {s : State} {t : Task} (cr : Vector Int 8) (hc : t.cores = [s.cur]) (he : t.ended = [])
    (hs : ∀ c ∈ s.ctxs, c.saved = []) : s.dispatch t cr =
      ((s.picked t cr).startStep s.cur t 0 ((t.next[0]?).getD 0)).settleWaiting := by
  have hnone := (s.picked t cr).saved_none hs t.lb.ctx (savedKey t.id s.cur)
  show State.settleWaiting (List.foldl _ (s.picked t cr) t.cores.zipIdx) = _
  simp only [hc, List.zipIdx_cons, List.zipIdx_nil, List.foldl_cons, List.foldl_nil, he, List.contains_nil, Bool.false_eq_true,
    if_false, hnone]

/-- A change of tasks of a number is none of the queue without it. -/
theorem map_modTask_filter (q : List Task) (id : Nat) (f : Task → Task) :
    (q.filter (fun x => x.id != id)).map (fun t => if t.id = id then f t else t) = q.filter (fun x => x.id != id) := by
  refine (List.map_congr_left (fun t ht => ?_)).trans (List.map_id _)
  exact if_neg (bne_iff_ne.mp (List.mem_filter.mp ht).2)

theorem exec_taskDispatch_alone {s : State} {t : Task} {cr : Vector Int 8} (hp : s.pickTask = some (t, cr)) (hc : t.cores = [s.cur])
    (he : t.ended = []) (hs : ∀ c ∈ s.ctxs, c.saved = []) (hw : s.launch.waiting = []) :
    ∃ k, k.Begins t 0 ((t.next[0]?).getD 0) ∧ exec .taskDispatch s = .next (({ s.picked t cr with core := k } : State).modTask t.id
      (Task.advanceTo 0 ((t.next[0]?).getD 0))) := by
  obtain ⟨k, heq, hk⟩ := (s.picked t cr).startStep_cur (c := s.cur) rfl t 0 ((t.next[0]?).getD 0)
  have hdisp := State.dispatch_alone cr hc he hs
  rw [heq, State.settleWaiting_none (by exact hw)] at hdisp
  refine ⟨k, hk, ?_⟩
  show execTaskDispatch s = _
  rw [execTaskDispatch, hp]
  exact congrArg Host.Outcome.next hdisp

/-! ### Pre-emption (R341, R342) -/

/-- The one queued task marks the core of the one resident task that it pre-empts. -/
theorem exec_preemptionMark {s : State} {t r : Task} (hq : s.launch.queue = [t]) (hres : s.launch.resident = [r])
    (hp : preempts t.lb.prio r.lb.prio = true) (ht : t.needs = [s.cur]) (hr : r.needs = [s.cur]) (hn : s.core.preempt = none) :
    exec (.preemptionMark t.id) s = .next { s with core := { s.core with
      preempt := some (s.podTime.toNat + min s.core.sys.horizon.toNat 10000) } } := by
  have hshare : shares t.needs r.needs = true := by simp [shares, ht, hr]
  have hvictims : s.launch.victims t = [r] := by
    rw [Launch.victims, hres]
    exact List.filter_cons_of_pos (by rw [hp, hshare]; rfl)
  show execPreemptionMark t.id s = _
  simp only [execPreemptionMark, hq, List.find?_cons, beq_self_eq_true, State.markFor, hvictims, List.foldl_cons, List.foldl_nil,
    State.markGang, hr, State.modCoreAt_cur, State.modCore, hn]

theorem State.writeSave_none {s : State} {x : Ctx} (yield : Bool) (hx : s.ctx? s.ctxNo = some x)
    (ha : lookupNat s.cur x.saves = none) : s.writeSave yield = s := by
  simp [State.writeSave, hx, ha]

theorem State.writeSave_some {s : State} {x : Ctx} {a : Nat} (yield : Bool) (hx : s.ctx? s.ctxNo = some x)
    (ha : lookupNat s.cur x.saves = some a) :
    s.writeSave yield = s.bump.homeCells (s.core.saveCells x.inj s.tick a yield) := by
  simp [State.writeSave, hx, ha]

theorem State.writeSave_sameCtxs (s : State) (yield : Bool) : s.SameCtxs (s.writeSave yield) := by
  unfold State.writeSave
  split
  · exact State.homeCells_sameCtxs s.bump _
  · exact .refl s

/-- A core that is switched out runs no more; its state is saved, and memory has changed by its save area alone. -/
theorem State.switchOut_saves {s : State} {st : StepRec} {x : Ctx} (yield : Bool) (hst : s.core.task = some st)
    (hx : s.ctx? s.ctxNo = some x) : ∃ y, (s.switchOut yield).core.run ≠ .running ∧ (s.switchOut yield).ctx? s.ctxNo = some y ∧
      lookupNat (savedKey st.task s.cur) y.saved = some (s.core.kept yield) ∧ (s.switchOut yield).mem = (s.writeSave yield).mem := by
  obtain ⟨z, hz⟩ := (s.writeSave_sameCtxs yield).ctx? hx
  have hy := State.ctx?_modCtx (s.writeSave yield) s.ctxNo
    (fun x => { x with saved := insertNat (savedKey st.task s.cur) (s.core.kept yield) x.saved }) (fun _ => rfl)
  rw [hz] at hy
  rw [State.switchOut, hst]
  dsimp only
  rw [State.setCore_cur]
  generalize hu : ({ (s.writeSave yield).modCtx s.ctxNo _ with core := _ } : State) = u
  obtain ⟨k, o, l, heq, hk⟩ := u.settleGang_eq st.task
  rw [heq]
  subst hu
  refine ⟨_, ?_, hy, lookupNat_insertNat_self _ _ _, rfl⟩
  rcases hk with rfl | ⟨-, rfl⟩
  · exact fun h => nomatch h
  · exact fun h => nomatch h

theorem exec_preemptHorizon {s : State} {n : Nat} (hp : s.core.preempt = some n) (hn : n ≤ s.podTime.toNat)
    (hb : s.core.atBoundary = true) (hbefore : s.beforePreempt = false) (hr : s.core.remote = []) (hs : s.core.savable = true) :
    exec .preemptHorizon s = .next (s.switchOut false) := by
  show execPreemptHorizon s = _
  simp only [execPreemptHorizon, hp, hn, hb, hbefore, decide_true, Bool.not_false, Bool.and_self, if_true,
    State.arriveLoads_quiet s hr, hs]

/-! ### Restore (R378) -/

theorem exec_contextRestore {s : State} {st : StepRec} {c : Ctx} {k : Core} (hrun : s.core.run = .switchedOut)
    (hst : s.core.task = some st) (hp : s.core.preempt = none) (hc : s.ctxs = [c])
    (hk : lookupNat (savedKey st.task s.cur) c.saved = some k) (hincs : c.savedIncs = []) (hflags : c.savedFlags = [])
    (hgens : c.savedGens = []) : ∃ u, exec .contextRestore s = .next u ∧ u.mem = s.mem ∧ u.core = { s.reloadSave c k with
      sys := { (s.reloadSave c k).sys with dbgRoute := s.core.sys.dbgRoute, horizon := s.core.sys.horizon },
      icache := s.core.icache, die := s.core.die, pos := s.core.pos, logical := s.core.logical, run := .running,
      preempt := none, nextAcc := s.core.nextAcc, eng := { (s.reloadSave c k).eng with nextId := s.core.eng.nextId } } := by
  have hfind : s.ctxs.find? (fun c => (lookupNat (savedKey st.task s.cur) c.saved).isSome) = some c := by
    rw [hc]
    exact List.find?_cons_of_pos (by rw [hk]; rfl)
  have hcore : execContextRestore s = .next _ := rfl
  simp only [hrun, hst, hp, hfind, hk, hincs, hflags, hgens, Option.isSome_none, Bool.false_eq_true, if_false, List.filter_nil,
    List.foldl_nil, State.setCore_cur] at hcore
  exact ⟨_, hcore, rfl, rfl⟩

/-! ### Barriers and rendezvous (R145, R148) -/

/-- Where nothing is saved, a participant's core passes the barrier as it stands. -/
theorem State.passStep_cur {s : State} (t : Task) (gen : Word32) (hs : ∀ c ∈ s.ctxs, c.saved = []) :
    s.passStep t s.cur gen = s.modCore (fun k => k.passBarrier gen) := by
  simp only [State.passStep, s.saved_none hs, State.modCoreAt_cur]

theorem Core.passBarrier_waiting {c : Core} {r : XReg} {m : Fin 16} (gen : Word32) (h : c.hold = .barrier r m) :
    c.passBarrier gen = { ({ c with hold := .none } : Core).writeBoth r (gen.setWidth 64) with
      task := c.task.map (fun t => { t with passed := t.passed + 1 }) } := by
  simp [Core.passBarrier, Core.passes, h, Hold.passes]

theorem Core.writeBoth_frame (c : Core) (d : XReg) (v : Word) : (c.writeBoth d v).hold = c.hold ∧ (c.writeBoth d v).pc = c.pc ∧
    (c.writeBoth d v).regs = if d = 0 then c.regs else { c.regs with x := c.regs.x.set d v } := by
  unfold Core.writeBoth
  split
  · exact ⟨rfl, rfl, rfl⟩
  · exact ⟨rfl, rfl, rfl⟩

/-- The launch hardware once a barrier of a domain has opened. -/
def State.raised (s : State) (dom : Nat) (d : Domain) : State :=
  s.modLaunch (fun l => { l with domains := insertNat dom { d with gen := d.gen + 1, arrived := [] } l.domains })

/-- The barrier of a core alone opens once it has arrived. -/
theorem exec_stepBarrier {s : State} {dom : Fin 16} {d : Domain} {t : Task} (hd : lookupNat dom.val s.launch.domains = some d)
    (ht : s.task? d.task = some t) (hn : t.needs = [s.cur]) (ha : d.arrived = [s.cur]) (hr : t.replaySafe = false)
    (hdies : s.bothDies t = false) (hs : ∀ c ∈ s.ctxs, c.saved = []) : exec (.stepBarrier dom) s =
      .next ((s.raised dom.val d).modCore (fun k => k.passBarrier (d.gen + 1))) := by
  have hcomplete : d.complete t = true := by simp [Domain.complete, hn, ha]
  have hpass := State.passStep_cur (s := s.raised dom.val d) t (d.gen + 1) hs
  have hraised : (s.raised dom.val d).bothDies t = false := hdies
  have hopen : s.openBarrier dom.val d t = (s.raised dom.val d).passStep t s.cur (d.gen + 1) := by
    change List.foldl _ (if (s.raised dom.val d).bothDies t then _ else s.raised dom.val d) d.arrived = _
    rw [hraised, ha, if_neg Bool.false_ne_true, List.foldl_cons, List.foldl_nil, hr]
    rfl
  show execStepBarrier dom s = _
  simp only [execStepBarrier, hd, ht, hcomplete, if_true, hopen]
  exact congrArg Host.Outcome.next hpass

theorem Core.rdvTag_waiting {c : Core} {n : BitVec 8} (h : c.hold = .rdv n) : c.rdvTag = some n := by
  simp [Core.rdvTag, h, Hold.meets]

theorem Core.leaveRdv_waiting {c : Core} {n : BitVec 8} (h : c.hold = .rdv n) (info : Option Word) : c.leaveRdv info =
    { c with hold := .none, lateTraps := c.lateTraps ++
      (info.map (fun i => ({ cause := Cause.software, info := i, origin := none } : LateTrap))).toList } := by
  cases info <;> simp [Core.leaveRdv, h, Hold.meets]

section
variable {s : State} (hs : ∀ c ∈ s.ctxs, c.saved = [])
include hs

theorem State.stepCore_live (t : Task) (c : Nat) : s.stepCore t c = s.getCore c := by
  rw [State.stepCore, s.saved_none hs]
  rfl

theorem State.modStepCore_live (t : Task) (c : Nat) (f : Core → Core) : s.modStepCore t c f = s.modCoreAt c f := by
  simp only [State.modStepCore, s.saved_none hs]

end

/-- A change of another core leaves the focused one as it was. -/
theorem State.modCoreAt_other {s : State} {c : Nat} {f : Core → Core} (hc : c ≠ s.cur) : (s.modCoreAt c f).core = s.core := by
  rw [State.modCoreAt, State.setCore, if_neg hc]

/-- A core alone in its group goes on at its rendezvous. -/
theorem exec_rendezvousRelease_alone {s : State} {t : Task} {die : Bool} {n : BitVec 8} (ht : s.task? t.id = some t)
    (hg : t.lb.rvGroup ≠ 0) (hs : ∀ c ∈ s.ctxs, c.saved = []) (hn : s.core.hold = .rdv n) (hm : s.members t die = [s.cur]) :
    exec (.rendezvousRelease t.id die) s = .next { s with core := { s.core with hold := .none } } := by
  have hleave := Core.leaveRdv_waiting hn none
  rw [Option.map_none, Option.toList_none, List.append_nil] at hleave
  show execRendezvousRelease t.id die s = _
  simp [execRendezvousRelease, ht, hg, State.releaseRdv, hm, State.stepCore_live hs, Core.rdvTag_waiting hn,
    State.modStepCore_live hs, State.modCoreAt_cur, State.modCore, hleave]

/-- A core whose tag differs from that of the other member goes on with a late trap. -/
theorem exec_rendezvousRelease_unequal {s : State} {t : Task} {die : Bool} {n m : BitVec 8} {c : Nat} (ht : s.task? t.id = some t)
    (hg : t.lb.rvGroup ≠ 0) (hs : ∀ c ∈ s.ctxs, c.saved = []) (hn : s.core.hold = .rdv n) (hc : c ≠ s.cur)
    (hm : s.members t die = [s.cur, c]) (hother : (s.getCore c).hold = .rdv m) (hne : m ≠ n) :
    ∃ u, exec (.rendezvousRelease t.id die) s = .next u ∧ u.core = { s.core with
      hold := .none, lateTraps := s.core.lateTraps ++
        [LateTrap.mk Cause.software (n.setWidth 64 ||| (n.setWidth 64 <<< 8)) none] } := by
  have hleave := Core.leaveRdv_waiting hn (some (n.setWidth 64 ||| (n.setWidth 64 <<< 8)))
  have hbad : (some m != some n) = true := by simp [hne]
  have hrel := State.releaseRdv.eq_1 s t die
  simp only [hm, List.map_cons, List.map_nil, State.stepCore_live hs, State.getCore_cur,
    Core.rdvTag_waiting hn, Core.rdvTag_waiting hother, List.isEmpty_cons, List.any_cons, List.any_nil, Option.isNone_some,
    Bool.or_self, Bool.or_false, Bool.false_or, Bool.false_eq_true, if_false, List.headD_cons, Option.getD_some, bne_self_eq_false,
    hbad, if_true, List.foldl_cons, List.foldl_nil] at hrel
  refine ⟨s.releaseRdv t die, ?_, ?_⟩
  · show execRendezvousRelease t.id die s = _
    simp only [execRendezvousRelease, ht, hg, if_false]
  · rw [hrel, State.modStepCore_live hs t s.cur, State.modCoreAt_cur, State.modStepCore_live (s := s.modCore _) hs,
      State.modCoreAt_other (s := s.modCore _) hc]
    exact hleave

/-! ### Completion (R345) -/

theorem State.endGraphs_none {s : State} (h : s.launch.graphs = []) : s.endGraphs = s := by
  rw [State.endGraphs, h]
  rfl

/-- The launch hardware once a task without successors has left it. -/
def State.without (s : State) (id : Nat) : State :=
  (s.modLaunch (fun l => { l with domains := l.domains.filter (fun d => d.2.task != id) })).retireTask id

section
variable {s : State} {t : Task} (hw : s.launch.waiting = []) (hgs : s.launch.graphs = [])
include hw hgs

theorem State.completeTask_failed (hf : t.failed = true) : s.completeTask t = (s.without t.id).report (.taskFailed t.id) := by
  unfold State.completeTask
  simp only [hf, if_true]
  rw [State.settleWaiting_none (by exact hw), State.endGraphs_none (by exact congrArg (List.map _) hgs)]
  simp only [State.without, State.retireTask, State.modLaunch, hgs, List.map_nil]

theorem State.completeTask_passed (hsucc : t.succ = []) (hg : t.graph = none) (hf : t.failed = false) :
    s.completeTask t = s.without t.id := by
  have hnone : t.successors = [] := by rw [Task.successors, hsucc]; rfl
  have hwaiting : (s.without t.id).settleWaiting = s.without t.id := State.settleWaiting_none hw
  have hgraphs : (s.without t.id).endGraphs = s.without t.id := State.endGraphs_none hgs
  have hrun : State.runOf (s.modLaunch (fun l => { l with domains := l.domains.filter (fun d => d.2.task != t.id) })) t = none := by
    rw [State.runOf, hg]
    rfl
  unfold State.completeTask
  simp only [hrun, hf, hnone, Bool.false_eq_true, if_false, List.take_nil, State.readSuccessors, List.length_nil, Option.map_none,
    Nat.not_lt_zero]
  exact (congrArg State.endGraphs hwaiting).trans hgraphs

end

theorem exec_taskCompletion {s : State} {t : Task} (ht : s.task? t.id = some t) (hd : t.done = true) :
    exec (.taskCompletion t.id) s = .next (s.completeTask t) := by
  show execTaskCompletion t.id s = _
  simp only [execTaskCompletion, ht, hd, if_true]

/-! ### Replay (R350, R351) -/

/-- A step that is given up leaves the core and memory as they were. -/
theorem State.leaveStep_frame (s : State) (t : Task) (core : Nat) : (s.leaveStep t core).core = s.core ∧
    (s.leaveStep t core).cur = s.cur ∧ (s.leaveStep t core).mem = s.mem := by
  unfold State.leaveStep
  dsimp only
  split <;> exact ⟨rfl, rfl, rfl⟩

/-- A stopped step of a replay-safe task begins anew on its core, where that is in service. -/
theorem exec_stepReplay {s : State} {t : Task} {st : StepRec} (hrun : s.core.run = .stopped) (hst : s.core.task = some st)
    (ht : s.task? st.task = some t) (hr : t.replaySafe = true) (hmap : s.malt.coreMap.any (fun m => m.1 == s.cur) = true) :
    ∃ k, k.Begins t st.gangIdx st.number ∧ exec (.stepReplay s.cur .replay) s =
      .next (({ (s.clearSuspect s.cur).leaveStep t s.cur with core := k } : State).modTask t.id
        (Task.advanceTo st.gangIdx st.number)) := by
  obtain ⟨-, hcur, -⟩ := (s.clearSuspect s.cur).leaveStep_frame t s.cur
  obtain ⟨k, heq, hk⟩ := ((s.clearSuspect s.cur).leaveStep t s.cur).startStep_cur hcur.symm t st.gangIdx st.number
  refine ⟨k, hk, congrArg Host.Outcome.next (Eq.trans ?_ heq)⟩
  have hin : s.inService s.cur = true := hmap
  simp only [State.replayStep, State.getCore_cur, hst, ht, hrun, hr, hin, ne_eq, not_true_eq_false, false_and, if_false, if_true,
    Bool.not_true, Bool.false_eq_true]
  rfl

/-! ### The watchdog's trap (R353, R369) -/

/-- A trap of the kernel that nothing comes before is entered at once. -/
theorem State.deliverTrap_quiet {s : State} {cause : BitVec 6} {info : Word} (h : s.quiet) (hk : s.takesKernel cause info)
    (hc : isKernelCause cause = true) : s.deliverTrap cause info = s.entered cause info := by
  obtain ⟨hrun, hdue, hhnd, hrem, hdata, hent⟩ := id h
  obtain ⟨hnone, hroll⟩ := hk
  have hpost : s.modCore (fun c => c.postTrap cause info) = { s with core := { s.core with kTraps := [(cause, info)] } } := by
    rw [State.modCore, Core.postTrap, hnone]
    rfl
  have hb : ({ s.core with kTraps := [(cause, info)] } : Core).atBoundary = true := h.atBoundary
  have hback : ({ s with core := { s.core with kTraps := [] } } : State) = s := by rw [← hnone]
  have hstays : ({ s with core := { s.core with kTraps := [(cause, info)] } } : State).toBoundary 16 = _ := if_pos hdue
  have henter : ({ s with core := { s.core with kTraps := [(cause, info)] } } : State).takeKernel =
      ({ s with core := { s.core with kTraps := [] } } : State).takeTrap cause info s.core.pc := rfl
  unfold State.deliverTrap
  rw [if_neg (by simp [hrun, hc]), hpost, hstays]
  simp only [hb, hroll, Bool.not_false, Bool.and_self, if_true]
  rw [henter, hback, State.takeTrap_program s cause info hhnd hrem hdata]

/-! ### The kernel's command port (R330) -/

/-- A launch at an address that is not aligned is refused with code 1. -/
theorem exec_kernelLaunch_misaligned (s : State) (ctx : Nat) {addr : Word} (h : addr.toNat % 64 ≠ 0) (g : Bool) :
    exec (.kernelCommandPortLaunch ctx addr g) s = .next (s.report (.refusedLaunch ctx addr 1)) := by
  have hsub : s.submit ctx addr.toNat g true = (s, .got (1, 0)) := by
    cases g with
    | false => simp only [State.submit, State.loadBlocks, if_pos h, Bool.false_eq_true, if_false]
    | true => simp only [State.submit, State.submitGraph, if_pos h, if_true]
  show execKernelCommandPortLaunch ctx addr g s = _
  rw [execKernelCommandPortLaunch, hsub]
  rfl

/-- A task whose blocks pass their checks joins the queue, where it has room. -/
theorem exec_kernelLaunch_queued {s t : State} {ctx : Nat} {addr : Word} {b : LaunchBlock} {p : ParamBlock}
    (h : s.loadBlocks ctx addr.toNat true true = (t, .got (.ok (b, p)))) (hq : t.launch.queue.length < 768) :
    exec (.kernelCommandPortLaunch ctx addr false) s = .next (t.enqueue b p none) := by
  show execKernelCommandPortLaunch ctx addr false s = _
  simp only [execKernelCommandPortLaunch, State.submit, h, Bool.false_eq_true, if_false, Nat.not_le.mpr hq]

/-- A task that finds room stands last in the queue, with no step ended. -/
theorem State.enqueue_room {s : State} (b : LaunchBlock) (p : ParamBlock) (h : s.launch.queue.length < 768) :
    ∃ x, (s.enqueue b p none).launch.queue = s.launch.queue ++ [x] ∧ x.lb = b ∧ x.pb = p ∧ x.id = s.launch.nextTask ∧
      x.ended = [] :=
  ⟨_, congrArg Launch.queue (if_pos h), rfl, rfl, rfl, rfl⟩

end Sys2Proof.Machine

open Sys2Proof.Machine

/-- Settles O58: one lemma for each event of the launch hardware, put together. -/
theorem launchEvents : Obligations.LaunchEvents := by
  refine ⟨?dispatch, fun s id => ?aging, fun s t r => exec_preemptionMark, ?horizon, ?restore, ?barrier, ?rendezvous, ?completion,
    ?replay, fun s => ⟨?moving, ?told, ?delivered⟩, fun s ctx addr => ⟨?misaligned, ?queued⟩⟩
  case dispatch =>
    intro s t cr hp hc he hs hw
    obtain ⟨k, hk, heq⟩ := exec_taskDispatch_alone hp hc he hs hw
    obtain ⟨hx, hregs⟩ := hk.regs
    obtain ⟨h7, h8, h9, h10⟩ := stepRegs_x t 0 ((t.next[0]?).getD 0) hx
    refine ⟨_, heq, rfl, hk.run, hk.pc, hk.program, hk.mode, ?_, ?_, ?_, ?_, ?_, ?_, ⟨_, hk.record, rfl, rfl⟩,
      map_modTask_filter _ _ _, rfl, ?_⟩
    · exact (congrArg (fun r : Regs => r.x[7]) hregs).trans h7
    · exact (congrArg (fun r : Regs => r.x[8]) hregs).trans h8
    · exact (congrArg (fun r : Regs => r.x[9]) hregs).trans h9
    · exact (congrArg (fun r : Regs => r.x[10]) hregs).trans h10
    · exact congrArg Regs.p hregs
    · exact congrArg Regs.t hregs
    · refine ⟨_, List.mem_map_of_mem (List.mem_append_right _ (List.mem_singleton_self _)), ?_⟩
      rw [if_pos rfl]
      rfl
  case aging =>
    show execTaskAging id s = _
    simp only [execTaskAging, State.age, State.modLaunch, Bool.and_eq_true, decide_eq_true_eq]
  case horizon =>
    intro s n st x hp hn hb hbefore hr hs hst hx
    obtain ⟨y, hrun, hy, hsaved, hmem⟩ := State.switchOut_saves false hst hx
    refine ⟨_, y, exec_preemptHorizon hp hn hb hbefore hr hs, hrun, hy, hsaved, fun ha => ?_, fun a ha => ?_⟩
    · rw [hmem, State.writeSave_none false hx ha]
    · rw [hmem, State.writeSave_some false hx ha]
      exact State.homeCells_mem s.bump _
  case restore =>
    intro s st c k hrun hst hp hc hk hincs hflags hgens
    exact exec_contextRestore hrun hst hp hc hk hincs hflags hgens
  case barrier =>
    intro s dom d t r m hd ht hn ha hhold hr hdies hs
    obtain ⟨hnone, hpc, hregs⟩ := Core.writeBoth_frame { s.core with hold := .none } r ((d.gen + 1).setWidth 64)
    have hpass := Core.passBarrier_waiting (d.gen + 1) hhold
    refine ⟨_, exec_stepBarrier hd ht hn ha hr hdies hs, rfl, ?_, ?_, ?_, lookupNat_insertNat_self _ _ _⟩
    · exact (congrArg Core.hold hpass).trans hnone
    · exact (congrArg Core.pc hpass).trans hpc
    · exact (congrArg Core.regs hpass).trans hregs
  case rendezvous =>
    exact fun s t die n ht hg hs hn => ⟨exec_rendezvousRelease_alone ht hg hs hn,
      fun c m hc hm hother hne => exec_rendezvousRelease_unequal ht hg hs hn hc hm hother hne⟩
  case completion =>
    intro s t ht hd hsucc hg hw hgs
    refine ⟨_, exec_taskCompletion ht hd, ?_⟩
    cases hf : t.failed with
    | true =>
      rw [State.completeTask_failed hw hgs hf]
      exact ⟨rfl, rfl, rfl, rfl, rfl, rfl⟩
    | false =>
      rw [State.completeTask_passed hw hgs hsucc hg hf]
      exact ⟨rfl, rfl, rfl, rfl, rfl, rfl⟩
  case replay =>
    intro s t st hrun hst ht hid hr hmap
    obtain ⟨k, hk, heq⟩ := exec_stepReplay hrun hst ht hr hmap
    obtain ⟨hx, hregs⟩ := hk.regs
    refine ⟨_, heq, ?_, hk.run, hk.pc, ?_, ⟨_, hk.record, rfl, rfl⟩⟩
    · exact ((s.clearSuspect s.cur).leaveStep_frame t s.cur).2.2
    · show k.regs.x[7] = _
      rw [hregs]
      exact (stepRegs_x t st.gangIdx st.number hx).1
  case moving =>
    intro h act
    show execWatchdog act s = _
    rw [execWatchdog, h]
    rfl
  case told =>
    intro h hr
    show execWatchdog .none s = _
    rw [execWatchdog, h, State.reportNew, hr]
    rfl
  case delivered =>
    intro h hr hq hk
    have hdeliver := State.deliverTrap_quiet (s := s.bump) hq hk (by decide)
    have hon : s.bump.onCore s.cur (fun u => u.deliverTrap Cause.watchdog (Config.watchdogInfo s.tick)) = _ :=
      State.onCore_eq rfl hdeliver rfl
    show execWatchdog (.deliver s.cur) s = _
    rw [execWatchdog, h, State.reportNew, hr]
    exact congrArg Host.Outcome.next hon
  case misaligned => exact fun h g => exec_kernelLaunch_misaligned s ctx h g
  case queued =>
    intro t b p h hq
    obtain ⟨x, hqueue, hlb, hpb, hid, hended⟩ := State.enqueue_room b p hq
    exact ⟨_, x, exec_kernelLaunch_queued h hq, rfl, rfl, hqueue, hlb, hpb, hid, hended⟩
end

section
/-! PROOFS. The node table when handles are released (R149, R171), the stack instructions (R152, R160, R162), and the system registers
right after reset. -/

open Sys2Proof

namespace Sys2Proof.Machine

/-! ### Nodes that stay (R171) -/

theorem mem_of_mem_keepNodes {roots : List Nat} {ns : List TileNode} {n : TileNode} (h : n ∈ (keepNodes roots ns).1) : n ∈ ns := by
  induction ns with
  | nil => exact h
  | cons m rest ih =>
    unfold keepNodes at h
    dsimp only at h
    split at h
    · rcases List.mem_cons.mp h with rfl | h
      · exact List.mem_cons_self
      · exact List.mem_cons_of_mem _ (ih h)
    · exact List.mem_cons_of_mem _ (ih h)

theorem mem_keepNodes_roots {roots : List Nat} {x : Nat} (hx : x ∈ roots) (ns : List TileNode) : x ∈ (keepNodes roots ns).2 := by
  induction ns with
  | nil => exact hx
  | cons n rest ih =>
    unfold keepNodes
    dsimp only
    split
    · exact List.mem_append_right _ ih
    · exact ih

/-- A node that is referred to from outside the table stays. -/
theorem mem_keepNodes {roots : List Nat} {ns : List TileNode} {n : TileNode} (hn : n ∈ ns) (hr : n.id ∈ roots) :
    n ∈ (keepNodes roots ns).1 := by
  induction ns with
  | nil => exact hn
  | cons m rest ih =>
    unfold keepNodes
    dsimp only
    rcases List.mem_cons.mp hn with rfl | hn
    · rw [if_pos (List.contains_iff_mem.mpr (mem_keepNodes_roots hr rest))]
      exact List.mem_cons_self
    · split
      · exact List.mem_cons_of_mem _ (ih hn)
      · exact ih hn

/-- The first node of an id that is referred to from outside the table stays the first. -/
theorem keepNodes_find? {roots : List Nat} {x : Nat} (hx : x ∈ roots) (ns : List TileNode) :
    (keepNodes roots ns).1.find? (fun n => n.id == x) = ns.find? (fun n => n.id == x) := by
  induction ns with
  | nil => rfl
  | cons n rest ih =>
    unfold keepNodes
    dsimp only
    by_cases hn : n.id = x
    · rw [if_pos (List.contains_iff_mem.mpr (hn ▸ mem_keepNodes_roots hx rest))]
      simp [hn]
    · split <;> simp [hn, ih]

/-! ### Release (R149, R171) -/

@[simp] theorem Core.release_spine (c : Core) : c.release.mash.spine = c.mash.spine := rfl
@[simp] theorem Core.release_stores (c : Core) : c.release.mash.stores = c.mash.stores := rfl
@[simp] theorem Core.release_nextId (c : Core) : c.release.mash.nextId = c.mash.nextId := rfl
@[simp] theorem Core.release_regs (c : Core) : c.release.regs = c.regs := rfl
@[simp] theorem Core.coarsen_spine (c : Core) : c.coarsen.mash.spine = c.mash.spine := rfl
@[simp] theorem Core.coarsen_stores (c : Core) : c.coarsen.mash.stores = c.mash.stores := rfl
@[simp] theorem Core.coarsen_nextId (c : Core) : c.coarsen.mash.nextId = c.mash.nextId := rfl
@[simp] theorem Core.coarsen_nodes (c : Core) : c.coarsen.mash.nodes = c.mash.nodes := rfl
@[simp] theorem Core.coarsen_demands (c : Core) : c.coarsen.mash.demands = c.mash.demands := rfl

/-- What refers to nodes from outside the table (R149, R171). -/
def Core.roots (c : Core) : List Nat := c.mash.spine ++ c.shadow.spine ++ c.mash.stores.map (fun n => n.src)

theorem Core.release_nodes (c : Core) : c.release.mash.nodes = (keepNodes c.roots c.mash.nodes).1 := rfl

theorem Core.mem_roots_of_spine {c : Core} {x : Nat} (h : x ∈ c.mash.spine) : x ∈ c.roots :=
  List.mem_append_left _ (List.mem_append_left _ h)

theorem Core.mem_roots_of_store {c : Core} {o : StoreNode} (h : o ∈ c.mash.stores) : o.src ∈ c.roots :=
  List.mem_append_right _ (List.mem_map_of_mem h)

theorem Core.release_node? {c : Core} {x : Nat} (h : x ∈ c.roots) : c.release.mash.node? x = c.mash.node? x :=
  keepNodes_find? h _

/-- A demand of a node that stays stands as it was. -/
theorem Core.mem_release_demands {c : Core} {d : Demand} {n : TileNode} (hd : d ∈ c.mash.demands) (hn : n ∈ c.release.mash.nodes)
    (hid : n.id = d.node) : d ∈ c.release.mash.demands := by
  have hkept : c.release.mash.nodes.any (fun m => m.id == d.node) = true := List.any_eq_true.mpr ⟨n, hn, beq_iff_eq.mpr hid⟩
  exact List.mem_filterMap.mpr ⟨d, hd, if_pos hkept⟩

theorem Core.release_demands_nil {c : Core} (h : c.mash.demands = []) : c.release.mash.demands = [] :=
  (congrArg (List.filterMap _) h).trans rfl

/-! ### What the Mash alone changes -/

theorem State.tileFrame_modMash (s : State) (f : Mash → Mash) : s.tileFrame (s.modMash f) :=
  ⟨rfl, rfl, rfl, rfl, rfl, rfl, rfl, rfl, rfl, rfl, rfl⟩

theorem State.tileFrame.trans {s t u : State} (h : s.tileFrame t) (g : t.tileFrame u) : s.tileFrame u := by
  obtain ⟨h1, h2, h3, h4, h5, h6, h7, h8, h9, h10, h11⟩ := h
  obtain ⟨g1, g2, g3, g4, g5, g6, g7, g8, g9, g10, g11⟩ := g
  exact ⟨g1.trans h1, g2.trans h2, g3.trans h3, g4.trans h4, g5.trans h5, g6.trans h6, g7.trans h7, g8.trans h8, g9.trans h9,
    g10.trans h10, by rw [g11, h11]⟩

theorem State.gc_tileFrame (s : State) : s.tileFrame s.gc :=
  ⟨rfl, rfl, rfl, rfl, rfl, rfl, rfl, rfl, rfl, rfl, rfl⟩

/-- The end of an append: what nothing refers to goes, and the ranges are counted anew. -/
theorem State.coarsen_tileFrame (s : State) : s.tileFrame (s.modCore (fun c => c.release.coarsen)) :=
  ⟨rfl, rfl, rfl, rfl, rfl, rfl, rfl, rfl, rfl, rfl, rfl⟩

/-! ### Stack instructions (R152, R160, R162) -/

section
variable {s : State} {need grow : Nat} {f : List Nat → List Nat}

theorem settle_stackOp_underflow (h : s.core.mash.spine.length < need) : settle s (s.stackOp need grow f) =
    .next (s.takeTrap Cause.stackUnderflow (BitVec.ofNat 64 s.core.issue.slot) s.core.pc) := by
  rw [State.stackOp, if_pos h, settle_fault _ _ _ _ (by decide)]

theorem settle_stackOp_overflow (h : need ≤ s.core.mash.spine.length) (hg : grow = 1)
    (hl : s.core.sys.stk.limit.toNat < s.core.mash.spine.length + 1) : settle s (s.stackOp need grow f) =
    .next (s.takeTrap Cause.stackOverflow (BitVec.ofNat 64 s.core.issue.slot) s.core.pc) := by
  subst hg
  rw [State.stackOp, if_neg (by omega), if_pos ⟨Nat.one_pos, hl⟩, settle_fault _ _ _ _ (by decide)]

theorem settle_stackOp_moved (h : need ≤ s.core.mash.spine.length)
    (hl : 0 < grow → s.core.mash.spine.length + grow ≤ s.core.sys.stk.limit.toNat) : settle s (s.stackOp need grow f) =
    .next (s.modMash (fun m => { m with spine := f m.spine })).gc := by
  rw [State.stackOp, if_neg (by omega), if_neg (fun hc => by have := hl hc.1; omega), settle_ok]

end

theorem take_one_drop {sp : List Nat} {n : Nat} (h : n + 1 ≤ sp.length) : (sp.drop n).take 1 = [entryAt sp n] := by
  rw [List.drop_eq_getElem_cons h, entryAt, List.getElem?_eq_getElem h]
  rfl

theorem rotUp_eq {sp : List Nat} {n : Nat} (h : n + 1 ≤ sp.length) :
    rotUp n sp = (sp.drop n).take 1 ++ sp.take n ++ sp.drop (n + 1) := by
  rw [take_one_drop h, rotUp, List.eraseIdx_eq_take_drop_succ]
  rfl

theorem rotDown_eq {sp : List Nat} {n : Nat} (h : n + 1 ≤ sp.length) :
    rotDown n sp = (sp.drop 1).take n ++ sp.take 1 ++ sp.drop (n + 1) := by
  cases sp with
  | nil => cases h
  | cons x xs => simp [rotDown]

/-- A stack instruction is a stack operation, and on a stack that is deep enough its result is that of its row (R162). -/
theorem exec_stackPlan {i : Instr} {need grow : Nat} {f : List Nat → List Nat} (h : stackPlan i = some (need, grow, f)) (s : State) :
    grow ≤ 1 ∧ ∃ g, exec i s = settle s (s.stackOp need grow g) ∧ ∀ sp : List Nat, need ≤ sp.length → g sp = f sp := by
  cases i with
  | tdup =>
    cases h
    exact ⟨le_rfl, _, rfl, fun sp hsp => congrArg (· ++ sp) (take_one_drop hsp).symm⟩
  | tdrp =>
    cases h
    exact ⟨Nat.zero_le _, _, rfl, fun sp _ => List.drop_one.symm⟩
  | tswp =>
    cases h
    exact ⟨Nat.zero_le _, _, rfl, fun sp hsp => rotUp_eq hsp⟩
  | tpk n =>
    cases h
    exact ⟨le_rfl, _, rfl, fun sp hsp => congrArg (· ++ sp) (take_one_drop hsp).symm⟩
  | trot n =>
    cases h
    exact ⟨Nat.zero_le _, _, rfl, fun sp hsp => rotUp_eq hsp⟩
  | trtd n =>
    cases h
    exact ⟨Nat.zero_le _, _, rfl, fun sp hsp => rotDown_eq hsp⟩
  | _ => cases h

end Sys2Proof.Machine

open Sys2Proof.Machine

/-- Settles O37: each stack instruction is a stack operation whose new stack is that of its row. -/
theorem stackInstructionsMoveHandles : Obligations.StackInstructionsMoveHandles := by
  intro i s need grow f h
  obtain ⟨hgrow, g, hexec, hg⟩ := exec_stackPlan h s
  rw [hexec]
  refine ⟨settle_stackOp_underflow, settle_stackOp_overflow, fun hn hl => ⟨_, settle_stackOp_moved hn ?_, ?_, rfl, ?_, ?_⟩⟩
  · intro hpos
    have h1 : grow = 1 := by omega
    exact h1 ▸ hl h1
  · exact hg _ hn
  · exact fun n hmem => mem_of_mem_keepNodes hmem
  · exact (State.tileFrame_modMash s _).trans (State.gc_tileFrame _)

/-- Settles O14: the registers of each file, and the single ones, evaluated at reset. -/
theorem resetSystemRegisters : Obligations.ResetSystemRegisters := by
  refine ⟨?thresholds, ?formats, ?reservations, ?single⟩
  all_goals decide
end

section
/-! PROOFS. What the tile slots append: value nodes, load nodes, store nodes and forces (R159, R160, R163 to R169, R182, R188 to R192). -/

open Sys2Proof

namespace Sys2Proof.Machine

/-! ### Room for a node (R159, R182) -/

/-- Where there is room, nothing is evaluated by pressure. -/
theorem State.makeRoom_room {s : State} {value : Bool} {tail : Core → Core} (h : (tail s.core).hasRoom value = true) (ids : List Nat) :
    s.makeRoom value tail ids = (s, false) := by
  cases ids with
  | nil => rfl
  | cons id rest => rw [State.makeRoom, if_pos h]

/-- Where evaluation could free no node, none is evaluated. -/
theorem State.makeRoom_noCandidate {s : State} (h : ∀ n ∈ s.core.mash.nodes, s.core.mash.candidate n = false) (value : Bool)
    (tail : Core → Core) (ids : List Nat) : s.makeRoom value tail ids = (s, false) := by
  induction ids with
  | nil => rfl
  | cons id rest ih =>
    rw [State.makeRoom]
    split
    · rfl
    · split
      · exact ih
      · next n hn =>
        rw [if_neg (by simp [h n (List.mem_of_find?_eq_some hn)])]
        exact ih

/-! ### The append of a value node (R160, R169) -/

/-- The node that an append adds to the table. -/
def State.newNode (s : State) (opcode : BitVec 8) (after : List Nat) (args : List Nat) (b : Build) : TileNode :=
  { id := s.core.mash.nextId, op := b.op, opcode := opcode, args := args, tag := b.tag, mode := b.mode, srCtr := s.srKey.1,
    srKey := s.srKey.2, origin := s.originHere, st := s.core.mash.firstSt args, drows := [], dcols := [], vals := [], sectors := [],
    pinned := [], raw := [], rfmt := none, after := after, closing := none, retired := false, loc := .none }

/-- The state after an append that all checks let pass. -/
def State.appended (s : State) (pops : Nat) (opcode : BitVec 8) (after : List Nat) (b : Build) : State :=
  (s.modMash (fun m => { m with
    spine := m.nextId :: m.spine.drop pops,
    nodes := m.nodes ++ [s.newNode opcode after (m.top pops) b],
    nextId := m.nextId + 1 })).modCore (fun c => c.release.coarsen)

section
variable {s : State} {pops : Nat} {opcode : BitVec 8} {after : List Nat} {f : List Tag → Build} {b : Build}

theorem State.append_underflow (h : s.core.mash.spine.length < pops) :
    s.append pops opcode after f = s.fault 11 Cause.stackUnderflow := if_pos h

variable (hpops : pops ≤ s.core.mash.spine.length)
include hpops

theorem State.append_overflow (hl : s.core.sys.stk.limit.toNat < s.core.mash.spine.length - pops + 1) :
    s.append pops opcode after f = s.fault 11 Cause.stackOverflow :=
  (if_neg (Nat.not_lt.mpr hpops)).trans (if_pos hl)

variable (hlimit : ¬ s.core.sys.stk.limit.toNat < s.core.mash.spine.length - pops + 1)
  (hb : f (s.core.mash.tags (s.core.mash.top pops)) = b)
include hlimit hb

theorem State.append_shape (hs : b.shapeBad = true) : s.append pops opcode after f = s.fault 11 Cause.shape := by
  subst hb
  exact (if_neg (Nat.not_lt.mpr hpops)).trans ((if_neg hlimit).trans (if_pos hs))

theorem State.append_format (hs : b.shapeBad = false) (hf : b.fmtBad = true) :
    s.append pops opcode after f = s.fault 11 Cause.format := by
  subst hb
  exact (if_neg (Nat.not_lt.mpr hpops)).trans ((if_neg hlimit).trans ((if_neg (by simp [hs])).trans (if_pos hf)))

/-- An append that passes the checks of its operands asks for room. -/
theorem State.append_checked (hs : b.shapeBad = false) (hf : b.fmtBad = false)
    (hm : s.makeRoom true (Machine.held (s.core.mash.top pops) pops) s.core.mash.ids = (s, false)) : s.append pops opcode after f =
    if (Machine.held (s.core.mash.top pops) pops s.core).hasRoom true = true then .ok (s.appended pops opcode after b)
    else s.fault 11 Cause.nodeTableFull := by
  subst hb
  rw [State.append, if_neg (Nat.not_lt.mpr hpops), if_neg hlimit]
  simp only [hs, hf, hm, Bool.false_eq_true, if_false]
  rfl

theorem State.append_room (hs : b.shapeBad = false) (hf : b.fmtBad = false)
    (hroom : (Machine.held (s.core.mash.top pops) pops s.core).hasRoom true = true) :
    s.append pops opcode after f = .ok (s.appended pops opcode after b) :=
  (State.append_checked hpops hlimit hb hs hf (State.makeRoom_room hroom _)).trans (if_pos hroom)

theorem State.append_full (hs : b.shapeBad = false) (hf : b.fmtBad = false)
    (hroom : (Machine.held (s.core.mash.top pops) pops s.core).hasRoom true = false)
    (hc : ∀ n ∈ s.core.mash.nodes, s.core.mash.candidate n = false) :
    s.append pops opcode after f = s.fault 11 Cause.nodeTableFull :=
  (State.append_checked hpops hlimit hb hs hf (State.makeRoom_noCandidate hc _ _ _)).trans (if_neg (by simp [hroom]))

end

/-- The appended node stands in the table, since its handle is on the stack. -/
theorem State.newNode_mem_appended (s : State) (pops : Nat) (opcode : BitVec 8) (after : List Nat) (b : Build) :
    s.newNode opcode after (s.core.mash.top pops) b ∈ (s.appended pops opcode after b).core.mash.nodes :=
  mem_keepNodes (List.mem_append_right _ (List.mem_singleton_self _)) (Core.mem_roots_of_spine List.mem_cons_self)

theorem State.appended_tileFrame (s : State) (pops : Nat) (opcode : BitVec 8) (after : List Nat) (b : Build) :
    s.tileFrame (s.appended pops opcode after b) :=
  (State.tileFrame_modMash s _).trans (State.coarsen_tileFrame _)

/-- Tile arithmetic, tzer and tfil append, once steps 6 and 7 of R46 let a duplicate form pass. -/
theorem exec_appendPlan {i : Instr} {s : State} {pops : Nat} {opcode : BitVec 8} {f : List Tag → Build}
    (h : s.appendPlan i = some (pops, opcode, f)) (hs : s.static67 i = none) :
    exec i s = settle s (s.append pops opcode [] f) := by
  cases i with
  | tmmaD m | tmacD m | taddD m =>
    cases h
    exact congrArg (settle s) (State.guarded_passed hs _)
  | tmma | tmac | tadd | tsub | tmul | tmax | tmin | tscl | tbia | tfun | tred | tsmx | ttrn | tcvt | tslc | tcat | tbcs | tmsk
  | tchk | tzer | tfil =>
    cases h
    rfl
  | _ => cases h

/-! ### Tile access blocks (R163) -/

/-- A block that stands at its address and has no wrong field is read, and the instruction goes on. -/
theorem State.readTab_at {s : State} {w : Word} {b : Tab} (h : s.blockAt w 64 64) (hp : parseTab (s.block w 64).2 = some b)
    (k : State → Tab → Eff) : s.readTab w k = k (s.block w 64).1 b := by
  obtain ⟨-, hlow, halign, hspill, hstores⟩ := h
  have hplace : spadBlock w = .ok w.toNat := by rw [spadBlock, if_neg (Nat.not_le.mpr hlow), if_neg (not_not_intro halign)]
  have hread : parseTab (s.controlBefore (spadBase s.cur + w.toNat) 64).2 = some b := hp
  simp only [State.readTab, hplace, hspill, State.storesMetBefore_none hstores, hread, Bool.false_eq_true, if_false, List.isEmpty_nil,
    Bool.not_true]
  rfl

theorem State.block_core (s : State) (w : Word) (n : Nat) : (s.block w n).1.core = s.core := State.controlBefore_core ..

theorem State.block_stores {s : State} {w : Word} (h : s.blockAt w 64 64) : (s.block w 64).1.core.mash.stores = [] := by
  obtain ⟨-, -, -, -, hstores⟩ := h
  rw [State.block_core, hstores]

/-! ### Load nodes (R166, R169, R179) -/

theorem State.storesBefore_none {s : State} (h : s.core.mash.stores = []) (a : TileAccess) (rows cols : Nat) :
    s.storesBefore a rows cols = [] := by
  unfold State.storesBefore
  split
  · simp [State.storesMet, h]
  · rfl

/-- tld reads its block and appends the node that the block describes. -/
theorem exec_tld {s u : State} {xt xo : XReg} {f : TldFmt} {tr nt : Bool} {b : Tab} {mf : Option Fmt} {tf : Fmt}
    (hat : s.blockAt (s.x xt) 64 64) (hp : parseTab (s.block (s.x xt) 64).2 = some b) (hu : (s.block (s.x xt) 64).1 = u)
    (hm : u.memFmt b = some mf) (ht : u.tileFmt f b = some tf) :
    exec (.tld xt xo f tr nt) s = settle s (u.append 0 0x01 []
      (fun _ => buildLd b (u.tabAccess b (s.x xo) (b.tr != tr) mf nt) (some mf) (some tf))) := by
  have hstores : u.core.mash.stores = [] := hu ▸ State.block_stores hat
  have hx : u.x xo = s.x xo := by rw [← hu, (State.block_readFrame s (s.x xt) 64).x]
  show settle s (s.readTab (s.x xt) _) = _
  rw [State.readTab_at hat hp, hu]
  show settle s (u.append 0 0x01 (u.storesBefore _ b.rows b.cols)
    (fun _ => buildLd b (u.tabAccess b (u.x xo) (b.tr != tr) ((u.memFmt b).getD none) nt) (u.memFmt b) (u.tileFmt f b))) = _
  rw [State.storesBefore_none hstores, hm, ht, hx]
  rfl

/-! ### Store nodes (R188 to R191) -/

/-- The tag of the node of a handle. -/
theorem Mash.tagAt_tags {m : Mash} {id : Nat} {n : TileNode} (h : m.node? id = some n) : tagAt (m.tags [id]) 0 = n.tag := by
  simp [Mash.tags, tagAt, h]

/-- The store node that a tst adds, and the demand of its region. -/
def State.newStore (s : State) (src : Nat) (tag : Tag) (a : TileAccess) (r : Region) (flag : Option FlagNo) : StoreNode :=
  { id := s.core.mash.nextId, src := src, rows := tag.rows, cols := tag.cols, access := a, region := r, srCtr := s.srKey.1,
    srKey := s.srKey.2, after := s.core.openFences, flag := flag, origin := s.originHere, done := 0, sent := false,
    handler := s.core.sys.hnd }

def State.storeDemand (s : State) (src : Nat) (r : Region) : Demand :=
  { id := s.core.mash.nextId, node := src, region := r, kind := .tst, origin := s.originHere, flag := none,
    handler := s.core.sys.hnd, met := false }

/-- The state after a tst that all checks let pass. -/
def State.storeAppended (s : State) (src : Nat) (tag : Tag) (a : TileAccess) (r : Region) (flag : Option FlagNo) : State :=
  (s.modMash (fun m => { m with
    spine := m.spine.tail,
    stores := m.stores ++ [s.newStore src tag a r flag],
    demands := m.demands ++ [s.storeDemand src r],
    nextId := m.nextId + 1 })).modCore (fun c => c.release.coarsen)

theorem State.appendStore_popped (s : State) (src : Nat) (tag : Tag) (a : TileAccess) (r : Region) (flag : Option FlagNo) :
    (s.modMash (fun m => { m with spine := m.spine.tail })).appendStore src tag a r flag = s.storeAppended src tag a r flag := rfl

theorem State.aliasForce_noLoad {s : State} {lanes : List (Nat × Nat)} (h : s.loadsMet lanes = []) : s.aliasForce lanes = s := by
  rw [State.aliasForce, h]

theorem held_top {c : Core} {top : Nat} {rest : List Nat} (h : c.mash.spine = top :: rest) : held [top] 1 c = c := by
  have hspine : [top] ++ c.mash.spine.drop 1 = c.mash.spine := by rw [h]; rfl
  rw [held, hspine]

theorem exec_tst {s u : State} {xt xr : XReg} {flag : Option FlagNo} {b : Tab} {mf : Option Fmt} {top : Nat} {rest : List Nat}
    {n : TileNode} {r : Region} (hat : s.blockAt (s.x xt) 64 64) (hp : parseTab (s.block (s.x xt) 64).2 = some b)
    (hu : (s.block (s.x xt) 64).1 = u) (hm : u.memFmt b = some mf) (hl2 : b.tid = 0xFFFF ∨ b.l2 = false)
    (hspine : u.core.mash.spine = top :: rest) (hn : u.core.mash.node? top = some n)
    (hload : ∀ m ∈ u.core.mash.nodes, m.pendingLoad = false)
    (hr : storeRegion b n.tag mf (if xr = 0 then b.region else u.x xr) = some r)
    (hpair : ∀ m, (u.tabAccess b 0 b.tr mf false).mfmt = some m → badPair (u.tabAccess b 0 b.tr mf false) n.tag.fmt m = false)
    (hroom : u.core.hasRoom false = true) :
    exec (.tst xt xr flag) s = .next (u.storeAppended top n.tag (u.tabAccess b 0 b.tr mf false) r flag) := by
  have hheld : held [top] 1 u.core = u.core := held_top hspine
  have hranges : u.noRanges := ⟨hu ▸ State.block_stores hat, hload⟩
  have hclosed : ¬ (b.tid ≠ 0xFFFF ∧ b.l2 = true) := by
    rintro ⟨htid, hl⟩
    rcases hl2 with h | h
    · exact htid h
    · simp [h] at hl
  have hmake : u.makeRoom false (held [top] 1) u.core.mash.ids = (u, false) := State.makeRoom_room (by rw [hheld]; exact hroom) _
  show settle s (s.readTab (s.x xt) _) = _
  rw [State.readTab_at hat hp, hu]
  simp only [hm, hspine, List.headD_cons, Mash.tagAt_tags hn, Option.getD_some, hr, hclosed, if_false]
  rw [if_neg (by simp), if_neg ?format, hmake, if_neg Bool.false_ne_true, hheld, if_pos hroom, State.loadsMet_none hranges,
    State.aliasForce_noLoad (State.loadsMet_none hranges _), if_neg (by simp [Mash.stillPending])]
  · exact congrArg (fun t => Host.Outcome.next t) (State.appendStore_popped ..)
  case format =>
    rw [Option.isNone_some, Bool.false_or]
    split
    · next m hmf => exact ne_true_of_eq_false (hpair m hmf)
    · exact Bool.false_ne_true

section
variable (s : State) (src : Nat) (tag : Tag) (a : TileAccess) (r : Region) (flag : Option FlagNo)

theorem State.newStore_mem_storeAppended : s.newStore src tag a r flag ∈ (s.storeAppended src tag a r flag).core.mash.stores :=
  List.mem_append_right _ (List.mem_singleton_self _)

/-- The node that a store node stores stays in the table, and so does the demand of its region. -/
theorem State.mem_storeAppended_nodes {n : TileNode} (hn : s.core.mash.node? src = some n) :
    n ∈ (s.storeAppended src tag a r flag).core.mash.nodes := by
  have hid : n.id = src := by simpa using List.find?_some hn
  have hroot := Core.mem_roots_of_store (s.newStore_mem_storeAppended src tag a r flag)
  exact mem_keepNodes (List.mem_of_find?_eq_some hn) (hid ▸ hroot)

theorem State.storeDemand_mem_storeAppended {n : TileNode} (hn : s.core.mash.node? src = some n) :
    s.storeDemand src r ∈ (s.storeAppended src tag a r flag).core.mash.demands := by
  have hid : n.id = src := by simpa using List.find?_some hn
  exact Core.mem_release_demands (List.mem_append_right _ (List.mem_singleton_self _))
    (s.mem_storeAppended_nodes src tag a r flag hn) hid

theorem State.storeAppended_tileFrame : s.tileFrame (s.storeAppended src tag a r flag) :=
  (State.tileFrame_modMash s _).trans (State.coarsen_tileFrame _)

end

/-! ### Forces (R192) -/

/-- A tfrc demands a region. -/
def State.forceDemanded (s : State) (src : Nat) (r : Region) (flag : Option FlagNo) : State :=
  s.modMash (fun m => { m with
    demands := m.demands ++ [{ id := m.nextId, node := src, region := r, kind := .tfrc, origin := s.originHere, flag := flag,
                               handler := s.core.sys.hnd, met := false }],
    nextId := m.nextId + 1 })

theorem exec_tfrc {s : State} {k : Fin 64} {xr : XReg} {flag : FlagNo} {src : Nat} {n : TileNode} {r : Region}
    (hk : s.core.mash.spine[k.val]? = some src) (hn : s.core.mash.node? src = some n)
    (hr : regionOf (if xr = 0 then 0xFFFF else s.x xr) n.tag.rows n.tag.cols = some r) :
    exec (.tfrc k xr flag) s = .next (if s.core.mash.computed src r = true
      then (s.forceDemanded src r none).put (.done flag (decide (src < s.core.shadow.nextNode))) 1 false
      else s.forceDemanded src r (some flag)) := by
  have hdeep : ¬ s.core.mash.spine.length < k.val + 1 := by
    have hlt := (List.getElem?_eq_some_iff.mp hk).1
    omega
  have hsrc : entryAt s.core.mash.spine k.val = src := by rw [entryAt, hk, Option.getD_some]
  show settle s (effTfrc k xr flag s) = _
  rw [effTfrc]
  simp only [hdeep, if_false, hsrc, Mash.tagAt_tags hn, hr, settle_ok]
  cases s.core.mash.computed src r <;> rfl

end Sys2Proof.Machine

open Sys2Proof.Machine

/-- Settles O38: the checks of an append in their order, and the node that it adds. -/
theorem tileInstructionsAppendNodes : Obligations.TileInstructionsAppendNodes := by
  intro i s pops opcode f h hs m b tooDeep room trap
  have raised {k : BitVec 6} (hk : k ≠ Cause.featureMasked) (he : s.append pops opcode [] f = s.fault 11 k) : trap k := by
    show exec i s = _
    rw [exec_appendPlan h hs, he, settle_fault _ _ _ _ hk]
  refine ⟨fun h1 => raised (by decide) (State.append_underflow h1), fun h1 h2 => raised (by decide) (State.append_overflow h1 h2),
    fun h1 h2 h3 => raised (by decide) (State.append_shape h1 h2 rfl h3),
    fun h1 h2 h3 h4 => raised (by decide) (State.append_format h1 h2 rfl h3 h4),
    fun h1 h2 h3 h4 h5 h6 => raised (by decide) (State.append_full h1 h2 rfl h3 h4 h5 h6), fun h1 h2 h3 h4 h5 => ?_⟩
  have he : exec i s = .next (s.appended pops opcode [] b) := by
    rw [exec_appendPlan h hs, State.append_room h1 h2 rfl h3 h4 h5, settle_ok]
  exact ⟨_, _, he, rfl, rfl, State.newNode_mem_appended .., rfl, rfl, rfl, rfl, rfl, rfl, rfl, rfl, rfl,
    State.appended_tileFrame ..⟩

/-- Settles O39: a load appends its node, a store its node and its demand, a force its demand. -/
theorem tileLoadsStoresAndForces : Obligations.TileLoadsStoresAndForces := by
  refine ⟨?load, ?store, ?force⟩
  case load =>
    intro s xt xo f tr nt b mf tf hat hp u hm ht hlimit hs hf hroom
    have hcore : u.core = s.core := State.block_core ..
    have hl : ¬ u.core.sys.stk.limit.toNat < u.core.mash.spine.length - 0 + 1 := by rw [hcore]; omega
    have he : exec (.tld xt xo f tr nt) s = .next (u.appended 0 0x01 []
        (buildLd b (u.tabAccess b (s.x xo) (b.tr != tr) mf nt) (some mf) (some tf))) := by
      rw [exec_tld hat hp rfl hm ht, State.append_room (Nat.zero_le _) hl rfl hs hf (by rw [hcore]; exact hroom), settle_ok]
    exact ⟨_, _, he, congrArg (fun c : Core => c.mash.nextId :: c.mash.spine) hcore, State.newNode_mem_appended ..,
      congrArg (fun c : Core => c.mash.nextId) hcore, rfl, rfl, rfl, rfl, rfl, rfl, rfl, rfl, State.appended_tileFrame ..⟩
  case store =>
    intro s xt xr flag b mf top rest n r hat hp u hm hl2 hspine hn hload hr hpair hroom
    have hcore : u.core = s.core := State.block_core ..
    have hx : u.x xr = s.x xr := (State.block_readFrame s (s.x xt) 64).x xr
    rw [← hx] at hr
    rw [← hcore] at hspine hn hload hroom
    have htail : (u.storeAppended top n.tag (u.tabAccess b 0 b.tr mf false) r flag).core.mash.spine = rest :=
      congrArg List.tail hspine
    have hid : u.core.mash.nextId = s.core.mash.nextId := congrArg (fun c : Core => c.mash.nextId) hcore
    exact ⟨_, _, exec_tst hat hp rfl hm hl2 hspine hn hload hr hpair hroom, htail, State.newStore_mem_storeAppended .., hid, rfl, rfl,
      rfl, rfl, rfl, State.mem_storeAppended_nodes _ _ _ _ _ _ hn,
      ⟨_, State.storeDemand_mem_storeAppended _ _ _ _ _ _ hn, rfl, rfl, rfl, rfl⟩, State.storeAppended_tileFrame ..⟩
  case force =>
    intro s k xr flag src n r hk hn hr demanded
    rw [exec_tfrc hk hn hr, State.put_eq]
    rfl
end

section
/-! PROOFS. The evaluation of one demanded element (R173 to R176, R184, R187): what the node table finds, how a demand is answered or
meets a fault, and constants. -/

open Sys2Proof

namespace Sys2Proof.Machine

/-! ### Entries by their keys -/

theorem lookupNat_insertNat_other {α : Type} {k j : Nat} (h : j ≠ k) (v : α) (l : List (Nat × α)) :
    lookupNat j (insertNat k v l) = lookupNat j l := by
  induction l with
  | nil => simp [insertNat, lookupNat, h.symm]
  | cons x xs ih =>
    obtain ⟨k', v'⟩ := x
    unfold insertNat
    split
    · simp [lookupNat, h.symm]
    · split
      · next he => subst he; simp [lookupNat, h.symm]
      · simp [lookupNat, ih]

/-- Equal elements entered under several keys: each of these keys reads as the element, and so does a key that did before. -/
theorem lookupNat_foldl_insertNat {α : Type} {e : Elem} {key : α → Nat} {elem : α → Elem} {k : Nat} {cs : List α}
    (hcs : ∀ c ∈ cs, elem c = e) {l : List (Nat × Elem)} (h : lookupNat k l = some e ∨ ∃ c ∈ cs, key c = k) :
    lookupNat k (cs.foldl (fun v c => insertNat (key c) (elem c) v) l) = some e := by
  induction cs generalizing l with
  | nil => simpa using h
  | cons c cs ih =>
    have hc : elem c = e := hcs c List.mem_cons_self
    refine ih (fun x hx => hcs x (List.mem_cons_of_mem _ hx)) ?_
    dsimp only
    by_cases hk : k = key c
    · exact Or.inl (by rw [hk, hc, lookupNat_insertNat_self])
    · rw [lookupNat_insertNat_other hk]
      rcases h with h | ⟨x, hx, hxk⟩
      · exact Or.inl h
      · rcases List.mem_cons.mp hx with rfl | hx
        · exact absurd hxk.symm hk
        · exact Or.inr ⟨x, hx, hxk⟩

/-! ### Index lists (R173 to R175) -/

theorem mem_joinIdx {a b : List Nat} {x : Nat} : x ∈ joinIdx a b ↔ x ∈ a ∨ x ∈ b := by
  simp [joinIdx]

theorem mem_rect {rows cols : List Nat} {i j : Nat} : (i, j) ∈ rect rows cols ↔ i ∈ rows ∧ j ∈ cols := by
  simp [rect]

/-- The region of one element. -/
def Region.one (i j : Nat) : Region := { r0 := i, r1 := i, c0 := j, c1 := j }

theorem drop_range_succ (i : Nat) : (List.range (i + 1)).drop i = [i] := by
  rw [List.range_succ, List.drop_left' List.length_range]

@[simp] theorem Region.one_rows (i j : Nat) : (Region.one i j).rows = [i] := drop_range_succ i
@[simp] theorem Region.one_cols (i j : Nat) : (Region.one i j).cols = [j] := drop_range_succ j
@[simp] theorem Region.one_cells (i j : Nat) : (Region.one i j).cells = [(i, j)] := by simp [Region.cells, rect]

/-- A demand of an element reaches that element, whatever it is widened to. -/
theorem Tag.mem_widen {t : Tag} {i j : Nat} (hb : t.fmt.isBlock = false) (hi : i < t.rows) (hj : j < t.cols) :
    i ∈ (t.widen [i] [j]).1 ∧ j ∈ (t.widen [i] [j]).2 := by
  simp only [Tag.widen, hb, Bool.false_eq_true, if_false, List.cons_ne_nil, or_self]
  repeat' split
  all_goals simp [hi, hj]

/-- In a format whose elements stand alone it is widened to nothing. -/
theorem Tag.widen_plain {t : Tag} {i j : Nat} (hb : t.fmt.isBlock = false) (hs : t.fmt.isScaled = false) :
    t.widen [i] [j] = ([i], [j]) := by
  have h8 : t.fmt ≠ .int8r := fun h => by simp [h, Fmt.isScaled] at hs
  simp [Tag.widen, hb, hs, h8]

/-! ### The node table -/

theorem Mash.node?_id {m : Mash} {id : Nat} {n : TileNode} (h : m.node? id = some n) : n.id = id := by
  simpa using List.find?_some h

/-- The table after a node has been put back: it stands under its id. -/
theorem State.putNode_find? (s : State) (n : TileNode) (id : Nat) : (s.putNode n).core.mash.node? id =
    (s.core.mash.node? id).map (fun o => if o.id == n.id then n else o) := by
  have hid (o : TileNode) : (if o.id == n.id then n else o).id = o.id := by
    split
    · next h => exact (beq_iff_eq.mp h).symm
    · rfl
  show (s.core.mash.nodes.map _).find? _ = _
  rw [List.find?_map]
  simp only [Function.comp_def, hid]
  rfl

theorem State.putNode_node? {s : State} {n o : TileNode} {id : Nat} (h : s.core.mash.node? id = some o) (hn : n.id = id) :
    (s.putNode n).core.mash.node? id = some n := by
  rw [State.putNode_find?, h, Option.map_some, if_pos (by simp [Mash.node?_id h, hn])]

theorem State.putNode_node?_other {s : State} {n : TileNode} {id : Nat} (h : id ≠ n.id) :
    (s.putNode n).core.mash.node? id = s.core.mash.node? id := by
  rw [State.putNode_find?]
  cases ho : s.core.mash.node? id with
  | none => rfl
  | some o => rw [Option.map_some, if_neg (by simp [Mash.node?_id ho, h])]

/-- What evaluation of a node leaves as it was: memory, and of the core all but the nodes of the table. -/
structure State.NodesFrame (s t : State) : Prop where
  mem : t.mem = s.mem
  core : ∃ ns, t.core = { s.core with mash := { s.core.mash with nodes := ns } }

theorem State.NodesFrame.refl (s : State) : s.NodesFrame s := ⟨rfl, _, rfl⟩

theorem State.NodesFrame.trans {s t u : State} (h : s.NodesFrame t) (g : t.NodesFrame u) : s.NodesFrame u := by
  obtain ⟨ns, hns⟩ := h.core
  obtain ⟨ms, hms⟩ := g.core
  exact ⟨g.mem.trans h.mem, ms, by rw [hms, hns]⟩

theorem State.putNode_nodesFrame (s : State) (n : TileNode) : s.NodesFrame (s.putNode n) := ⟨rfl, _, rfl⟩

theorem State.takeCells_nodesFrame (s : State) (n : TileNode) (cs : List CellOut) : s.NodesFrame (s.takeCells n cs) :=
  State.putNode_nodesFrame s _

/-! ### Computed elements (R171, R173, R184) -/

theorem firstBad_none {cs : List CellOut} (h : ∀ c ∈ cs, c.ex = .none) : firstBad cs = none := by
  unfold firstBad
  refine List.foldlRecOn (motive := fun (acc : Option CellOut) => acc = none) cs _ rfl (fun acc hacc c hc => ?_)
  rw [if_pos (h c hc), hacc]

/-- Elements none of which faults are taken. -/
theorem State.finishCells_passed {s : State} {n : TileNode} {ahead : Bool} {cs : List CellOut} (h : ∀ c ∈ cs, c.ex = .none) :
    s.finishCells n ahead cs = (s.takeCells n cs, []) := by
  have hgood : cs.filter (fun c => c.ex != .none) = [] := List.filter_eq_nil_iff.mpr (fun c hc => by simp [h c hc])
  simp only [State.finishCells, hgood, List.isEmpty_nil, if_true]

/-- A demanded element that faults leaves its node faulted. -/
theorem State.finishCells_faulted (s : State) (n : TileNode) {c : CellOut} (h : c.ex ≠ .none) : s.finishCells n false [c] =
    (s.putNode { n with st := .faulted },
      [{ node := n.id, row := c.row, col := c.col, what := .cause c.ex.cause (slotInfoOf n.origin.slot) }]) := by
  have hbad : [c].filter (fun c => c.ex != .none) = [c] := by simp [h]
  have hfirst : firstBad [c] = some c := by simp [firstBad, h]
  simp only [State.finishCells, hbad, TileNode.faultOf, hfirst, List.isEmpty_cons, Bool.false_eq_true, if_false]

theorem Core.retire_facts (c : Core) (n : TileNode) :
    (c.retire n).id = n.id ∧ (c.retire n).tag = n.tag ∧ (c.retire n).vals = n.vals ∧ (n.drows = [] → (c.retire n).drows = []) := by
  unfold Core.retire
  split
  · exact ⟨rfl, rfl, rfl, fun _ => rfl⟩
  · exact ⟨rfl, rfl, rfl, id⟩

/-- The elements taken stand in the node. -/
theorem State.takeCells_node? {s : State} {n o : TileNode} {e : Elem} {cs : List CellOut} {i j : Nat} (ho : s.core.mash.node? n.id = some o)
    (hcs : ∀ c ∈ cs, c.e = e) (hij : ∃ c ∈ cs, c.row = i ∧ c.col = j) :
    ∃ m, (s.takeCells n cs).core.mash.node? n.id = some m ∧ m.val? i j = some e ∧ (n.drows = [] → m.drows = []) := by
  obtain ⟨hid, htag, hvals, hdrows⟩ := s.core.retire_facts { n with
    vals := cs.foldl (fun v c => insertNat (c.row * n.tag.cols + c.col) c.e v) n.vals }
  obtain ⟨c, hc, rfl, rfl⟩ := hij
  refine ⟨_, State.putNode_node? ho hid, ?_, hdrows⟩
  rw [TileNode.val?, hvals, htag]
  exact lookupNat_foldl_insertNat (key := fun c : CellOut => c.row * n.tag.cols + c.col) (elem := CellOut.e) hcs (Or.inr ⟨c, hc, rfl⟩)

/-! ### A demand is evaluated (R173, R184) -/

/-- The one demand stands while its node does. -/
theorem Core.release_demands_one {c : Core} {d : Demand} {n : TileNode} (h : c.mash.demands = [d]) (hr : d.node ∈ c.roots)
    (hn : c.mash.node? d.node = some n) : c.release.mash.demands = [d] := by
  have hid := Mash.node?_id hn
  have hmem : n ∈ (keepNodes c.roots c.mash.nodes).1 := mem_keepNodes (List.mem_of_find?_eq_some hn) (hid ▸ hr)
  have hkept : (keepNodes c.roots c.mash.nodes).1.any (fun x => x.id == d.node) = true :=
    List.any_eq_true.mpr ⟨n, hmem, beq_iff_eq.mpr hid⟩
  show c.mash.keepDemands (keepNodes c.roots c.mash.nodes).1 = [d]
  rw [Mash.keepDemands, h, List.filterMap_cons, if_pos hkept, List.filterMap_nil]

/-- A fault that waits is that of its class, and it touches neither the Mash nor the registers. -/
theorem Core.putFault_facts (c : Core) (f : EvalFault) :
    (c.putFault f).faultOf f.handler = some f ∧ (c.putFault f).mash = c.mash ∧ (c.putFault f).regs = c.regs := by
  unfold Core.putFault Core.faultOf
  split
  · exact ⟨rfl, rfl, rfl⟩
  · exact ⟨rfl, rfl, rfl⟩

/-- The one demand of the core is of an element of a node whose handle is on the stack, and no fault of its class waits. -/
structure State.asks (s : State) (d : Demand) (i j : Nat) : Prop where
  noFault : s.core.faultOf d.handler = none
  one : s.core.mash.demands = [d]
  noFlag : d.flag = none
  onSpine : d.node ∈ s.core.mash.spine
  region : d.region = Region.one i j

theorem State.demands.asks {s : State} {d : Demand} {n : TileNode} {i j : Nat} (h : s.demands d n i j) : s.asks d i j :=
  ⟨h.noFault, h.one, h.noFlag, h.onSpine, h.region⟩

section
variable {s u : State} {d : Demand} {m : TileNode} {i j : Nat} (h : s.asks d i j)
include h

theorem State.asks.rows : d.region.rows = [i] := by rw [h.region, Region.one_rows]
theorem State.asks.cols : d.region.cols = [j] := by rw [h.region, Region.one_cols]

/-- DEMAND_EVALUATION evaluates the one demand, where that moves the core on. -/
theorem State.asks.exec_eq (hmove : (s.runDemand d).core ≠ s.core) : exec .demandEvaluation s = .next (s.runDemand d) := by
  have hflag : s.core.mash.flagDue d = false := by simp [Mash.flagDue, h.noFlag]
  show Host.Outcome.next (s.runDemands s.core.mash.demands) = _
  simp [h.one, State.runDemands, hflag, h.noFault, hmove]

/-- The element is computed: the demand is answered. -/
theorem State.asks.answered {e : Elem} (hd : s.demand false d.node [i] [j] s.depth = (u, [])) (hf : s.NodesFrame u)
    (hm : u.core.mash.node? d.node = some m) (he : m.val? i j = some e) : s.evaluatesTo d i j e := by
  obtain ⟨ns, hcore⟩ := hf.core
  have hdone : u.core.mash.hasRegion d.node d.region = true := by simp [Mash.hasRegion, hm, h.region, he]
  have hrun : s.runDemand d =
      (u.modMash (fun m => { m with demands := m.demands.filter (fun e => e.id != d.id) })).gc := by
    simp [State.runDemand, h.rows, h.cols, hd, State.noteFault, firstFault, hdone, h.noFlag]
  have hnone : (u.modMash (fun m => { m with demands := m.demands.filter (fun e => e.id != d.id) })).core.mash.demands = [] := by
    simp [hcore, h.one]
  have hdemands : (s.runDemand d).core.mash.demands = [] := by
    rw [hrun]
    exact Core.release_demands_nil hnone
  have hmove : (s.runDemand d).core ≠ s.core := fun heq => by simp [heq, h.one] at hdemands
  have hspine : d.node ∈ u.core.mash.spine := by rw [hcore]; exact h.onSpine
  refine ⟨_, m, h.exec_eq hmove, hdemands, ?_, ?_, ?_, ?_, he⟩
  · rw [hrun]
    show u.core.faultOf d.handler = none
    rw [hcore]
    exact h.noFault
  · rw [hrun]
    exact hf.mem
  · rw [hrun]
    show u.core.regs = s.core.regs
    rw [hcore]
  · rw [hrun]
    exact (Core.release_node? (Core.mem_roots_of_spine hspine)).trans hm

/-- The element faults: its fault waits for the boundary, and the demand stays. -/
theorem State.asks.faulted {f : NodeFault} (hd : s.demand false d.node [i] [j] s.depth = (u, [f])) (hf : s.NodesFrame u)
    (hm : u.core.mash.node? d.node = some m) : ∃ t g, exec .demandEvaluation s = .next t ∧ t.core.mash.demands = [d] ∧
      t.core.faultOf d.handler = some g ∧ g.what = f.what ∧ t.mem = s.mem ∧ t.core.regs = s.core.regs := by
  obtain ⟨ns, hcore⟩ := hf.core
  have hfree : u.core.faultOf d.handler = none := by
    rw [hcore]
    exact h.noFault
  have hrun : s.runDemand d = (u.modCore (fun c => c.putFault (u.evalFaultOf f d.origin d.kind d.handler))).gc := by
    simp [State.runDemand, h.rows, h.cols, hd, State.noteFault, firstFault, hfree]
  have hput : (s.runDemand d).core = (u.core.putFault (u.evalFaultOf f d.origin d.kind d.handler)).release := by rw [hrun]; rfl
  obtain ⟨hfault, hmash, hregs⟩ := u.core.putFault_facts (u.evalFaultOf f d.origin d.kind d.handler)
  have hset : (s.runDemand d).core.faultOf d.handler = some (u.evalFaultOf f d.origin d.kind d.handler) := by
    rw [hput]
    exact hfault
  have hmove : (s.runDemand d).core ≠ s.core := fun heq => by simp [heq, h.noFault] at hset
  have hspine : d.node ∈ (u.core.putFault (u.evalFaultOf f d.origin d.kind d.handler)).mash.spine := by
    rw [hmash, hcore]
    exact h.onSpine
  refine ⟨_, _, h.exec_eq hmove, ?_, hset, rfl, ?_, ?_⟩
  · rw [hput]
    exact Core.release_demands_one (by rw [hmash, hcore]; exact h.one) (Core.mem_roots_of_spine hspine) (by rw [hmash]; exact hm)
  · rw [hrun]
    exact hf.mem
  · rw [hput, Core.release_regs, hregs, hcore]

end

/-! ### Constants (R168, R173, R176) -/

/-- A node as a demand of one element marks it; ahead of demand it stays as it is (R173, R176). -/
def TileNode.asked (n : TileNode) (ahead : Bool) (i j : Nat) : TileNode :=
  if ahead then n
  else { n with drows := joinIdx n.drows (n.tag.widen [i] [j]).1, dcols := joinIdx n.dcols (n.tag.widen [i] [j]).2, st := .live }

theorem TileNode.asked_facts (n : TileNode) (ahead : Bool) (i j : Nat) :
    (n.asked ahead i j).id = n.id ∧ (n.asked ahead i j).vals = n.vals := by
  cases ahead <;> exact ⟨rfl, rfl⟩

/-- Evaluation of an element of a fresh constant gives it its element, ahead of demand without a trace in the demanded sets. -/
theorem State.demand_const {s : State} {id i j : Nat} {n : TileNode} {e : Elem} (ahead : Bool) (fuel : Nat)
    (hn : s.core.mash.node? id = some n) (h : n.freshConst e) (hi : i < n.tag.rows) (hj : j < n.tag.cols) :
    ∃ u m, s.demand ahead id [i] [j] (fuel + 1) = (u, []) ∧ s.NodesFrame u ∧ u.core.mash.node? id = some m ∧
      m.val? i j = some e ∧ (ahead = true → m.drows = []) := by
  obtain ⟨hop, hst, hret, hvals, hdrows, hdcols, hblock⟩ := h
  obtain ⟨hwi, hwj⟩ := Tag.mem_widen hblock hi hj
  obtain rfl := Mash.node?_id hn
  have hnone (c : Nat × Nat) : ∀ o : TileNode, o.vals = [] → (o.val? c.1 c.2).isNone = true := fun o ho => by
    simp [TileNode.val?, ho, lookupNat]
  let dr := if ahead then (n.tag.widen [i] [j]).1 else joinIdx n.drows (n.tag.widen [i] [j]).1
  let dc := if ahead then (n.tag.widen [i] [j]).2 else joinIdx n.dcols (n.tag.widen [i] [j]).2
  have hij : (i, j) ∈ rect dr dc := by
    cases ahead <;> simp [dr, dc, mem_rect, mem_joinIdx, hwi, hwj]
  obtain ⟨hid', hvals'⟩ := n.asked_facts ahead i j
  have hnew : (rect dr dc).filter (fun c => ((n.asked ahead i j).val? c.1 c.2).isNone) = rect dr dc :=
    List.filter_eq_self.mpr (fun c _ => hnone c _ (hvals'.trans hvals))
  have hne : (rect dr dc).isEmpty = false := by
    simpa using List.ne_nil_of_mem hij
  have hrun : s.demand ahead n.id [i] [j] (fuel + 1) = (s.putNode (n.asked ahead i j)).finishCells (n.asked ahead i j) ahead
      ((rect dr dc).map (fun c => { row := c.1, col := c.2, e := e, ex := .none })) := by
    cases ahead
    · simp only [TileNode.asked, dr, dc, hret, hop, Bool.false_eq_true, if_false] at hnew hne ⊢
      simp only [State.demand, hn, hret, hst, hop, Bool.false_eq_true, if_false, hnew, hne]
    · simp only [TileNode.asked, dr, dc, if_true] at hnew hne ⊢
      simp only [State.demand, hn, hret, hst, hop, Bool.false_eq_true, if_false, if_true, hnew, hne]
  have hput := State.putNode_node? (n := n.asked ahead i j) hn hid'
  obtain ⟨m, hm, hval, hdr⟩ := State.takeCells_node? (s := s.putNode (n.asked ahead i j)) (n := n.asked ahead i j) (e := e)
    (cs := (rect dr dc).map (fun c => { row := c.1, col := c.2, e := e, ex := .none })) (i := i) (j := j)
    (by rw [hid']; exact hput) (List.forall_mem_map.mpr fun _ _ => rfl) ⟨_, List.mem_map_of_mem hij, rfl, rfl⟩
  refine ⟨_, m, hrun.trans (State.finishCells_passed (List.forall_mem_map.mpr fun _ _ => rfl)), ?_, hid' ▸ hm, hval, fun ha => hdr ?_⟩
  · exact (State.putNode_nodesFrame _ _).trans (State.takeCells_nodesFrame _ _ _)
  · subst ha
    exact hdrows

end Sys2Proof.Machine
end

section
/-! PROOFS. The evaluation of arithmetic nodes (R173, R187): operands that are computed, and the element that the demand takes. -/

open Sys2Proof

namespace Sys2Proof.Machine

/-- The tags of a node's operands, its own for one that is gone. -/
def State.argTags (s : State) (n : TileNode) : List Tag :=
  n.args.map (fun a => ((s.core.mash.node? a).map (fun o => o.tag)).getD n.tag)

/-- The element (r, c) of operand k of a node, where it is computed. -/
def State.argElem? (s : State) (n : TileNode) (k r c : Nat) : Option Elem :=
  (((n.args.map (fun a => s.core.mash.node? a))[k]?).getD none).bind (fun o => o.val? r c)

/-- The operand elements that element (i, j) of a node reads, each with the index of its operand. -/
def State.argReads (s : State) (n : TileNode) (i j : Nat) : List (Nat × Nat × Nat) :=
  ((cellsRead n.op (s.argTags n) i j).zipIdx.map (fun p => p.1.map (fun x => (p.2, x.1, x.2)))).flatten

/-- A demand of a value that is computed does nothing. -/
theorem State.demand_retired {s : State} {id : Nat} {o : TileNode} (ahead : Bool) (rows cols : List Nat) (fuel : Nat)
    (ho : s.core.mash.node? id = some o) (hr : o.retired = true) : s.demand ahead id rows cols fuel = (s, []) := by
  cases fuel with
  | zero => rfl
  | succ fuel => simp only [State.demand, ho, hr, if_true]

/-- An operand element that is there to be read: of a value without a mark (R171, R186). -/
def Mash.holds (m : Mash) (id r c : Nat) : Prop :=
  ∃ o e, m.node? id = some o ∧ o.retired = true ∧ o.st = .live ∧ o.val? r c = some e ∧ e.mark = none

theorem State.mem_argReads {s : State} {n : TileNode} {i j k r c : Nat} : (k, r, c) ∈ s.argReads n i j ↔
    ∃ m, (demandMaps n.op (s.argTags n) [i] [j])[k]? = some m ∧ r ∈ m.1 ∧ c ∈ m.2 := by
  simp [State.argReads, cellsRead, List.mem_zipIdx_iff_getElem?]

/-- The elements that a node's operands give, zeros where they are not computed. -/
def State.argGet (s : State) (n : TileNode) : Operands := fun k r c => (s.argElem? n k r c).getD ⟨0, 0, none⟩

theorem State.countTri2_facts (s : State) (k : Nat) :
    (s.countTri2 k).mem = s.mem ∧ (s.countTri2 k).core = s.core ∧ (s.countTri2 k).tick = s.tick := by
  unfold State.countTri2 State.countTri2For State.countErr
  repeat' split
  all_goals exact ⟨rfl, rfl, rfl⟩

@[simp] theorem State.tock_mem (s : State) (b : Bool) : (s.tock b).mem = s.mem := by cases b <;> rfl
@[simp] theorem State.tock_core (s : State) (b : Bool) : (s.tock b).core = s.core := by cases b <;> rfl

/-! ### The node as its demand has marked it -/

section
variable {s : State} {d : Demand} {n : TileNode} {i j : Nat} (h : s.demands d n i j)
include h

theorem State.demands.asked_id : (n.asked false i j).id = d.node := (Mash.node?_id h.isNode : n.id = d.node)

/-- The one element demanded is the one that is to be computed (R173). -/
theorem State.demands.asked_new : (rect (n.asked false i j).drows (n.asked false i j).dcols).filter
    (fun c => ((n.asked false i j).val? c.1 c.2).isNone) = [(i, j)] := by
  obtain ⟨hvals, hdr, hdc⟩ := h.untouched
  have hj (x : Nat) : joinIdx [] [x] = [x] := by simp [joinIdx]
  simp [TileNode.asked, Tag.widen_plain h.plain.1 h.plain.2, hdr, hdc, hj, rect, TileNode.val?, hvals, lookupNat]

theorem State.demands.node?_asked :
    (s.putNode (n.asked false i j)).core.mash.node? d.node = some (n.asked false i j) :=
  State.putNode_node? h.isNode h.asked_id

theorem State.demands.node?_other {a : Nat} (ha : a ≠ d.node) :
    (s.putNode (n.asked false i j)).core.mash.node? a = s.core.mash.node? a :=
  State.putNode_node?_other (h.asked_id.symm ▸ ha)

/-- A value that is computed is another node, and stands as before. -/
theorem State.demands.node?_value {a : Nat} {o : TileNode} (ho : s.core.mash.node? a = some o) (hr : o.retired = true) :
    (s.putNode (n.asked false i j)).core.mash.node? a = some o := by
  refine (h.node?_other ?_).trans ho
  rintro rfl
  obtain rfl := Option.some.inj (h.isNode.symm.trans ho)
  simp [h.notRetired] at hr

theorem State.demands.argTags_asked : (s.putNode (n.asked false i j)).argTags n = s.argTags n := by
  refine List.map_congr_left (fun a _ => ?_)
  by_cases ha : a = d.node
  · rw [ha, h.node?_asked, h.isNode]
    rfl
  · rw [h.node?_other ha]

theorem State.demands.argElem?_asked (k r c : Nat) :
    (s.putNode (n.asked false i j)).argElem? n k r c = s.argElem? n k r c := by
  rw [State.argElem?, State.argElem?, List.getElem?_map, List.getElem?_map]
  cases n.args[k]? with
  | none => rfl
  | some a =>
    show ((s.putNode (n.asked false i j)).core.mash.node? a).bind (fun o => o.val? r c) =
      (s.core.mash.node? a).bind (fun o => o.val? r c)
    by_cases ha : a = d.node
    · rw [ha, h.node?_asked, h.isNode]
      rfl
    · rw [h.node?_other ha]

end

/-! ### The demand of an arithmetic node -/

/-- The demand of a fresh arithmetic node whose operands are computed and unmarked takes the computed element (R173, R187). -/
theorem State.demand_arith {s : State} {d : Demand} {n : TileNode} {i j : Nat} (fuel : Nat) (h : s.demands d n i j)
    (hload : ∀ a, n.op ≠ .load a) (hconst : ∀ e, n.op ≠ .const e)
    (hreads : ∀ x ∈ s.argReads n i j, ∃ a, n.args[x.1]? = some a ∧ s.core.mash.holds a x.2.1 x.2.2) :
    ∃ u, s.NodesFrame u ∧ u.core.mash.node? d.node = some (n.asked false i j) ∧
      s.demand false d.node [i] [j] (fuel + 1) = u.finishCells (n.asked false i j) false
        (n.op.compared s.tick (computeCells (n.asked false i j) (s.argTags n) (s.argGet n) [(i, j)])) := by
  rw [State.demand, h.isNode]
  dsimp -zeta only
  rw [if_neg (by simp [h.notRetired])]
  extract_lets wd dr dc n1 new s1 tags
  split
  · next hf => exact absurd hf (by simp)
  · next hf => simp [h.live] at hf
  have hnew : new = [(i, j)] := h.asked_new
  have htags : tags = s.argTags n := h.argTags_asked
  rw [if_neg (by simp [hnew])]
  split
  · next a ho => exact absurd ho (hload a)
  · next e ho => exact absurd ho (hconst e)
  extract_lets maps r' s2 ops get reads hurt marked g s3 q
  have hr : r' = (s1, []) := by
    refine List.foldlRecOn (motive := fun acc => acc = (s1, [])) _ _ rfl (fun acc hacc p hp => ?_)
    subst hacc
    dsimp only
    split
    · rfl
    next hempty =>
    obtain ⟨hrows, hcols⟩ := not_or.mp hempty
    obtain ⟨row, hrow⟩ := List.exists_mem_of_ne_nil p.2.1 (by simpa using hrows)
    obtain ⟨col, hcol⟩ := List.exists_mem_of_ne_nil p.2.2 (by simpa using hcols)
    obtain ⟨k, hk⟩ := List.getElem?_of_mem hp
    obtain ⟨harg, hmap⟩ := List.getElem?_zip_eq_some.mp hk
    have hmaps : maps = demandMaps n.op (s.argTags n) [i] [j] := by
      show demandMaps n.op tags (new.map Prod.fst).dedup (new.map Prod.snd).dedup = _
      rw [hnew, htags]
      rfl
    obtain ⟨a, ha, o, e, ho, hret, -⟩ := hreads (k, row, col) (State.mem_argReads.mpr ⟨_, hmaps ▸ hmap, hrow, hcol⟩)
    obtain rfl : p.1 = a := Option.some.inj (harg.symm.trans ha)
    have hvalue : s1.core.mash.node? p.1 = some o := h.node?_value ho hret
    rw [State.demand_retired false p.2.1 p.2.2 fuel hvalue hret]
    rfl
  have hops : ops = n.args.map (fun a => s1.core.mash.node? a) := by
    show n.args.map (fun a => r'.1.core.mash.node? a) = _
    rw [hr]
  have hget (k r c : Nat) : get k r c = s.argElem? n k r c := by
    show ((ops[k]?).getD none).bind _ = _
    rw [hops]
    exact h.argElem?_asked k r c
  have hread (x : Nat × Nat × Nat) (hx : x ∈ reads (i, j)) :
      hurt x.1 = none ∧ ∃ e, get x.1 x.2.1 x.2.2 = some e ∧ e.mark = none := by
    obtain ⟨a, ha, o, e, ho, hret, hlive, hval, hmark⟩ := hreads x (by rw [State.argReads, ← htags]; exact hx)
    have hop : (ops[x.1]?).getD none = some o := by
      rw [hops, List.getElem?_map, ha]
      exact h.node?_value ho hret
    refine ⟨?_, e, ?_, hmark⟩
    · show ((ops[x.1]?).getD none).bind _ = none
      rw [hop]
      simp [hlive]
    · show ((ops[x.1]?).getD none).bind _ = _
      rw [hop]
      exact hval
  have hmarked : new.find? (fun c => (marked c).isSome) = none := by
    have hnone : marked (i, j) = none := by
      show (List.filterMap _ (reads (i, j))).head? = none
      rw [List.head?_eq_none_iff, List.filterMap_eq_nil_iff]
      intro x hx
      obtain ⟨hh, e, he, hm⟩ := hread x hx
      simp [hh, he, hm]
    simp [hnew, hnone]
  rw [hmarked]
  dsimp -zeta only
  have hall : ¬ (new.any (fun c => (reads c).any (fun x => (get x.1 x.2.1 x.2.2).isNone)) = true) := by
    simp only [hnew, List.any_cons, List.any_nil, Bool.or_false, List.any_eq_true, not_exists, not_and]
    intro x hx
    obtain ⟨-, e, he, -⟩ := hread x hx
    simp [he]
  rw [if_neg hall]
  have hg : g = s.argGet n := by
    funext k r c
    exact congrArg (fun o => Option.getD o _) (hget k r c)
  obtain ⟨hmem, hcore, htick⟩ := s1.countTri2_facts (badTri2Reads n1 tags g new)
  have hs3 : s3 = s1.countTri2 (badTri2Reads n1 tags g new) := by
    show r'.1.countTri2 _ = _
    rw [hr]
  have hframe : s.NodesFrame (s3.tock n.op.dup) := by
    rw [hs3]
    refine (State.putNode_nodesFrame s n1).trans ⟨?_, s1.core.mash.nodes, ?_⟩
    · rw [State.tock_mem, hmem]
    · rw [State.tock_core, hcore]
  refine ⟨s3.tock n.op.dup, hframe, ?_, ?_⟩
  · rw [State.tock_core, hs3, hcore]
    exact h.node?_asked
  · show (((s3.tock n.op.dup).finishCells n1 false (n.op.compared s3.tick (computeCells n1 tags g new))).1,
      r'.2 ++ ((s3.tock n.op.dup).finishCells n1 false (n.op.compared s3.tick (computeCells n1 tags g new))).2) = _
    rw [hr, hg, hnew, htags, hs3, htick]
    rfl

/-- A computed element answers its demand, or its two units differ (R173, R187). -/
theorem State.demands.computes {s : State} {d : Demand} {n : TileNode} {i j : Nat} {e : Elem} (h : s.demands d n i j)
    (hload : ∀ a, n.op ≠ .load a) (hconst : ∀ e, n.op ≠ .const e)
    (hreads : ∀ x ∈ s.argReads n i j, ∃ a, n.args[x.1]? = some a ∧ s.core.mash.holds a x.2.1 x.2.2)
    (hcells : computeCells (n.asked false i j) (s.argTags n) (s.argGet n) [(i, j)] = [{ row := i, col := j, e := e, ex := .none }]) :
    if n.op.dup && Config.unitsDiffer s.tick (i * 256 + j) then s.mismatches d n else s.evaluatesTo d i j e := by
  obtain ⟨u, hframe, hnode, hdemand⟩ := State.demand_arith s.core.mash.nodes.length h hload hconst hreads
  rw [hcells] at hdemand
  have hid := h.asked_id
  split
  · next hdiff =>
    obtain ⟨hdup, hunits⟩ := Bool.and_eq_true_iff.mp hdiff
    have hcmp : n.op.compared s.tick [{ row := i, col := j, e := e, ex := .none }] =
        [{ row := i, col := j, e := e, ex := .mismatch }] := by simp [NodeOp.compared, hdup, hunits]
    rw [hcmp, State.finishCells_faulted _ _ (by simp)] at hdemand
    obtain ⟨t, g, ht, hone, hset, hwhat, hmem, hregs⟩ := h.asks.faulted hdemand (hframe.trans (State.putNode_nodesFrame _ _))
      (State.putNode_node? hnode hid)
    exact ⟨t, g, ht, hone, hset, hwhat, hmem, hregs⟩
  · next hsame =>
    have hcmp : n.op.compared s.tick [{ row := i, col := j, e := e, ex := .none }] =
        [{ row := i, col := j, e := e, ex := .none }] := by
      unfold NodeOp.compared
      split
      · next hdup =>
        have hunits : Config.unitsDiffer s.tick (i * 256 + j) = false := by simpa [hdup] using hsame
        simp [hunits]
      · rfl
    rw [hcmp, State.finishCells_passed (by simp)] at hdemand
    obtain ⟨m, hm, hval, -⟩ := State.takeCells_node? (s := u) (n := n.asked false i j)
      (cs := [{ row := i, col := j, e := e, ex := .none }]) (e := e) (i := i) (j := j) (by rw [hid]; exact hnode) (by simp)
      ⟨_, List.mem_singleton_self _, rfl, rfl⟩
    exact h.asks.answered hdemand (hframe.trans (State.takeCells_nodesFrame _ _ _)) (hid ▸ hm) hval

end Sys2Proof.Machine
end

section
/-! PROOFS. The exact values of two operands (R232), and elementwise nodes (R174, R233, R237). -/

open Sys2Proof

namespace Sys2Proof.Machine

theorem Mash.holds_of_given {m : Mash} {id r c : Nat} {ftz : Bool} {v : Machine.Num} (h : m.given id ftz r c = some v) :
    m.holds id r c := by
  unfold Mash.given at h
  split at h
  · simp at h
  next o ho =>
  split at h
  next hret =>
    split at h
    next e he =>
      split at h
      next hm =>
        simp only [Bool.and_eq_true, decide_eq_true_eq] at hret
        exact ⟨o, e, ho, hret.1, hret.2, he, hm⟩
      · simp at h
    · simp at h
  · simp at h

/-- The value that is given is that of the element. -/
theorem Mash.num_of_given {m : Mash} {id r c : Nat} {ftz : Bool} {v : Machine.Num} {o : TileNode} (h : m.given id ftz r c = some v)
    (ho : m.node? id = some o) : ((o.val? r c).getD ⟨0, 0, none⟩).num o.tag.fmt ftz = v := by
  obtain ⟨o', e, ho', hret, hlive, hval, hmark⟩ := Mash.holds_of_given h
  obtain rfl : o = o' := Option.some.inj (ho.symm.trans ho')
  simp only [Mash.given, ho, hret, hlive, decide_true, Bool.and_self, if_true, hval, hmark, Option.some.injEq] at h
  rw [hval]
  exact h

/-- The exact values of the operand elements that element (i, j) of a node reads (R232). -/
def State.argNums (s : State) (n : TileNode) (i j : Nat) : List (List Machine.Num) :=
  ((cellsRead n.op (s.argTags n) i j).zipIdx).map (fun p => p.1.map (fun c =>
    (s.argGet n p.2 c.1 c.2).num ((((s.argTags n)[p.2]?).map (fun t => t.fmt)).getD .int8) n.mode.ftz))

/-- An element of a plain format that is no move of an operand's is its exact value encoded (R232). -/
theorem State.computeCells_value {s : State} {n : TileNode} {i j : Nat} (hb : n.tag.fmt.isBlock = false) (hchk : n.mode.chk = false)
    (hop : (∃ o dup, n.op = .ew o dup) ∨ ∃ dup, n.op = .mma dup) :
    computeCells (n.asked false i j) (s.argTags n) (s.argGet n) [(i, j)] =
      [{ row := i, col := j, e := n.encoded i j (cellVal n.mode n.op (s.argTags n) (s.argNums n i j)).int
          (cellVal n.mode n.op (s.argTags n) (s.argNums n i j)).v, ex := .none }] := by
  have hkeep (k : Nat) : keepsBits n (s.argTags n) k = false := by
    unfold keepsBits
    rcases hop with ⟨o, dup, hop⟩ | ⟨dup, hop⟩ <;> rw [hop] <;> split <;> rfl
  have heq : computeCells (n.asked false i j) (s.argTags n) (s.argGet n) [(i, j)] =
      computeCells n (s.argTags n) (s.argGet n) [(i, j)] := rfl
  rw [heq, computeCells]
  rcases hop with ⟨o, dup, hop⟩ | ⟨dup, hop⟩ <;>
    simp only [hop, hkeep, List.filter_cons, List.filter_nil, Bool.false_eq_true, if_false, Bool.not_false, if_true, List.map_nil,
      List.nil_append, List.map_cons, convAll, hb, convElem, hchk, Bool.not_false, Bool.and_true, TileNode.encoded, State.argNums]

/-! ### Two operands -/

section
variable {s : State} {n oa ob : TileNode} {a b i j : Nat} (hargs : n.args = [a, b]) (ha : s.core.mash.node? a = some oa)
  (hb : s.core.mash.node? b = some ob)
include hargs ha hb

theorem State.argTags_pair : s.argTags n = [oa.tag, ob.tag] := by
  simp [State.argTags, hargs, ha, hb]

theorem State.argGet_pair (r c : Nat) : s.argGet n 0 r c = (oa.val? r c).getD ⟨0, 0, none⟩ ∧
    s.argGet n 1 r c = (ob.val? r c).getD ⟨0, 0, none⟩ := by
  simp [State.argGet, State.argElem?, hargs, ha, hb]

/-- The values of two operands whose elements read are given. -/
theorem State.argNums_pair {as bs : List (Nat × Nat)} {va vb : Nat × Nat → Machine.Num}
    (hcells : cellsRead n.op [oa.tag, ob.tag] i j = [as, bs])
    (hva : ∀ c ∈ as, s.core.mash.given a n.mode.ftz c.1 c.2 = some (va c))
    (hvb : ∀ c ∈ bs, s.core.mash.given b n.mode.ftz c.1 c.2 = some (vb c)) :
    s.argNums n i j = [as.map va, bs.map vb] := by
  have hget := State.argGet_pair hargs ha hb
  simp only [State.argNums, State.argTags_pair hargs ha hb, hcells, List.zipIdx_cons, List.zipIdx_nil, List.map_cons, List.map_nil,
    List.cons.injEq, and_true]
  refine ⟨List.map_congr_left (fun c hc => ?_), List.map_congr_left (fun c hc => ?_)⟩
  · rw [(hget c.1 c.2).1]
    exact Mash.num_of_given (hva c hc) ha
  · rw [show 0 + 1 = 1 from rfl, (hget c.1 c.2).2]
    exact Mash.num_of_given (hvb c hc) hb

/-- The operand elements of two operands that are given are there to be read. -/
theorem State.argReads_pair {as bs : List (Nat × Nat)} (hcells : cellsRead n.op [oa.tag, ob.tag] i j = [as, bs])
    (hva : ∀ c ∈ as, s.core.mash.holds a c.1 c.2) (hvb : ∀ c ∈ bs, s.core.mash.holds b c.1 c.2) :
    ∀ x ∈ s.argReads n i j, ∃ e, n.args[x.1]? = some e ∧ s.core.mash.holds e x.2.1 x.2.2 := by
  intro x hx
  simp only [State.argReads, State.argTags_pair hargs ha hb, hcells, List.zipIdx_cons, List.zipIdx_nil, List.map_cons, List.map_nil,
    List.flatten_cons, List.flatten_nil, List.append_nil, List.mem_append, List.mem_map] at hx
  rcases hx with ⟨c, hc, rfl⟩ | ⟨c, hc, rfl⟩
  · exact ⟨a, by simp [hargs], hva c hc⟩
  · exact ⟨b, by simp [hargs], hvb c hc⟩

end

/-! ### Elementwise nodes (R174, R233, R237) -/

theorem cellsRead_ew (o : EwOp) (dup : Bool) (t u : Tag) (i j : Nat) :
    cellsRead (.ew o dup) [t, u] i j = [[t.spread i j], [u.spread i j]] := by
  have hbcast (e x : Nat) : bcast e [x] = [if e = 1 then 0 else x] := by
    unfold bcast
    split <;> simp_all
  simp [cellsRead, demandMaps, hbcast, Tag.spread]

/-- An element of an elementwise node is the exact result of its operands' elements, encoded (R233, R237). -/
theorem State.evaluates_ew {s : State} {d : Demand} {n oa ob : TileNode} {op : EwOp} {dup : Bool} {a b i j : Nat} {va vb : Machine.Num}
    (h : s.demands d n i j) (hop : n.op = .ew op dup) (hargs : n.args = [a, b]) (hchk : n.mode.chk = false)
    (ha : s.core.mash.node? a = some oa) (hb : s.core.mash.node? b = some ob)
    (hva : s.core.mash.given a n.mode.ftz (oa.tag.spread i j).1 (oa.tag.spread i j).2 = some va)
    (hvb : s.core.mash.given b n.mode.ftz (ob.tag.spread i j).1 (ob.tag.spread i j).2 = some vb) :
    if dup && Config.unitsDiffer s.tick (i * 256 + j) then s.mismatches d n
    else s.evaluatesTo d i j (n.encoded i j (oa.tag.fmt.isInt && ob.tag.fmt.isInt) (op.exact (n.mode.rnd == .rdn) va vb)) := by
  have hcells : cellsRead n.op [oa.tag, ob.tag] i j = [[oa.tag.spread i j], [ob.tag.spread i j]] := hop ▸ cellsRead_ew ..
  have hnums : s.argNums n i j = [[va], [vb]] := State.argNums_pair hargs ha hb (va := fun _ => va) (vb := fun _ => vb) hcells
    (by simpa using hva) (by simpa using hvb)
  have hcell := State.computeCells_value (s := s) (i := i) (j := j) h.plain.1 hchk (Or.inl ⟨_, _, hop⟩)
  have hval : (cellVal n.mode n.op (s.argTags n) (s.argNums n i j)).int = (oa.tag.fmt.isInt && ob.tag.fmt.isInt) ∧
      (cellVal n.mode n.op (s.argTags n) (s.argNums n i j)).v = op.exact (n.mode.rnd == .rdn) va vb := by
    rw [hop, hnums, State.argTags_pair hargs ha hb]
    cases op <;> simp [cellVal, EwOp.exact]
  rw [hval.1, hval.2] at hcell
  have hdup : n.op.dup = dup := by rw [hop]; rfl
  have hreads := State.argReads_pair hargs ha hb hcells (by simpa using Mash.holds_of_given hva)
    (by simpa using Mash.holds_of_given hvb)
  rw [← hdup]
  exact h.computes (by simp [hop]) (by simp [hop]) hreads hcell

end Sys2Proof.Machine
end

section
/-! PROOFS. Matrix products (R174, R216, R218, R234). -/

open Sys2Proof

namespace Sys2Proof.Machine

/-! ### Dot products in blocks of 16 terms (R216, R218) -/

/-- Block b of the terms p of a dot product over K terms (R216). -/
def termBlock {α : Type} (p : Nat → α) (K b : Nat) : List α := (List.range (min 16 (K - 16 * b))).map (fun k => p (16 * b + k))

theorem blocks16_drop (p : Nat → Machine.Num) (K n b : Nat) (hn : K - 16 * b ≤ n) :
    blocks16 ((List.range (K - 16 * b)).map (fun k => p (16 * b + k))) n =
      (List.range ((K + 15) / 16 - b)).map (fun c => termBlock p K (b + c)) := by
  induction n generalizing b with
  | zero =>
    have hb : (K + 15) / 16 - b = 0 := by omega
    simp [blocks16, hb]
  | succ n ih =>
    unfold blocks16
    by_cases hK : K - 16 * b = 0
    · have hb : (K + 15) / 16 - b = 0 := by omega
      simp [hK, hb]
    · have hb : (K + 15) / 16 - b = (K + 15) / 16 - (b + 1) + 1 := by omega
      have hdrop : ((List.range (K - 16 * b)).map (fun k => p (16 * b + k))).drop 16 =
          (List.range (K - 16 * (b + 1))).map (fun k => p (16 * (b + 1) + k)) := by
        apply List.ext_getElem
        · simp; omega
        · intro k _ _
          simp only [List.getElem_drop, List.getElem_map, List.getElem_range]
          congr 1
          omega
      rw [if_neg (by simpa using hK), hdrop, ih (b + 1) (by omega), hb, List.range_succ_eq_map, List.map_cons, List.map_map]
      congr 1
      · simp [termBlock, ← List.map_take, List.take_range]
      · exact List.map_congr_left (fun c _ => by simp only [Function.comp]; congr 1; omega)

/-- The blocks of 16 of K terms. -/
theorem blocks16_range (p : Nat → Machine.Num) (K : Nat) :
    blocks16 ((List.range K).map p) K = (List.range ((K + 15) / 16)).map (termBlock p K) := by
  simpa using blocks16_drop p K K 0 (by omega)

/-- The floating sum over blocks is the dot product block by block (R216). -/
theorem sumFp_range (m : AccMode) (p : Nat → Machine.Num) (K : Nat) :
    (sumFp m (.zero false) ((List.range K).map p)).1 = dotFp m.sat m.ftz p K ((K + 15) / 16) := by
  rw [sumFp, List.length_map, List.length_range, blocks16_range]
  generalize (K + 15) / 16 = blks
  induction blks with
  | zero => rfl
  | succ blks ih =>
    rw [List.range_succ, List.map_append, List.foldl_append, dotFp, ← ih]
    rfl

theorem Num.toInt_ofInt (z : Int) : (Machine.Num.ofInt z).toInt = z := by
  simp only [Machine.Num.ofInt, Num.toInt, le_refl, if_true, Int.toNat_zero, Nat.shiftLeft_zero, decide_eq_true_eq]
  split <;> omega

/-- One step of the INT32 accumulator (R218): wrapped or saturated. -/
theorem int32_step (sat : Bool) (t : Int) (e f : EncEx) :
    (if -2147483648 ≤ t ∧ t ≤ 2147483647 then (t, e)
      else (if sat then (if t < 0 then -2147483648 else 2147483647) else (BitVec.ofInt 32 t).toInt, f)).1 =
    if -2 ^ 31 ≤ t ∧ t < 2 ^ 31 then t
    else if sat then (if t < 0 then -2 ^ 31 else 2 ^ 31 - 1) else (BitVec.ofInt 32 t).toInt := by
  have hin : (-2147483648 ≤ t ∧ t ≤ 2147483647) ↔ (-2 ^ 31 ≤ t ∧ t < 2 ^ 31) := by omega
  by_cases h : -2 ^ 31 ≤ t ∧ t < 2 ^ 31
  · rw [if_pos h, if_pos (hin.mpr h)]
  · rw [if_neg h, if_neg (mt hin.mp h)]
    norm_num

/-- So is the integer sum (R218). -/
theorem sumInt_range (sat : Bool) (p : Nat → Int) (K : Nat) :
    (sumInt sat 0 ((List.range K).map p)).1 = dotInt sat p K ((K + 15) / 16) := by
  rw [sumInt, List.length_map, List.length_range, List.map_map, blocks16_range]
  generalize (K + 15) / 16 = blks
  induction blks with
  | zero => rfl
  | succ blks ih =>
    have hsum : ((termBlock (Machine.Num.ofInt ∘ p) K blks).map Num.toInt).foldl (· + ·) 0 =
        ((List.range (min 16 (K - 16 * blks))).map (fun k => p (16 * blks + k))).sum := by
      have hid : Num.toInt ∘ (fun k => (Machine.Num.ofInt ∘ p) (16 * blks + k)) = fun k => p (16 * blks + k) :=
        funext (fun _ => Num.toInt_ofInt _)
      rw [termBlock, List.map_map, hid, List.sum_eq_foldl]
    rw [List.range_succ, List.map_append, List.foldl_append, dotInt, ← ih, ← hsum]
    exact int32_step ..

/-! ### The nodes (R174, R234) -/

theorem cellsRead_mma (dup : Bool) (t u : Tag) (i j : Nat) : cellsRead (.mma dup) [t, u] i j =
    [(List.range t.cols).map (fun k => (i, k)), (List.range u.rows).map (fun k => (k, j))] := by
  simp only [cellsRead, demandMaps, ← List.flatMap_def, List.map_cons, List.map_nil, List.flatMap_cons, List.flatMap_nil,
    List.append_nil]
  exact congrArg (fun l => [_, l]) (List.flatMap_pure_eq_map (fun k => (k, j)) (List.range u.rows))

/-- An element of a matrix product is the dot product of a row and a column, encoded (R234). -/
theorem State.evaluates_mma {s : State} {d : Demand} {n oa ob : TileNode} {dup : Bool} {a b i j K : Nat} {va vb : Nat → Machine.Num}
    (h : s.demands d n i j) (hop : n.op = .mma dup) (hargs : n.args = [a, b]) (hchk : n.mode.chk = false)
    (ha : s.core.mash.node? a = some oa) (hb : s.core.mash.node? b = some ob) (hK : oa.tag.cols = K) (hK' : ob.tag.rows = K)
    (hva : ∀ k < K, s.core.mash.given a n.mode.ftz i k = some (va k))
    (hvb : ∀ k < K, s.core.mash.given b n.mode.ftz k j = some (vb k)) (hint : oa.tag.fmt.isInt = ob.tag.fmt.isInt) :
    if dup && Config.unitsDiffer s.tick (i * 256 + j) then s.mismatches d n
    else s.evaluatesTo d i j (n.encoded i j oa.tag.fmt.isInt
      (if oa.tag.fmt.isInt then Machine.Num.ofInt (dotInt n.mode.sat (fun k => (va k).toInt * (vb k).toInt) K ((K + 15) / 16))
       else dotFp n.mode.sat n.mode.ftz (fun k => (va k).mul (vb k)) K ((K + 15) / 16))) := by
  have hcells : cellsRead n.op [oa.tag, ob.tag] i j =
      [(List.range K).map (fun k => (i, k)), (List.range K).map (fun k => (k, j))] := by
    rw [hop, cellsRead_mma, hK, hK']
  have hnums : s.argNums n i j = [(List.range K).map va, (List.range K).map vb] := by
    rw [State.argNums_pair hargs ha hb (va := fun c => va c.2) (vb := fun c => vb c.1) hcells (by simpa using hva) (by simpa using hvb),
      List.map_map, List.map_map]
    rfl
  have hcell := State.computeCells_value (s := s) (i := i) (j := j) h.plain.1 hchk (Or.inr ⟨_, hop⟩)
  have hval : (cellVal n.mode n.op (s.argTags n) (s.argNums n i j)).int = oa.tag.fmt.isInt ∧
      (cellVal n.mode n.op (s.argTags n) (s.argNums n i j)).v =
        if oa.tag.fmt.isInt then Machine.Num.ofInt (dotInt n.mode.sat (fun k => (va k).toInt * (vb k).toInt) K ((K + 15) / 16))
        else dotFp n.mode.sat n.mode.ftz (fun k => (va k).mul (vb k)) K ((K + 15) / 16) := by
    have hall : [oa.tag, ob.tag].all (fun t => t.fmt.isInt) = oa.tag.fmt.isInt := by simp [← hint]
    rw [hop, hnums, State.argTags_pair hargs ha hb]
    simp only [cellVal, hall, List.getElem?_cons_zero, List.getElem?_cons_succ, Option.getD_some, products, List.zipWith_map,
      List.zipWith_self, hchk, Bool.not_false, Bool.and_true, sumInt_range, sumFp_range]
    split <;> simp_all
  rw [hval.1, hval.2] at hcell
  have hdup : n.op.dup = dup := by rw [hop]; rfl
  have hreads := State.argReads_pair hargs ha hb hcells (by simpa using fun k hk => Mash.holds_of_given (hva k hk))
    (by simpa using fun k hk => Mash.holds_of_given (hvb k hk))
  rw [← hdup]
  exact h.computes (by simp [hop]) (by simp [hop]) hreads hcell

end Sys2Proof.Machine
end

section
/-! PROOFS. Constants on demand and ahead of it (R168, R173, R176), and load nodes of the own scratchpad (R163, R164, R167, R177). -/

open Sys2Proof

namespace Sys2Proof.Machine

/-- A demanded element of a constant is evaluated to its element (R173). -/
theorem State.asks.evaluates_const {s : State} {d : Demand} {n : TileNode} {e : Elem} {i j : Nat} (h : s.asks d i j)
    (hn : s.core.mash.node? d.node = some n) (hc : n.freshConst e) (hi : i < n.tag.rows) (hj : j < n.tag.cols) :
    s.evaluatesTo d i j e := by
  obtain ⟨u, m, hd, hframe, hm, hval, -⟩ := State.demand_const false s.core.mash.nodes.length hn hc hi hj
  exact h.answered hd hframe hm hval

/-- A constant is evaluated ahead of demand, and no element is demanded by that (R176). -/
theorem exec_evalAhead_const {s : State} {n : TileNode} {e : Elem} {id i j : Nat} (hn : s.core.mash.node? id = some n)
    (hc : n.freshConst e) (hi : i < n.tag.rows) (hj : j < n.tag.cols) (hspine : id ∈ s.core.mash.spine) :
    ∃ t m, exec (.evalAheadOfDemand id i j) s = .next t ∧ t.core.evalFault = s.core.evalFault ∧ t.mem = s.mem ∧
      t.core.regs = s.core.regs ∧ t.core.mash.node? id = some m ∧ m.val? i j = some e ∧ m.drows = [] := by
  obtain ⟨u, m, hd, hframe, hm, hval, hdrows⟩ := State.demand_const true s.core.mash.nodes.length hn hc hi hj
  obtain ⟨ns, hcore⟩ := hframe.core
  have hexec : exec (.evalAheadOfDemand id i j) s = .next u.gc := by
    show Host.Outcome.next _ = _
    simp only [hn, hi, hj, and_self, if_true]
    rw [State.depth, hd]
  have hroot : id ∈ u.core.roots := Core.mem_roots_of_spine (by rw [hcore]; exact hspine)
  refine ⟨_, m, hexec, ?_, hframe.mem, ?_, (Core.release_node? hroot).trans hm, hval, hdrows rfl⟩
  · show u.core.evalFault = _
    rw [hcore]
  · show u.core.regs = _
    rw [hcore]

/-! ### Sectors of unmarked scratchpad memory (R167, R177) -/

/-- A byte of a little-endian run. -/
theorem byte_ofLe {bs : List Byte} {k : Nat} (h : k < bs.length) : BitVec.ofNat 8 (ofLe bs >>> (8 * k)) = bs[k] := by
  induction bs generalizing k with
  | nil => simp at h
  | cons b bs ih =>
    cases k with
    | zero => simp [ofLe, BitVec.ofNat_add, BitVec.ofNat_mul]
    | succ k =>
      have hdiv : (b.toNat + 256 * ofLe bs) / 256 = ofLe bs := by have := b.isLt; omega
      rw [List.getElem_cons_succ, ← ih (by simpa using h), ofLe, show 8 * (k + 1) = 8 + 8 * k by omega, Nat.shiftRight_add,
        Nat.shiftRight_eq_div_pow _ 8, show (2 : Nat) ^ 8 = 256 from rfl, hdiv]

/-- A sector as it stands in memory. -/
def State.sectorAt (s : State) (key : Nat) : Sector :=
  { key := key, bytes := BitVec.ofNat 512 (ofLe (s.mem.readN (key * 64) 64)), mark := none }

@[simp] theorem State.sectorAt_key (s : State) (key : Nat) : (s.sectorAt key).key = key := rfl
@[simp] theorem State.sectorAt_mark (s : State) (key : Nat) : (s.sectorAt key).mark = none := rfl

theorem toNat_ofNat_ofLe {w : Nat} {bs : List Byte} (h : 8 * bs.length = w) : (BitVec.ofNat w (ofLe bs)).toNat = ofLe bs := by
  subst h
  rw [BitVec.toNat_ofNat, Nat.mod_eq_of_lt (ofLe_lt bs)]

theorem State.sectorAt_bytes (s : State) (key : Nat) : (s.sectorAt key).bytes.toNat = ofLe (s.mem.readN (key * 64) 64) :=
  toNat_ofNat_ofLe (by rw [Memory.readN_length])

theorem State.sectorAt_byte (s : State) (a : Nat) :
    BitVec.ofNat 8 ((s.sectorAt (a / 64)).bytes.toNat >>> (8 * (a % 64))) = s.mem.read a := by
  have hlt : a % 64 < (s.mem.readN (a / 64 * 64) 64).length := by
    rw [Memory.readN_length]
    exact Nat.mod_lt _ (by decide)
  rw [State.sectorAt_bytes, byte_ofLe hlt]
  simp only [Memory.readN, List.getElem_map, List.getElem_range]
  congr 1
  omega

theorem State.readSector_unmarked {s : State} {key : Nat} {f : Fetch} (hm : s.marks = []) (hg : s.core.gate = [])
    (hk : 2 ^ 40 ≤ key * 64) : s.readSector key f = (s, s.sectorAt key) := by
  have hown : s.readOwn (key * 64) 64 = s.mem.readN (key * 64) 64 := by simp [State.readOwn, hg, readThrough, Memory.readN]
  unfold State.readSector
  simp only [if_neg (Nat.not_lt.mpr hk), State.touchBlocks_unmarked _ _ _ _ hm, hown]
  split <;> rfl

/-- Sectors fetched one after another, each once. -/
theorem State.foldl_sectors {s : State} {step : State × List Sector → Nat → State × List Sector} {ks : List Nat}
    (hstep : ∀ key ∈ ks, ∀ secs, step (s, secs) key =
      (s, if secs.any (fun x => x.key == key) then secs else secs ++ [s.sectorAt key]))
    {secs : List Sector} (hsecs : ∀ x ∈ secs, x = s.sectorAt x.key) :
    ∃ secs', ks.foldl step (s, secs) = (s, secs') ∧ (∀ x ∈ secs', x = s.sectorAt x.key) ∧
      ∀ k, k ∈ ks ∨ (∃ x ∈ secs, x.key = k) → ∃ x ∈ secs', x.key = k := by
  induction ks generalizing secs with
  | nil => exact ⟨secs, rfl, hsecs, by simp⟩
  | cons key ks ih =>
    rw [List.foldl_cons, hstep key List.mem_cons_self]
    have hrest := fun k hk => hstep k (List.mem_cons_of_mem key hk)
    split
    next hin =>
      obtain ⟨secs', hfold, hall, hhas⟩ := ih hrest hsecs
      refine ⟨secs', hfold, hall, fun k hk => hhas k ?_⟩
      obtain ⟨y, hy, hyk⟩ := List.any_eq_true.mp hin
      rcases hk with hk | hk
      · rcases List.mem_cons.mp hk with rfl | hk
        · exact Or.inr ⟨y, hy, beq_iff_eq.mp hyk⟩
        · exact Or.inl hk
      · exact Or.inr hk
    next =>
      obtain ⟨secs', hfold, hall, hhas⟩ := ih hrest (secs := secs ++ [s.sectorAt key]) (fun x hx =>
        (List.mem_append.mp hx).elim (hsecs x) (fun hx => by rw [List.mem_singleton.mp hx, State.sectorAt_key]))
      refine ⟨secs', hfold, hall, fun k hk => hhas k ?_⟩
      rcases hk with hk | ⟨x, hx, hxk⟩
      · rcases List.mem_cons.mp hk with rfl | hk
        · exact Or.inr ⟨s.sectorAt k, by simp, s.sectorAt_key k⟩
        · exact Or.inl hk
      · exact Or.inr ⟨x, List.mem_append_left _ hx, hxk⟩

/-- The sectors of some bytes: each as it stands in memory, and none is missing. -/
theorem State.needSectors_unmarked {s : State} {a n : Nat} (f : Fetch) (hm : s.marks = []) (hg : s.core.gate = []) (ha : 2 ^ 40 ≤ a) :
    ∃ secs, s.needSectors [] a n f = (s, secs) ∧ (∀ x ∈ secs, x = s.sectorAt x.key) ∧ ∀ k ∈ blocksOf a n, ∃ x ∈ secs, x.key = k := by
  obtain ⟨secs, hfold, hall, hhas⟩ := State.foldl_sectors (s := s) (ks := blocksOf a n) (secs := []) (step := fun acc key =>
      if acc.2.any (fun x => x.key == key) then acc
      else
        let new := acc.2.filter (fun x => !([] : List Sector).any (fun y => y.key == x.key))
        let r := acc.1.readSector key { f with held := if f.pin then f.held ++ new.map (fun x => x.key / 2) else [] }
        (r.1, acc.2 ++ [r.2]))
    (fun key hkey secs => by
      dsimp only
      rw [State.readSector_unmarked hm hg (blocksOf_above ha hkey)]
      split <;> rfl) (by simp)
  exact ⟨secs, hfold, hall, fun k hk => hhas k (Or.inl hk)⟩

/-- Bytes from sectors that stand as memory has them. -/
theorem State.sectorBytes_eq {s : State} {secs : List Sector} {a n : Nat} (hall : ∀ x ∈ secs, x = s.sectorAt x.key)
    (hhas : ∀ k ∈ blocksOf a n, ∃ x ∈ secs, x.key = k) : sectorBytes secs a n = s.mem.readN a n := by
  refine List.map_congr_left (fun i hi => ?_)
  obtain ⟨x, hx, hxk⟩ := hhas _ (mem_blocksOf (List.mem_range.mp hi))
  cases hfind : secs.find? (fun x => x.key == (a + i) / 64) with
  | none =>
    exact absurd (List.find?_eq_none.mp hfind x hx) (by simp [hxk])
  | some y =>
    have hkey : y.key = (a + i) / 64 := by simpa using List.find?_some hfind
    rw [hall y (List.mem_of_find?_eq_some hfind), hkey]
    exact s.sectorAt_byte (a + i)

theorem State.sectorMark_none {s : State} {secs : List Sector} (a n : Nat) (hall : ∀ x ∈ secs, x = s.sectorAt x.key) :
    sectorMark secs a n = none := by
  rw [sectorMark, List.head?_eq_none_iff, List.filterMap_eq_nil_iff]
  intro k _
  cases hfind : secs.find? (fun x => x.key == k) with
  | none => rfl
  | some y =>
    rw [hall y (List.mem_of_find?_eq_some hfind), Option.bind_some, State.sectorAt_mark]

/-! ### A load node reads one element of the own scratchpad (R163, R164, R167) -/

theorem Fmt.ne_int8r {f : Fmt} (h : f.isScaled = false) : f ≠ .int8r := by
  rintro rfl
  simp [Fmt.isScaled] at h

/-- The element of a scratchpad block at row r and column c lies at its bit of the block (R164). -/
theorem State.elemAt_spad {s : State} {n : TileNode} {acc : TileAccess} {f : Fmt} {flat i j r c : Nat}
    (h : n.loadsFrom acc f flat i j r c) (hsp : inSpad s.cur flat = true) (rows slot : Nat)
    {bit bytes : Nat} (hbit : bit = flat % 2 ^ 22 * 8 + r * acc.pitch * 8 + c * f.width)
    (hbytes : bytes = (bit % 8 + f.width + 7) / 8) (hfit : bit / 8 + bytes ≤ 2 ^ 22) (hspill : s.core.inSpill (bit / 8) bytes = false) :
    s.elemAt acc rows slot i j false =
      (s, .ok { bit := spadBase s.cur * 8 + bit, fmt := f, scale := none, tile := none }) := by
  have h8 := Fmt.ne_int8r h.plain.2
  have hbase : flat / 2 ^ 22 * 2 ^ 22 = spadBase s.cur := by
    obtain ⟨hlo, hhi⟩ := Bool.and_eq_true_iff.mp hsp
    have hle := of_decide_eq_true hlo
    have hlt := of_decide_eq_true hhi
    unfold spadBase at *
    omega
  have hcast : ((flat % 2 ^ 22 : Nat) + (r : Int) * acc.pitch) * 8 + (c : Int) * f.width = (bit : Nat) := by
    rw [hbit]
    push_cast
    ring
  have hmod : ((bit : Int) % 8).toNat = bit % 8 := by omega
  have hrange : s.rangeCause (.spad flat) ((bit : Int) / 8) bytes = none := by
    have hdiv : ((bit : Int) / 8).toNat = bit / 8 := by omega
    simp only [State.rangeCause]
    rw [if_neg (by omega), hdiv, hspill]
    rfl
  unfold State.elemAt
  simp only [h.row, h.col, h.place, h.memFmt, Option.getD_some, h.plain.1, h.plain.2, h8, TilePlace.base, hcast, hmod, ← hbytes,
    Bool.false_eq_true, if_false, false_and, Option.bind_none, Option.map_none, Option.or_none, hbase]
  rw [if_neg (by omega), hrange]
  rfl

/-- The raw element of a load node is the bits of its place. -/
theorem State.readRaw_spad {s : State} {n : TileNode} {acc : TileAccess} {f : Fmt} {flat i j r c : Nat}
    (h : n.loadsFrom acc f flat i j r c) (hsp : inSpad s.cur flat = true) (hm : s.marks = []) (hg : s.core.gate = [])
    {bit bytes : Nat} (hbit : bit = flat % 2 ^ 22 * 8 + r * acc.pitch * 8 + c * f.width)
    (hbytes : bytes = (bit % 8 + f.width + 7) / 8) (hfit : bit / 8 + bytes ≤ 2 ^ 22) (hspill : s.core.inSpill (bit / 8) bytes = false) :
    ∃ secs, s.readRaw n acc i j = (s, { n with
      sectors := secs, rfmt := some f,
      raw := [(i * n.tag.cols + j, {
        bits := (ofLe (s.mem.readN (spadBase s.cur + bit / 8) bytes) >>> (bit % 8)) % 2 ^ f.width, aux := 0, mark := none })] },
      .ok true) := by
  obtain ⟨hafter, hsectors, hraw, hpinned⟩ := h.unread
  have hdiv : (spadBase s.cur * 8 + bit) / 8 = spadBase s.cur + bit / 8 := by omega
  have hmod : (spadBase s.cur * 8 + bit) % 8 = bit % 8 := by omega
  obtain ⟨secs, hneed, hall, hhas⟩ := State.needSectors_unmarked (n := bytes)
    { ({ bit := spadBase s.cur * 8 + bit, fmt := f, scale := none, tile := none } : ElemAt).fetch (!acc.noAlloc) false with
      held := n.pinned } hm hg (spadBase_above s.cur (bit / 8))
  refine ⟨secs, ?_⟩
  unfold State.readRaw
  simp only [hraw, List.any_nil, Bool.false_eq_true, if_false, State.elemAt_spad h hsp n.tag.rows n.origin.slot hbit hbytes hfit hspill,
    h.plain.1, h.place, Bool.false_and, hdiv, hmod, ← hbytes, hsectors, hneed, State.sectorBytes_eq hall hhas,
    State.sectorMark_none _ _ hall, List.nil_append]

theorem decodeAux_plain {f : Fmt} (hb : f.isBlock = false) (hs : f.isScaled = false) (ftz : Bool) (bits aux : Nat) :
    decodeAux f ftz bits aux = decodeElem f ftz bits := by
  cases f <;> simp_all [Fmt.isBlock, Fmt.isScaled, decodeAux, seMag]

/-- What a load node makes of an element that it has read: it moves it between equal formats, and converts it otherwise (R167). -/
theorem TileNode.loaded_one {n : TileNode} {acc : TileAccess} {f : Fmt} {i j raw : Nat} (hf : f.isBlock = false ∧ f.isScaled = false)
    (hb : n.tag.fmt.isBlock = false) (hchk : acc.chk = false)
    (hraw : n.raw = [(i * n.tag.cols + j, { bits := raw, aux := 0, mark := none })]) :
    n.loaded acc f [(i, j)] = [{ row := i, col := j, ex := .none, e :=
      if f = n.tag.fmt then { bits := cleanBits f raw, aux := 0, mark := none } else
      { bits := (encodeElem n.tag.fmt acc.rnd acc.sat acc.ftz f.isInt (srKeyAt n.srCtr n.srKey i j)
          (decodeElem f acc.ftz raw)).bits, aux := 0, mark := none } }] := by
  have hfind : lookupNat (i * n.tag.cols + j) n.raw = some { bits := raw, aux := 0, mark := none } := by simp [hraw, lookupNat]
  unfold TileNode.loaded
  by_cases heq : f = n.tag.fmt
  · simp [heq, hb, hfind]
  · simp [heq, convAll, hb, convElem, hfind, hchk, CellOut.marked, Elem.num, decodeAux_plain hf.1 hf.2]

/-- A demand of a fresh load node evaluates the load. -/
theorem State.demand_load {s : State} {d : Demand} {n : TileNode} {acc : TileAccess} {i j : Nat} (fuel : Nat) (h : s.demands d n i j)
    (hop : n.op = .load acc) (hafter : n.after = []) :
    s.demand false d.node [i] [j] (fuel + 1) = (s.putNode (n.asked false i j)).evalLoad (n.asked false i j) acc false [(i, j)] := by
  rw [State.demand, h.isNode]
  dsimp -zeta only
  rw [if_neg (by simp [h.notRetired])]
  extract_lets wd dr dc n1 new s1
  split
  · next hf => exact absurd hf (by simp)
  · next hf => simp [h.live] at hf
  have hnew : new = [(i, j)] := h.asked_new
  have hopen : s1.core.mash.storesOpen n1.after = false := by
    show s1.core.mash.storesOpen n.after = false
    simp [Mash.storesOpen, hafter]
  have hop1 : n1.op = .load acc := hop
  rw [if_neg (by simp [hnew]), hop1]
  dsimp -zeta only
  rw [hopen, hnew]
  rfl

/-- A load that has read its one element takes it. -/
theorem State.evalLoad_one {s : State} {n m o : TileNode} {acc : TileAccess} {f : Fmt} {i j : Nat} {e : Elem}
    (hread : s.readRaw n acc i j = (s, m, .ok true)) (hf : m.rfmt = some f) (hpair : badPair acc f m.tag.fmt = false)
    (hloaded : ({ m with pinned := [] } : TileNode).loaded acc f [(i, j)] = [{ row := i, col := j, e := e, ex := .none }])
    (ho : s.core.mash.node? m.id = some o) :
    ∃ u m', s.evalLoad n acc false [(i, j)] = (u, []) ∧ s.NodesFrame u ∧ u.core.mash.node? m.id = some m' ∧
      m'.val? i j = some e := by
  have hcells : s.readCells n acc [(i, j)] = (s, m, none) := by
    simp [State.readCells, hread]
  have hrun : s.evalLoad n acc false [(i, j)] =
      (s.putNode { m with pinned := [] }).takeLoaded { m with pinned := [] } acc f false [(i, j)] := by
    simp [State.evalLoad, State.loadRun, hcells, hf, hpair]
  obtain ⟨k, hk⟩ : ∃ k, (s.putNode { m with pinned := [] }).takeLoaded { m with pinned := [] } acc f false [(i, j)] =
      ((s.putNode { m with pinned := [] }).countTri2 k).finishCells { m with pinned := [] } false
        [{ row := i, col := j, e := e, ex := .none }] := by
    rw [← hloaded]
    exact ⟨_, rfl⟩
  obtain ⟨hmem, hcore, -⟩ := (s.putNode { m with pinned := [] }).countTri2_facts k
  obtain ⟨m', hm', hval, -⟩ := State.takeCells_node? (s := (s.putNode { m with pinned := [] }).countTri2 k)
    (n := { m with pinned := [] }) (cs := [{ row := i, col := j, e := e, ex := .none }]) (e := e) (i := i) (j := j)
    (by rw [hcore]; exact State.putNode_node? (n := { m with pinned := [] }) ho rfl) (by simp)
    ⟨_, List.mem_singleton_self _, rfl, rfl⟩
  refine ⟨_, m', by rw [hrun, hk, State.finishCells_passed (by simp)], ?_, hm', hval⟩
  exact ((State.putNode_nodesFrame s _).trans ⟨hmem, _, hcore⟩).trans (State.takeCells_nodesFrame ..)

/-- A load node's element is evaluated from the bits at its place. -/
theorem State.demands.evaluates_load {s : State} {d : Demand} {n : TileNode} {acc : TileAccess} {f : Fmt} {flat i j r c : Nat}
    (hd : s.demands d n i j)
    (h : n.loadsFrom acc f flat i j r c) (hchk : acc.chk = false) (hsp : inSpad s.cur flat = true) (hg : s.core.gate = [])
    (hm : s.marks = [])
    {bit bytes : Nat} (hbit : bit = flat % 2 ^ 22 * 8 + r * acc.pitch * 8 + c * f.width)
    (hbytes : bytes = (bit % 8 + f.width + 7) / 8) (hfit : bit / 8 + bytes ≤ 2 ^ 22) (hspill : s.core.inSpill (bit / 8) bytes = false)
    {raw : Nat} (hraw : raw = (ofLe (s.mem.readN (spadBase s.cur + bit / 8) bytes) >>> (bit % 8)) % 2 ^ f.width) :
    s.evaluatesTo d i j (if f = n.tag.fmt then { bits := cleanBits f raw, aux := 0, mark := none } else
      { bits := (encodeElem n.tag.fmt acc.rnd acc.sat acc.ftz f.isInt (srKeyAt n.srCtr n.srKey i j)
          (decodeElem f acc.ftz raw)).bits, aux := 0, mark := none }) := by
  obtain ⟨hblock, hscaled⟩ := hd.plain
  let n1 := n.asked false i j
  have h1 : n1.loadsFrom acc f flat i j r c := ⟨h.isLoad, h.unread, h.place, h.memFmt, h.plain, h.row, h.col⟩
  obtain ⟨secs, hread⟩ := State.readRaw_spad (s := s.putNode n1) h1 hsp hm hg hbit hbytes hfit hspill
  have hfmt : badPair acc f n.tag.fmt = false := by simp [badPair, hscaled, h.plain.2]
  obtain ⟨u, m, heval, hframe, hm', hval⟩ := State.evalLoad_one hread rfl hfmt
    (TileNode.loaded_one (raw := raw) h.plain hblock hchk (by rw [hraw]; rfl)) (hd.asked_id ▸ hd.node?_asked)
  refine hd.asks.answered ((State.demand_load _ hd h.isLoad h.unread.1).trans heval)
    ((State.putNode_nodesFrame s n1).trans hframe) (hd.asked_id ▸ hm') hval

end Sys2Proof.Machine
end

section
/-! PROOFS. Stores and forces (R190 to R192). -/

open Sys2Proof

namespace Sys2Proof.Machine

/-! ### A sector of a store is written (R190, R191) -/

/-- A byte that a write does not name reads as before, in any memory. -/
theorem Memory.read_write_other (m : Memory) {a k : Nat} (b : Byte) (h : a ≠ k) : Memory.read (Memory.write m a b) k = Memory.read m k := by
  induction m with
  | nil =>
    unfold Memory.write
    split
    · rfl
    · simp [Memory.read, h]
  | cons c m ih =>
    obtain ⟨a', b'⟩ := c
    unfold Memory.write
    repeat' split
    all_goals simp_all [Memory.read]

theorem Memory.read_writeAll_outside {m : Memory} {cs : List Host.Cell} {k : Nat} (h : ∀ c ∈ cs, c.1 ≠ k) :
    Memory.read (m.writeAll cs) k = Memory.read m k := by
  induction cs generalizing m with
  | nil => rfl
  | cons c cs ih =>
    exact (ih (fun d hd => h d (List.mem_cons_of_mem _ hd))).trans (Memory.read_write_other m c.2 (h c List.mem_cons_self))

/-- What the write of one sector leaves as it was: of the core all but its gate, and memory outside the sector. -/
structure State.SectorFrame (s t : State) (key : Nat) : Prop where
  core : ∃ g, t.core = { s.core with gate := g }
  mem : ∀ a, a / 64 ≠ key → t.mem.read a = s.mem.read a

theorem State.writeSector_sectorFrame (s : State) (ws : List BitWrite) (earlier : GateEntry → Bool) (key : Nat) :
    s.SectorFrame (s.writeSector ws earlier key) key := by
  have hcells (cs full : List Host.Cell) (hcs : ∀ c ∈ cs, c.1 / 64 = key) (a : Nat) (ha : a / 64 ≠ key) :
      (s.writeBits cs full).mem.read a = s.mem.read a :=
    Memory.read_writeAll_outside (fun c hc heq => ha (heq ▸ hcs c hc))
  have hmain (f : Fetch) (cs full : List Host.Cell) (hcs : ∀ c ∈ cs, c.1 / 64 = key) :
      s.SectorFrame (if key * 64 < 2 ^ 40 then s.writeMainBits (some s.core.die) f cs full else s.writeBits cs full) key := by
    split
    · have hframe : (s.writeBits cs full).CacheFrame (s.writeMainBits (some s.core.die) f cs full) :=
        .foldl (fun s line => State.writeLine_frame s _ f line) _ _
      exact ⟨⟨_, hframe.core⟩, fun a ha => by rw [hframe.mem]; exact hcells cs full hcs a ha⟩
    · exact ⟨⟨_, rfl⟩, hcells cs full hcs⟩
  have hpatch (t : State) (ht : s.SectorFrame t key) : s.SectorFrame (t.patchReplica ws key) key := by
    unfold State.patchReplica
    split
    · exact ht
    · split
      · exact ht
      · exact ⟨ht.core, ht.mem⟩
  have hgate (t : State) (b : Bool) (ht : s.SectorFrame t key) :
      s.SectorFrame (if b then t.modCore (fun c => { c with gate := gateAfter c.gate earlier ws }) else t) key := by
    split
    · obtain ⟨⟨g, hg⟩, hmem⟩ := ht
      exact ⟨⟨_, congrArg (fun c : Core => { c with gate := gateAfter t.core.gate earlier ws }) hg⟩, hmem⟩
    · exact ht
  have hmark (t : State) (b : Bool) (ht : s.SectorFrame t key) :
      s.SectorFrame (if b then t.setMark key (some .poison) else t) key := by
    split
    · exact ⟨ht.core, ht.mem⟩
    · exact ht
  unfold State.writeSector
  refine hmark _ _ (hgate _ _ (hpatch _ (hmain _ _ _ (fun c hc => ?_))))
  obtain ⟨a, ha, rfl⟩ := List.mem_map.mp hc
  obtain ⟨i, hi, rfl⟩ := List.mem_map.mp (List.mem_filter.mp ha).1
  have := List.mem_range.mp hi
  dsimp only
  omega

/-- The sectors of a store written one after another. -/
theorem State.foldl_writeSector (s : State) (ws : List BitWrite) (earlier : GateEntry → Bool) (keys : List Nat) :
    (∃ g, (keys.foldl (fun u key => u.writeSector ws earlier key) s).core = { s.core with gate := g }) ∧
      ∀ a, a / 64 ∉ keys → (keys.foldl (fun u key => u.writeSector ws earlier key) s).mem.read a = s.mem.read a := by
  induction keys generalizing s with
  | nil => exact ⟨⟨_, rfl⟩, fun _ _ => rfl⟩
  | cons key keys ih =>
    obtain ⟨⟨g, hg⟩, hmem⟩ := ih (s.writeSector ws earlier key)
    obtain ⟨⟨g', hg'⟩, hmem'⟩ := s.writeSector_sectorFrame ws earlier key
    refine ⟨⟨g, by rw [List.foldl_cons, hg, hg']⟩, fun a ha => ?_⟩
    obtain ⟨hne, hnin⟩ := not_or.mp (mt List.mem_cons.mpr ha)
    rw [List.foldl_cons, hmem a hnin, hmem' a hne]

/-! ### Stores and forces complete (R191, R192) -/

/-- The one store node is complete. -/
theorem State.storeDone_facts {s : State} {o : StoreNode} (h : s.core.mash.stores = [o]) :
    (s.storeDone o).core.mash.stores = [] ∧ (s.storeDone o).core.regs = s.core.regs.flagged o.flag ∧ (s.storeDone o).mem = s.mem := by
  let t := s.modMash (fun m => { m with stores := m.stores.filter (fun x => x.id != o.id) })
  obtain ⟨log, hlog⟩ := State.raiseFlag?_eq t o.flag false
  have hdone : s.storeDone o = ({ t with core := { t.core with regs := s.core.regs.flagged o.flag, log := log } } : State).gc :=
    congrArg State.gc hlog
  rw [hdone]
  refine ⟨?_, rfl, rfl⟩
  show s.core.mash.stores.filter (fun x => x.id != o.id) = []
  simp [h]

theorem exec_storeNodePerform {s : State} {o : StoreNode} (h : s.core.mash.stores = [o]) (k : Nat) :
    exec (.storeNodePerform o.id k) s = .next (s.storeStep o k) := by
  show Host.Outcome.next _ = _
  simp [h]

theorem exec_storeNodePerform_sent {s : State} {o : StoreNode} (h : s.core.mash.stores = [o]) (hs : o.sent = true) (k : Nat) :
    ∃ t, exec (.storeNodePerform o.id k) s = .next t ∧ t.core.mash.stores = [] ∧ t.core.regs = s.core.regs.flagged o.flag ∧
      t.mem = s.mem := by
  obtain ⟨hstores, hregs, hmem⟩ := State.storeDone_facts h
  refine ⟨s.storeDone o, ?_, hstores, hregs, hmem⟩
  rw [exec_storeNodePerform h, State.storeStep, if_pos hs]

/-- A store whose places and conversions are good writes its sectors, all of them where so many may be written now (R190). -/
theorem State.storePerform_all {s : State} {o : StoreNode} {src : TileNode} {places : List (Nat × Nat × ElemAt)} {k : Nat}
    (hdone : o.done = 0) (hsrc : s.core.mash.node? o.src = some src) (hplaces : s.storePlaces o = (s, places, none))
    (hfmt : places.head?.map (fun p => p.2.2.fmt) = some src.tag.fmt) (hpair : badPair o.access src.tag.fmt src.tag.fmt = false)
    (hcells : ∀ c ∈ storeCells o src src.tag.fmt, c.ex = .none) (hplace : ∀ c x, o.access.place ≠ .remote c x)
    (hk : (writeSectors (storeWrites src.tag.fmt places (storeCells o src src.tag.fmt))).length ≤ k) :
    s.storePerform o k = ((writeSectors (storeWrites src.tag.fmt places (storeCells o src src.tag.fmt))).foldl
      (fun u key => u.writeSector (storeWrites src.tag.fmt places (storeCells o src src.tag.fmt)) o.after? key) s).storeDone o := by
  obtain _ | ⟨p, ps⟩ := places
  · simp at hfmt
  have hp : p.2.2.fmt = src.tag.fmt := by simpa using hfmt
  have hfaults : o.faults src src.tag.fmt false none (storeCells o src src.tag.fmt) = [] := by
    simp [StoreNode.faults, hpair, firstBad_none hcells]
  have hcount : s.countTri2 0 = s := rfl
  unfold State.storePerform
  simp only [hsrc, hplaces, hp, List.isEmpty_cons, Bool.false_eq_true, if_false, hfaults, List.isEmpty_nil, Bool.not_true, hdone,
    List.drop_zero, List.take_of_length_le hk, ne_eq, not_true, and_false, hcount, Nat.zero_add, lt_irrefl]

theorem exec_storeNodePerform_all {s : State} {o : StoreNode} {src : TileNode} {places : List (Nat × Nat × ElemAt)} {k : Nat}
    (hstores : s.core.mash.stores = [o]) (hsent : o.sent = false) (hdone : o.done = 0) (hready : s.storeReady o = true)
    (hsrc : s.core.mash.node? o.src = some src) (hplaces : s.storePlaces o = (s, places, none))
    (hfmt : places.head?.map (fun p => p.2.2.fmt) = some src.tag.fmt) (hpair : badPair o.access src.tag.fmt src.tag.fmt = false)
    (hcells : ∀ c ∈ storeCells o src src.tag.fmt, c.ex = .none) (hplace : ∀ c x, o.access.place ≠ .remote c x)
    (hk : (writeSectors (storeWrites src.tag.fmt places (storeCells o src src.tag.fmt))).length ≤ k) :
    ∃ t, exec (.storeNodePerform o.id k) s = .next t ∧ t.core.mash.stores = [] ∧
      t.core.regs = s.core.regs.flagged o.flag ∧
      t.mem = ((writeSectors (storeWrites src.tag.fmt places (storeCells o src src.tag.fmt))).foldl
        (fun u key => u.writeSector (storeWrites src.tag.fmt places (storeCells o src src.tag.fmt)) o.after? key) s).mem ∧
      ∀ a, a / 64 ∉ writeSectors (storeWrites src.tag.fmt places (storeCells o src src.tag.fmt)) →
        t.mem.read a = s.mem.read a := by
  obtain ⟨⟨g, hcore⟩, hmem⟩ := s.foldl_writeSector (storeWrites src.tag.fmt places (storeCells o src src.tag.fmt)) o.after?
    (writeSectors (storeWrites src.tag.fmt places (storeCells o src src.tag.fmt)))
  obtain ⟨hnone, hregs, hsame⟩ := State.storeDone_facts (o := o) (by rw [hcore]; exact hstores)
  refine ⟨_, ?_, hnone, by rw [hregs, hcore], hsame, fun a ha => by rw [hsame, hmem a ha]⟩
  rw [exec_storeNodePerform hstores, State.storeStep, hsent, hready,
    State.storePerform_all hdone hsrc hplaces hfmt hpair hcells hplace hk]
  rfl

theorem exec_tfrcComplete {s : State} {d : Demand} (h : s.core.mash.demands = [d]) : exec (.tfrcComplete d.id) s = .next (s.finishForce d) := by
  show Host.Outcome.next _ = _
  simp [h]

/-- No flag is set before the position after issue (R192). -/
theorem exec_tfrcComplete_early {s : State} {d : Demand} (h : s.core.mash.demands = [d]) (hdue : 0 < s.core.due) :
    exec (.tfrcComplete d.id) s = .next s := by
  rw [exec_tfrcComplete h, State.finishForce, if_neg (by simp [hdue.ne'])]

theorem exec_tfrcComplete_due {s : State} {d : Demand} (h : s.core.mash.demands = [d]) (hflag : d.flag.isSome = true)
    (hmet : d.met = true ∨ s.core.mash.computed d.node d.region = true) (hdue : s.core.due = 0) :
    ∃ t, exec (.tfrcComplete d.id) s = .next t ∧ t.core.mash.demands = [] ∧ t.core.regs = s.core.regs.flagged d.flag ∧
      t.mem = s.mem := by
  let u := s.modMash (fun m => { m with demands := m.demands.filter (fun e => e.id != d.id) })
  obtain ⟨log, hlog⟩ := State.raiseFlag?_eq u d.flag (decide (d.node < s.core.shadow.nextNode))
  have hfinish : s.finishForce d = ({ u with core := { u.core with regs := s.core.regs.flagged d.flag, log := log } } : State).gc := by
    rw [State.finishForce, if_pos (by simpa [hdue, Mash.flagDue, hflag] using hmet)]
    exact congrArg State.gc hlog
  refine ⟨_, (exec_tfrcComplete h).trans (congrArg _ hfinish), Core.release_demands_nil ?_, rfl, rfl⟩
  show s.core.mash.demands.filter (fun e => e.id != d.id) = []
  simp [h]

end Sys2Proof.Machine
end

section
/-! PROOFS. Evaluation faults at a bundle boundary (R184, R370). -/

open Sys2Proof

namespace Sys2Proof.Machine

/-! ### What a trap's wait for its loads leaves as it was (R370) -/

/-- The arrival of remote loads changes of the core its accesses and what is in flight or parked. -/
def State.OnlyLoads (s t : State) : Prop :=
  ∃ remote flight late, t.core = { s.core with remote := remote, flight := flight, late := late }

theorem State.OnlyLoads.refl (s : State) : s.OnlyLoads s := ⟨_, _, _, rfl⟩

theorem State.OnlyLoads.trans {s t u : State} (h : s.OnlyLoads t) (g : t.OnlyLoads u) : s.OnlyLoads u := by
  obtain ⟨r, f, l, ht⟩ := h
  obtain ⟨r', f', l', hu⟩ := g
  exact ⟨r', f', l', by rw [hu, ht]⟩

theorem State.performAccess_onlyLoads (s : State) (a : RemAccess) : s.OnlyLoads (s.performAccess a) := by
  unfold State.performAccess
  split
  · exact ⟨_, _, _, rfl⟩
  · let far := a.lanes.filter (fun l => !inSpad s.cur l.1)
    have hcore := s.touchBlocks_core s.ctxNo true ((far.map (fun l => blocksOf l.1 l.2)).flatten.dedup)
    let t := (s.touchBlocks s.ctxNo true ((far.map (fun l => blocksOf l.1 l.2)).flatten.dedup)).1
    have hmod (f : Core → Core) (hf : t.OnlyLoads (t.modCore f)) : s.OnlyLoads (t.modCore f) :=
      State.OnlyLoads.trans ⟨s.core.remote, s.core.flight, s.core.late, hcore⟩ hf
    exact hmod _ ⟨_, _, _, rfl⟩

theorem State.arriveLoads_onlyLoads (s : State) : s.OnlyLoads s.arriveLoads := by
  unfold State.arriveLoads State.performReady
  refine List.foldlRecOn (motive := fun t => s.OnlyLoads t) _ _ (State.OnlyLoads.refl s) (fun t ht a _ => ?_)
  split
  · exact ht.trans (t.performAccess_onlyLoads a)
  · exact ht

/-! The registers of R184 are no part of what the arrival of loads reads. -/

theorem State.countErr_writeEvalRegs (s : State) (f : EvalFault) (n : Nat) (g : ErrRegs → ErrRegs) :
    (s.writeEvalRegs f).countErr n g = (s.countErr n g).writeEvalRegs f := by
  have hctx : (s.writeEvalRegs f).ctx? n = s.ctx? n := rfl
  unfold State.countErr
  rw [hctx]
  dsimp only
  repeat' split
  all_goals rfl

theorem State.touchBlocks_writeEvalRegs (s : State) (f : EvalFault) (n : Nat) (b : Bool) (bs : List Nat) :
    (s.writeEvalRegs f).touchBlocks n b bs = ((s.touchBlocks n b bs).1.writeEvalRegs f, (s.touchBlocks n b bs).2) := by
  unfold State.touchBlocks
  refine List.foldl_hom (init := (s, none)) (fun acc : State × Option Bool => (acc.1.writeEvalRegs f, acc.2)) (fun acc x => ?_)
  have hmarks : (acc.1.writeEvalRegs f).marks = acc.1.marks := rfl
  have hset (m : Option Mark) : (acc.1.writeEvalRegs f).setMark x m = (acc.1.setMark x m).writeEvalRegs f := by cases m <;> rfl
  simp only [hmarks, hset, State.countErr_writeEvalRegs]
  split <;> rfl

theorem State.performAccess_writeEvalRegs (s : State) (f : EvalFault) (a : RemAccess) :
    (s.writeEvalRegs f).performAccess a = (s.performAccess a).writeEvalRegs f := by
  unfold State.performAccess
  split
  · rfl
  · have hctx : (s.writeEvalRegs f).ctxNo = s.ctxNo := rfl
    dsimp only
    rw [hctx, State.touchBlocks_writeEvalRegs]
    rfl

theorem State.arriveLoads_writeEvalRegs (s : State) (f : EvalFault) :
    (s.writeEvalRegs f).arriveLoads = s.arriveLoads.writeEvalRegs f := by
  unfold State.arriveLoads State.performReady
  refine List.foldl_hom (fun u : State => u.writeEvalRegs f) (fun u a => ?_)
  have hready : (u.writeEvalRegs f).core.accReady a = u.core.accReady a := rfl
  rw [hready, State.performAccess_writeEvalRegs]
  split <;> rfl

/-! ### Evaluation faults at a boundary (R184, R370) -/

section
variable {s : State} {f : EvalFault} {cause : BitVec 6} {info : Word}

/-- An evaluation fault that is a trap, at a bundle boundary in program mode. -/
theorem exec_evaluationFault (hrun : s.core.run = .running) (hdue : s.core.due = 0) (hhnd : s.core.sys.hnd = false)
    (hent : s.core.entering = false) (hf : s.core.evalFault = some f) (hw : f.what = .cause cause info)
    (hr : isRecovery cause = false) : exec .evaluationFault s = .next ((s.writeEvalRegs f).rollbackTrap cause info) := by
  have hat : s.core.atBoundary = true := by simp [Core.atBoundary, hrun, hdue, hent]
  have hnow : s.core.faultNow = some f := by simp [Core.faultNow, hhnd, hf]
  have htake : s.takeEvalFault f = (s.writeEvalRegs f).rollbackTrap cause info := by
    simp [State.takeEvalFault, hhnd, hw, hr]
  show Host.Outcome.next _ = _
  rw [if_pos hat, hnow]
  exact congrArg _ htake

/-- With no access out it rolls the core back and enters the handler at once. -/
theorem exec_evaluationFault_quiet (hq : s.quiet) (hf : s.core.evalFault = some f) (hw : f.what = .cause cause info)
    (hr : isRecovery cause = false) :
    ∃ t, exec .evaluationFault s = .next t ∧ t.mem = s.mem ∧ t.core.regs = s.core.restoredRegs ∧ t.core.gate = [] ∧
      t.core.sys = { s.core.sys with fOrigin := f.origin, fDemand := f.demand, fNode := f.node, fSeg := f.seg, fCause := cause,
                                     fInfo := info, trapPc := s.core.shadow.pc, hnd := true, slack := s.core.shadow.slack } ∧
      t.core.pc = s.core.sys.trapVec + (entryCause cause).setWidth 48 * 64 := by
  obtain ⟨hrun, hdue, hhnd, hremote, hdata, hent⟩ := hq
  have htrap : (s.writeEvalRegs f).rollbackTrap cause info = (s.writeEvalRegs f).rollbackEnter cause info := by
    have hh : (s.writeEvalRegs f).core.sys.hnd = false := hhnd
    have ha : (s.writeEvalRegs f).arriveLoads = s.writeEvalRegs f := State.arriveLoads_quiet _ hremote
    have hd : (s.writeEvalRegs f).core.awaitsData = false := hdata
    simp only [State.rollbackTrap, hh, ha, hd, Bool.false_eq_true, if_false]
  refine ⟨_, (exec_evaluationFault hrun hdue hhnd hent hf hw hr).trans (congrArg _ htrap), rfl, rfl, rfl, rfl, rfl⟩

/-- With data still to come it waits for it (R370 step 1). -/
theorem exec_evaluationFault_waits (hrun : s.core.run = .running) (hdue : s.core.due = 0) (hhnd : s.core.sys.hnd = false)
    (hent : s.core.entering = false) (hf : s.core.evalFault = some f) (hw : f.what = .cause cause info)
    (hr : isRecovery cause = false) (hdata : s.arriveLoads.core.awaitsData = true) :
    ∃ t, exec .evaluationFault s = .next t ∧ t.core.hold = .entering cause info s.core.pc s.core.hold true ∧
      t.core.pc = s.core.pc ∧ t.core.regs = s.core.regs ∧ t.core.gate = s.core.gate ∧ t.core.sys.fOrigin = f.origin ∧
      t.core.sys.hnd = false := by
  obtain ⟨remote, flight, late, hcore⟩ := s.arriveLoads_onlyLoads
  have htrap : (s.writeEvalRegs f).rollbackTrap cause info = (s.arriveLoads.writeEvalRegs f).modCore (fun c =>
      { c with hold := .entering cause info c.pc c.hold true, issue := Issue.none }) := by
    have hh : (s.writeEvalRegs f).core.sys.hnd = false := hhnd
    have hd : (s.arriveLoads.writeEvalRegs f).core.awaitsData = true := hdata
    simp only [State.rollbackTrap, hh, s.arriveLoads_writeEvalRegs f, hd, Bool.false_eq_true, if_false, if_true]
  refine ⟨_, (exec_evaluationFault hrun hdue hhnd hent hf hw hr).trans (congrArg _ htrap), ?_, ?_, ?_, ?_, rfl, ?_⟩
  · show Hold.entering cause info s.arriveLoads.core.pc s.arriveLoads.core.hold true = _
    rw [hcore]
  · show s.arriveLoads.core.pc = _
    rw [hcore]
  · show s.arriveLoads.core.regs = _
    rw [hcore]
  · show s.arriveLoads.core.gate = _
    rw [hcore]
  · show s.arriveLoads.core.sys.hnd = _
    rw [hcore]
    exact hhnd

/-- Once the data has come, the core rolls back and enters the handler. -/
theorem step_entering {parked : Hold} (hoff : s.off = false) (hag : s.agenda = []) (hstill : s.progress = s)
    (hrun : s.core.run = .running) (hdue : s.core.due = 0) (hhnd : s.core.sys.hnd = false)
    (hhold : s.core.hold = .entering cause info s.core.pc parked true) (hremote : s.core.remote = [])
    (hdata : s.core.awaitsData = false) : step s = .next ((s.holdFor parked).rollbackEnter cause info) := by
  have hent : s.core.entering = true := by simp [Core.entering, hhold]
  have hevent : s.unquiet.nextEvent = none := by
    have hcore : s.unquiet.core = s.core := rfl
    simp [State.nextEvent, State.boundary, hcore, hrun, hdue, hent]
  have hstep : s.enterStep cause info s.core.pc parked true = (s.holdFor parked).rollbackEnter cause info := by
    simp only [State.enterStep, State.arriveLoads_quiet s hremote, hdata, Bool.false_eq_true, if_false, if_true]
  have hother : s.otherwise = (s.holdFor parked).rollbackEnter cause info := by
    simp only [State.otherwise, State.holdStep, hrun, hhold, hstep]
    rfl
  have hmove : (s.holdFor parked).rollbackEnter cause info ≠ s := fun heq => by
    have hset : ((s.holdFor parked).rollbackEnter cause info).core.sys.hnd = true := rfl
    simp [heq, hhnd] at hset
  simp only [step, hoff, hag, State.turn, hstill, State.coreTurn, hevent, hother, hmove, if_true, if_false, Bool.false_eq_true]

end

end Sys2Proof.Machine
end

section
open Sys2Proof
open Sys2Proof.Machine

/-- Settles O53: evaluation event by event, from the element that a demand asks for to the trap of its fault. -/
theorem evaluationEvents : Obligations.EvaluationEvents := by
  unfold Obligations.EvaluationEvents
  refine ⟨?const, ?ew, ?mma, ?load, ?ahead, ?sent, ?performed, ?early, ?forced, ?fault, ?waits, ?entered⟩
  case const =>
    intro s d n e i j hf hone hflag hn hspine hc hi hj hregion
    exact State.asks.evaluates_const ⟨hf, hone, hflag, hspine, hregion⟩ hn hc hi hj
  case ew =>
    intro s d n oa ob op dup a b i j va vb h hop hargs hchk ha hb hva hvb
    exact State.evaluates_ew h hop hargs hchk ha hb hva hvb
  case mma =>
    intro s d n oa ob dup a b i j K va vb h hop hargs hchk ha hb hK hK' hva hvb hint
    exact State.evaluates_mma h hop hargs hchk ha hb hK hK' hva hvb hint
  case load =>
    intro s d n acc f flat i j r c hd h hchk hsp hg hm bit bytes raw hfit hspill
    exact hd.evaluates_load h hchk hsp hg hm rfl rfl hfit hspill rfl
  case ahead =>
    intro s n e id i j hn hc hi hj hspine _
    exact exec_evalAhead_const hn hc hi hj hspine
  case sent =>
    intro s o k h hs _
    exact exec_storeNodePerform_sent h hs k
  case performed =>
    intro s o src places k hstores hsent hdone _ hready hsrc hplaces hfmt hpair hcells hplace hk
    exact exec_storeNodePerform_all hstores hsent hdone hready hsrc hplaces hfmt hpair hcells hplace hk
  case early =>
    intro s d h _ _ hdue
    exact exec_tfrcComplete_early h hdue
  case forced =>
    intro s d h hflag hmet hdue
    exact exec_tfrcComplete_due h hflag hmet hdue
  case fault =>
    intro s f cause info hq hf hw hr
    exact exec_evaluationFault_quiet hq hf hw hr
  case waits =>
    intro s f cause info hrun hdue hhnd hent hf hw hr hdata
    exact exec_evaluationFault_waits hrun hdue hhnd hent hf hw hr hdata
  case entered =>
    intro s cause info parked hoff hag hstill hrun hdue hhnd hhold hremote hdata
    exact ⟨_, step_entering hoff hag hstill hrun hdue hhnd hhold hremote hdata, rfl, rfl, rfl, rfl, rfl, rfl, rfl, rfl⟩
end
section
/-! PROOFS. Comparisons, conversions, reductions and data movement in the vec slot (R255 to R267). -/

open Sys2Proof

namespace Sys2Proof.Machine

/-! ### Issue on an idle vector unit (R51, R52) -/

theorem settle_vecIssue {s : State} (h : s.core.busy.vec = 0) (b : Nat) (f : State → State) :
    settle s (s.vecIssue b f) = .next ((f s).modCore (fun c => { c with busy := { c.busy with vec := b } })) := by
  rw [State.vecIssue, if_pos h, settle_ok]

/-- A vec instruction with one result has it in flight. -/
theorem settle_vecIssue_put {s : State} (h : s.core.busy.vec = 0) (b : Nat) (g : State → Landing) (n : Nat) :
    settle s (s.vecIssue b (fun t => t.put (g t) n false)) = .next (s.vecIssued b [fly (g s) n]) := by
  rw [settle_vecIssue h, State.put_eq]
  simp [State.withFlight, State.modCore, State.vecIssued]

/-- Results that are the same whatever is in flight may be computed from the state before the first of them. -/
theorem State.foldl_put_of_invariant {g : State → Nat → Landing} {n : Nat}
    (hg : ∀ t l i, g (State.put t l n false) i = g t i) (ls : List Nat) (s : State) :
    ls.foldl (fun t i => t.put (g t i) n false) s = ls.foldl (fun t i => t.put (g s i) n false) s := by
  induction ls generalizing s with
  | nil => rfl
  | cons x xs ih => rw [List.foldl_cons, List.foldl_cons, ih]; simp only [hg]

/-- A vec instruction with a run of results has them in flight. -/
theorem settle_vecIssue_run {s : State} (h : s.core.busy.vec = 0) (b : Nat) {g : State → Nat → Landing} {n : Nat}
    (hg : ∀ t l i, g (State.put t l n false) i = g t i) (ls : List Nat) :
    settle s (s.vecIssue b (fun t => ls.foldl (fun t i => t.put (g t i) n false) t)) =
      .next (s.vecIssued b (ls.map (fun i => fly (g s i) n))) := by
  rw [settle_vecIssue h, State.foldl_put_of_invariant hg, State.foldl_put]
  rfl

/-! ### vcmp (R255) -/

/-- The number whose bit l says whether p holds of l, for each l below n. -/
def bitsWhere (n : Nat) (p : Nat → Bool) : Nat := (List.range n).foldl (fun m l => if p l then m + 2 ^ l else m) 0

theorem bitsWhere_succ (n : Nat) (p : Nat → Bool) :
    bitsWhere (n + 1) p = if p n then 2 ^ n + bitsWhere n p else bitsWhere n p := by
  simp [bitsWhere, List.range_succ, List.foldl_append, Nat.add_comm]

theorem bitsWhere_lt (n : Nat) (p : Nat → Bool) : bitsWhere n p < 2 ^ n := by
  induction n with
  | zero => simp [bitsWhere]
  | succ n ih => rw [bitsWhere_succ, Nat.pow_succ]; split <;> omega

theorem testBit_bitsWhere {n l : Nat} (p : Nat → Bool) (h : l < n) : (bitsWhere n p).testBit l = p l := by
  induction n with
  | zero => omega
  | succ n ih =>
    have hn := bitsWhere_lt n p
    rw [bitsWhere_succ]
    rcases Nat.lt_succ_iff_lt_or_eq.mp h with hl | rfl
    · split
      · rw [Nat.testBit_two_pow_add_gt hl, ih hl]
      · exact ih hl
    · split
      case isTrue hp => rw [Nat.testBit_two_pow_add_eq, Nat.testBit_lt_two_pow hn, hp]; rfl
      case isFalse hp => rw [Nat.testBit_lt_two_pow hn, eq_false_of_ne_true hp]

/-- The comparison holds of every element of lane l. -/
def State.laneHolds (s : State) (f : Fmt) (a b : VReg) (cond : VCmpCond) (l : Nat) : Bool :=
  (List.range (32 / f.width)).all (fun j =>
    vcmpOf cond (decodeElem f s.ftz ((s.v a).toNat / 2 ^ (32 * l + f.width * j) % 2 ^ f.width))
      (decodeElem f s.ftz ((s.v b).toNat / 2 ^ (32 * l + f.width * j) % 2 ^ f.width)))

theorem exec_vcmp {s : State} (h : s.core.busy.vec = 0) (q : QReg) (z : Bool) (f : Fmt) (d : QReg) (a b : VReg) (cond : VCmpCond) :
    exec (.vcmp q z f d a b cond) s = .next (s.vecIssued 1
      [fly (.q d (BitVec.ofNat 32 (bitsWhere 32 (s.laneHolds f a b cond)) &&& s.q q) (if z then 0xFFFF_FFFF else s.q q)) 2]) := by
  show settle s (effVcmp q z f d a b cond s) = _
  simp only [effVcmp, State.vnum, Nat.shiftRight_eq_div_pow]
  exact settle_vecIssue_put h 1 (fun t => .q d (_ &&& t.q q) (if z then 0xFFFF_FFFF else t.q q)) 2

theorem getLsbD_laneHolds (s : State) (q : QReg) (f : Fmt) (a b : VReg) (cond : VCmpCond) {l : Nat} (h : l < 32) :
    (BitVec.ofNat 32 (bitsWhere 32 (s.laneHolds f a b cond)) &&& s.q q).getLsbD l =
      ((s.q q).getLsbD l && s.laneHolds f a b cond l) := by
  rw [BitVec.getLsbD_and, BitVec.getLsbD_ofNat, testBit_bitsWhere _ h, decide_eq_true h, Bool.true_and, Bool.and_comm]

/-! ### vcvt (R257, R258) -/

theorem append16_eq_ofNat (a b c d : BitVec 16) :
    a ++ b ++ c ++ d = BitVec.ofNat 64 (d.toNat + c.toNat * 2 ^ 16 + b.toNat * 2 ^ 32 + a.toNat * 2 ^ 48) := by
  apply BitVec.eq_of_toNat_eq
  rw [BitVec.toNat_append, BitVec.toNat_append, BitVec.toNat_append, ← Nat.shiftLeft_add_eq_or_of_lt d.isLt,
    ← Nat.shiftLeft_add_eq_or_of_lt c.isLt, ← Nat.shiftLeft_add_eq_or_of_lt b.isLt, BitVec.toNat_ofNat]
  simp only [Nat.shiftLeft_eq]
  omega

/-- The model's counter and key are those of R258, field by field. -/
theorem State.vcvtKey_eq (s : State) (e : Nat) : s.vcvtKey e = s.cvtKey e := by
  have hctr : (s.lc 2).setWidth 16 ++ (s.lc 1).setWidth 16 ++ (s.lc 0).setWidth 16 ++ BitVec.ofNat 16 e = (s.vcvtKey e).ctr := by
    rw [append16_eq_ofNat]
    rfl
  rw [State.cvtKey, hctr, State.vcvtKey]
  cases s.core.task with
  | none | some => rfl

/-- A vector format has elements of 8, 16 or 32 bits (R60). -/
theorem Fmt.width_of_isVec {f : Fmt} (h : f.isVec = true) : f.width = 8 ∨ f.width = 16 ∨ f.width = 32 := by
  cases f with
  | int8 | uint8 | fp8a | fp8b => exact .inl rfl
  | int16 | fp16 | bf16 => exact .inr (.inl rfl)
  | int32 | fp32 => exact .inr (.inr rfl)
  | _ => cases h

/-- The registers that hold n elements of a vector format hold at least n. -/
theorem le_elems_of_registers {f : Fmt} (h : f.isVec = true) (n : Nat) : n ≤ 1024 / f.width * ((n * f.width + 1023) / 1024) := by
  rcases Fmt.width_of_isVec h with hw | hw | hw <;> rw [hw] <;> omega

theorem take_elems {w b n : Nat} (h : n ≤ 1024 / w * b) (bits : Nat) :
    (elems w b bits).take n = (List.range n).map (fun e => bits / 2 ^ (w * e) % 2 ^ w) := by
  simp only [elems, ← List.map_take, List.take_range, Nat.min_eq_left h, Nat.shiftRight_eq_div_pow]

theorem zipIdx_map_range {α β : Type} (n : Nat) (f : Nat → α) (g : α × Nat → β) :
    ((List.range n).map f).zipIdx.map g = (List.range n).map (fun e => g (f e, e)) :=
  List.ext_getElem (by simp) (by simp)

theorem vcvtRun_source (c : VCtl) (t : Fmt) :
    vcvtRun c.beats c.fmt.width t.width = (cvtCount c t * c.fmt.width + 1023) / 1024 := rfl

theorem vcvtRun_target (c : VCtl) (t : Fmt) :
    vcvtRun c.beats t.width c.fmt.width = (cvtCount c t * t.width + 1023) / 1024 := by
  rw [vcvtRun, Nat.max_comm, cvtCount]

/-- The elements that the model converts are the first of the run, as many as R257 counts. -/
theorem State.vcvt_elements {c : VCtl} (hc : c.fmt.isVec = true) (s : State) (a : VReg) (t : Fmt) (r : Rnd) (sat : Bool) :
    ((elems c.fmt.width (vcvtRun c.beats c.fmt.width t.width) (s.run a (vcvtRun c.beats c.fmt.width t.width))).take
      (cvtCount c t)).zipIdx.map (fun p => if c.fmt = t then p.1
        else (encodeElem t r sat s.ftz c.fmt.isInt (s.vcvtKey p.2) (s.vnum c.fmt p.1)).bits) = s.cvtElems c a t r sat := by
  rw [vcvtRun_source, take_elems (le_elems_of_registers hc _), zipIdx_map_range]
  simp only [State.vcvtKey_eq]
  rfl

/-- What lands in register i of the destination run of vcvt, of which bits are the converted elements. -/
def State.cvtLanding (s : State) (c : VCtl) (d : VReg) (t : Fmt) (bits i : Nat) : Landing :=
  .vm (Fin.ofNat 32 (d.val + i)) (BitVec.ofNat 1024 (bits / 2 ^ (1024 * i)) &&& s.cvtBits c t i)
    (if c.z then BitVec.allOnes 1024 else s.cvtBits c t i)

theorem State.cvtLanding_put (s : State) (l : Landing) (n : Nat) (c : VCtl) (d : VReg) (t : Fmt) (bits i : Nat) :
    (s.put l n false).cvtLanding c d t bits i = s.cvtLanding c d t bits i := rfl

theorem effVcvt_eq {c : VCtl} (hc : c.fmt.isVec = true) (s : State) (d a : VReg) (t : Fmt) (r : Rnd) (sat : Bool) :
    effVcvt c d a t r sat s = s.vecIssue (c.beats.val + 1) (fun u =>
      (List.range ((cvtCount c t * t.width + 1023) / 1024)).foldl (fun u i =>
        u.put (u.cvtLanding c d t (packElems t.width (s.cvtElems c a t r sat)) i) (c.beats.val + 3) false) u) := by
  simp only [State.cvtLanding, ← Nat.shiftRight_eq_div_pow, ← vcvtRun_target, ← State.vcvt_elements hc]
  rw [effVcvt]
  simp only [Nat.add_sub_cancel]
  rfl

/-- vcvt puts its run of converted elements in flight. -/
theorem exec_vcvt {s : State} (h : s.core.busy.vec = 0) {c : VCtl} (hc : c.fmt.isVec = true) (d a : VReg) (t : Fmt) (r : Rnd)
    (sat : Bool) :
    exec (.vcvt c d a t r sat) s = .next (s.vecIssued (c.beats.val + 1)
      ((List.range ((cvtCount c t * t.width + 1023) / 1024)).map (fun i =>
        fly (s.cvtLanding c d t (packElems t.width (s.cvtElems c a t r sat)) i) (c.beats.val + 3)))) := by
  show settle s (effVcvt c d a t r sat s) = _
  rw [effVcvt_eq hc]
  exact settle_vecIssue_run h _ (fun u l i => State.cvtLanding_put u l _ c d t _ i) _

/-! ### vred and vdot (R260, R262) -/

theorem exec_vred {s : State} (h : s.core.busy.vec = 0) (c : VCtl) (d a : VReg) (op : RedOp) :
    exec (.vred c d a op) s = .next (s.vecIssued (c.beats.val + 1)
      [fly (.v d (BitVec.ofNat 1024 (s.vredOf c a op))) (c.beats.val + 6)]) :=
  settle_vecIssue_put h _ (fun _ => .v d (BitVec.ofNat 1024 (s.vredOf c a op))) _

theorem exec_vdot {s : State} (h : s.core.busy.vec = 0) (c : VCtl) (d a b e : VReg) :
    exec (.vdot c d a b e) s = .next (s.vecIssued (c.beats.val + 1) (s.vecResults c d 4
      (packElems 32 ((List.range (32 * (c.beats.val + 1))).map (fun l => s.vdotLane c.fmt
        (((s.vecIn c a).drop (32 / c.fmt.width * l)).take (32 / c.fmt.width))
        (((s.vecIn c b).drop (32 / c.fmt.width * l)).take (32 / c.fmt.width))
        ((elems 32 (c.beats.val + 1) (s.run e (c.beats.val + 1)))[l]?.getD 0)))))) := by
  show settle s (effVdot c d a b e s) = _
  rw [effVdot, settle_vecIssue h, State.putRun, State.foldl_put]
  simp only [Nat.add_sub_cancel]
  rfl

/-! ### vshf (R264) -/

/-- Element i of a shuffle of two runs of one length (R264). -/
def shfElem (x y : List Nat) (i : Nat) : ShfMode → Nat
  | .zlo => if i % 2 = 0 then x[i / 2]?.getD 0 else y[i / 2]?.getD 0
  | .zhi => if i % 2 = 0 then x[x.length / 2 + i / 2]?.getD 0 else y[x.length / 2 + i / 2]?.getD 0
  | .uev => (x ++ y)[2 * i]?.getD 0
  | .uod => (x ++ y)[2 * i + 1]?.getD 0
  | .rev => x[x.length - 1 - i]?.getD 0

/-- The elements that vshf writes. -/
def shfElems (x y : List Nat) (m : ShfMode) : List Nat := (List.range x.length).map (fun i => shfElem x y i m)

@[simp] theorem length_shfElems (x y : List Nat) (m : ShfMode) : (shfElems x y m).length = x.length := by simp [shfElems]

theorem shfElems_getD {x y : List Nat} {m : ShfMode} {i : Nat} (h : i < (shfElems x y m).length) :
    (shfElems x y m)[i]?.getD 0 = shfElem x y i m := by
  simp only [length_shfElems] at h
  simp [shfElems, h]

theorem shfElems_rev (x y : List Nat) : shfElems x y .rev = x.reverse :=
  List.ext_getElem (by simp) (fun i h _ => by
    rw [length_shfElems] at h
    have hi : x.length - 1 - i < x.length := by omega
    simp [shfElems, shfElem, hi])

theorem exec_vshf {s : State} (h : s.core.busy.vec = 0) (c : VCtl) (d a b : VReg) (m : ShfMode) :
    exec (.vshf c d a b m) s = .next (s.vecWrites c d 3 (shfElems (s.vecIn c a) (s.vecIn c b) m)) := by
  rw [← settle_vecOut s c d 3 _ h]
  show settle s (effVshf c d a b m s) = _
  cases m with
  | zlo | zhi | rev => rfl
  | uev | uod =>
    simp only [effVshf, shfElems, shfElem, List.getElem?_append, apply_ite (fun o : Option Nat => o.getD 0)]

/-! ### vmvx, vins and vrng (R226, R265, R267) -/

theorem exec_vmvx {s : State} (h : s.core.busy.vec = 0) (f : Fmt) (d : XReg) (b : VReg) (n : Fin 512) :
    exec (.vmvx f d b n) s = .next
      ((s.vecIssued 1 []).issuesX d (fcvtBits f ((s.v b).toNat / 2 ^ (f.width * n.val) % 2 ^ f.width)) 3 false) := by
  show settle s (effVmvx f d b n s) = _
  rw [effVmvx, settle_vecIssue h, State.putX_eq, Nat.shiftRight_eq_div_pow, vmvxBits]
  by_cases hd : d = 0
  · simp [State.issuesX, hd, State.vecIssued, State.modCore]
  · simp [State.issuesX, hd, State.vecIssued, State.modCore, State.withFlight, State.scalarDest]

theorem exec_vins {s : State} (h : s.core.busy.vec = 0) (f : Fmt) (d : VReg) (r : XReg) (n : Fin 512) :
    exec (.vins f d r n) s = .next (s.vecIssued 1
      [fly (.vm d (BitVec.ofNat 1024 (((s.x r).toNat % 2 ^ f.width) <<< (f.width * n.val)))
        (BitVec.ofNat 1024 ((2 ^ f.width - 1) <<< (f.width * n.val)))) 2]) :=
  settle_vecIssue_put h 1 (fun _ => .vm d (BitVec.ofNat 1024 (((s.x r).toNat % 2 ^ f.width) <<< (f.width * n.val)))
    (BitVec.ofNat 1024 ((2 ^ f.width - 1) <<< (f.width * n.val)))) 2

/-- The rounds of a draw as a number (R226). -/
def rngCount : RngRounds → Nat
  | .n4 => 4
  | .n8 => 8
  | .n12 => 12

/-- The draw of lane l, with counter base and key from the words of va (R267). -/
def State.rngLane (s : State) (a : VReg) (n : RngRounds) (l : Nat) : Nat :=
  (rngc (BitVec.ofNat 64 (s.v a).toNat + BitVec.ofNat 64 l) (BitVec.ofNat 64 ((s.v a).toNat / 2 ^ 64)) (rngCount n)).toNat

theorem State.rngLane_lt (s : State) (a : VReg) (n : RngRounds) (l : Nat) : s.rngLane a n l < 2 ^ 64 := BitVec.isLt _

/-- The element that vrng makes of a draw y (R267). -/
def State.rngElem (s : State) (c : VCtl) (hi : Bool) (y : Nat) : Nat :=
  if c.fmt = .fp32 then s.vbits .fp32 false (.fin false (y / 2 ^ 8 % 2 ^ 24) (-24))
  else if hi then y / 2 ^ 32 else y % 2 ^ 32

theorem State.rngElem_int32 {c : VCtl} (hf : c.fmt = .int32) (s : State) (hi : Bool) {y : Nat} (h : y < 2 ^ 64) :
    s.rngElem c hi y = y / (if hi then 2 ^ 32 else 1) % 2 ^ 32 := by
  rw [State.rngElem, if_neg (by simp [hf])]
  cases hi with
  | false => rw [if_neg Bool.false_ne_true, if_neg Bool.false_ne_true, Nat.div_one]
  | true => rw [if_pos rfl, if_pos rfl, Nat.mod_eq_of_lt (by omega)]

theorem State.rngElem_fp32 {c : VCtl} (hf : c.fmt = .fp32) (s : State) (hi : Bool) (y : Nat) :
    s.rngElem c hi y = s.elemOf c false (.fin false (y / 2 ^ 8 % 2 ^ 24) (-24)) := by
  rw [State.rngElem, if_pos hf, State.elemOf, hf]
  rfl

/-- The elements that vrng writes, one for each 32-bit lane of its run. -/
def State.rngElems (s : State) (c : VCtl) (a : VReg) (n : RngRounds) (hi : Bool) : List Nat :=
  (List.range (32 * (c.beats.val + 1))).map (fun l => s.rngElem c hi (s.rngLane a n l))

@[simp] theorem State.length_rngElems (s : State) (c : VCtl) (a : VReg) (n : RngRounds) (hi : Bool) :
    (s.rngElems c a n hi).length = 32 * (c.beats.val + 1) := by simp [State.rngElems]

theorem State.rngElems_getD {s : State} {c : VCtl} {a : VReg} {n : RngRounds} {hi : Bool} {l : Nat}
    (h : l < (s.rngElems c a n hi).length) : (s.rngElems c a n hi)[l]?.getD 0 = s.rngElem c hi (s.rngLane a n l) := by
  simp only [State.length_rngElems] at h
  simp [State.rngElems, h]

/-- vrng behind a feature mask that lets it pass (R399). -/
theorem exec_vrng {s : State} (h : s.core.busy.vec = 0) (hm : s.featureMask.getLsbD 5 = false) (c : VCtl) (d a : VReg)
    (n : RngRounds) (hi : Bool) :
    exec (.vrng c d a n hi) s = .next (s.vecWrites c d 6 (s.rngElems c a n hi)) := by
  have hs : s.static67 (.vrng c d a n hi) = none := by
    simp only [State.static67, Instr.feature, Instr.privileged, hm, Bool.false_eq_true, if_false]
  show settle s (effVrng c d a n hi s) = _
  rw [effVrng, State.guarded_passed hs, ← settle_vecOut s c d 6 _ h]
  cases n with
  | n4 | n8 | n12 =>
    simp only [drawVrng, Nat.shiftRight_eq_div_pow]
    rfl

end Sys2Proof.Machine

open Sys2Proof.Machine

/-- Settles O34: one lemma for each of the eight instructions. -/
theorem vectorDataMovement : Obligations.VectorDataMovement := by
  intro s h
  refine ⟨?vcmp, ?vcvt, exec_vred h, exec_vdot h, ?rev, ?vshf, exec_vmvx h, exec_vins h, ?vrng⟩
  case vcmp =>
    intro q z f d a b cond
    exact ⟨_, fun l hl => getLsbD_laneHolds s q f a b cond hl, exec_vcmp h q z f d a b cond⟩
  case vcvt =>
    intro c d a t r sat hc _
    exact exec_vcvt h hc d a t r sat
  case rev =>
    intro c d a b
    rw [exec_vshf h, shfElems_rev]
  case vshf =>
    intro c d a b m
    refine ⟨_, length_shfElems .., ?_, ?_, ?_, ?_, exec_vshf h c d a b m⟩
    all_goals
      rintro i hi rfl
      rw [shfElems_getD hi]
      simp only [shfElem, length_shfElems]
  case vrng =>
    intro c d a n hi hm
    refine ⟨_, s.length_rngElems c a n hi, exec_vrng h hm c d a n hi, fun hf l hl => ?_, fun hf l hl => ?_⟩
    · rw [State.rngElems_getD hl, State.rngElem_int32 hf _ _ (s.rngLane_lt a n l)]
      cases n with
      | n4 | n8 | n12 => rfl
    · rw [State.rngElems_getD hl, State.rngElem_fp32 hf]
      cases n with
      | n4 | n8 | n12 => rfl
end
section
/-! PROOFS. Operations on the bits of vectors, and the permutation of elements (R251, R254, R256, R263, R265, R266). -/

open Sys2Proof

namespace Sys2Proof.Machine

/-! ### A run and its elements (R251) -/

/-- The registers of a vector format hold whole elements. -/
theorem Fmt.width_mul_elems {f : Fmt} (h : f.isVec = true) (b : Nat) : f.width * (1024 / f.width * b) = 1024 * b := by
  rcases Fmt.width_of_isVec h with hw | hw | hw
  all_goals rw [hw]; omega

theorem Fmt.elems_pos {f : Fmt} (h : f.isVec = true) (n : Nat) : 0 < 1024 / f.width * (n + 1) := by
  rcases Fmt.width_of_isVec h with hw | hw | hw
  all_goals rw [hw]; omega

theorem State.run_succ (s : State) (r : VReg) (b : Nat) :
    s.run r (b + 1) = s.run r b + (s.v (Fin.ofNat 32 (r.val + b))).toNat * 2 ^ (1024 * b) := by
  rw [State.run, List.range_succ, List.foldl_append, List.foldl_cons, List.foldl_nil, Nat.shiftLeft_eq]
  rfl

/-- A run of b registers has 1,024 bits for each of them. -/
theorem State.run_lt (s : State) (r : VReg) (b : Nat) : s.run r b < 2 ^ (1024 * b) := by
  induction b with
  | zero => exact Nat.one_pos
  | succ b ih =>
    have hv := Nat.mul_le_mul_right (2 ^ (1024 * b)) (Nat.succ_le_of_lt (s.v (Fin.ofNat 32 (r.val + b))).isLt)
    rw [State.run_succ, Nat.mul_succ, Nat.pow_add, Nat.mul_comm (2 ^ (1024 * b))]
    rw [Nat.succ_mul] at hv
    omega

theorem elems_eq_map_range (w b x : Nat) :
    elems w b x = (List.range (1024 / w * b)).map (fun e => x / 2 ^ (w * e) % 2 ^ w) := by
  simp only [elems, Nat.shiftRight_eq_div_pow]

@[simp] theorem length_elems (w b x : Nat) : (elems w b x).length = 1024 / w * b := by simp [elems]

theorem elems_getD {w b e : Nat} (h : e < 1024 / w * b) (x : Nat) : (elems w b x)[e]?.getD 0 = x / 2 ^ (w * e) % 2 ^ w := by
  simp [elems_eq_map_range, h]

@[simp] theorem State.length_vecIn (s : State) (c : VCtl) (r : VReg) :
    (s.vecIn c r).length = 1024 / c.fmt.width * (c.beats.val + 1) := length_elems ..

theorem State.mem_vecIn_lt {s : State} {c : VCtl} {r : VReg} {x : Nat} (h : x ∈ s.vecIn c r) : x < 2 ^ c.fmt.width := by
  obtain ⟨e, -, rfl⟩ := List.mem_map.mp h
  exact Nat.mod_lt _ (Nat.two_pow_pos _)

/-- Packing the first n elements of a number gives back the bits that they cover. -/
theorem packElems_map_range (w n x : Nat) :
    packElems w ((List.range n).map (fun e => x / 2 ^ (w * e) % 2 ^ w)) = x % 2 ^ (w * n) := by
  induction n generalizing x with
  | zero => simp [packElems, Nat.mod_one]
  | succ n ih =>
    have htail : (fun e => x / 2 ^ (w * (e + 1)) % 2 ^ w) = (fun e => x / 2 ^ w / 2 ^ (w * e) % 2 ^ w) := by
      funext e
      rw [Nat.div_div_eq_div_mul, ← Nat.pow_add, Nat.mul_succ, Nat.add_comm]
    rw [List.range_succ_eq_map, List.map_cons, List.map_map, packElems, Nat.mul_succ, Nat.add_comm (w * n), Nat.pow_add,
      Nat.mod_mul, ← ih, ← htail, Nat.shiftLeft_eq, Nat.mul_comm (2 ^ w)]
    simp [Function.comp_def]

/-- A run is the packing of its elements in a vector format. -/
theorem packElems_elems {f : Fmt} (hf : f.isVec = true) {b x : Nat} (hx : x < 2 ^ (1024 * b)) :
    packElems f.width (elems f.width b x) = x := by
  rw [elems_eq_map_range, packElems_map_range, Fmt.width_mul_elems hf, Nat.mod_eq_of_lt hx]

/-! ### Operations on whole runs (R254) -/

/-- Every field of bits of the result is the operation on the same fields of the operands. -/
def ActsOnFields (op : Nat → Nat → Nat) : Prop :=
  ∀ x y k w, op x y >>> k % 2 ^ w = op (x >>> k % 2 ^ w) (y >>> k % 2 ^ w)

theorem actsOnFields_and : ActsOnFields (fun x y => x &&& y) := fun _ _ _ _ => by
  rw [Nat.shiftRight_and_distrib, Nat.and_mod_two_pow]

theorem actsOnFields_or : ActsOnFields (fun x y => x ||| y) := fun _ _ _ _ => by
  rw [Nat.shiftRight_or_distrib, Nat.or_mod_two_pow]

theorem actsOnFields_xor : ActsOnFields (fun x y => x ^^^ y) := fun _ _ _ _ => by
  rw [Nat.shiftRight_xor_distrib, Nat.xor_mod_two_pow]

theorem ActsOnFields.lt_two_pow {op : Nat → Nat → Nat} (h : ActsOnFields op) {x y n : Nat} (hx : x < 2 ^ n) (hy : y < 2 ^ n) :
    op x y < 2 ^ n := by
  have hall := h x y 0 n
  rw [Nat.shiftRight_zero, Nat.shiftRight_zero, Nat.shiftRight_zero, Nat.mod_eq_of_lt hx, Nat.mod_eq_of_lt hy] at hall
  exact hall ▸ Nat.mod_lt _ (Nat.two_pow_pos n)

/-- Such an operation on elements is the operation on the runs. -/
theorem ActsOnFields.zipWith_elems {op : Nat → Nat → Nat} (h : ActsOnFields op) (w b x y : Nat) :
    List.zipWith op (elems w b x) (elems w b y) = elems w b (op x y) := by
  rw [elems, elems, elems, List.zipWith_map, List.zipWith_self]
  simp only [h x y]

theorem State.vecBits_of_actsOnFields {op : Nat → Nat → Nat} (h : ActsOnFields op) (s : State) (c : VCtl) (d a b : VReg) :
    s.vecBits c d a b op = s.vecOut c d 2 (elems c.fmt.width (c.beats.val + 1)
      (op (s.run a (c.beats.val + 1)) (s.run b (c.beats.val + 1)))) := by
  rw [State.vecBits, State.vecIn, State.vecIn, h.zipWith_elems]

theorem State.vecRunBits_lt {i : Instr} {s : State} {c : VCtl} {d : VReg} {bits : Nat} (h : s.vecRunBits i = some (c, d, bits)) :
    bits < 2 ^ (1024 * (c.beats.val + 1)) := by
  cases i with
  | vand c d a b => cases h; exact actsOnFields_and.lt_two_pow (s.run_lt a _) (s.run_lt b _)
  | vor c d a b => cases h; exact actsOnFields_or.lt_two_pow (s.run_lt a _) (s.run_lt b _)
  | vxor c d a b => cases h; exact actsOnFields_xor.lt_two_pow (s.run_lt a _) (s.run_lt b _)
  | vmov c d a => cases h; exact s.run_lt a _
  | _ => cases h

/-- An instruction on whole runs writes the elements of the run of bits that the vocabulary gives it. -/
theorem exec_vecRunBits {i : Instr} {s : State} {c : VCtl} {d : VReg} {bits : Nat} (h : s.vecRunBits i = some (c, d, bits)) :
    exec i s = settle s (s.vecOut c d 2 (elems c.fmt.width (c.beats.val + 1) bits)) := by
  cases i with
  | vand c d a b => cases h; exact congrArg (settle s) (s.vecBits_of_actsOnFields actsOnFields_and c d a b)
  | vor c d a b => cases h; exact congrArg (settle s) (s.vecBits_of_actsOnFields actsOnFields_or c d a b)
  | vxor c d a b => cases h; exact congrArg (settle s) (s.vecBits_of_actsOnFields actsOnFields_xor c d a b)
  | vmov => cases h; rfl
  | _ => cases h

/-! ### Operations on the bits of elements (R254, R256, R265, R266) -/

/-- Below 2^w the model's signed shift is that of words of w bits. -/
theorem sraBits_eq_sshiftRight {w x n : Nat} (hx : x < 2 ^ w) (hn : n < w) :
    sraBits w x n = ((BitVec.ofNat w x).sshiftRight n).toNat := by
  have hpow : 2 ^ w = 2 ^ n * 2 ^ (w - n) := by rw [← Nat.pow_add, Nat.add_sub_cancel' hn.le]
  have hmsb : (BitVec.ofNat w x).msb = decide (x / 2 ^ (w - 1) % 2 = 1) := by
    rw [BitVec.msb_eq_getLsbD_last, BitVec.getLsbD_ofNat, Nat.testBit_eq_decide_div_mod_eq, decide_eq_true (by omega),
      Bool.true_and]
  rw [BitVec.toNat_sshiftRight, BitVec.toNat_ofNat, Nat.mod_eq_of_lt hx, sraBits, hmsb]
  simp only [decide_eq_true_eq, Nat.shiftRight_eq_div_pow]
  split
  case isFalse => rfl
  case isTrue =>
    have hq : x / 2 ^ n < 2 ^ (w - n) := Nat.div_lt_of_lt_mul (hpow ▸ hx)
    have hle : 2 ^ (w - n) ≤ 2 ^ w := Nat.pow_le_pow_right Nat.two_pos (Nat.sub_le w n)
    have hcompl : (2 ^ w - 1 - x) / 2 ^ n = 2 ^ (w - n) - (x / 2 ^ n + 1) := by
      rw [Nat.sub_sub, Nat.add_comm 1, hpow, Nat.mul_sub_div _ _ _ (hpow ▸ hx)]
    rw [hcompl, Nat.sub_mul, ← hpow, Nat.one_mul]
    generalize x / 2 ^ n = q at hq ⊢
    omega

/-- A selection between two lists of one length, element by element. -/
theorem zip_zipIdx_map_select {x y : List Nat} {n : Nat} (hx : x.length = n) (hy : y.length = n) (act : Nat → Bool) :
    (List.zip x y).zipIdx.map (fun p => if act p.2 then p.1.1 else p.1.2) =
      (List.range n).map (fun e => if act e then x[e]?.getD 0 else y[e]?.getD 0) :=
  List.ext_getElem (by simp [hx, hy]) (fun e he _ => by
    have hex : e < x.length := by simp only [List.length_map, List.length_zipIdx, List.length_zip] at he; omega
    have hey : e < y.length := by omega
    simp [hex, hey])

/-- vsra writes the signed shifts of its elements (log entry 21). -/
theorem State.vsra_elements {c : VCtl} (hc : c.fmt.isVec = true) (s : State) (a b : VReg) :
    List.zipWith (fun x y => sraBits c.fmt.width x (y % c.fmt.width)) (s.vecIn c a) (s.vecIn c b) =
      List.zipWith (fun x y => ((BitVec.ofNat c.fmt.width x).sshiftRight (y % c.fmt.width)).toNat)
        (s.vecIn c a) (s.vecIn c b) := by
  have hw : 0 < c.fmt.width := by rcases Fmt.width_of_isVec hc with hw | hw | hw <;> omega
  refine List.ext_getElem (by simp) (fun e he _ => ?_)
  simp only [List.getElem_zipWith]
  exact sraBits_eq_sshiftRight (State.mem_vecIn_lt (List.getElem_mem _)) (Nat.mod_lt _ hw)

theorem exec_vecElemBits {i : Instr} {s : State} {c : VCtl} {d : VReg} {es : List Nat}
    (h : s.vecElemBits i = some (c, d, es)) (hc : c.fmt.isVec = true) : exec i s = settle s (s.vecOut c d 2 es) := by
  cases i with
  | vshl c d a b =>
    cases h
    show settle s (effVshl c d a b s) = _
    simp only [effVshl, State.vecBits, Nat.shiftLeft_eq]
  | vshr c d a b =>
    cases h
    show settle s (effVshr c d a b s) = _
    simp only [effVshr, State.vecBits, Nat.shiftRight_eq_div_pow]
  | vsra c d a b =>
    cases h
    show settle s (effVsra c d a b s) = _
    rw [effVsra, State.vecBits, State.vsra_elements hc]
  | vsel c d a b qs =>
    cases h
    show settle s (effVsel c d a b qs s) = _
    rw [effVsel, zip_zipIdx_map_select (s.length_vecIn c a) (s.length_vecIn c b)]
  | vbcs | vlit => cases h; rfl
  | _ => cases h

/-! ### vperm (R263) -/

/-- The element that an index picks is one of the run's, since the index is taken modulo their number. -/
theorem State.vperm_elements {c : VCtl} (hc : c.fmt.isVec = true) (s : State) (a b : VReg) :
    (s.vecIn c b).map (fun i => (s.vecIn c a)[i % (s.vecIn c a).length]?.getD 0) =
      (List.range (1024 / c.fmt.width * (c.beats.val + 1))).map (fun e =>
        s.run a (c.beats.val + 1) /
          2 ^ (c.fmt.width * ((s.run b (c.beats.val + 1) / 2 ^ (c.fmt.width * e) % 2 ^ c.fmt.width) %
            (1024 / c.fmt.width * (c.beats.val + 1)))) % 2 ^ c.fmt.width) := by
  have hpos := Fmt.elems_pos hc c.beats.val
  rw [State.length_vecIn, State.vecIn, State.vecIn, elems_eq_map_range _ _ (s.run b _), List.map_map]
  exact List.map_congr_left (fun e _ => elems_getD (Nat.mod_lt _ hpos) _)

end Sys2Proof.Machine

open Sys2Proof.Machine

/-- Settles O33: the whole runs are packed from their elements again, and the elements are those of the vocabulary. -/
theorem vectorBitOperations : Obligations.VectorBitOperations := by
  refine ⟨?runs, ?elements⟩
  case runs =>
    intro i s c d bits h hc hidle
    rw [exec_vecRunBits h, settle_vecOut s c d 2 _ hidle, State.vecWrites, packElems_elems hc (State.vecRunBits_lt h)]
  case elements =>
    intro i s c d es h hc hidle
    rw [exec_vecElemBits h hc, settle_vecOut s c d 2 es hidle]

/-- Settles O35: an index modulo the number of elements picks an element of the run. -/
theorem vectorPermute : Obligations.VectorPermute := by
  intro s c d a b hc hidle
  rw [← State.vperm_elements hc, ← settle_vecOut s c d 3 _ hidle]
  rfl
end
section
/-! PROOFS. Division (R50, R52, R270), hardware loops (R281, R282), and the traps of brk and trap (R288, R369, R370, R372). -/

open Sys2Proof

namespace Sys2Proof.Machine

/-! ### Quotients and remainders (R269, R270) -/

theorem divOf_eq (a b : Word) : divOf a b = signedQuotient a b := by
  have hq : BitVec.ofInt 64 (a.toInt.tdiv b.toInt) = a.sdiv b :=
    BitVec.eq_of_toInt_eq (by rw [BitVec.toInt_ofInt, BitVec.toInt_sdiv])
  rw [divOf, hq]
  rfl

theorem divuOf_eq (a b : Word) : divuOf a b = unsignedQuotient a b := by
  have hq : BitVec.ofNat 64 (a.toNat / b.toNat) = a / b := by
    rw [← BitVec.toNat_udiv, BitVec.ofNat_toNat, BitVec.setWidth_eq]
  rw [divuOf, hq]
  rfl

theorem remOf_eq (a b : Word) : remOf a b = signedRemainder a b := by
  have hr : BitVec.ofInt 64 (a.toInt.tmod b.toInt) = a.srem b := by
    rw [← BitVec.toInt_srem, BitVec.ofInt_toInt]
  rw [remOf, hr]
  rfl

theorem remuOf_eq (a b : Word) : remuOf a b = unsignedRemainder a b := by
  have hr : BitVec.ofNat 64 (a.toNat % b.toNat) = a % b := by
    rw [← BitVec.toNat_umod, BitVec.ofNat_toNat, BitVec.setWidth_eq]
  rw [remuOf, hr]
  rfl

/-! ### The divider of an alu slot (R52) -/

theorem exec_integerDivide {i : Instr} {s : State} {d : XReg} {v : Word} (h : s.integerDivide i = some (d, v)) :
    exec i s = settle s (s.aluDiv d v) := by
  cases i with
  | div | divImm | divLit => cases h; rw [← divOf_eq]; rfl
  | divu | divuImm | divuLit => cases h; rw [← divuOf_eq]; rfl
  | rem | remImm | remLit => cases h; rw [← remOf_eq]; rfl
  | remu | remuImm | remuLit => cases h; rw [← remuOf_eq]; rfl
  | _ => cases h

/-- An idle divider takes the division and is busy until its result lands. -/
theorem settle_aluDiv_idle {s : State} (hidle : s.divBusy = 0) (d : XReg) (v : Word) :
    settle s (s.aluDiv d v) = .next (s.startDiv.issuesX d v 24 false) := by
  rw [State.aluDiv, if_pos hidle, settle_ok, State.putX_eq]

/-! ### Entries of the loop stack (R281) -/

/-- The address of the bundle n after the issuing one. -/
theorem State.ahead_natCast (s : State) (n : Nat) : s.ahead n = BitVec.ofNat 64 (s.core.pc.toNat + 64 * n) := by
  have := s.ahead_toNat n
  apply BitVec.eq_of_toNat_eq
  rw [BitVec.toNat_ofNat]
  omega

theorem State.ahead_natCast_toNat {s : State} {n : Nat} (h : s.core.pc.toNat + 64 * n < 2 ^ 48) :
    (s.ahead n).toNat = s.core.pc.toNat + 64 * n := by
  rw [State.ahead_natCast, BitVec.toNat_ofNat]
  omega

theorem State.ahead_natCast_setWidth (s : State) (n : Nat) :
    (s.ahead n).setWidth 48 = BitVec.ofNat 48 (s.core.pc.toNat + 64 * n) := by
  rw [State.ahead_natCast, BitVec.setWidth_ofNat_of_le (by decide)]

/-- loop and loopr push an entry with their count. -/
theorem exec_loop_loopr {i : Instr} {s : State} {n : Word32} {len : Fin 64}
    (h : (∃ k : BitVec 14, i = .loop k len ∧ n = k.setWidth 32) ∨ (∃ r, i = .loopr r len ∧ n = (s.x r).setWidth 32)) :
    exec i s = settle s (s.pushLoop n (len.val + 1)) := by
  rcases h with ⟨k, rfl, rfl⟩ | ⟨r, rfl, rfl⟩
  · rfl
  · rfl

section
variable {s : State} {n : Word32} {len : Nat}

theorem State.pushLoop_full (h : 6 ≤ s.core.loops.length) : s.pushLoop n len = s.faultInfo 10 Cause.loopOverflow 1 := by
  rw [State.pushLoop, if_pos h]

theorem State.pushLoop_beyond {e : LoopEntry} {rest : List LoopEntry} (hroom : s.core.loops.length < 6)
    (hl : s.core.loops = e :: rest) (hlast : e.last.toNat < s.core.pc.toNat + 64 * len)
    (hr : s.core.pc.toNat + 64 * len < 2 ^ 48) : s.pushLoop n len = s.faultInfo 10 Cause.loopOverflow 2 := by
  have hpast : e.last.toNat < (s.ahead len).toNat := by rwa [State.ahead_natCast_toNat hr]
  rw [State.pushLoop, if_neg (by omega), if_pos (by simpa [hl] using hpast)]

variable (hroom : s.core.loops.length < 6) (hin : ∀ e ∈ s.core.loops.head?, s.core.pc.toNat + 64 * len ≤ e.last.toNat)
  (hr : s.core.pc.toNat + 64 * (len + 1) < 2 ^ 48)
include hroom hin hr

/-- With room on the stack and a body inside the one around it, the count decides. -/
theorem State.pushLoop_fits : s.pushLoop n len = if n = 0 then s.transfer (s.ahead (len + 1))
    else .ok (s.modCore (fun c => { c with
      loops := { first := (s.ahead 1).setWidth 48, last := (s.ahead len).setWidth 48, count := n, index := 0 } :: c.loops })) := by
  have hlast : (s.ahead len).toNat = s.core.pc.toNat + 64 * len := State.ahead_natCast_toNat (by omega)
  rw [State.pushLoop, if_neg (by omega), if_neg]
  cases hl : s.core.loops.head? with
  | none => exact Bool.false_ne_true
  | some e => simpa [hlast] using hin e hl

/-- A count of 0 goes past the body. -/
theorem settle_pushLoop_zero (ha : s.core.pc.toNat % 64 = 0) :
    settle s (s.pushLoop 0 len) = .next (s.takes (BitVec.ofNat 48 (s.core.pc.toNat + 64 * (len + 1)))) := by
  have hcast : ((len : Int) + 1) = (len + 1 : Nat) := rfl
  rw [State.pushLoop_fits hroom hin hr, if_pos rfl, hcast,
    State.transfer_taken (State.ahead_aligned ha _) (by rwa [State.ahead_natCast_toNat hr]), settle_ok,
    State.ahead_natCast_setWidth]

theorem settle_pushLoop_entry (hn : n ≠ 0) :
    settle s (s.pushLoop n len) = .next { s with core := { s.core with
      loops := { first := BitVec.ofNat 48 (s.core.pc.toNat + 64), last := BitVec.ofNat 48 (s.core.pc.toNat + 64 * len),
                 count := n, index := 0 } :: s.core.loops } } := by
  have hfirst : (s.ahead 1).setWidth 48 = BitVec.ofNat 48 (s.core.pc.toNat + 64) := s.ahead_natCast_setWidth 1
  rw [State.pushLoop_fits hroom hin hr, if_neg hn, settle_ok, hfirst, State.ahead_natCast_setWidth]
  rfl

end

/-! ### Leaving a loop (R282) -/

theorem exec_lbrk_nil {s : State} (h : s.core.loops = []) : exec .lbrk s = .next s := by
  show settle s (effLbrk s) = _
  rw [effLbrk, h, settle_ok]

theorem exec_lbrk_cons {s : State} {e : LoopEntry} {rest : List LoopEntry} (h : s.core.loops = e :: rest)
    (ha : e.last.toNat % 64 = 0) (hr : e.last.toNat + 64 < 2 ^ 48) :
    exec .lbrk s = .next ((s.takes (e.last + 64)).modCore (fun c => { c with loops := rest })) := by
  have hnext : (e.last.setWidth 64 + 64).toNat = e.last.toNat + 64 := by
    rw [BitVec.toNat_add, BitVec.toNat_setWidth, show (64 : Word).toNat = 64 from rfl]
    omega
  have hwidth : (e.last.setWidth 64 + 64).setWidth 48 = e.last + 64 := by
    rw [BitVec.setWidth_add _ _ (by decide), BitVec.setWidth_setWidth_of_le _ (by decide), BitVec.setWidth_eq]
    rfl
  show settle s (effLbrk s) = _
  rw [effLbrk, h]
  dsimp only
  rw [State.transfer_taken (by omega) (by omega), hwidth, Eff.bind, settle_ok]

/-! ### Traps outside handler mode (R370) -/

section
variable {s : State} {cause : BitVec 6} {info : Word}

/-- brk and trap take their trap, with their 16 bits in FAULT.INFO (R288). -/
theorem exec_brk_trap {i : Instr} {k : BitVec 16}
    (h : i = .brk k ∧ cause = Cause.breakpoint ∨ i = .trap k ∧ cause = Cause.software) :
    exec i s = .next (s.takeTrap cause (k.setWidth 64) s.core.pc) := by
  rcases h with ⟨rfl, rfl⟩ | ⟨rfl, rfl⟩
  · exact settle_faultInfo s s 10 Cause.breakpoint _ (by decide)
  · exact settle_faultInfo s s 10 Cause.software _ (by decide)

/-- A trap is entered where every load that is out can arrive now. -/
theorem State.takeTrap_arrived (hh : s.core.sys.hnd = false) (hd : s.arriveLoads.core.awaitsData = false) (pc : CodeAddr) :
    s.takeTrap cause info pc = s.arriveLoads.enterTrap cause info pc := by
  simp only [State.takeTrap, hh, hd, Bool.false_eq_true, if_false]

/-- Else it holds the core until the data is here. -/
theorem State.takeTrap_waits (hh : s.core.sys.hnd = false) (hd : s.arriveLoads.core.awaitsData = true) (pc : CodeAddr) :
    s.takeTrap cause info pc = s.arriveLoads.modCore (fun c =>
      { c with hold := .entering cause info pc c.hold false, issue := Issue.none }) := by
  simp only [State.takeTrap, hh, hd, Bool.false_eq_true, if_false, if_true]

/-- The arrival of loads touches nothing that a trap saves or leaves alone. -/
theorem State.OnlyLoads.trapped_enterTrap {t : State} (h : s.OnlyLoads t) :
    s.trapped (t.enterTrap cause info s.core.pc) cause info := by
  obtain ⟨remote, flight, late, hcore⟩ := h
  simp only [State.trapped, State.enterTrap, State.modCore, hcore, trapEntryAddr, entryCause, and_self]

/-! ### A trap that has waited is entered (R370, R373) -/

/-- No event of a boundary comes before the entry of a trap. -/
theorem State.nextEvent_entering (hrun : s.core.run = .running) (hdue : s.core.due = 0) (hent : s.core.entering = true) :
    s.unquiet.nextEvent = none := by
  have hcore : s.unquiet.core = s.core := rfl
  simp [State.nextEvent, State.boundary, hcore, hrun, hdue, hent]

theorem State.enterStep_entered (hremote : s.core.remote = []) (hdata : s.core.awaitsData = false) (parked : Hold) :
    s.enterStep cause info s.core.pc parked false = (s.held parked).entered cause info := by
  simp only [State.enterStep, State.arriveLoads_quiet s hremote, hdata, Bool.false_eq_true, if_false]
  rfl

/-- Once the data has come, a trap without a rollback is entered. -/
theorem step_enters {parked : Hold} (hoff : s.off = false) (hag : s.agenda = []) (hstill : s.progress = s)
    (hrun : s.core.run = .running) (hdue : s.core.due = 0)
    (hhold : s.core.hold = .entering cause info s.core.pc parked false) (hremote : s.core.remote = [])
    (hdata : s.core.awaitsData = false) : step s = .next ((s.held parked).entered cause info) := by
  have hevent := State.nextEvent_entering hrun hdue (by simp [Core.entering, hhold])
  have hother : s.otherwise = (s.held parked).entered cause info := by
    rw [State.otherwise, if_pos ⟨hrun, by simp [hhold]⟩, State.holdStep, hhold]
    exact State.enterStep_entered hremote hdata parked
  have hmove : (s.held parked).entered cause info ≠ s := fun heq => by
    have hfree : ((s.held parked).entered cause info).core.hold = .none := rfl
    simp [heq, hhold] at hfree
  simp only [step, hoff, hag, State.turn, hstill, State.coreTurn, hevent, hother, hmove, if_true, if_false, Bool.false_eq_true]

end

end Sys2Proof.Machine

open Sys2Proof.Machine

/-- Settles O19: the rows of R269 on an idle divider, and the corner values of R270. -/
theorem divisionNeverTraps : Obligations.DivisionNeverTraps := by
  refine ⟨fun i s d v h h0 h1 => ?_, fun a => ⟨rfl, rfl, rfl, rfl⟩, by decide, by decide⟩
  have hidle : s.divBusy = 0 := by
    rw [State.divBusy]
    split
    next hslot => exact h0 hslot
    next hslot => exact h1 hslot
  rw [exec_integerDivide h, settle_aluDiv_idle hidle]
  rfl

/-- Settles O46: the checks of a push in their order, the entry or the transfer past the body, and the end of the innermost loop. -/
theorem loopsPushAndBreak : Obligations.LoopsPushAndBreak := by
  intro i s n len h ha hr
  rw [exec_loop_loopr h]
  refine ⟨fun hfull => ?_, fun e rest hroom hl hlast => ?_, fun hroom hin => ⟨?_, fun hn => ?_⟩, exec_lbrk_nil,
    fun e rest hl => exec_lbrk_cons hl⟩
  · rw [State.pushLoop_full hfull, settle_faultInfo _ _ _ _ _ (by decide)]
  · rw [State.pushLoop_beyond hroom hl hlast (by omega), settle_faultInfo _ _ _ _ _ (by decide)]
  · rintro rfl
    exact settle_pushLoop_zero hroom hin hr ha
  · exact settle_pushLoop_entry hroom hin hr hn

/-- Settles O48: the trap of either instruction, entered at once, after its wait, or not at all in handler mode. -/
theorem trapsEnterTheHandler : Obligations.TrapsEnterTheHandler := by
  intro i s cause k h
  rw [exec_brk_trap h]
  refine ⟨fun hh hremote hdata => ?_, fun hh hdata => ⟨_, rfl, ?_⟩, fun hh hdata => ⟨_, rfl, ?_⟩, fun _ _ => step_enters,
    fun hh => ?_⟩
  · rw [State.takeTrap_program s _ _ hh hremote hdata]
  · rw [State.takeTrap_arrived hh hdata]
    exact s.arriveLoads_onlyLoads.trapped_enterTrap
  · obtain ⟨remote, flight, late, hcore⟩ := s.arriveLoads_onlyLoads
    rw [State.takeTrap_waits hh hdata]
    simp only [State.modCore, hcore, and_self]
  · rw [State.takeTrap_stopped _ _ _ hh]
end
section
/-! PROOFS. The head of the agenda (R373, R396), and the return from handler mode by rte and xbnd (R372 to R375). -/

open Sys2Proof

namespace Sys2Proof.Machine

/-! ### Pod time passes (R353, R404) -/

/-- Without a resident task no core is noted as one that holds still. -/
theorem State.noteQuiet_unloaded {s : State} (h : s.launch.resident = []) :
    s.noteQuiet = { s with launch := { s.launch with quiet := [] } } := by
  have hnone : (s.launch.resident.map Task.needs).flatten.filter s.still = [] := by rw [h]; rfl
  rw [State.noteQuiet, hnone]
  rfl

section
variable {s : State} (h : s.fabric.reservations = [])
include h

theorem State.reservationOf_unreserved (t : Transfer) : s.reservationOf t = none := by
  rw [State.reservationOf, h, List.find?_nil]

/-- A send is missed in a reserved slot only. -/
theorem State.missed_unreserved (tries : Nat) (slot : Reservation → Nat) : s.missed tries slot = [] := by
  simp [State.missed, State.reservationOf_unreserved h]

theorem State.lapse_unreserved : s.lapse = s := by
  have hsent : s.sendPassed = s := by
    simp only [State.sendPassed, State.missed_unreserved h, List.foldl_nil]
  rw [State.lapse, hsent, h, List.filter_nil, List.foldl_nil]

theorem State.passTime_idle (hres : s.launch.resident = []) (dt : Nat) :
    s.passTime dt = { s with podTime := s.podTime + BitVec.ofNat 64 dt, launch := { s.launch with quiet := [] } } := by
  rw [State.passTime, State.noteQuiet_unloaded hres]
  exact State.lapse_unreserved h

end

/-! ### The head of the agenda (R396) -/

/-- An item of a slot, and one of the kernel before the kernel runs, only begins. -/
theorem step_agenda {s : State} {a : AgendaItem} {rest : List AgendaItem} (hoff : s.off = false)
    (hag : s.agenda = a :: rest) :
    step s = if a.act.inSlot = true ∨ kernelEvent a.act = true ∧ s.malt.root.started = false then .next (s.begin a rest)
      else exec a.act (s.begin a rest) := by
  simp only [step, hoff, hag, Bool.false_eq_true, if_false, Bool.or_eq_true, Bool.and_eq_true, Bool.not_eq_true']

/-! ### rte and xbnd in handler mode (R374, R375) -/

section
variable {s : State} (hh : s.core.sys.hnd = true)
include hh

/-- In handler mode an instruction of handler mode passes steps 6 and 7, where it has no feature bit. -/
theorem State.static67_handler {i : Instr} (hf : i.feature = none) (hp : i.privileged true = false) : s.static67 i = none :=
  State.static67_unmasked hf (hh ▸ hp)

theorem exec_rte_handler : exec .rte s = .next (s.heldNext (.ret none)) :=
  settle_guarded_hold (State.static67_handler hh rfl rfl) _

variable {a : XReg} (hin : (s.x a).toNat < 2 ^ 22) (halign : (s.x a).toNat % 64 = 0)
include hin halign

theorem exec_xbnd_spill (h : s.core.inSpill (s.x a).toNat 64 = true) :
    exec (.xbnd a) s = .next (s.stoppedOn Cause.protection) := by
  have hs : s.static67 (.xbnd a) = none := State.static67_handler hh rfl rfl
  show settle s (effXbnd a s) = _
  simp only [effXbnd, Nat.not_le.2 hin, halign, h, if_false, if_true, ne_eq, not_true_eq_false]
  rw [settle_guarded_protection hs, State.takeTrap_stopped _ _ _ hh]

theorem exec_xbnd_block (h : s.core.inSpill (s.x a).toNat 64 = false) :
    exec (.xbnd a) s = .next ((s.block (s.x a) 64).1.heldNext (.ret (some
      (BitVec.ofNat 512 (ofLe (s.block (s.x a) 64).2))))) := by
  have hs : s.static67 (.xbnd a) = none := State.static67_handler hh rfl rfl
  show settle s (effXbnd a s) = _
  simp only [effXbnd, Nat.not_le.2 hin, halign, h, if_false, ne_eq, not_true_eq_false, Bool.false_eq_true]
  rw [settle_guarded_ok hs, State.holdNext_eq]
  rfl

end

/-! ### The handler is left (R372, R374, R375) -/

/-- The program goes on behind a handler that has no results of its own left, with the bundle that xbnd brought. -/
def State.resumed (s : State) (e : Option (BitVec 512)) : State :=
  { s with core := { s.core with
    flight := s.core.late, busy := s.core.lateBusy, late := [], lateBusy := Busy.none, due := 0, fresh := s.core.lateFresh,
    done := [], lateFresh := [], hold := s.core.parked, parked := .none, sys := { s.core.sys with hnd := false },
    pc := s.core.sys.trapPc, emul := e } }

/-- Without a fault of an evaluation, none is due in either mode. -/
theorem Core.evalDue_faultless {c : Core} (heval : c.evalFault = none) (hhnd : c.hndFault = none) : c.evalDue = false := by
  simp [Core.evalDue, Core.faultNow, heval, hhnd]

/-- Without commands in the engine, none has a fault to take. -/
theorem Core.faultedCmd_none {c : Core} (h : c.eng.cmds = []) : c.faultedCmd = none := by
  rw [Core.faultedCmd, h, List.find?_nil]

section
variable {s : State} {e : Option (BitVec 512)}

theorem State.leaveHandler_resumed (hflight : s.core.flight = []) :
    s.leaveHandler.modCore (fun c => { c with emul := e }) = s.resumed e := by
  have hland : s.landFlight = s.modCore (fun c => { c with flight := [] }) := by
    rw [State.landFlight, hflight]
    exact State.landAll_nil _
  rw [State.leaveHandler, hland]
  rfl

/-- Without results of the handler's own, its return waits for nothing. -/
theorem State.finishReturn_resumed (hflight : s.core.flight = []) (hremote : s.core.remote = []) :
    s.finishReturn e = (s.resumed e).takeHeld := by
  have hdata : s.core.awaitsData = false := by rw [Core.awaitsData, hflight, List.any_nil]
  simp only [State.finishReturn, State.arriveLoads_quiet s hremote, hdata, hflight, Bool.false_eq_true, if_false,
    List.find?_nil, State.leaveHandler_resumed hflight]

theorem State.takeHeld_none (hlate : s.core.lateTraps = []) : s.takeHeld = s := by
  rw [State.takeHeld, State.takeLate, hlate, ite_self]

/-- A held late trap that names no origin is entered from program mode, where no rollback comes first and no load is out. -/
theorem State.takeHeld_late {l : LateTrap} {rest : List LateTrap} (hh : s.core.sys.hnd = false) (heval : s.core.evalDue = false)
    (hcmd : s.core.faultedCmd = none) (hlate : s.core.lateTraps = l :: rest) (horigin : l.origin = none)
    (hremote : s.core.remote = []) (hdata : s.core.awaitsData = false) :
    s.takeHeld = (s.modCore (fun c => { c with lateTraps := rest })).entered l.cause l.info := by
  simp only [State.takeHeld, State.takeLate, heval, hcmd, hlate, hh, horigin, Option.isSome_none, Bool.or_self,
    Bool.false_eq_true, if_false]
  exact State.takeTrap_program _ _ _ hh hremote hdata

variable (hs : s.holding (.ret e)) (hflight : s.core.flight = []) (hremote : s.core.remote = [])
include hs hflight hremote

/-- Where something changes, the hold of rte and xbnd ends in one step. -/
theorem step_returns (hmove : (s.resumed e).takeHeld ≠ s) : step s = .next (s.resumed e).takeHeld := by
  have hgo : s.holdStep = (s.resumed e).takeHeld := by
    rw [State.holdStep, hs.isHeld]
    exact State.finishReturn_resumed hflight hremote
  have hent : s.core.entering = false := by rw [Core.entering, hs.isHeld]
  rw [← hgo] at hmove ⊢
  exact step_holding hs (fun h => nomatch h) hent hmove

/-- Without a late trap the program goes on: the parked hold is taken up, so that the state has changed. -/
theorem step_returns_program (hlate : s.core.lateTraps = []) : step s = .next (s.resumed e) := by
  have hheld : (s.resumed e).takeHeld = s.resumed e := State.takeHeld_none hlate
  rw [← hheld]
  refine step_returns hs hflight hremote (fun heq => ?_)
  rw [hheld] at heq
  have hparked : s.core.parked = .none := heq ▸ (rfl : (s.resumed e).core.parked = .none)
  have hhold : s.core.parked = s.core.hold := congrArg (fun t => t.core.hold) heq
  rw [hparked, hs.isHeld] at hhold
  cases hhold

/-- The trap that had waited for the return is entered in its place, and names the bundle to which the handler would return. -/
theorem step_returns_late {l : LateTrap} {rest : List LateTrap} (heval : s.core.evalFault = none) (hhnd : s.core.hndFault = none)
    (hcmds : s.core.eng.cmds = []) (hdata : ∀ x ∈ s.core.late, x.waits = false) (hlate : s.core.lateTraps = l :: rest)
    (horigin : l.origin = none) :
    step s = .next (((s.resumed e).modCore (fun c => { c with lateTraps := rest })).entered l.cause l.info) := by
  have hnoEval : (s.resumed e).core.evalDue = false := Core.evalDue_faultless heval hhnd
  have hnoCmd : (s.resumed e).core.faultedCmd = none := Core.faultedCmd_none hcmds
  have hnoWait : (s.resumed e).core.awaitsData = false := List.any_eq_false.2 (fun x hx => by simp [hdata x hx])
  have hheld := State.takeHeld_late (s := s.resumed e) rfl hnoEval hnoCmd hlate horigin hremote hnoWait
  rw [← hheld]
  refine step_returns hs hflight hremote (fun heq => ?_)
  rw [hheld] at heq
  have hhold : Hold.none = s.core.hold := congrArg (fun t => t.core.hold) heq
  rw [hs.isHeld] at hhold
  cases hhold

end

end Sys2Proof.Machine

open Sys2Proof.Machine

/-- Settles O6: what a step does with the head, and what begins it where no core is noted and no send is due. -/
theorem stepRunsAgendaHead : Obligations.StepRunsAgendaHead := by
  intro s a rest hoff hag
  refine ⟨step_agenda hoff hag, fun hslots hres => ?_⟩
  rw [State.begin, State.passTime_idle (s := { s with agenda := rest }) hslots hres]

/-- Settles O49: the holds of rte and xbnd, and the end of the hold without and with a late trap that had waited for it. -/
theorem handlerReturns : Obligations.HandlerReturns := by
  refine ⟨fun s => exec_rte_handler, fun s a hh hin halign => ⟨exec_xbnd_spill hh hin halign, exec_xbnd_block hh hin halign⟩,
    ?program, ?late⟩
  case program =>
    intro s e hoff hag hstill hrun hdue hhold heval hcmd hkernel hstays hflight hremote hlate
    exact step_returns_program ⟨hoff, hag, hstill, hrun, hdue, hhold, heval, hcmd, hkernel, hstays⟩ hflight hremote hlate
  case late =>
    intro s e l rest hoff hag hstill hrun hdue hhold heval hhnd hcmds hkernel hstays hflight hdata hremote hlate horigin
    have hs : s.holding (.ret e) := ⟨hoff, hag, hstill, hrun, hdue, hhold, Core.evalDue_faultless heval hhnd,
      Core.faultedCmd_none hcmds, hkernel, hstays⟩
    exact ⟨_, step_returns_late hs hflight hremote heval hhnd hcmds hdata hlate horigin,
      rfl, rfl, rfl, rfl, rfl, rfl, rfl, rfl, rfl⟩
end
section
/-! PROOFS. A step goes on unless the package is off (R396, R409): every meaning answers a next state. -/

open Sys2Proof

namespace Sys2Proof.Machine

/-! ### Every meaning goes on -/

/-- The outcome is a next state, neither a fault nor a refusal. -/
def goesOn : Out → Bool
  | .next _ => true
  | _ => false

theorem goesOn_iff {o : Out} : goesOn o = true ↔ ∃ t, o = .next t := by
  cases o <;> simp [goesOn]

/-- An event's meaning is written as a next state; what a slot holds is left to `exec_eq_settle`. -/
theorem inSlot_or_goesOn_exec (i : Instr) (s : State) : (i.inSlot || goesOn (exec i s)) = true := by
  cases i with
  | tbia m fn => cases fn <;> rfl
  | tmsk m xv => cases xv <;> rfl
  | _ => rfl

/-- An instruction of a slot settles, and an event answers its next state. -/
theorem exec_next (i : Instr) (s : State) : ∃ t, exec i s = .next t := by
  cases hslot : i.inSlot with
  | true =>
    rw [exec_eq_settle hslot]
    exact settle_next s _
  | false => exact goesOn_iff.1 (by simpa [hslot] using inSlot_or_goesOn_exec i s)

/-! ### The turn of a core goes on -/

theorem State.takeEvent_next (s : State) (a : CoreAct) : ∃ t, s.takeEvent a = .next t := by
  cases a <;> exact ⟨_, rfl⟩

theorem State.coreTurn_next (s : State) : ∃ t, s.coreTurn = .next t := by
  unfold State.coreTurn
  split
  · exact State.takeEvent_next _ _
  · exact ⟨_, rfl⟩

theorem State.turn_next (s : State) : ∃ t, s.turn = .next t := by
  unfold State.turn
  dsimp only
  split_ifs
  · exact s.coreTurn_next
  · exact ⟨_, rfl⟩
  · exact s.bump.coreTurn_next

/-! ### The step -/

theorem step_off {s : State} (hoff : s.off = true) : step s = .fault .packageOff := if_pos hoff

theorem step_turn {s : State} (hon : s.off = false) (hag : s.agenda = []) : step s = s.turn := by
  simp only [step, hon, hag, Bool.false_eq_true, if_false]

theorem step_next {s : State} (hon : s.off = false) : ∃ t, step s = .next t := by
  cases hag : s.agenda with
  | nil =>
    rw [step_turn hon hag]
    exact s.turn_next
  | cons a rest =>
    rw [step_agenda hon hag]
    split_ifs
    · exact ⟨_, rfl⟩
    · exact exec_next _ _

/-! ### Memory at reset (R396) -/

/-- No byte is listed before the boot sequence has run. -/
theorem State.reset_mem : State.reset.mem = [] := rfl

end Sys2Proof.Machine

open Sys2Proof.Machine

/-- Settles O5: every meaning, of the head of the agenda or of the turn of a core, answers a next state. -/
theorem stepStopsOnlyWhenOff : Obligations.StepStopsOnlyWhenOff :=
  fun _ => ⟨step_off, step_next⟩

/-- Settles O12: the empty memory is canonical. -/
theorem resetMemoryCanonical : Obligations.ResetMemoryCanonical := by
  unfold Obligations.ResetMemoryCanonical
  rw [State.inv_iff, State.reset_mem, Memory.wf_nil]
end
section
/-! PROOFS. Every meaning and every step keeps memory in its canonical form (O11). -/

open Sys2Proof

namespace Sys2Proof.Machine

variable {s : State}

/-! ### Every meaning -/

/-- What an event does keeps the form; what a slot holds is left to `settle_keeps`. -/
theorem inSlot_or_exec_keeps (i : Instr) (hi : s.Inv) : i.inSlot = true ∨ Keeps (exec i s) := by
  cases i with
  | bundleIssue => exact .inr (execBundleIssue_keeps hi)
  | syncPass => exact .inr (execSyncPass_keeps hi)
  | resultLand => exact .inr (execResultLand_keeps hi)
  | remoteLoadArrive id => exact .inr (execRemoteLoadArrive_keeps id hi)
  | aliasStoreWait => exact .inr (execAliasStoreWait_keeps hi)
  | remoteStoreArrive id => exact .inr (execRemoteStoreArrive_keeps id hi)
  | remoteStoreAck id => exact .inr (execRemoteStoreAck_keeps id hi)
  | demandEvaluation => exact .inr (execDemandEvaluation_keeps hi)
  | evalAheadOfDemand node row col => exact .inr (execEvalAheadOfDemand_keeps node row col hi)
  | storeNodePerform node n => exact .inr (execStoreNodePerform_keeps node n hi)
  | tfrcComplete id => exact .inr (execTfrcComplete_keeps id hi)
  | valueMovement => exact .inr (execValueMovement_keeps hi)
  | evaluationFault => exact .inr (execEvaluationFault_keeps hi)
  | copyCommandComplete id n => exact .inr (execCopyCommandComplete_keeps id n hi)
  | copyCommandFault id => exact .inr (execCopyCommandFault_keeps id hi)
  | signalIncrement id => exact .inr (execSignalIncrement_keeps id hi)
  | implicitCheckpoint => exact .inr (execImplicitCheckpoint_keeps hi)
  | invalidationComplete id => exact .inr (execInvalidationComplete_keeps id hi)
  | trapEntry cause info => exact .inr (execTrapEntry_keeps cause info hi)
  | lateTrap => exact .inr (execLateTrap_keeps hi)
  | pageFault => exact .inr (execPageFault_keeps hi)
  | pageFaultResolved r => exact .inr (execPageFaultResolved_keeps r hi)
  | secondStageFault r => exact .inr (execSecondStageFault_keeps r hi)
  | featureMaskedHypervisorResume deliver => exact .inr (execFeatureMaskedHypervisorResume_keeps deliver hi)
  | preemptHorizon => exact .inr (execPreemptHorizon_keeps hi)
  | contextRestore => exact .inr (execContextRestore_keeps hi)
  | remoteRequest r => exact .inr (execRemoteRequest_keeps r hi)
  | remoteReply r => exact .inr (execRemoteReply_keeps r hi)
  | remoteTimeout ctx owner serial => exact .inr (execRemoteTimeout_keeps ctx owner serial hi)
  | busyBackoffExpiry ctx owner serial => exact .inr (execBusyBackoffExpiry_keeps ctx owner serial hi)
  | ackAlone ctx owner => exact .inr (execAckAlone_keeps ctx owner hi)
  | ackArrival pkg ctx serial => exact .inr (execAckArrival_keeps pkg ctx serial hi)
  | incarnationQuery pkg ctx => exact .inr (execIncarnationQuery_keeps pkg ctx hi)
  | incarnationQueryTimeout ctx owner => exact .inr (execIncarnationQueryTimeout_keeps ctx owner hi)
  | contextDestroyedNotice pkg ctx => exact .inr (execContextDestroyedNotice_keeps pkg ctx hi)
  | ownerRestart inc => exact .inr (execOwnerRestart_keeps inc hi)
  | sxfrSlotSend id acked => exact .inr (execSxfrSlotSend_keeps id acked hi)
  | sxfrRetrySend id acked => exact .inr (execSxfrRetrySend_keeps id acked hi)
  | sxfrDeadline id arrive => exact .inr (execSxfrDeadline_keeps id arrive hi)
  | reservationAbandon ctx => exact .inr (execReservationAbandon_keeps ctx hi)
  | flitReceive bytes => exact .inr (execFlitReceive_keeps bytes hi)
  | podTimeLoss => exact .inr (execPodTimeLoss_keeps hi)
  | podTimeAgainInStep => exact .inr (execPodTimeAgainInStep_keeps hi)
  | packetRetransmissionTimeout tag => exact .inr (execPacketRetransmissionTimeout_keeps tag hi)
  | packetAgeExpiry tag => exact .inr (execPacketAgeExpiry_keeps tag hi)
  | rendezvousRelease task die => exact .inr (execRendezvousRelease_keeps task die hi)
  | stepBarrier dom => exact .inr (execStepBarrier_keeps dom hi)
  | taskDispatch => exact .inr (execTaskDispatch_keeps hi)
  | taskCompletion task => exact .inr (execTaskCompletion_keeps task hi)
  | taskAging task => exact .inr (execTaskAging_keeps task hi)
  | preemptionMark task => exact .inr (execPreemptionMark_keeps task hi)
  | stepReplay core act => exact .inr (execStepReplay_keeps core act hi)
  | watchdog act => exact .inr (execWatchdog_keeps act hi)
  | frameMigration ctx tid tile frame st => exact .inr (execFrameMigration_keeps ctx tid tile frame st hi)
  | tableUpdateMulticast seq u => exact .inr (execTableUpdateMulticast_keeps seq u hi)
  | kernelInvalidate ctx k => exact .inr (execKernelInvalidate_keeps ctx k hi)
  | stagingReconfigure slice pairs => exact .inr (execStagingReconfigure_keeps slice pairs hi)
  | memoryScrub => exact .inr (execMemoryScrub_keeps hi)
  | l2DirtyEviction line => exact .inr (execL2DirtyEviction_keeps line hi)
  | boot b => exact .inr (execBoot_keeps b hi)
  | getVersion => exact .inr (execGetVersion_keeps hi)
  | getCapabilities => exact .inr (execGetCapabilities_keeps hi)
  | negotiateAlgorithms => exact .inr (execNegotiateAlgorithms_keeps hi)
  | getDigests slot => exact .inr (execGetDigests_keeps slot hi)
  | getCertificate slot offset length => exact .inr (execGetCertificate_keeps slot offset length hi)
  | challenge slot nonce => exact .inr (execChallenge_keeps slot nonce hi)
  | getMeasurements signed nonce => exact .inr (execGetMeasurements_keeps signed nonce hi)
  | spdmUnsupportedRequest code => exact .inr (execSpdmUnsupportedRequest_keeps code hi)
  | hostMailboxWrite fn off v => exact .inr (execHostMailboxWrite_keeps fn off v hi)
  | hostBar2Access fn tid elem data => exact .inr (execHostBar2Access_keeps fn tid elem data hi)
  | debugAuthorisation t => exact .inr (execDebugAuthorisation_keeps t hi)
  | permitAudit die lost duplicated => exact .inr (execPermitAudit_keeps die lost duplicated hi)
  | scanTest core matched aborted => exact .inr (execScanTest_keeps core matched aborted hi)
  | thermalThrottle cycles => exact .inr (execThermalThrottle_keeps cycles hi)
  | thermalShutdown => exact .inr (execThermalShutdown_keeps hi)
  | loadImage ctx objects => exact .inr (execLoadImage_keeps ctx objects hi)
  | kernelCommandPortLaunch ctx addr graph => exact .inr (execKernelCommandPortLaunch_keeps ctx addr graph hi)
  | contextCreation c => exact .inr (execContextCreation_keeps c hi)
  | logicalCoreMapRenumber => exact .inr (execLogicalCoreMapRenumber_keeps hi)
  | imageVerification im => exact .inr (execImageVerification_keeps im hi)
  | kernelCodeWrite ctx addr bundle => exact .inr (execKernelCodeWrite_keeps ctx addr bundle hi)
  | tbia m fn => cases fn <;> exact .inl rfl
  | tmsk m xv => cases xv <;> exact .inl rfl
  | _ => exact .inl rfl

/-- An instruction of a slot settles as its effect, which keeps the form; an event keeps it by itself. -/
theorem exec_keeps (i : Instr) (hi : s.Inv) : Keeps (exec i s) := by
  rcases inSlot_or_exec_keeps i hi with hslot | hevent
  · rw [exec_eq_settle hslot]
    exact settle_keeps hi (slotEff_keeps i hi)
  · exact hevent

/-! ### The step -/

/-- A step is off, the turn of the focused core, the head's beginning alone, or the head's meaning after it. -/
theorem step_keeps (hi : s.Inv) : Keeps (step s) := by
  cases hoff : s.off with
  | true =>
    rw [step_off hoff]
    trivial
  | false =>
    cases hag : s.agenda with
    | nil =>
      rw [step_turn hoff hag]
      exact State.turn_keeps hi
    | cons a rest =>
      have hbegin := State.begin_inv a rest hi
      rw [step_agenda hoff hag]
      split_ifs
      · exact hbegin
      · exact exec_keeps a.act hbegin

/-- The state that an outcome goes on with is one that the outcome keeps. -/
theorem Keeps.inv_of_eq_next {o : Out} {t : State} (ho : Keeps o) (h : o = .next t) : t.Inv := by
  rwa [h, keeps_next] at ho

end Sys2Proof.Machine

open Sys2Proof.Machine

/-- Settles O11: the step by its four cases, every meaning by its effect in a slot or as an event. -/
theorem everyStepKeepsCanonicalMemory : Obligations.EveryStepKeepsCanonicalMemory := by
  unfold Obligations.EveryStepKeepsCanonicalMemory
  exact ⟨fun _ _ hi => (step_keeps hi).inv_of_eq_next, fun i _ _ hi => (exec_keeps i hi).inv_of_eq_next⟩
end
